-- ==== Sys2Proof/Word.lean ====
section
/-! DEFINITION. The word types of the block: 32-bit registers (R6), bytes of the stores and the 64-bit time of record
(R10). Everything computed on them stands under Machine/. -/

namespace Sys2Proof

/-- A register of the window: 32 bits, little-endian (R6). -/
abbrev Word := BitVec 32

/-- The smallest addressable unit of the Vat, the on-package memory and the NVM. -/
abbrev Byte := BitVec 8

/-- The time of record: an unsigned 64-bit count of time units that wraps to 0 (R10). -/
abbrev Time := BitVec 64

end Sys2Proof
end

