-- ==== Sys2Proof/Syntax.lean ====
section
/-! DEFINITION. The commands of the block, one constructor of `Instr` per row of spec/opcode_table.json, and the plain
data their operands are made of. The table gives its rows no operands, so the operands are the model's (log entry 1):
an instance number is the PHYSICAL number (00_scope.md, Numbering) unless the operand is called `vi`, and a quantity the
block measures from outside itself (a count, a level, an instant, a received packet) is an operand. -/

namespace Sys2Proof

/-- The port an access comes from, with the code of R419: 0 Starter or debug, 1 PCIe, 2 SPI target, 3 link. -/
inductive Port where
  | internal | pcie | spi | link
  deriving DecidableEq, Repr

/-- One register access: the VI it names, its port, offset, data, direction and byte enables (R74). -/
structure HostAcc where
  vi : Fin 32
  port : Port
  off : BitVec 16
  data : Word
  write : Bool
  be : BitVec 4
  deriving DecidableEq, Repr

/-- One assertion of a producer, or one software fire, as it travels through Rennet (R57, R58, R65). `prod` is the
producer number, or 256 for a software fire; `swvi` is the firing VI, `ch` the fired channel; `prov` marks a stamp taken on the
fast grid before the handoff (R20). -/
structure Src where
  prod : Nat
  stamp : Time
  unit : Byte
  swf : Bool
  swvi : Fin 32
  ch : Fin 64
  imp : Bool
  late : Bool
  multi : Bool
  prov : Bool
  deriving DecidableEq, Repr

/-- The three kinds of producer event held through a wake (R112). -/
inductive HeldSrc where
  | tin (n : Fin 4)
  | alm (n : Fin 4)
  | key (n : Fin 6)
  deriving DecidableEq, Repr

/-- The wake sources of R109. -/
inductive WakeSrc where
  | tin (n : Fin 4)
  | alm (n : Fin 4)
  | key
  | kl0
  | host
  | sched
  | safe
  deriving DecidableEq, Repr

/-- The lockable blocks of R88. -/
inductive LockBlk where
  | syn (x : Fin 4)
  | elec (k : Fin 8)
  | trg
  | part
  | rind
  | rst
  deriving DecidableEq, Repr

/-- A scheduled action: its late-rule kind (the KIND codes before R40) and its physical instance. -/
structure ActId where
  kind : Fin 16
  inst : Fin 512
  deriving DecidableEq, Repr

/-- Bit errors that words of a store have taken by now, single-bit ones and uncorrectable ones, by a byte address in the 64-bit word
(R193, log entry 108). -/
structure Ecc where
  single : List Nat := []
  multi : List Nat := []
  deriving DecidableEq, Repr

/-- No new error. -/
abbrev Ecc.ok : Ecc := {}

/-- What SFDP gave the Starter (R459): log2 of density, erase unit and page in bytes, and the fastest clock code. -/
structure NvmInfo where
  density : Fin 32
  erase : Fin 32
  page : Fin 32
  maxClk : Fin 16
  deriving DecidableEq, Repr

/-- How a load-engine copy ended at its device (R217, R445, R461): with the bytes a host source delivered, or with a
REASON code of LDEn_STAT. -/
inductive LdeEnd where
  | ok (hostData : List Byte)
  | err (reason : Fin 16) (done : Nat)
  deriving DecidableEq, Repr

/-- A foreground calibration's measured result (R392, R398): FIG1, FIG2 and the trims, one (item index, value) each. -/
structure CalRes where
  fig1 : BitVec 16
  fig2 : BitVec 16
  trims : List (BitVec 10 × Int)
  deriving DecidableEq, Repr

/-- What ends a foreground calibration early (R394); the codes are those of R400. -/
inductive AbortWhy where
  | sw | start | safe | reset | clock
  deriving DecidableEq, Repr

/-- Why a port announces its leave (R502). -/
inductive LeaveWhy where
  | domainOff | reset | retrain | disabled
  deriving DecidableEq, Repr

/-- A PCIe configuration request to a function, as its capability takes it (R437, R439, R444, R445, R448, R449; where the
capabilities stand in configuration space is not given, log entry 33): a read, the power state, VF Enable with NumVFs, Bus
Master Enable, a function-level reset, or a write of any other word. -/
inductive CfgReq where
  | read (off : BitVec 12)
  | powerState (d3hot : Bool)
  | vfs (enable : Bool) (num : Fin 32)
  | busMaster (on : Bool)
  | flr
  | turnOff
  | other (off : BitVec 12) (data : Word)
  deriving DecidableEq, Repr

/-- How an NVM erase ended (R461). -/
inductive NvmEnd where
  | ok | device | timeout
  deriving DecidableEq, Repr

/-- A stamp, and whether it counts on the fast grid before the handoff (R20). -/
structure Stamp where
  at_ : Time
  prov : Bool
  deriving DecidableEq, Repr

/-- The moment of a raw edge at a time input and, of a pulse shorter than 2 ns, that of the edge back (R345). -/
structure RawEdge where
  at_ : Time
  back : Option Time
  deriving DecidableEq, Repr

/-- An edge at a wake pin with FCLK stopped: its direction, and how long the new level lasts, in TU (R348). -/
structure WakeEdge where
  rising : Bool
  lasts : Nat
  deriving DecidableEq, Repr

/-- The voltages of a comparator's pin and of VCCIO_T, in µV (R349). -/
structure AcmpVolts where
  uv : Nat
  vccio : Nat
  deriving DecidableEq, Repr

/-- The port a link packet arrives on, and the hops it has travelled (R485). -/
structure Via where
  port : Fin 4
  hops : Fin 16
  deriving DecidableEq, Repr

/-- The arrival of a JOIN_ACK, with the address it is sent to (R485, R486). -/
structure AckVia extends Via where
  dst : Byte
  deriving DecidableEq, Repr

/-- The arrival of an ANNOUNCE, with its sender's address (R485). -/
structure Near where
  port : Fin 4
  src : Byte
  deriving DecidableEq, Repr

/-- A link packet as R486 lays it out, with the header fields R485 gives that its receiver uses. -/
inductive Pkt where
  | announce (src : Byte) (rootSerial : BitVec 64) (prio depth epoch : Byte) (sender parent : BitVec 64)
  | timeReq
  | timeRsp (t2 t3 : Time)
  | leave (reason : Byte)
  | event (dst src : Byte) (stamp : Time) (budget : Word) (lch srcp : Byte) (foreign multi swf : Bool)
  | member (addr kind depth : Byte) (time : Time) (serial : BitVec 64)
  | rdRsp (dst src : Byte) (rid : BitVec 16) (status ovi : Byte) (data : Word)
  | wrRsp (dst src : Byte) (rid : BitVec 16) (status ovi : Byte) (off : BitVec 16) (dvi : Byte)
  | irqMsg (dst src : Byte) (svi vector dvi : Byte)
  | joinAck (dst : Byte) (serial : BitVec 64) (addr status epoch : Byte)
  | rdReq (dst src : Byte) (rid : BitVec 16) (dvi ovi : Byte) (off : BitVec 16)
  | wrReq (dst src : Byte) (rid : BitVec 16) (dvi ovi : Byte) (off : BitVec 16) (data : Word)
  | joinReq (src : Byte) (serial : BitVec 64) (pref : Byte)
  | depart (addr kind : Byte)
  | resetCmd (dst level : Byte)
  | ack (lseq : BitVec 12)
  | nak (lseq : BitVec 12)
  | credit (evt rsp req : Fin 4)
  deriving DecidableEq, Repr

/-- What is wrong with a received link packet (R485, R489): a bad CRC; a length that does not fit its type, a nonzero reserved bit or
an unknown type; or an LSEQ out of sequence. -/
inductive BadPkt where
  | crc
  | form
  | lseq (got : BitVec 12)
  deriving DecidableEq, Repr

/-- The commands. A comment heads each family with its chapter; the commands without operands stand after
those with operands. -/
inductive Instr where
  -- 03, 15: register accesses
  | registerWrite (vi : Fin 32) (port : Port) (off : BitVec 16) (data : Word) (be : BitVec 4)
  | aliasWrite (vi : Fin 32) (port : Port) (off : BitVec 16) (data : Word) (be : BitVec 4)
  | rcRead (vi : Fin 32) (port : Port) (off : BitVec 16) (be : BitVec 4)
  | timeNowRead (vi : Fin 32) (port : Port)
  | counterLoRead (vi : Fin 32) (port : Port) (off : BitVec 16)
  | logEntryRead (vi : Fin 32) (port : Port)
  | tinStampRead (vi : Fin 32) (port : Port) (n : Fin 16)
  | mbqRead (vi : Fin 32) (port : Port) (q : Fin 4)
  | semAcquire (vi : Fin 32) (port : Port) (n : Fin 64)
  | viFence (vi : Fin 32) (port : Port)
  | viFenceComplete (vi : Fin 32)
  -- 01: time of record and alarms
  | keeperReload (ofs : Fin 32)
  | keepTrimWindow (measured : Int)
  | handoff (gridE : Time)
  | lateClr (vi : Fin 32)
  | deferredArming (a : ActId)
  | almArm (n : Fin 16)
  | almDisarm (n : Fin 16)
  | almFire (n : Fin 16)
  | almFireSleep (n : Fin 4)
  | almRearmEvent (n : Fin 16) (stamp : Stamp)
  -- 02: Rennet and the event log
  | heldProducerDeliver (h : HeldSrc)
  | channelEvent (ch : Fin 64) (srcs : List Src)
  | consumerHeldDeliver (c : Fin 192)
  | fabFire (vi : Fin 32) (ch : Fin 64)
  | fabCommit (vi : Fin 32)
  | fabDiscard (vi : Fin 32)
  | fabCntClr (vi : Fin 32)
  | logSpillCfgWrite (v : Word)
  -- 03: locks and Rind
  | lockSet (vi : Fin 32) (blk : LockBlk)
  | rindRegionEnd (r : Fin 33)
  | rindOpen (vi : Fin 32) (phys : Bool)
  | rindCommit (vi : Fin 32) (phys : Bool)
  | rindCommitDone (r : Fin 33)
  -- 04: modes and power domains
  | modeReq (vi : Fin 32) (req : BitVec 3)
  | serviceExit (req : BitVec 3)
  | modeTmcArm (vi : Fin 32)
  | modeTmcDisarm (vi : Fin 32)
  | modeTmcFire (vi : Fin 32)
  | safeCauseCleared (cause : Fin 5)
  | wake (src : WakeSrc)
  | hostAccessWake (acc : HostAcc)
  | primeWakePoint (a : ActId)
  | domainGateStart (d : Fin 29)
  | domainDrainEnd (d : Fin 29)
  | domainIsolatedCheck (d : Fin 29)
  | domainPowerUpDone (d : Fin 29)
  -- 05: resets and the Starter
  | resetN (low : Bool)
  | rstReq (level : BitVec 2)
  | p0Release (straps : BitVec 3)
  | starter (boardPins : BitVec 8) (vccio0Ok : Bool) (sfdp : Option NvmInfo)
  -- 06: synthesizers
  | synUpdate (x : Fin 4)
  | synLockWindow (x : Fin 4) (count : Nat) (rangeOk : Bool)
  | refLoss (x : Fin 4)
  | wakeWindow (x : Fin 4) (err : Int)
  | synGlide (x : Fin 4) (ofs : BitVec 24)
  | glideDone (x : Fin 4)
  | synEn (x : Fin 4) (en : Bool)
  -- 07: segment memory
  | ldeStart (e : Fin 4)
  | ldeStop (e : Fin 4)
  | ldeDone (e : Fin 4) (how : LdeEnd)
  | dirValGo (vi : Fin 32) (count : BitVec 17)
  | dirValDone (vi : Fin 32)
  | precheck (k : Fin 16)
  | admitScanDone (k : Fin 16)
  | apertureRead (vi : Fin 32) (ofs : Nat) (len : Nat) (ecc : Ecc)
  | apertureWrite (vi : Fin 32) (ofs : Nat) (bytes : List Byte) (ecc : Ecc)
  | vatScrub (corrected uncorrectable : List Nat)
  -- 08: step words, as sequencer k commits them
  | play (k : Fin 16)
  | playloop (k : Fin 16)
  | playloopExitTest (k : Fin 16)
  | hold (k : Fin 16)
  | holdEnd (k : Fin 16)
  | waitEvent (k : Fin 16)
  | waitEventEnd (k : Fin 16)
  | waitEventTimeout (k : Fin 16)
  | waitTime (k : Fin 16)
  | waitTimeEnd (k : Fin 16)
  | branch (k : Fin 16)
  | loopBegin (k : Fin 16)
  | loopEnd (k : Fin 16)
  | call (k : Fin 16)
  | ret (k : Fin 16)
  | setFreq (k : Fin 16)
  | phaseReset (n : Fin 8)
  | setPhase (k : Fin 16)
  | setAmpl (k : Fin 16)
  | paramListAdvance (n : Fin 8)
  | marker (k : Fin 16)
  | markerPulseReturn (k : Fin 16) (m : Fin 4)
  | sync (k : Fin 16)
  | syncRelease (k : Fin 16)
  | syncTimeout (k : Fin 16)
  | signalPost (k : Fin 16)
  | signalFire (k : Fin 16)
  | count (k : Fin 16)
  | flip (k : Fin 16)
  | timing (k : Fin 16)
  | endStep (k : Fin 16)
  -- 09: sequencers in time
  | stepBoundary (k : Fin 16)
  | seqStart (k : Fin 16)
  | seqEvstart (k : Fin 16)
  | seqArm (k : Fin 16)
  | seqDisarm (k : Fin 16)
  | seqStage (k : Fin 16)
  | seqEventInput (k : Fin 16) (inp : Fin 4)
  | seqStop (k : Fin 16)
  | seqStopStep (k : Fin 16)
  | seqEvstop (k : Fin 16)
  | seqHalt (k : Fin 16)
  | seqCntClr (k : Fin 16)
  | underrun (k : Fin 16)
  -- 10: analog channels
  | aoutModeWrite (n : Fin 8) (v : Word)
  | park (n : Fin 8)
  | unpark (n : Fin 8)
  | aoutParkEvent (n : Fin 8)
  | preload (n : Fin 8)
  | tableLoadDone (n : Fin 8)
  | aoutCntClr (n : Fin 8)
  -- 11: pattern banks, capture units and triggers
  | vectorFail (k : Fin 8) (pins : BitVec 16) (cont : Bool) (strobe : Time)
  | failLogWrite (k : Fin 8)
  | vectorSegmentBoundary (k : Fin 8)
  | capSnap (u : Fin 16) (levels : List (BitVec 16 × BitVec 16))
  | captureWrite (u : Fin 16)
  | vccioMeasure (k : Fin 8) (mv : BitVec 12)
  | pbStart (k : Fin 8)
  | pbStop (k : Fin 8)
  | pbEvent (k : Fin 8)
  | failClr (k : Fin 8)
  | pbCntClr (k : Fin 8)
  | flogEnable (k : Fin 8)
  | fire (n : Fin 8)
  | trgEvent (n : Fin 8)
  | trgArm (n : Fin 8)
  | trgDisarm (n : Fin 8)
  | trgTimedPulse (n : Fin 8)
  | trgPulseEnd (n : Fin 8)
  | trgCntClr (n : Fin 8)
  -- 12: inputs and keys
  /-- A raw edge of a pin at `stamp`, on SYN-A's taps; `back`: the pin returns within 2 ns, at that time (R345). -/
  | tinEdge (n : Fin 16) (rising : Bool) (stamp : RawEdge)
  /-- A raw edge of a wake pin in sleep, after which the level lasts `lasts` TU. -/
  | tinWakeEdge (n : Fin 4) (edge : WakeEdge)
  | fifoClr (n : Fin 16)
  | tinCntClr (n : Fin 16)
  /-- The pin of a comparator comes to `uv` µV, with VCCIO_T at `vccio` µV. -/
  | acmpCrossing (n : Fin 4) (volts : AcmpVolts)
  | madcGo (ch : BitVec 5)
  | madcDone (value : BitVec 16)
  | tempUpdate (temp : BitVec 16)
  | keyScan (raw : List Int)
  | keyStuck (n : Fin 6)
  -- 13: scan-out
  | scanoutStopped (l : Fin 2)
  | qflush (l : Fin 2)
  | frameStart (l : Fin 2)
  | blankingStart (l : Fin 2)
  | frameGo (l : Fin 2)
  | dsiEventFlip (l : Fin 2)
  | qpush (l : Fin 2) (v : Word)
  | teEdge (l : Fin 2) (rising : Bool)
  | cscPreset (code : BitVec 2)
  | lineUnderrun (l : Fin 2) (col : Nat)
  | rectCrc (n : Fin 4)
  | pktGo (v : Word)
  -- 14: calibration and Affinage
  | calDac (vi : Fin 32) (inst : Fin 16)
  | calBankDeskew (vi : Fin 32) (inst : Fin 16)
  | calDphyDeskew (vi : Fin 32) (inst : Fin 16)
  | calMadc (vi : Fin 32)
  | calKlRetrain (vi : Fin 32) (inst : Fin 16)
  | calDone (res : CalRes)
  | calAbort (why : AbortWhy)
  | affTapUpdate (c : Bool) (hits : List Nat) (period : Nat) (dnl : BitVec 16)
  | affDtcUpdate (x : Fin 4) (gain step : Int)
  | affDacUpdate (n : Fin 8) (cells : List (BitVec 10 × Option Int)) (inl sfdr : BitVec 16)
  | save (idx : Fin 8)
  | clear (idx : Fin 8)
  -- 15: virtual interfaces
  | viBind (j : Fin 2) (v : Word)
  | viReset (vi : Fin 32)
  | viResetDone (vi : Fin 32)
  | mbPost (vi : Fin 32) (v : Word)
  | mbFlush (vi : Fin 32)
  | viCntClr (vi : Fin 32)
  | viPwfClr (vi : Fin 32) (r : Fin 8)
  | semRel (vi : Fin 32) (n : Fin 64)
  | semGive (vi : Fin 32) (v : Word)
  | rspTimeout (vi : Fin 32)
  -- 16: host ports
  | bar0Request (fn : Fin 32) (off : BitVec 16) (write : Bool) (dws : List (Word × BitVec 4))
  | configRequest (fn : Fin 32) (req : CfgReq)
  | spiFrame (mode3 : Bool) (cmd : Byte) (addr : BitVec 24) (data : Word) (crc : Byte)
  | spiBurstWord (data : Word) (crc : Byte)
  | spiCsAbort (incomplete : Bool)
  | nvmErase (count : BitVec 16)
  | nvmEraseDone (how : NvmEnd)
  | dbgAcc (dr : BitVec 64)
  -- 17: Krairlink
  | portTrained (p : Fin 4) (peer : BitVec 64)
  | trainFail (p : Fin 4)
  | trainRetry (p : Fin 4)
  | lossOfSignal (p : Fin 4)
  | announce (p : Near) (rootSerial : BitVec 64) (prio depth epoch : Byte) (sender parent : BitVec 64)
  | joinReq (p : Fin 4) (src : Byte) (serial : BitVec 64) (pref : Byte) (hops : Fin 16)
  | joinAck (p : AckVia) (serial : BitVec 64) (addr status epoch : Byte)
  | addressReserveExpiry (addr : Byte)
  | leave (p : Fin 4) (reason : Byte)
  | depart (p : Via) (addr kind : Byte)
  | member (p : Via) (addr kind depth : Byte) (time : Time) (serial : BitVec 64)
  | timeReqSend (t1 : Time)
  | timeReq (p : Fin 4) (t2 t3 : Time)
  | timeRsp (t2 t3 t4 : Time)
  | exportEv (n : Fin 32) (src : Src)
  | event (p : Via) (dst src : Byte) (stamp : Time) (budget : Word) (lch srcp : Byte) (foreign multi swf : Bool)
  | importDeliver (n : Fin 32)
  | klRaWdata (vi : Fin 32) (data : Word)
  | klRaRead (vi : Fin 32)
  | rdReq (p : Via) (dst src : Byte) (rid : BitVec 16) (dvi : Fin 32) (ovi : Byte) (off : BitVec 16)
  | wrReq (p : Via) (dst src : Byte) (rid : BitVec 16) (dvi : Fin 32) (ovi : Byte) (off : BitVec 16) (data : Word)
  | rdRsp (p : Via) (dst src : Byte) (rid : BitVec 16) (status ovi : Byte) (data : Word)
  | wrRsp (p : Via) (dst src : Byte) (rid : BitVec 16) (status ovi : Byte) (off : BitVec 16) (dvi : Byte)
  | remoteTimeout (vi : Fin 32) (isRead : Bool) (rid : BitVec 16)
  | irqMsg (p : Via) (dst src svi vector dvi : Byte)
  | klRstCmd (v : Word)
  | resetCmd (p : Via) (dst level : Byte)
  | ack (p : Fin 4) (lseq : BitVec 12)
  | nak (p : Fin 4) (lseq : BitVec 12)
  | credit (p : Fin 4) (evt rsp req : Fin 4)
  | replayTimeout (p : Fin 4)
  | portClose (p : Fin 4) (why : LeaveWhy)
  -- the rows the table lists last
  | timedRunRaise (a : ActId)
  | trgLeadingEdge (n : Fin 8)
  | underrunDataArrives (k : Fin 16) (ofs : Nat) (inCycle : ofs < 32)
  | pcieLinkDown (recovery : Bool)
  | klBadPacket (p : Fin 4) (what : BadPkt)
  -- 01: time of record and alarms
  | timeSet
  | timeSetKeeper
  -- 02: Rennet and the event log
  | logRelease
  | logSpillDrain
  | logClear
  | logSpillEnable
  -- 04: modes and power domains
  | serviceRequest
  | serviceExitDone
  | shelf
  | safeEnter
  | safeExit
  | thermalWarning
  | supplyFault
  | descentStart
  | listenReached
  | shelfReached
  | kl0Activity
  | primedReached
  | shelfExit
  | shelfReload
  | runFall
  -- 05: resets and the Starter
  | por
  | vinBrownout
  | watchdogExpiry
  | perst
  | thermalShutdown
  | thermalRelease
  | resetTakeEffect
  | coreResetDone
  | xo32Qualified
  | xo32Fail
  | xo32LateQualify
  | regWrite
  | regFill
  | segLoad
  | segLoadDone
  | partition
  | calSet
  | bind
  | wait
  | waitDone
  | cond
  | modeRecord
  | endRecord
  | memoryTrainingDone
  | starterLockWaitEnd
  | p4
  | p5
  -- 06: synthesizers
  | synApplyTimeout
  | wakeSlow
  | hfxoReady
  -- 12: inputs and keys
  | keyBaselineDrift
  -- 13: scan-out
  | dispStart
  | scanoutFirstLine
  | stop
  | stopNow
  | dispCntClr
  | applyLine
  | pktSend
  -- 14: calibration and Affinage
  | calsetTempEval
  -- 15: virtual interfaces
  | apply
  | discard
  | partitionEdit
  -- 16: host ports
  | spiWaitTimeout
  | dbgReset
  | boundaryTestExit
  -- 17: Krairlink
  | announceSend
  | announceTimeout
  | joinRetry
  | offsetApply
  | timeSlew
  -- the rows the table lists last
  | holdExpiry
  | serviceReached
  | pcieLinkUp
  deriving DecidableEq, Repr

end Sys2Proof
end

