-- ==== Sys2Proof/Decode.lean ====
section
/-! DEFINITION. Reading a command from the bits of the opcode table. -/

namespace Sys2Proof

/-- The command a word of `nbits` bits spells by the table's bits. spec/opcode_table.json gives no row any bits: the commands
of this block are operations of its bus, pins and engines, so no word spells one (log entry 1). -/
def decodeTableWord (_nbits _w : Nat) : Option Instr := none

end Sys2Proof
end

