-- ==== Sys2Proof/Config.lean ====
section
/-! DEFINITION. The values the spec leaves open, as opaque constants: nothing can evaluate them or prove a value of
them. Each is applied to what it depends on, or to the plain counter `State.free`. -/

namespace Sys2Proof.Config

/-- What the half-band cascade of R290 remembers, as a number, after it has taken an element: the spec states its ripple and attenuation
and no coefficients. Arguments: the factor, what it remembered (0: the cleared history), the element (log entry 12). -/
opaque filterNext (factor state : Nat) (element : Int) : Nat

/-- The sample the cascade gives in the `phase`-th output period of an element (log entry 12). -/
opaque filterOut (factor state phase : Nat) : Int

/-- The NCO sine of R288 between its quarter turns, from the top 20 bits of the phase, before it is held to its peak of 32,767; the
spec states no rounding (log entry 12). -/
opaque sine (phase20 : Nat) : Int

/-- A byte whose value the spec leaves undefined, by byte address and a fresh number (log entry 13). -/
opaque openByte (addr n : Nat) : BitVec 8

/-- A word whose value the spec leaves undefined, by the number of the open point and a fresh number (log entry 13). -/
opaque openWord (point n : Nat) : BitVec 32

/-- The fuse value of a calibration item (R404), which test sets per part: item key, as `itemKey` numbers it. -/
opaque fuseTrim (item : Nat) : Int

end Sys2Proof.Config
end

