-- ==== Sys2Proof/Machine/Bits.lean ====
section
/-! DEFINITION. Bit fields of registers and step words, given as [hi:lo] with bit 0 least significant (R6), sign
extension, saturating counters, byte order and the CRC-32C of R154. -/

namespace Sys2Proof.Machine

/-- Bit `i` of a word. -/
def tb {w : Nat} (x : BitVec w) (i : Nat) : Bool := x.getLsbD i

/-- Field [hi:lo] of a word, as a number. -/
def bf {w : Nat} (x : BitVec w) (hi lo : Nat) : Nat := (x.toNat >>> lo) % 2 ^ (hi + 1 - lo)

/-- The word with field [hi:lo] replaced by the low bits of `v`. -/
def setFld {w : Nat} (x : BitVec w) (hi lo v : Nat) : BitVec w :=
  let m : BitVec w := BitVec.ofNat w ((2 ^ (hi + 1 - lo) - 1) <<< lo)
  (x &&& ~~~m) ||| (BitVec.ofNat w ((v % 2 ^ (hi + 1 - lo)) <<< lo))

/-- The word with bit `i` set to `b`. -/
def setBit {w : Nat} (x : BitVec w) (i : Nat) (b : Bool) : BitVec w :=
  if b then x ||| BitVec.ofNat w (1 <<< i) else x &&& ~~~(BitVec.ofNat w (1 <<< i))

/-- The word whose only set bit is bit `i`. -/
def one {w : Nat} (i : Nat) : BitVec w := BitVec.ofNat w (1 <<< i)

/-- `Bool` as a bit. -/
def b2n (b : Bool) : Nat := if b then 1 else 0

/-- The number `n` read as a signed `w`-bit number. -/
def sext (w n : Nat) : Int := (BitVec.ofNat w n).toInt

/-- An integer as a word (two's complement). -/
def wordOfInt (i : Int) : Word := BitVec.ofInt 32 i

/-- A counter of `w` bits in field [hi:lo] plus `n`, saturating at all ones. -/
def satFld (x : Word) (hi lo n : Nat) : Word :=
  setFld x hi lo (min (bf x hi lo + n) (2 ^ (hi + 1 - lo) - 1))

/-- A 32-bit counter plus `n`, saturating at 0xFFFF_FFFF. -/
def satAdd (x : Word) (n : Nat) : Word := BitVec.ofNat 32 (min (x.toNat + n) 0xFFFFFFFF)

/-- Saturate a natural number to 32 bits. -/
def sat32 (n : Nat) : Word := BitVec.ofNat 32 (min n 0xFFFFFFFF)

/-- The low and high words of a 64-bit value. -/
def lo32 (t : BitVec 64) : Word := t.setWidth 32
def hi32 (t : BitVec 64) : Word := (t >>> 32).setWidth 32

/-- The 64-bit value of a HI:LO pair. -/
def cat64 (hi lo : Word) : BitVec 64 := (hi.setWidth 64 <<< 32) ||| lo.setWidth 64

/-- Byte `j` of a word. -/
def byteOf (x : Word) (j : Nat) : Nat := (x.toNat >>> (8 * j)) % 256

/-- The four bytes of a word, least significant first. -/
def wordBytes (x : Word) : List Byte := (List.range 4).map fun j => BitVec.ofNat 8 (byteOf x j)

/-- A little-endian number from its bytes. -/
def leNat : List Byte → Nat
  | [] => 0
  | b :: bs => b.toNat + 256 * leNat bs

/-- The `n` little-endian bytes of a number. -/
def natBytes : Nat → Nat → List Byte
  | 0, _ => []
  | n + 1, v => BitVec.ofNat 8 (v % 256) :: natBytes n (v / 256)

/-- The bits of a list of Booleans as a number, first element bit 0. -/
def bitsNat : List Bool → Nat
  | [] => 0
  | b :: bs => b2n b + 2 * bitsNat bs

/-- A 32-bit mask with bit `i` set where `p i`. -/
def maskOf (p : Nat → Bool) : Word := BitVec.ofNat 32 (bitsNat ((List.range 32).map p))

/-- A 32-bit mask with byte `j` all ones where `p j`. -/
def byteMaskOf (p : Nat → Bool) : Word :=
  BitVec.ofNat 32 (((List.range 4).map fun j => if p j then 255 <<< (8 * j) else 0).sum)

/-- One bit of the reflected CRC-32C (R154). -/
def crcBit (c : Nat) : Nat := if c % 2 = 1 then (c / 2) ^^^ 0x82F63B78 else c / 2

/-- One byte into a running CRC-32C (R154). -/
def crcByte (c : Nat) (b : Byte) : Nat :=
  crcBit (crcBit (crcBit (crcBit (crcBit (crcBit (crcBit (crcBit (c ^^^ b.toNat))))))))

/-- The CRC-32C of a byte string: initial value all ones, final inversion (R154). -/
def crc32c (bs : List Byte) : Nat := (bs.foldl crcByte 0xFFFFFFFF) ^^^ 0xFFFFFFFF

/-- The four bytes of a word, each translated by `f`. -/
def mapBytes (f : Nat → Nat) (x : Word) : Word :=
  setFld (setFld (setFld (setFld (0 : Word) 7 0 (f (byteOf x 0))) 15 8 (f (byteOf x 1))) 23 16 (f (byteOf x 2))) 31 24
    (f (byteOf x 3))

/-- Round a number up to a multiple of `m`. -/
def roundUp (n m : Nat) : Nat := (n + m - 1) / m * m

/-- Integer division rounding towards zero. -/
def tdiv (a b : Int) : Int := Int.tdiv a b

end Sys2Proof.Machine
end

