-- ==== Sys2Proof/Machine/RegTable.lean ====
section
/-! DEFINITION. The register map: every register of the window (R549, R550), transcribed from the register tables at
the end of each chapter of spec/. A row gives the offset of instance 0 (physical numbering, R4), the distance between
instances and their number; whether each VI has a copy of its own; which resource an instance belongs to; and, as bit
masks, the access codes of its fields (R80): `rw` (RW and RWS), `rwl` (locked by the block's LOCK), `rwb` (buffered),
`rc`, `act` (W1F and WO), `vi0` (writable in VI0 only), `lock` (a LOCK field, set by writing 1, R88) and `rind` (covered
by Rind, R9). RO fields and reserved bits have no mask: nothing is ever written to them by software. -/

namespace Sys2Proof.Machine

/-- The resource an instance of a register belongs to, and so whose VI reaches it (R3, R550). `evg` is an event channel
group (alarms), `evg4` one of four channels of a group, `evg2` one of two link lines of a group (R491). The last ones
hold one bit or byte per resource. -/
inductive RCls where
  | none | seq | aout | pb | trg | tin | acmp | key | lde | evg | evg4 | evg2 | disp | syn | con
  | chanBits | conBits | conBytes | trgBits | tinBits | keyBits
  deriving DecidableEq, Repr

/-- One register, or one array of registers, of the window. -/
structure RegRow where
  off : Nat
  stride : Nat
  cnt : Nat
  own : Bool
  cls : RCls
  hide : Bool
  rw : Nat
  rwl : Nat
  rwb : Nat
  rc : Nat
  act : Nat
  vi0 : Nat
  lock : Nat
  rind : Nat
  deriving DecidableEq, Repr

/-- The registers from 0x0000 (DEV_ID) on. -/
def regRows0 : List RegRow := [
  ⟨0, 0x4, 1, false, .none, false, 0, 0, 0, 0, 0, 0, 0, 0⟩, -- DEV_ID
  ⟨0x10, 0x4, 1, false, .none, false, 0, 0, 0, 0, 0, 0, 0, 0⟩, -- CAP0
  ⟨0x14, 0x4, 1, false, .none, false, 0, 0, 0, 0, 0, 0, 0, 0⟩, -- CAP1
  ⟨0x18, 0x4, 1, false, .none, false, 0, 0, 0, 0, 0, 0, 0, 0⟩, -- CAP2
  ⟨0x1C, 0x4, 1, false, .none, false, 0, 0, 0, 0, 0, 0, 0, 0⟩, -- CAP3
  ⟨0x20, 0x4, 1, false, .none, false, 0, 0, 0, 0, 0, 0, 0, 0⟩, -- CAP_PHYS0
  ⟨0x24, 0x4, 1, false, .none, false, 0, 0, 0, 0, 0, 0, 0, 0⟩, -- CAP_PHYS1
  ⟨0x28, 0x4, 1, false, .none, false, 0, 0, 0, 0, 0, 0, 0, 0⟩, -- CAP_PHYS2
  ⟨0x2C, 0x4, 1, false, .none, false, 0, 0, 0, 0, 0, 0, 0, 0⟩, -- CAP_PHYS3
  ⟨0x100, 0x4, 1, true, .none, true, 0x1, 0, 0, 0, 0, 0x1, 0, 0x1⟩, -- VI_CTRL
  ⟨0x104, 0x4, 1, true, .none, false, 0, 0, 0, 0, 0x7, 0, 0, 0⟩, -- VI_CMD
  ⟨0x108, 0x4, 1, true, .none, false, 0, 0, 0, 0, 0, 0, 0, 0⟩, -- VI_STATUS
  ⟨0x10C, 0x4, 1, true, .none, false, 0, 0, 0, 0x3F, 0, 0, 0, 0⟩, -- VI_ACC_ERR
  ⟨0x110, 0x4, 1, true, .none, false, 0, 0, 0, 0, 0, 0, 0, 0⟩, -- VI_ACC_ERR_ADDR
  ⟨0x114, 0x4, 1, true, .none, false, 0, 0, 0, 0, 0, 0, 0, 0⟩, -- VI_FENCE
  ⟨0x118, 0x4, 1, true, .none, false, 0, 0, 0, 0, 0, 0, 0, 0⟩, -- VI_WTAG
  ⟨0x11C, 0x4, 1, true, .none, false, 0x3FF, 0, 0, 0, 0, 0, 0, 0x3FF⟩, -- VI_RSP_TMO
  ⟨0x120, 0x4, 1, true, .none, false, 0, 0, 0, 0, 0, 0, 0, 0⟩, -- VI_RSP_DROP_CNT
  ⟨0x124, 0x4, 1, true, .none, false, 0, 0, 0, 0, 0, 0, 0, 0⟩, -- VI_PWF_STAT
  ⟨0x128, 0x4, 1, true, .none, false, 0, 0, 0, 0, 0xFF, 0, 0, 0⟩, -- VI_PWF_CLR
  ⟨0x180, 0x4, 1, true, .none, false, 0, 0, 0, 0xFFFFFFFF, 0, 0, 0, 0⟩, -- VI_IRQ_PEND
  ⟨0x184, 0x4, 1, true, .none, false, 0x1FFFFFFF, 0, 0, 0, 0, 0, 0, 0x1FFFFFFF⟩, -- VI_IRQ_EN
  ⟨0x188, 0x4, 1, true, .none, false, 0xFFFFFFFF, 0, 0, 0, 0, 0, 0, 0xFFFFFFFF⟩, -- VI_IRQ_EVC
  ⟨0x190, 0x4, 4, true, .none, false, 0xFFFFFFFF, 0, 0, 0, 0, 0, 0, 0xFFFFFFFF⟩, -- VI_IRQ_MAP0–VI_IRQ_MAP3
  ⟨0x200, 0x10, 8, true, .none, false, 0, 0, 0, 0, 0, 0, 0, 0⟩, -- PWFr_ADDR
  ⟨0x204, 0x10, 8, true, .none, false, 0, 0, 0, 0, 0, 0, 0, 0⟩, -- PWFr_INFO
  ⟨0x208, 0x10, 8, true, .none, false, 0, 0, 0, 0, 0, 0, 0, 0⟩, -- PWFr_TIME_LO
  ⟨0x20C, 0x10, 8, true, .none, false, 0, 0, 0, 0, 0, 0, 0, 0⟩, -- PWFr_TIME_HI
  ⟨0x280, 0x4, 1, true, .none, false, 0xFFFFFFFF, 0, 0, 0, 0, 0, 0, 0⟩, -- MB_TX_LO
  ⟨0x284, 0x4, 1, true, .none, false, 0xFFFFFFFF, 0, 0, 0, 0, 0, 0, 0⟩, -- MB_TX_HI
  ⟨0x288, 0x4, 1, true, .none, false, 0, 0, 0, 0, 0x8003001F, 0, 0, 0⟩, -- MB_TX_SEND
  ⟨0x28C, 0x4, 1, true, .none, false, 0, 0, 0, 0, 0, 0, 0, 0⟩, -- MB_TX_STATUS
  ⟨0x290, 0x4, 1, true, .none, false, 0xFFFFFFFF, 0, 0, 0, 0, 0, 0, 0xFFFFFFFF⟩, -- MB_RX_ALLOW
  ⟨0x294, 0x4, 1, true, .none, false, 0, 0, 0, 0, 0, 0, 0, 0⟩, -- MB_DISCARD_CNT
  ⟨0x298, 0x4, 1, true, .none, false, 0, 0, 0, 0, 0, 0, 0, 0⟩, -- MB_FULL_CNT
  ⟨0x29C, 0x4, 1, true, .none, false, 0, 0, 0, 0, 0, 0, 0, 0⟩, -- MBQ_STATUS
  ⟨0x2A0, 0x4, 1, true, .none, false, 0, 0, 0, 0, 0xFFFFFFFF, 0, 0, 0⟩, -- SEM_REL_LO
  ⟨0x2A4, 0x4, 1, true, .none, false, 0, 0, 0, 0, 0xFFFFFFFF, 0, 0, 0⟩, -- SEM_REL_HI
  ⟨0x2A8, 0x4, 1, true, .none, false, 0, 0, 0, 0, 0x80000F3F, 0, 0, 0⟩, -- SEM_GIVE
  ⟨0x2AC, 0x4, 1, true, .none, false, 0, 0, 0, 0x3, 0, 0, 0, 0⟩ -- SEM_STATUS
  ]

/-- The registers from 0x02B0 (SEM_HELD_LO) on. -/
def regRows1 : List RegRow := [
  ⟨0x2B0, 0x4, 1, true, .none, false, 0, 0, 0, 0, 0, 0, 0, 0⟩, -- SEM_HELD_LO
  ⟨0x2B4, 0x4, 1, true, .none, false, 0, 0, 0, 0, 0, 0, 0, 0⟩, -- SEM_HELD_HI
  ⟨0x2C0, 0x4, 1, true, .none, false, 0, 0, 0, 0, 0, 0, 0, 0⟩, -- MBQ0_W0
  ⟨0x2C4, 0x4, 1, true, .none, false, 0, 0, 0, 0, 0, 0, 0, 0⟩, -- MBQ0_W1
  ⟨0x2C8, 0x4, 1, true, .none, false, 0, 0, 0, 0, 0, 0, 0, 0⟩, -- MBQ0_W2
  ⟨0x2CC, 0x4, 1, true, .none, false, 0, 0, 0, 0, 0, 0, 0, 0⟩, -- MBQ0_W3
  ⟨0x2D0, 0x4, 1, true, .none, false, 0, 0, 0, 0, 0, 0, 0, 0⟩, -- MBQ1_W0
  ⟨0x2D4, 0x4, 1, true, .none, false, 0, 0, 0, 0, 0, 0, 0, 0⟩, -- MBQ1_W1
  ⟨0x2D8, 0x4, 1, true, .none, false, 0, 0, 0, 0, 0, 0, 0, 0⟩, -- MBQ1_W2
  ⟨0x2DC, 0x4, 1, true, .none, false, 0, 0, 0, 0, 0, 0, 0, 0⟩, -- MBQ1_W3
  ⟨0x2E0, 0x4, 1, true, .none, false, 0, 0, 0, 0, 0, 0, 0, 0⟩, -- MBQ2_W0
  ⟨0x2E4, 0x4, 1, true, .none, false, 0, 0, 0, 0, 0, 0, 0, 0⟩, -- MBQ2_W1
  ⟨0x2E8, 0x4, 1, true, .none, false, 0, 0, 0, 0, 0, 0, 0, 0⟩, -- MBQ2_W2
  ⟨0x2EC, 0x4, 1, true, .none, false, 0, 0, 0, 0, 0, 0, 0, 0⟩, -- MBQ2_W3
  ⟨0x2F0, 0x4, 1, true, .none, false, 0, 0, 0, 0, 0, 0, 0, 0⟩, -- MBQ3_W0
  ⟨0x2F4, 0x4, 1, true, .none, false, 0, 0, 0, 0, 0, 0, 0, 0⟩, -- MBQ3_W1
  ⟨0x2F8, 0x4, 1, true, .none, false, 0, 0, 0, 0, 0, 0, 0, 0⟩, -- MBQ3_W2
  ⟨0x2FC, 0x4, 1, true, .none, false, 0, 0, 0, 0, 0, 0, 0, 0⟩, -- MBQ3_W3
  ⟨0x300, 0x4, 64, true, .none, false, 0, 0, 0, 0, 0, 0, 0, 0⟩, -- SEMn
  ⟨0x400, 0x4, 1, true, .none, false, 0x7, 0, 0, 0, 0, 0, 0, 0⟩, -- MODE_REQ
  ⟨0x404, 0x4, 1, true, .none, false, 0, 0, 0, 0x30000, 0, 0, 0, 0⟩, -- MODE_STATUS
  ⟨0x408, 0x4, 1, false, .none, false, 0, 0, 0, 0, 0x7, 0x7, 0, 0⟩, -- MODE_CMD
  ⟨0x40C, 0x4, 1, true, .none, false, 0, 0, 0, 0, 0, 0, 0, 0⟩, -- MODE_REFUSE
  ⟨0x410, 0x4, 1, false, .none, false, 0x3FFFFFF, 0, 0, 0, 0, 0x3FFFFFF, 0, 0x3FFFFFF⟩, -- MODE_CFG
  ⟨0x414, 0x4, 1, false, .none, false, 0x7, 0, 0, 0, 0, 0x7, 0, 0x7⟩, -- SAFE_EN
  ⟨0x418, 0x4, 1, false, .none, false, 0, 0, 0, 0x1F00, 0, 0, 0, 0⟩, -- SAFE_CAUSE
  ⟨0x41C, 0x4, 1, false, .none, false, 0, 0, 0, 0, 0, 0, 0, 0⟩, -- SAFE_CNT
  ⟨0x420, 0x4, 1, false, .none, false, 0, 0, 0, 0, 0, 0, 0, 0⟩, -- SAFE_DISARM
  ⟨0x424, 0x4, 1, false, .none, false, 0, 0, 0, 0, 0, 0, 0, 0⟩, -- SAFE_TIME_LO
  ⟨0x428, 0x4, 1, false, .none, false, 0, 0, 0, 0, 0, 0, 0, 0⟩, -- SAFE_TIME_HI
  ⟨0x42C, 0x4, 1, false, .none, false, 0x7FF, 0, 0, 0, 0, 0x7FF, 0, 0x7FF⟩, -- WAKE_CFG
  ⟨0x430, 0x4, 1, false, .none, false, 0, 0, 0, 0xFFF, 0, 0, 0, 0⟩, -- WAKE_SRC
  ⟨0x434, 0x4, 1, true, .none, false, 0xFFFFFFFF, 0, 0, 0, 0, 0, 0, 0xFFFFFFFF⟩, -- MODE_TMC_TGT_LO
  ⟨0x438, 0x4, 1, true, .none, false, 0xFFFFFFFF, 0, 0, 0, 0, 0, 0, 0xFFFFFFFF⟩, -- MODE_TMC_TGT_HI
  ⟨0x43C, 0x4, 1, true, .none, false, 0x17, 0, 0, 0, 0x300, 0, 0, 0x17⟩, -- MODE_TMC_CTRL
  ⟨0x440, 0x4, 1, true, .none, false, 0, 0, 0, 0xE, 0, 0, 0, 0⟩, -- MODE_TMC_STAT
  ⟨0x444, 0x4, 1, false, .none, false, 0xFFFF, 0, 0, 0, 0, 0xFFFF, 0, 0xFFFF⟩, -- DOM_GATE_DLY
  ⟨0x448, 0x4, 1, false, .none, true, 0, 0, 0, 0x3FFF, 0, 0, 0, 0⟩, -- WAKE_OVR
  ⟨0x450, 0x4, 4, false, .none, true, 0, 0, 0, 0, 0, 0, 0, 0⟩, -- DOM_STATE0–DOM_STATE3
  ⟨0x480, 0x4, 1, false, .none, false, 0, 0, 0, 0, 0, 0, 0, 0⟩ -- RST_CAUSE
  ]

/-- The registers from 0x0484 (RST_CAUSE_TIME_LO) on. -/
def regRows2 : List RegRow := [
  ⟨0x484, 0x4, 1, false, .none, false, 0, 0, 0, 0, 0, 0, 0, 0⟩, -- RST_CAUSE_TIME_LO
  ⟨0x488, 0x4, 1, false, .none, false, 0, 0, 0, 0, 0, 0, 0, 0⟩, -- RST_CAUSE_TIME_HI
  ⟨0x48C, 0x4, 1, false, .none, false, 0, 0, 0, 0, 0x103, 0x103, 0, 0⟩, -- RST_REQ
  ⟨0x490, 0x4, 1, false, .none, false, 0, 0x3, 0, 0, 0, 0x103, 0x100, 0x103⟩, -- RST_POLICY
  ⟨0x494, 0x4, 1, false, .none, false, 0, 0, 0, 0, 0, 0, 0, 0⟩, -- RST_STATUS
  ⟨0x498, 0x4, 1, false, .none, false, 0, 0, 0, 0, 0, 0, 0, 0⟩, -- RST_WDT_CNT
  ⟨0x4A0, 0x4, 1, false, .none, false, 0, 0, 0, 0, 0, 0, 0, 0⟩, -- IMG_STATUS
  ⟨0x4A4, 0x4, 1, false, .none, false, 0, 0, 0, 0, 0, 0, 0, 0⟩, -- IMG_REASON
  ⟨0x4A8, 0x4, 1, false, .none, false, 0, 0, 0, 0, 0, 0, 0, 0⟩, -- IMG_GEN
  ⟨0x4AC, 0x4, 1, false, .none, false, 0, 0, 0, 0, 0, 0, 0, 0⟩, -- IMG_BUILD
  ⟨0x4B0, 0x4, 1, false, .none, false, 0, 0, 0, 0, 0, 0, 0, 0⟩, -- IMG_FAIL_OFS
  ⟨0x4B4, 0x4, 1, false, .none, false, 0, 0, 0, 0, 0, 0, 0, 0⟩, -- IMG_TIME
  ⟨0x500, 0x4, 1, false, .none, false, 0x1, 0, 0, 0, 0, 0x1, 0, 0x1⟩, -- TIME_CTRL
  ⟨0x504, 0x4, 1, false, .none, false, 0, 0, 0, 0x380, 0, 0, 0, 0⟩, -- TIME_STATUS
  ⟨0x508, 0x4, 1, true, .none, false, 0, 0, 0, 0, 0, 0, 0, 0⟩, -- TIME_NOW_LO
  ⟨0x50C, 0x4, 1, true, .none, false, 0, 0, 0, 0, 0, 0, 0, 0⟩, -- TIME_NOW_HI
  ⟨0x510, 0x4, 1, false, .none, false, 0xFFFFFFFF, 0, 0, 0, 0, 0xFFFFFFFF, 0, 0⟩, -- TIME_SET_LO
  ⟨0x514, 0x4, 1, false, .none, false, 0xFFFFFFFF, 0, 0, 0, 0, 0xFFFFFFFF, 0, 0⟩, -- TIME_SET_HI
  ⟨0x518, 0x4, 1, false, .none, false, 0, 0, 0, 0, 0x3, 0x1, 0, 0⟩, -- TIME_CMD
  ⟨0x51C, 0x4, 1, false, .none, false, 0, 0, 0, 0, 0, 0, 0, 0⟩, -- TIME_STEP_LO
  ⟨0x520, 0x4, 1, false, .none, false, 0, 0, 0, 0, 0, 0, 0, 0⟩, -- TIME_STEP_HI
  ⟨0x524, 0x4, 1, false, .none, false, 0x1FFFF, 0, 0, 0, 0, 0x1FFFF, 0, 0⟩, -- KEEP_TRIM
  ⟨0x528, 0x4, 1, false, .none, false, 0, 0, 0, 0x10000, 0, 0, 0, 0⟩, -- KEEP_STATUS
  ⟨0x52C, 0x4, 1, true, .none, false, 0, 0, 0, 0, 0, 0, 0, 0⟩, -- TIME_LATE_CNT
  ⟨0x530, 0x4, 1, true, .none, false, 0, 0, 0, 0, 0, 0, 0, 0⟩, -- TIME_LATE_LAST
  ⟨0x534, 0x4, 1, true, .none, false, 0, 0, 0, 0, 0, 0, 0, 0⟩, -- TIME_LATE_SRC
  ⟨0x540, 0x4, 16, false, .none, false, 0, 0, 0, 0, 0, 0, 0, 0⟩, -- KEEP_HIST0–KEEP_HIST15
  ⟨0x580, 0x4, 16, false, .evg, false, 0, 0, 0, 0, 0, 0, 0, 0⟩, -- ALMn_LATE
  ⟨0x5C0, 0x4, 16, false, .evg, false, 0xFFFFFFFF, 0, 0, 0, 0, 0, 0, 0xFFFFFFFF⟩, -- ALMn_INTV
  ⟨0x600, 0x10, 16, false, .evg, false, 0xFFFFFFFF, 0, 0, 0, 0, 0, 0, 0xFFFFFFFF⟩, -- ALMn_TGT_LO
  ⟨0x604, 0x10, 16, false, .evg, false, 0xFFFFFFFF, 0, 0, 0, 0, 0, 0, 0xFFFFFFFF⟩, -- ALMn_TGT_HI
  ⟨0x608, 0x10, 16, false, .evg, false, 0x7C, 0, 0, 0, 0x3, 0, 0, 0x7C⟩, -- ALMn_CTRL
  ⟨0x60C, 0x10, 16, false, .evg, false, 0, 0, 0, 0xE, 0, 0, 0, 0⟩, -- ALMn_STAT
  ⟨0x700, 0x4, 1, true, .none, false, 0x1, 0, 0, 0, 0, 0, 0, 0⟩, -- REG_CTRL
  ⟨0x704, 0x4, 1, true, .none, false, 0, 0, 0, 0x1, 0, 0, 0, 0⟩, -- REG_STATUS
  ⟨0x708, 0x4, 1, true, .none, false, 0x3, 0, 0, 0, 0, 0x2, 0, 0⟩, -- RIND_OPEN
  ⟨0x70C, 0x4, 1, true, .none, false, 0, 0, 0, 0, 0x3, 0x2, 0, 0⟩, -- RIND_COMMIT
  ⟨0x710, 0x4, 1, true, .none, false, 0, 0, 0, 0x3, 0, 0, 0, 0⟩, -- RIND_STATUS
  ⟨0x714, 0x4, 1, false, .none, false, 0, 0xB1, 0, 0, 0, 0x1B1, 0x100, 0x1B1⟩, -- RIND_CTRL
  ⟨0x718, 0x4, 1, true, .none, false, 0, 0, 0, 0, 0, 0, 0, 0⟩ -- RIND_REF
  ]

/-- The registers from 0x071C (RIND_CRC) on. -/
def regRows3 : List RegRow := [
  ⟨0x71C, 0x4, 1, true, .none, false, 0, 0, 0, 0, 0, 0, 0, 0⟩, -- RIND_CRC
  ⟨0x720, 0x4, 1, true, .none, false, 0, 0, 0, 0, 0, 0, 0, 0⟩, -- RIND_FAULT_CNT
  ⟨0x724, 0x4, 1, false, .none, false, 0, 0, 0, 0, 0, 0, 0, 0⟩, -- RIND_WALKS
  ⟨0x730, 0x4, 1, false, .none, true, 0, 0, 0, 0xFFFFFFFF, 0, 0xFFFFFFFF, 0, 0⟩, -- RIND_MAP
  ⟨0x734, 0x4, 1, false, .none, true, 0, 0, 0, 0x1, 0, 0, 0, 0⟩, -- RIND_MAP_PHYS
  ⟨0x738, 0x4, 1, false, .none, true, 0, 0, 0, 0, 0, 0xFFFFFFFF, 0, 0⟩, -- RIND_OPEN_MAP
  ⟨0x73C, 0x4, 1, false, .none, true, 0, 0, 0, 0, 0, 0xFFFFFFFF, 0, 0⟩, -- RIND_REF_PHYS
  ⟨0x780, 0x4, 32, false, .none, true, 0, 0, 0, 0, 0, 0xFFFFFFFF, 0, 0⟩, -- RIND_REFn
  ⟨0x800, 0x4, 1, false, .none, false, 0, 0, 0, 0, 0, 0, 0, 0⟩, -- FAB_STATUS
  ⟨0x804, 0x4, 1, false, .none, false, 0, 0, 0, 0, 0x3, 0, 0, 0⟩, -- FAB_COMMIT
  ⟨0x808, 0x4, 1, false, .none, false, 0, 0, 0, 0, 0x1, 0, 0, 0⟩, -- FAB_CMD
  ⟨0x80C, 0x4, 1, false, .chanBits, false, 0, 0, 0, 0, 0xFFFFFFFF, 0, 0, 0⟩, -- FAB_FIRE_LO
  ⟨0x810, 0x4, 1, false, .chanBits, false, 0, 0, 0, 0, 0xFFFFFFFF, 0, 0, 0⟩, -- FAB_FIRE_HI
  ⟨0x814, 0x4, 1, false, .chanBits, false, 0xFFFFFFFF, 0, 0, 0, 0, 0, 0, 0⟩, -- FAB_LATCH_LO
  ⟨0x818, 0x4, 1, false, .chanBits, false, 0xFFFFFFFF, 0, 0, 0, 0, 0, 0, 0⟩, -- FAB_LATCH_HI
  ⟨0x820, 0x4, 6, false, .conBits, false, 0, 0, 0, 0xFFFFFFFF, 0, 0, 0, 0⟩, -- FAB_OVR0–FAB_OVR5
  ⟨0x840, 0x4, 6, false, .conBits, false, 0xFFFFFFFF, 0, 0, 0, 0, 0, 0, 0xFFFFFFFF⟩, -- CON_WAKE0–CON_WAKE5
  ⟨0x860, 0x4, 6, false, .conBits, false, 0, 0, 0, 0, 0, 0, 0, 0⟩, -- CON_HELD0–CON_HELD5
  ⟨0x880, 0x4, 1, false, .none, true, 0x7, 0, 0, 0, 0x100, 0x107, 0, 0x7⟩, -- LOG_CTRL
  ⟨0x884, 0x4, 1, false, .none, true, 0, 0, 0, 0xE0000, 0, 0, 0, 0⟩, -- LOG_STATUS
  ⟨0x888, 0x4, 1, false, .none, true, 0, 0, 0, 0, 0, 0, 0, 0⟩, -- LOG_OVF_CNT
  ⟨0x88C, 0x4, 1, false, .none, true, 0, 0, 0, 0, 0, 0, 0, 0⟩, -- LOG_SEQ
  ⟨0x890, 0x4, 1, false, .none, true, 0x1FFF, 0, 0, 0, 0, 0x1FFF, 0, 0x1FFF⟩, -- LOG_SPILL_CFG
  ⟨0x894, 0x4, 1, false, .none, true, 0, 0, 0, 0, 0, 0, 0, 0⟩, -- LOG_SPILL_WR
  ⟨0x898, 0x4, 1, false, .none, true, 0x3FFFFFF, 0, 0, 0, 0, 0x3FFFFFF, 0, 0⟩, -- LOG_SPILL_RD
  ⟨0x8B0, 0x4, 4, false, .none, true, 0, 0, 0, 0, 0, 0, 0, 0⟩, -- LOG_ENTRY0–LOG_ENTRY3
  ⟨0x900, 0x8, 16, false, .evg4, false, 0, 0, 0xFFFFFFFF, 0, 0, 0, 0, 0xFFFFFFFF⟩, -- FAB_MTXn_LO
  ⟨0x904, 0x8, 16, false, .evg4, false, 0, 0, 0xFFFFFFFF, 0, 0, 0, 0, 0xFFFFFFFF⟩, -- FAB_MTXn_HI
  ⟨0xA00, 0x4, 64, false, .evg4, false, 0, 0, 0x81013FFF, 0, 0, 0, 0, 0x81013FFF⟩, -- EVCn_CFG
  ⟨0xB00, 0x4, 64, false, .evg4, false, 0, 0, 0, 0, 0, 0, 0, 0⟩, -- EVCn_CNT
  ⟨0xC00, 0x4, 48, false, .conBytes, false, 0, 0, 0xFFFFFFFF, 0, 0, 0, 0, 0xFFFFFFFF⟩, -- CON_SEL0–CON_SEL47
  ⟨0xD00, 0x4, 192, false, .con, false, 0, 0, 0, 0, 0, 0, 0, 0⟩, -- CONn_CNT
  ⟨0x1000, 0x80, 16, false, .seq, false, 0x1771, 0, 0x2, 0, 0, 0, 0, 0x1773⟩, -- SEQk_CTRL
  ⟨0x1004, 0x80, 16, false, .seq, false, 0, 0, 0, 0, 0x3F, 0, 0, 0⟩, -- SEQk_CMD
  ⟨0x1008, 0x80, 16, false, .seq, false, 0, 0, 0, 0xBF000, 0, 0, 0, 0⟩, -- SEQk_STATUS
  ⟨0x100C, 0x80, 16, false, .seq, false, 0xFFFF, 0, 0, 0, 0, 0, 0, 0xFFFF⟩, -- SEQk_BIND
  ⟨0x1010, 0x80, 16, false, .seq, false, 0x3FFFF, 0, 0, 0, 0, 0, 0, 0x3FFFF⟩, -- SEQk_TABLE_FIRST
  ⟨0x1014, 0x80, 16, false, .seq, false, 0x3FFFF, 0, 0, 0, 0, 0, 0, 0x3FFFF⟩, -- SEQk_TABLE_LAST
  ⟨0x1018, 0x80, 16, false, .seq, false, 0x3FFFF, 0, 0, 0, 0, 0, 0, 0x3FFFF⟩, -- SEQk_START_STEP
  ⟨0x101C, 0x80, 16, false, .seq, false, 0xFFFFFFFF, 0, 0, 0, 0, 0, 0, 0xFFFFFFFF⟩ -- SEQk_START_TGT_LO
  ]

/-- The registers from 0x1020 (SEQk_START_TGT_HI) on. -/
def regRows4 : List RegRow := [
  ⟨0x1020, 0x80, 16, false, .seq, false, 0xFFFFFFFF, 0, 0, 0, 0, 0, 0, 0xFFFFFFFF⟩, -- SEQk_START_TGT_HI
  ⟨0x1024, 0x80, 16, false, .seq, false, 0, 0, 0, 0, 0, 0, 0, 0⟩, -- SEQk_LATE
  ⟨0x1028, 0x80, 16, false, .seq, false, 0, 0, 0, 0, 0, 0, 0, 0⟩, -- SEQk_PERIODS_LO
  ⟨0x102C, 0x80, 16, false, .seq, false, 0, 0, 0, 0, 0, 0, 0, 0⟩, -- SEQk_PERIODS_HI
  ⟨0x1030, 0x80, 16, false, .seq, false, 0, 0, 0, 0, 0, 0, 0, 0⟩, -- SEQk_WHEY_LO
  ⟨0x1034, 0x80, 16, false, .seq, false, 0, 0, 0, 0, 0, 0, 0, 0⟩, -- SEQk_WHEY_HI
  ⟨0x1038, 0x80, 16, false, .seq, false, 0, 0, 0, 0, 0, 0, 0, 0⟩, -- SEQk_SLIP
  ⟨0x103C, 0x80, 16, false, .seq, false, 0, 0, 0, 0, 0, 0, 0, 0⟩, -- SEQk_DROP
  ⟨0x1040, 0x80, 16, false, .seq, false, 0, 0, 0, 0, 0, 0, 0, 0⟩, -- SEQk_PC
  ⟨0x1044, 0x80, 16, false, .seq, false, 0xF, 0, 0, 0x1000, 0, 0, 0, 0⟩, -- SEQk_FLAGS
  ⟨0x1048, 0x80, 16, false, .seq, false, 0, 0, 0, 0, 0, 0, 0, 0⟩, -- SEQk_FAULT
  ⟨0x104C, 0x80, 16, false, .seq, false, 0, 0, 0, 0, 0, 0, 0, 0⟩, -- SEQk_STACK
  ⟨0x1050, 0x80, 16, false, .seq, false, 0, 0, 0, 0, 0, 0, 0, 0⟩, -- SEQk_LOOP0_CNT
  ⟨0x1054, 0x80, 16, false, .seq, false, 0, 0, 0, 0, 0, 0, 0, 0⟩, -- SEQk_LOOP0_START
  ⟨0x1058, 0x80, 16, false, .seq, false, 0, 0, 0, 0, 0, 0, 0, 0⟩, -- SEQk_LOOP1_CNT
  ⟨0x105C, 0x80, 16, false, .seq, false, 0, 0, 0, 0, 0, 0, 0, 0⟩, -- SEQk_LOOP1_START
  ⟨0x1060, 0x80, 16, false, .seq, false, 0, 0, 0, 0, 0, 0, 0, 0⟩, -- SEQk_LOOP2_CNT
  ⟨0x1064, 0x80, 16, false, .seq, false, 0, 0, 0, 0, 0, 0, 0, 0⟩, -- SEQk_LOOP2_START
  ⟨0x1068, 0x80, 16, false, .seq, false, 0, 0, 0, 0, 0, 0, 0, 0⟩, -- SEQk_LOOP3_CNT
  ⟨0x106C, 0x80, 16, false, .seq, false, 0, 0, 0, 0, 0, 0, 0, 0⟩, -- SEQk_LOOP3_START
  ⟨0x1070, 0x80, 16, false, .seq, false, 0xFFFFFFFF, 0, 0, 0, 0, 0, 0, 0⟩, -- SEQk_CNT0
  ⟨0x1074, 0x80, 16, false, .seq, false, 0xFFFFFFFF, 0, 0, 0, 0, 0, 0, 0⟩, -- SEQk_CNT1
  ⟨0x1078, 0x80, 16, false, .seq, false, 0xFFFFFFFF, 0, 0, 0, 0, 0, 0, 0⟩, -- SEQk_CNT2
  ⟨0x107C, 0x80, 16, false, .seq, false, 0xFFFFFFFF, 0, 0, 0, 0, 0, 0, 0⟩, -- SEQk_CNT3
  ⟨0x1800, 0x4, 1, false, .none, false, 0, 0, 0, 0, 0, 0, 0, 0⟩, -- MEM_STATUS
  ⟨0x1804, 0x4, 1, true, .none, false, 0x1, 0, 0, 0, 0, 0, 0, 0x1⟩, -- MEM_ECC_CFG
  ⟨0x1808, 0x4, 1, false, .none, false, 0, 0, 0, 0, 0, 0, 0, 0⟩, -- MEM_ECC_CE
  ⟨0x180C, 0x4, 1, false, .none, false, 0, 0, 0, 0, 0, 0, 0, 0⟩, -- MEM_ECC_UE
  ⟨0x1810, 0x4, 1, false, .none, true, 0, 0, 0, 0, 0, 0, 0, 0⟩, -- MEM_ECC_ADDR
  ⟨0x1814, 0x4, 1, false, .none, false, 0, 0, 0, 0, 0, 0, 0, 0⟩, -- VAT_MAP
  ⟨0x1818, 0x4, 1, false, .none, false, 0, 0, 0, 0, 0, 0, 0, 0⟩, -- VAT_VIEW
  ⟨0x181C, 0x4, 1, false, .none, false, 0, 0, 0, 0, 0, 0, 0, 0⟩, -- MEM_VIEW
  ⟨0x1820, 0x4, 1, false, .none, false, 0xFFFF, 0, 0, 0, 0, 0xFFFF, 0, 0xFFFF⟩, -- MEM_BUDGET
  ⟨0x1824, 0x4, 1, false, .none, false, 0, 0, 0, 0, 0, 0, 0, 0⟩, -- ADMIT_USED
  ⟨0x1828, 0x4, 1, false, .none, false, 0, 0, 0, 0, 0xFFFF, 0, 0, 0⟩, -- ADMIT_CMD
  ⟨0x182C, 0x4, 1, true, .none, false, 0, 0, 0, 0x1E, 0, 0, 0, 0⟩, -- ADMIT_STATUS
  ⟨0x1830, 0x4, 1, true, .none, false, 0, 0, 0, 0, 0, 0, 0, 0⟩, -- ADMIT_FAIL_CNT
  ⟨0x1840, 0x4, 16, false, .seq, false, 0, 0, 0, 0, 0, 0, 0, 0⟩, -- ADMIT_DEMANDn
  ⟨0x1880, 0x4, 1, true, .none, false, 0xFFFF, 0, 0, 0, 0, 0, 0, 0⟩, -- DIR_VAL_FIRST
  ⟨0x1884, 0x4, 1, true, .none, false, 0, 0, 0, 0, 0x8001FFFF, 0, 0, 0⟩ -- DIR_VAL_CMD
  ]

/-- The registers from 0x1888 (DIR_VAL_STATUS) on. -/
def regRows5 : List RegRow := [
  ⟨0x1888, 0x4, 1, true, .none, false, 0, 0, 0, 0, 0, 0, 0, 0⟩, -- DIR_VAL_STATUS
  ⟨0x1890, 0x4, 1, true, .none, false, 0xFFFF, 0, 0, 0, 0, 0, 0, 0⟩, -- DIR_QUERY_IDX
  ⟨0x1894, 0x4, 1, true, .none, false, 0, 0, 0, 0, 0, 0, 0, 0⟩, -- DIR_QUERY
  ⟨0x18A0, 0x4, 1, true, .none, false, 0x1FF1, 0, 0, 0, 0, 0, 0, 0⟩, -- APER_CFG
  ⟨0x18A4, 0x4, 1, false, .none, false, 0, 0, 0, 0, 0, 0, 0, 0⟩, -- LDE_CAP
  ⟨0x18B0, 0x4, 4, false, .none, false, 0, 0, 0, 0, 0, 0, 0, 0⟩, -- VAT_UNLOADED0–VAT_UNLOADED3
  ⟨0x1900, 0x20, 4, false, .lde, false, 0xFFFFFFFF, 0, 0, 0, 0, 0, 0, 0⟩, -- LDEn_SRC_LO
  ⟨0x1904, 0x20, 4, false, .lde, false, 0xFFFFFFFF, 0, 0, 0, 0, 0, 0, 0⟩, -- LDEn_SRC_HI
  ⟨0x1908, 0x20, 4, false, .lde, false, 0xFFFFFFFF, 0, 0, 0, 0, 0, 0, 0⟩, -- LDEn_DST_LO
  ⟨0x190C, 0x20, 4, false, .lde, false, 0xFFFFFFFF, 0, 0, 0, 0, 0, 0, 0⟩, -- LDEn_DST_HI
  ⟨0x1910, 0x20, 4, false, .lde, false, 0xFFFFFFFF, 0, 0, 0, 0, 0, 0, 0⟩, -- LDEn_LEN
  ⟨0x1914, 0x20, 4, false, .lde, false, 0x1077, 0, 0, 0, 0x300, 0, 0, 0⟩, -- LDEn_CTRL
  ⟨0x1918, 0x20, 4, false, .lde, false, 0, 0, 0, 0xE, 0, 0, 0, 0⟩, -- LDEn_STAT
  ⟨0x191C, 0x20, 4, false, .lde, false, 0, 0, 0, 0, 0, 0, 0, 0⟩, -- LDEn_DONE_BYTES
  ⟨0x1A00, 0x40, 4, false, .syn, false, 0, 0xF11, 0, 0, 0, 0, 0x10000, 0x10F11⟩, -- SYNx_CTRL
  ⟨0x1A04, 0x40, 4, false, .syn, false, 0, 0x7F07, 0x7F07, 0, 0, 0, 0, 0x7F07⟩, -- SYNx_REF
  ⟨0x1A08, 0x40, 4, false, .syn, false, 0, 0xFFFFFFFF, 0xFFFFFFFF, 0, 0, 0, 0, 0xFFFFFFFF⟩, -- SYNx_DIV
  ⟨0x1A0C, 0x40, 4, false, .syn, false, 0, 0xFFFF0F1F, 0, 0, 0, 0, 0, 0xFFFF0F1F⟩, -- SYNx_LOCKCFG
  ⟨0x1A10, 0x40, 4, false, .syn, false, 0, 0xFFFFFF, 0, 0, 0, 0, 0, 0⟩, -- SYNx_GLIDE
  ⟨0x1A14, 0x40, 4, false, .syn, false, 0, 0xFF, 0, 0, 0, 0, 0, 0xFF⟩, -- SYNx_SLEW
  ⟨0x1A18, 0x40, 4, false, .syn, false, 0, 0xFFFFFFFF, 0, 0, 0, 0, 0, 0xFFFFFFFF⟩, -- SYNx_SEED
  ⟨0x1A1C, 0x40, 4, false, .syn, false, 0, 0, 0, 0x3F00, 0, 0, 0, 0⟩, -- SYNx_STATUS
  ⟨0x1A20, 0x40, 4, false, .syn, false, 0, 0, 0, 0, 0, 0, 0, 0⟩, -- SYNx_LOL_CNT
  ⟨0x1A24, 0x40, 4, false, .syn, false, 0, 0, 0, 0, 0, 0, 0, 0⟩, -- SYNx_MUTE_LAST
  ⟨0x1A28, 0x40, 4, false, .syn, false, 0, 0, 0, 0, 0, 0, 0, 0⟩, -- SYNx_EFF
  ⟨0x1B00, 0x4, 1, false, .none, false, 0, 0, 0, 0, 0xF, 0, 0, 0⟩, -- SYN_UPDATE
  ⟨0x1B04, 0x4, 1, false, .none, false, 0, 0x7, 0, 0, 0, 0x7, 0, 0x7⟩, -- SYN_REFIN_CFG
  ⟨0x1B08, 0x4, 1, false, .none, false, 0, 0x1F01, 0, 0, 0, 0x1F01, 0, 0x1F01⟩, -- SYN_HFXO_CFG
  ⟨0x1C00, 0x80, 8, false, .aout, false, 0x33, 0, 0, 0, 0, 0, 0, 0x33⟩, -- AOUTn_CTRL
  ⟨0x1C04, 0x80, 8, false, .aout, false, 0x33, 0, 0, 0, 0, 0, 0, 0x33⟩, -- AOUTn_MODE
  ⟨0x1C08, 0x80, 8, false, .aout, false, 0xFFF07FF, 0, 0, 0, 0, 0, 0, 0xFFF07FF⟩, -- AOUTn_FS
  ⟨0x1C0C, 0x80, 8, false, .aout, false, 0xFFFF, 0, 0, 0, 0, 0, 0, 0xFFFF⟩, -- AOUTn_PARK
  ⟨0x1C10, 0x80, 8, false, .aout, false, 0, 0, 0xFFFFFFFF, 0, 0, 0, 0, 0xFFFFFFFF⟩, -- AOUTn_FTW_LO
  ⟨0x1C14, 0x80, 8, false, .aout, false, 0, 0, 0xFFFF, 0, 0, 0, 0, 0xFFFF⟩, -- AOUTn_FTW_HI
  ⟨0x1C18, 0x80, 8, false, .aout, false, 0, 0, 0xFFFF, 0, 0, 0, 0, 0xFFFF⟩, -- AOUTn_PHASE
  ⟨0x1C1C, 0x80, 8, false, .aout, false, 0, 0, 0xFFFF, 0, 0, 0, 0, 0xFFFF⟩, -- AOUTn_AMPL
  ⟨0x1C20, 0x80, 8, false, .aout, false, 0, 0, 0xFFFF, 0, 0, 0, 0, 0xFFFF⟩, -- AOUTn_OFFSET
  ⟨0x1C24, 0x80, 8, false, .aout, false, 0, 0, 0, 0, 0xF, 0, 0, 0⟩, -- AOUTn_CMD
  ⟨0x1C28, 0x80, 8, false, .aout, false, 0xFFFF, 0, 0, 0, 0, 0, 0, 0xFFFF⟩, -- AOUTn_TBL_IDX
  ⟨0x1C2C, 0x80, 8, false, .aout, false, 0, 0, 0, 0x5F0, 0, 0, 0, 0⟩ -- AOUTn_STATUS
  ]

/-- The registers from 0x1C30 (AOUTn_LATE) on. -/
def regRows6 : List RegRow := [
  ⟨0x1C30, 0x80, 8, false, .aout, false, 0, 0, 0, 0, 0, 0, 0, 0⟩, -- AOUTn_LATE
  ⟨0x1C34, 0x80, 8, false, .aout, false, 0, 0, 0, 0, 0, 0, 0, 0⟩, -- AOUTn_CLIP_CNT
  ⟨0x1C38, 0x80, 8, false, .aout, false, 0, 0, 0, 0, 0, 0, 0, 0⟩, -- AOUTn_TBL_WAIT
  ⟨0x1C3C, 0x80, 8, false, .aout, false, 0, 0, 0, 0, 0, 0, 0, 0⟩, -- AOUTn_LAT
  ⟨0x1C40, 0x80, 8, false, .aout, false, 0, 0, 0, 0, 0, 0, 0, 0⟩, -- AOUTn_TBL_RES
  ⟨0x1C44, 0x80, 8, false, .aout, false, 0, 0, 0, 0, 0, 0, 0, 0⟩, -- AOUTn_NOW_LO
  ⟨0x1C48, 0x80, 8, false, .aout, false, 0, 0, 0, 0, 0, 0, 0, 0⟩, -- AOUTn_NOW_HI
  ⟨0x1C4C, 0x80, 8, false, .aout, false, 0, 0, 0, 0, 0, 0, 0, 0⟩, -- AOUTn_WORK
  ⟨0x2000, 0x100, 8, false, .pb, false, 0x131, 0, 0, 0, 0, 0, 0, 0x131⟩, -- PBk_CTRL
  ⟨0x2004, 0x100, 8, false, .pb, false, 0, 0, 0, 0, 0xF, 0, 0, 0⟩, -- PBk_CMD
  ⟨0x2008, 0x100, 8, false, .pb, false, 0, 0, 0, 0x13F8, 0, 0, 0, 0⟩, -- PBk_STATUS
  ⟨0x200C, 0x100, 8, false, .pb, false, 0, 0x333, 0, 0, 0, 0, 0x10000, 0x10333⟩, -- PBk_ELEC
  ⟨0x2010, 0x100, 8, false, .pb, false, 0, 0xFFFF, 0, 0, 0, 0, 0, 0xFFFF⟩, -- PBk_VTH
  ⟨0x2014, 0x100, 8, false, .pb, false, 0xFFF, 0, 0, 0, 0, 0, 0, 0xFFF⟩, -- PBk_DIV
  ⟨0x2018, 0x100, 8, false, .pb, false, 0xF, 0, 0, 0, 0, 0, 0, 0xF⟩, -- PBk_TSEL
  ⟨0x201C, 0x100, 8, false, .pb, false, 0xFFFFFFFF, 0, 0, 0, 0, 0, 0, 0xFFFFFFFF⟩, -- PBk_PARK
  ⟨0x2020, 0x100, 8, false, .pb, false, 0, 0, 0xFFFF, 0, 0, 0, 0, 0xFFFF⟩, -- PBk_CMP_MASK
  ⟨0x2024, 0x100, 8, false, .pb, false, 0xFFFF, 0, 0, 0, 0, 0, 0, 0xFFFF⟩, -- PBk_FREE_DESC
  ⟨0x2028, 0x100, 8, false, .pb, false, 0, 0, 0, 0, 0, 0, 0, 0⟩, -- PBk_PERIOD
  ⟨0x202C, 0x100, 8, false, .pb, false, 0, 0, 0, 0, 0, 0, 0, 0⟩, -- PBk_VCCIO
  ⟨0x2030, 0x100, 8, false, .pb, false, 0, 0, 0, 0, 0, 0, 0, 0⟩, -- PBk_VEC
  ⟨0x2034, 0x100, 8, false, .pb, false, 0, 0, 0, 0, 0, 0, 0, 0⟩, -- PBk_FAILCNT
  ⟨0x2038, 0x100, 8, false, .pb, false, 0, 0, 0, 0, 0, 0, 0, 0⟩, -- PBk_FIRST_VEC
  ⟨0x203C, 0x100, 8, false, .pb, false, 0, 0, 0, 0, 0, 0, 0, 0⟩, -- PBk_FIRST_PINS
  ⟨0x2040, 0x100, 8, false, .pb, false, 0, 0, 0, 0, 0, 0, 0, 0⟩, -- PBk_TSET_VALID
  ⟨0x2044, 0x100, 8, false, .pb, false, 0xFF1F03, 0, 0, 0, 0, 0, 0, 0xFF1F03⟩, -- PBk_FLOG_CFG
  ⟨0x2048, 0x100, 8, false, .pb, false, 0, 0, 0, 0, 0, 0, 0, 0⟩, -- PBk_FLOG_WR
  ⟨0x204C, 0x100, 8, false, .pb, false, 0xFFFFF, 0, 0, 0, 0, 0, 0, 0⟩, -- PBk_FLOG_RD
  ⟨0x2050, 0x100, 8, false, .pb, false, 0, 0, 0, 0, 0, 0, 0, 0⟩, -- PBk_FLOG_LOST
  ⟨0x2060, 0x100, 8, false, .pb, false, 0xFFFF1F0F, 0, 0, 0, 0, 0, 0, 0xFFFF1F0F⟩, -- CAP2k+0_CFG
  ⟨0x2064, 0x100, 8, false, .pb, false, 0, 0, 0, 0, 0, 0, 0, 0⟩, -- CAP2k+0_WR
  ⟨0x2068, 0x100, 8, false, .pb, false, 0xFFFFFF, 0, 0, 0, 0, 0, 0, 0⟩, -- CAP2k+0_RD
  ⟨0x206C, 0x100, 8, false, .pb, false, 0, 0, 0, 0, 0, 0, 0, 0⟩, -- CAP2k+0_LOST
  ⟨0x2070, 0x100, 8, false, .pb, false, 0xFFFF1F0F, 0, 0, 0, 0, 0, 0, 0xFFFF1F0F⟩, -- CAP2k+1_CFG
  ⟨0x2074, 0x100, 8, false, .pb, false, 0, 0, 0, 0, 0, 0, 0, 0⟩, -- CAP2k+1_WR
  ⟨0x2078, 0x100, 8, false, .pb, false, 0xFFFFFF, 0, 0, 0, 0, 0, 0, 0⟩, -- CAP2k+1_RD
  ⟨0x207C, 0x100, 8, false, .pb, false, 0, 0, 0, 0, 0, 0, 0, 0⟩, -- CAP2k+1_LOST
  ⟨0x2080, 0x100, 8, false, .pb, false, 0, 0, 0xFFFFFFFF, 0, 0, 0, 0, 0xFFFFFFFF⟩, -- PBk_TSET0_E
  ⟨0x2084, 0x100, 8, false, .pb, false, 0, 0, 0xFFFF, 0, 0, 0, 0, 0xFFFF⟩, -- PBk_TSET0_S
  ⟨0x2088, 0x100, 8, false, .pb, false, 0, 0, 0xFFFFFFFF, 0, 0, 0, 0, 0xFFFFFFFF⟩ -- PBk_TSET1_E
  ]

/-- The registers from 0x208C (PBk_TSET1_S) on. -/
def regRows7 : List RegRow := [
  ⟨0x208C, 0x100, 8, false, .pb, false, 0, 0, 0xFFFF, 0, 0, 0, 0, 0xFFFF⟩, -- PBk_TSET1_S
  ⟨0x2090, 0x100, 8, false, .pb, false, 0, 0, 0xFFFFFFFF, 0, 0, 0, 0, 0xFFFFFFFF⟩, -- PBk_TSET2_E
  ⟨0x2094, 0x100, 8, false, .pb, false, 0, 0, 0xFFFF, 0, 0, 0, 0, 0xFFFF⟩, -- PBk_TSET2_S
  ⟨0x2098, 0x100, 8, false, .pb, false, 0, 0, 0xFFFFFFFF, 0, 0, 0, 0, 0xFFFFFFFF⟩, -- PBk_TSET3_E
  ⟨0x209C, 0x100, 8, false, .pb, false, 0, 0, 0xFFFF, 0, 0, 0, 0, 0xFFFF⟩, -- PBk_TSET3_S
  ⟨0x20A0, 0x100, 8, false, .pb, false, 0, 0, 0xFFFFFFFF, 0, 0, 0, 0, 0xFFFFFFFF⟩, -- PBk_TSET4_E
  ⟨0x20A4, 0x100, 8, false, .pb, false, 0, 0, 0xFFFF, 0, 0, 0, 0, 0xFFFF⟩, -- PBk_TSET4_S
  ⟨0x20A8, 0x100, 8, false, .pb, false, 0, 0, 0xFFFFFFFF, 0, 0, 0, 0, 0xFFFFFFFF⟩, -- PBk_TSET5_E
  ⟨0x20AC, 0x100, 8, false, .pb, false, 0, 0, 0xFFFF, 0, 0, 0, 0, 0xFFFF⟩, -- PBk_TSET5_S
  ⟨0x20B0, 0x100, 8, false, .pb, false, 0, 0, 0xFFFFFFFF, 0, 0, 0, 0, 0xFFFFFFFF⟩, -- PBk_TSET6_E
  ⟨0x20B4, 0x100, 8, false, .pb, false, 0, 0, 0xFFFF, 0, 0, 0, 0, 0xFFFF⟩, -- PBk_TSET6_S
  ⟨0x20B8, 0x100, 8, false, .pb, false, 0, 0, 0xFFFFFFFF, 0, 0, 0, 0, 0xFFFFFFFF⟩, -- PBk_TSET7_E
  ⟨0x20BC, 0x100, 8, false, .pb, false, 0, 0, 0xFFFF, 0, 0, 0, 0, 0xFFFF⟩, -- PBk_TSET7_S
  ⟨0x20C0, 0x100, 8, false, .pb, false, 0, 0, 0xFFFFFFFF, 0, 0, 0, 0, 0xFFFFFFFF⟩, -- PBk_TSET8_E
  ⟨0x20C4, 0x100, 8, false, .pb, false, 0, 0, 0xFFFF, 0, 0, 0, 0, 0xFFFF⟩, -- PBk_TSET8_S
  ⟨0x20C8, 0x100, 8, false, .pb, false, 0, 0, 0xFFFFFFFF, 0, 0, 0, 0, 0xFFFFFFFF⟩, -- PBk_TSET9_E
  ⟨0x20CC, 0x100, 8, false, .pb, false, 0, 0, 0xFFFF, 0, 0, 0, 0, 0xFFFF⟩, -- PBk_TSET9_S
  ⟨0x20D0, 0x100, 8, false, .pb, false, 0, 0, 0xFFFFFFFF, 0, 0, 0, 0, 0xFFFFFFFF⟩, -- PBk_TSET10_E
  ⟨0x20D4, 0x100, 8, false, .pb, false, 0, 0, 0xFFFF, 0, 0, 0, 0, 0xFFFF⟩, -- PBk_TSET10_S
  ⟨0x20D8, 0x100, 8, false, .pb, false, 0, 0, 0xFFFFFFFF, 0, 0, 0, 0, 0xFFFFFFFF⟩, -- PBk_TSET11_E
  ⟨0x20DC, 0x100, 8, false, .pb, false, 0, 0, 0xFFFF, 0, 0, 0, 0, 0xFFFF⟩, -- PBk_TSET11_S
  ⟨0x20E0, 0x100, 8, false, .pb, false, 0, 0, 0xFFFFFFFF, 0, 0, 0, 0, 0xFFFFFFFF⟩, -- PBk_TSET12_E
  ⟨0x20E4, 0x100, 8, false, .pb, false, 0, 0, 0xFFFF, 0, 0, 0, 0, 0xFFFF⟩, -- PBk_TSET12_S
  ⟨0x20E8, 0x100, 8, false, .pb, false, 0, 0, 0xFFFFFFFF, 0, 0, 0, 0, 0xFFFFFFFF⟩, -- PBk_TSET13_E
  ⟨0x20EC, 0x100, 8, false, .pb, false, 0, 0, 0xFFFF, 0, 0, 0, 0, 0xFFFF⟩, -- PBk_TSET13_S
  ⟨0x20F0, 0x100, 8, false, .pb, false, 0, 0, 0xFFFFFFFF, 0, 0, 0, 0, 0xFFFFFFFF⟩, -- PBk_TSET14_E
  ⟨0x20F4, 0x100, 8, false, .pb, false, 0, 0, 0xFFFF, 0, 0, 0, 0, 0xFFFF⟩, -- PBk_TSET14_S
  ⟨0x20F8, 0x100, 8, false, .pb, false, 0, 0, 0xFFFFFFFF, 0, 0, 0, 0, 0xFFFFFFFF⟩, -- PBk_TSET15_E
  ⟨0x20FC, 0x100, 8, false, .pb, false, 0, 0, 0xFFFF, 0, 0, 0, 0, 0xFFFF⟩, -- PBk_TSET15_S
  ⟨0x2800, 0x4, 1, false, .trgBits, false, 0, 0xFF, 0, 0, 0, 0, 0x10000, 0x100FF⟩, -- TRG_ELEC
  ⟨0x2840, 0x40, 8, false, .trg, false, 0xF, 0, 0, 0, 0, 0, 0, 0xF⟩, -- TRGn_CTRL
  ⟨0x2844, 0x40, 8, false, .trg, false, 0, 0, 0, 0, 0xF, 0, 0, 0⟩, -- TRGn_CMD
  ⟨0x2848, 0x40, 8, false, .trg, false, 0, 0, 0, 0xFC, 0, 0, 0, 0⟩, -- TRGn_STATUS
  ⟨0x284C, 0x40, 8, false, .trg, false, 0xFFFFFFFF, 0, 0, 0, 0, 0, 0, 0xFFFFFFFF⟩, -- TRGn_DELAY
  ⟨0x2850, 0x40, 8, false, .trg, false, 0xFFFFFFFF, 0, 0, 0, 0, 0, 0, 0xFFFFFFFF⟩, -- TRGn_WIDTH_LO
  ⟨0x2854, 0x40, 8, false, .trg, false, 0x1F, 0, 0, 0, 0, 0, 0, 0x1F⟩, -- TRGn_WIDTH_HI
  ⟨0x2858, 0x40, 8, false, .trg, false, 0xFFFFFFFF, 0, 0, 0, 0, 0, 0, 0xFFFFFFFF⟩, -- TRGn_TGT_LO
  ⟨0x285C, 0x40, 8, false, .trg, false, 0xFFFFFFFF, 0, 0, 0, 0, 0, 0, 0xFFFFFFFF⟩, -- TRGn_TGT_HI
  ⟨0x2860, 0x40, 8, false, .trg, false, 0, 0, 0, 0, 0, 0, 0, 0⟩, -- TRGn_LATE
  ⟨0x2864, 0x40, 8, false, .trg, false, 0, 0, 0, 0, 0, 0, 0, 0⟩ -- TRGn_PULSES
  ]

/-- The registers from 0x2868 (TRGn_MISSED) on. -/
def regRows8 : List RegRow := [
  ⟨0x2868, 0x40, 8, false, .trg, false, 0, 0, 0, 0, 0, 0, 0, 0⟩, -- TRGn_MISSED
  ⟨0x2A40, 0x10, 16, false, .tin, false, 0x3FCD, 0, 0, 0, 0, 0, 0, 0x3FCD⟩, -- TINn_CFG
  ⟨0x2A44, 0x10, 16, false, .tin, false, 0, 0, 0, 0, 0, 0, 0, 0⟩, -- TINn_FIFO
  ⟨0x2A48, 0x10, 16, false, .tin, false, 0, 0, 0, 0, 0, 0, 0, 0⟩, -- TINn_STAMP_LO
  ⟨0x2A4C, 0x10, 16, false, .tin, false, 0, 0, 0, 0, 0, 0, 0, 0⟩, -- TINn_STAMP_HI
  ⟨0x2B40, 0x10, 4, false, .acmp, false, 0x3FF07FF, 0, 0, 0, 0, 0, 0, 0x3FF07FF⟩, -- ACMPn_CFG
  ⟨0x2B44, 0x10, 4, false, .acmp, false, 0, 0, 0, 0, 0, 0, 0, 0⟩, -- ACMPn_STATUS
  ⟨0x2B48, 0x10, 4, false, .acmp, false, 0, 0, 0, 0, 0, 0, 0, 0⟩, -- ACMPn_CNT
  ⟨0x2B80, 0x4, 1, false, .none, false, 0, 0, 0, 0, 0x11F, 0x11F, 0, 0⟩, -- MADC_CMD
  ⟨0x2B84, 0x4, 1, false, .none, true, 0, 0, 0, 0xB0000000, 0, 0, 0, 0⟩, -- MADC_RESULT
  ⟨0x2B88, 0x4, 1, false, .none, false, 0, 0, 0, 0, 0, 0, 0, 0⟩, -- TEMP
  ⟨0x2B8C, 0x4, 1, false, .none, false, 0, 0, 0, 0xFFFF, 0, 0, 0, 0⟩, -- TEMP_PEAK
  ⟨0x2B90, 0x4, 1, false, .tinBits, false, 0, 0, 0, 0, 0xFFFFFFFF, 0, 0, 0⟩, -- TIN_CMD
  ⟨0x2BA0, 0x4, 1, false, .none, false, 0x1FFF0007, 0, 0, 0, 0, 0x1FFF0007, 0, 0x1FFF0007⟩, -- KEY_CTRL
  ⟨0x2BA4, 0x4, 1, false, .keyBits, false, 0, 0, 0, 0x3F, 0, 0, 0, 0⟩, -- KEY_STUCK
  ⟨0x2BB0, 0x8, 6, false, .key, false, 0xFFFFFFFF, 0, 0, 0, 0, 0, 0, 0xFFFFFFFF⟩, -- KEYn_CFG
  ⟨0x2BB4, 0x8, 6, false, .key, false, 0, 0, 0, 0x1C, 0, 0, 0, 0⟩, -- KEYn_STATUS
  ⟨0x2C00, 0x4, 1, false, .disp, false, 0xF7F31371, 0, 0, 0, 0, 0, 0, 0xF7F31371⟩, -- DISP_CTRL
  ⟨0x2C04, 0x4, 1, false, .disp, false, 0, 0, 0, 0, 0x3F, 0, 0, 0⟩, -- DISP_CMD
  ⟨0x2C08, 0x4, 1, false, .disp, false, 0, 0, 0, 0xDE00, 0, 0, 0, 0⟩, -- DISP_STATUS
  ⟨0x2C0C, 0x4, 1, false, .disp, false, 0x1FFF1FFF, 0, 0, 0, 0, 0, 0, 0x1FFF1FFF⟩, -- DISP_HTIM
  ⟨0x2C10, 0x4, 1, false, .disp, false, 0x1FFF, 0, 0, 0, 0, 0, 0, 0x1FFF⟩, -- DISP_HSTART
  ⟨0x2C14, 0x4, 1, false, .disp, false, 0xFF1FFF, 0, 0, 0, 0, 0, 0, 0xFF1FFF⟩, -- DISP_VTIM
  ⟨0x2C18, 0x4, 1, false, .disp, false, 0xFFFFFFFF, 0, 0, 0, 0, 0, 0, 0xFFFFFFFF⟩, -- DISP_VBLANK
  ⟨0x2C1C, 0x4, 1, false, .disp, false, 0xFFFF, 0, 0, 0, 0, 0, 0, 0xFFFF⟩, -- DISP_APPLY
  ⟨0x2C20, 0x4, 1, false, .disp, false, 0, 0, 0x3FFFFFFF, 0, 0, 0, 0, 0x3FFFFFFF⟩, -- DISP_BG
  ⟨0x2C24, 0x4, 1, false, .disp, false, 0, 0, 0x3FFFFFFF, 0, 0, 0, 0, 0x3FFFFFFF⟩, -- DISP_BP1_FILL
  ⟨0x2C28, 0x4, 1, false, .disp, false, 0x1FFFFC0, 0, 0, 0, 0, 0, 0, 0x1FFFFC0⟩, -- DISP_FBT
  ⟨0x2C2C, 0x4, 1, false, .disp, false, 0xFF, 0, 0, 0, 0, 0, 0, 0xFF⟩, -- DISP_DESKEW
  ⟨0x2C30, 0x4, 1, false, .disp, false, 0, 0, 0, 0, 0x3, 0, 0, 0⟩, -- DISP_CSC_PRESET
  ⟨0x2C34, 0x4, 5, false, .disp, false, 0, 0, 0xFFFFFFFF, 0, 0, 0, 0, 0xFFFFFFFF⟩, -- DISP_CSC0–DISP_CSC4
  ⟨0x2C48, 0x4, 3, false, .disp, false, 0, 0, 0x7FF07FF, 0, 0, 0, 0, 0x7FF07FF⟩, -- DISP_CSC_OFS0–DISP_CSC_OFS2
  ⟨0x2C54, 0x4, 1, false, .disp, false, 0x3FF3F, 0, 0, 0, 0x80000000, 0, 0, 0⟩, -- DISP_PKT_CTRL
  ⟨0x2C80, 0x4, 16, false, .disp, false, 0xFFFFFFFF, 0, 0, 0, 0, 0, 0, 0⟩, -- DISP_PKT_DATA0–DISP_PKT_DATA15
  ⟨0x2D00, 0x10, 4, false, .disp, false, 0, 0, 0x1FFF1FFF, 0, 0, 0, 0, 0x1FFF1FFF⟩, -- DISP_RECTn_POS
  ⟨0x2D04, 0x10, 4, false, .disp, false, 0, 0, 0x1FFF1FFF, 0, 0, 0, 0, 0x1FFF1FFF⟩, -- DISP_RECTn_SIZE
  ⟨0x2D08, 0x10, 4, false, .disp, false, 0, 0, 0x7, 0, 0, 0, 0, 0x7⟩, -- DISP_RECTn_CFG
  ⟨0x2D0C, 0x10, 4, false, .disp, false, 0, 0, 0, 0, 0, 0, 0, 0⟩, -- DISP_RECTn_CRC
  ⟨0x2D40, 0x4, 1, false, .disp, false, 0, 0, 0, 0xF, 0, 0, 0, 0⟩, -- DISP_CRC_MIS
  ⟨0x2D44, 0x4, 1, false, .disp, false, 0, 0, 0, 0, 0, 0, 0, 0⟩ -- DISP_CRC_MIS_FRAME
  ]

/-- The registers from 0x2D48 (DISP_CRC_MIS_CNT) on. -/
def regRows9 : List RegRow := [
  ⟨0x2D48, 0x4, 1, false, .disp, false, 0, 0, 0, 0, 0, 0, 0, 0⟩, -- DISP_CRC_MIS_CNT
  ⟨0x2E00, 0x80, 2, false, .disp, false, 0, 0, 0, 0, 0x33F, 0, 0, 0⟩, -- DSIx_QPUSH
  ⟨0x2E04, 0x80, 2, false, .disp, false, 0xFFFFFFFF, 0, 0, 0, 0, 0, 0, 0⟩, -- DSIx_QTIME_LO
  ⟨0x2E08, 0x80, 2, false, .disp, false, 0xFFFFFFFF, 0, 0, 0, 0, 0, 0, 0⟩, -- DSIx_QTIME_HI
  ⟨0x2E0C, 0x80, 2, false, .disp, false, 0, 0, 0, 0, 0, 0, 0, 0⟩, -- DSIx_QSTAT
  ⟨0x2E10, 0x80, 2, false, .disp, false, 0x13F3F3F, 0, 0, 0, 0, 0, 0, 0x13F3F3F⟩, -- DSIx_EVFB
  ⟨0x2E14, 0x80, 2, false, .disp, false, 0, 0, 0, 0xF8, 0, 0, 0, 0⟩, -- DSIx_STATUS
  ⟨0x2E18, 0x80, 2, false, .disp, false, 0, 0, 0, 0, 0, 0, 0, 0⟩, -- DSIx_FRAME
  ⟨0x2E1C, 0x80, 2, false, .disp, false, 0, 0, 0, 0, 0, 0, 0, 0⟩, -- DSIx_FS_TIME_LO
  ⟨0x2E20, 0x80, 2, false, .disp, false, 0, 0, 0, 0, 0, 0, 0, 0⟩, -- DSIx_FS_TIME_HI
  ⟨0x2E24, 0x80, 2, false, .disp, false, 0, 0, 0, 0, 0, 0, 0, 0⟩, -- DSIx_REPEAT
  ⟨0x2E28, 0x80, 2, false, .disp, false, 0, 0, 0, 0, 0, 0, 0, 0⟩, -- DSIx_UR_LINES
  ⟨0x2E2C, 0x80, 2, false, .disp, false, 0, 0, 0, 0, 0, 0, 0, 0⟩, -- DSIx_LATE
  ⟨0x2E30, 0x80, 2, false, .disp, false, 0, 0, 0, 0, 0, 0, 0, 0⟩, -- DSIx_SLIP
  ⟨0x2E34, 0x80, 2, false, .disp, false, 0x3, 0, 0, 0, 0, 0, 0, 0x3⟩, -- DSIx_TE
  ⟨0x3000, 0x4, 1, true, .none, false, 0, 0, 0, 0, 0xC0000F0F, 0, 0, 0⟩, -- CAL_CMD
  ⟨0x3004, 0x4, 1, true, .none, false, 0, 0, 0, 0x1E, 0, 0, 0, 0⟩, -- CAL_STATUS
  ⟨0x3008, 0x4, 1, true, .none, false, 0, 0, 0, 0, 0, 0, 0, 0⟩, -- CAL_REJ_CNT
  ⟨0x300C, 0x4, 1, true, .none, false, 0, 0, 0, 0, 0, 0, 0, 0⟩, -- CAL_QUAL
  ⟨0x3010, 0x4, 1, false, .none, false, 0xF, 0, 0, 0, 0, 0xF, 0, 0xF⟩, -- AFF_CTRL
  ⟨0x3014, 0x4, 1, false, .none, false, 0, 0, 0, 0xF, 0, 0, 0, 0⟩, -- AFF_STATUS
  ⟨0x3020, 0x4, 7, false, .none, false, 0xFFFF, 0, 0, 0, 0, 0xFFFF, 0, 0xFFFF⟩, -- CAL_LIM0–CAL_LIM6
  ⟨0x3040, 0x4, 8, false, .aout, false, 0, 0, 0, 0, 0, 0, 0, 0⟩, -- AFF_DACn
  ⟨0x3060, 0x4, 2, false, .none, false, 0, 0, 0, 0, 0, 0, 0, 0⟩, -- AFF_TAPi
  ⟨0x3080, 0x4, 8, false, .pb, false, 0, 0, 0, 0, 0, 0, 0, 0⟩, -- CAL_PBk
  ⟨0x30A0, 0x4, 2, false, .disp, false, 0, 0, 0, 0, 0, 0, 0, 0⟩, -- CAL_DPHYl
  ⟨0x30A8, 0x4, 4, false, .none, false, 0, 0, 0, 0, 0, 0, 0, 0⟩, -- CAL_KLp
  ⟨0x30C0, 0x4, 1, false, .none, false, 0xFFFF0000, 0, 0, 0, 0, 0xFFFF0000, 0, 0⟩, -- CAL_TRIM_SEL
  ⟨0x30C4, 0x4, 1, false, .none, false, 0, 0, 0, 0, 0, 0, 0, 0⟩, -- CAL_TRIM_VAL
  ⟨0x3100, 0x4, 1, false, .none, false, 0, 0, 0, 0, 0xC0000007, 0xC0000007, 0, 0⟩, -- CALSET_CMD
  ⟨0x3104, 0x4, 1, false, .none, false, 0, 0, 0, 0, 0, 0, 0, 0⟩, -- CALSET_STATUS
  ⟨0x3110, 0x4, 8, false, .none, false, 0, 0, 0, 0, 0, 0, 0, 0⟩, -- CALSET_TEMPn
  ⟨0x3140, 0x4, 1, false, .none, false, 0x3FF0007, 0, 0, 0, 0, 0x3FF0007, 0, 0⟩, -- CALSET_RD
  ⟨0x3144, 0x4, 1, false, .none, false, 0, 0, 0, 0, 0, 0, 0, 0⟩, -- CALSET_WORD
  ⟨0x3180, 0x4, 1, false, .none, true, 0, 0, 0, 0, 0, 0, 0, 0⟩, -- CAL_HIST_PTR
  ⟨0x3184, 0x4, 1, false, .none, true, 0x3F, 0, 0, 0, 0, 0x3F, 0, 0⟩, -- CAL_HIST_IDX
  ⟨0x3190, 0x4, 4, false, .none, true, 0, 0, 0, 0, 0, 0, 0, 0⟩, -- CAL_HIST0–CAL_HIST3
  ⟨0x3400, 0x4, 1, false, .none, true, 0xFF0100FF, 0, 0, 0, 0, 0xFF0100FF, 0, 0xFF0100FF⟩, -- KL_CFG
  ⟨0x3404, 0x4, 1, false, .none, false, 0, 0, 0, 0, 0, 0, 0, 0⟩, -- KL_STATUS
  ⟨0x3408, 0x4, 1, false, .none, true, 0, 0, 0, 0, 0, 0, 0, 0⟩ -- KL_SERIAL_LO
  ]

/-- The registers from 0x340C (KL_SERIAL_HI) on. -/
def regRows10 : List RegRow := [
  ⟨0x340C, 0x4, 1, false, .none, true, 0, 0, 0, 0, 0, 0, 0, 0⟩, -- KL_SERIAL_HI
  ⟨0x3410, 0x4, 1, false, .none, true, 0, 0, 0, 0, 0, 0, 0, 0⟩, -- KL_ROOT_SERIAL_LO
  ⟨0x3414, 0x4, 1, false, .none, true, 0, 0, 0, 0, 0, 0, 0, 0⟩, -- KL_ROOT_SERIAL_HI
  ⟨0x3418, 0x4, 1, false, .none, true, 0, 0, 0, 0, 0, 0, 0, 0⟩, -- KL_ROOT_PRIO
  ⟨0x3420, 0x4, 1, false, .none, true, 0xFFFFFFFF, 0, 0, 0, 0, 0xFFFFFFFF, 0, 0xFFFFFFFF⟩, -- KL_EVT_BUDGET
  ⟨0x3428, 0x4, 1, false, .none, true, 0, 0, 0, 0, 0x830000FF, 0x830000FF, 0, 0⟩, -- KL_RST_CMD
  ⟨0x342C, 0x4, 1, false, .none, true, 0, 0, 0, 0, 0, 0, 0, 0⟩, -- KL_UNITS
  ⟨0x3440, 0x4, 8, false, .none, true, 0, 0, 0, 0, 0, 0, 0, 0⟩, -- KL_ROSTER0–KL_ROSTER7
  ⟨0x3460, 0x4, 1, false, .none, true, 0xFF, 0, 0, 0, 0, 0xFF, 0, 0⟩, -- KL_ROSTER_IDX
  ⟨0x3464, 0x4, 1, false, .none, true, 0, 0, 0, 0, 0, 0, 0, 0⟩, -- KL_ROSTER_INFO
  ⟨0x3468, 0x4, 1, false, .none, true, 0, 0, 0, 0, 0, 0, 0, 0⟩, -- KL_ROSTER_SERIAL_LO
  ⟨0x346C, 0x4, 1, false, .none, true, 0, 0, 0, 0, 0, 0, 0, 0⟩, -- KL_ROSTER_SERIAL_HI
  ⟨0x3500, 0x40, 4, false, .none, true, 0x1, 0, 0, 0, 0, 0x1, 0, 0x1⟩, -- KLp_CTRL
  ⟨0x3504, 0x40, 4, false, .none, true, 0, 0, 0, 0, 0, 0, 0, 0⟩, -- KLp_STATUS
  ⟨0x3508, 0x40, 4, false, .none, true, 0xFFFF, 0, 0, 0, 0, 0xFFFF, 0, 0xFFFF⟩, -- KLp_ASYM
  ⟨0x350C, 0x40, 4, false, .none, true, 0, 0, 0, 0, 0, 0, 0, 0⟩, -- KLp_DELAY
  ⟨0x3510, 0x40, 4, false, .none, true, 0, 0, 0, 0, 0, 0, 0, 0⟩, -- KLp_OFFSET
  ⟨0x3514, 0x40, 4, false, .none, true, 0, 0, 0, 0, 0, 0, 0, 0⟩, -- KLp_CRC_ERR
  ⟨0x3518, 0x40, 4, false, .none, true, 0, 0, 0, 0, 0, 0, 0, 0⟩, -- KLp_REPLAY
  ⟨0x351C, 0x40, 4, false, .none, true, 0, 0, 0, 0, 0, 0, 0, 0⟩, -- KLp_LOST
  ⟨0x3520, 0x40, 4, false, .none, true, 0, 0, 0, 0, 0, 0, 0, 0⟩, -- KLp_LOSS_CNT
  ⟨0x3600, 0x4, 1, true, .none, false, 0xFF9FFFFC, 0, 0, 0, 0, 0, 0, 0⟩, -- KL_RA_ADDR
  ⟨0x3604, 0x4, 1, true, .none, false, 0, 0, 0, 0, 0xFFFFFFFF, 0, 0, 0⟩, -- KL_RA_WDATA
  ⟨0x3608, 0x4, 1, true, .none, false, 0, 0, 0, 0, 0x1, 0, 0, 0⟩, -- KL_RA_CMD
  ⟨0x360C, 0x4, 1, true, .none, false, 0, 0, 0, 0x100, 0, 0, 0, 0⟩, -- KL_RA_STATUS
  ⟨0x3610, 0x4, 1, true, .none, false, 0, 0, 0, 0, 0, 0, 0, 0⟩, -- KL_RA_RDATA
  ⟨0x3614, 0x4, 1, true, .none, false, 0, 0, 0, 0, 0, 0, 0, 0⟩, -- KL_RA_LATE
  ⟨0x3618, 0x4, 1, true, .none, false, 0x80FF001F, 0, 0, 0, 0, 0, 0, 0x80FF001F⟩, -- KL_RA_IRQ
  ⟨0x3620, 0x4, 1, true, .none, false, 0, 0, 0, 0, 0, 0, 0, 0⟩, -- KL_IMP_DROP
  ⟨0x3624, 0x4, 1, true, .none, false, 0, 0, 0, 0, 0, 0, 0, 0⟩, -- KL_IMP_FOREIGN
  ⟨0x3628, 0x4, 1, true, .none, false, 0, 0, 0, 0, 0, 0, 0, 0⟩, -- KL_EXP_LOST
  ⟨0x3680, 0x4, 32, false, .evg2, false, 0x8000FFFF, 0, 0, 0, 0, 0, 0, 0x8000FFFF⟩, -- KL_EXPn_CFG
  ⟨0x3700, 0x8, 32, false, .evg2, false, 0xF0FF80FF, 0, 0, 0, 0, 0, 0, 0xF0FF80FF⟩, -- KL_IMPn_CFG
  ⟨0x3704, 0x8, 32, false, .evg2, false, 0, 0, 0, 0, 0, 0, 0, 0⟩, -- KL_IMPn_INFO
  ⟨0x3800, 0x4, 1, false, .none, false, 0, 0, 0, 0, 0, 0, 0, 0⟩, -- HOST_STATUS
  ⟨0x3804, 0x4, 1, false, .none, false, 0xF7, 0, 0, 0, 0, 0xF7, 0, 0xF7⟩, -- HOST_PCIE_CFG
  ⟨0x3808, 0x4, 1, false, .none, false, 0, 0, 0, 0, 0, 0, 0, 0⟩, -- HOST_LINK_CNT
  ⟨0x380C, 0x4, 1, false, .none, false, 0, 0, 0, 0, 0, 0, 0, 0⟩, -- HOST_PCIE_ID
  ⟨0x3810, 0x4, 1, false, .none, false, 0x3, 0, 0, 0, 0, 0x3, 0, 0x3⟩, -- SPI_CFG
  ⟨0x3814, 0x4, 1, false, .none, false, 0, 0, 0, 0x3, 0, 0, 0, 0⟩ -- SPI_STATUS
  ]

/-- The registers from 0x3820 (NVM_INFO) on. -/
def regRows11 : List RegRow := [
  ⟨0x3820, 0x4, 1, false, .none, false, 0, 0, 0, 0, 0, 0, 0, 0⟩, -- NVM_INFO
  ⟨0x3824, 0x4, 1, false, .none, false, 0xFFFFFFFF, 0, 0, 0, 0, 0xFFFFFFFF, 0, 0⟩, -- NVM_ERASE_ADDR
  ⟨0x3828, 0x4, 1, false, .none, false, 0, 0, 0, 0, 0x8000FFFF, 0x8000FFFF, 0, 0⟩, -- NVM_ERASE_CMD
  ⟨0x382C, 0x4, 1, false, .none, false, 0, 0, 0, 0x6, 0, 0, 0, 0⟩, -- NVM_STATUS
  ⟨0x3830, 0x4, 1, false, .none, false, 0, 0, 0, 0, 0, 0, 0, 0⟩, -- JTAG_IDCODE
  ⟨0x3C00, 0x4, 1, false, .none, true, 0, 0, 0, 0, 0, 0x10000, 0x10000, 0x10000⟩, -- PART_CTRL
  ⟨0x3C04, 0x4, 1, false, .none, true, 0, 0, 0, 0, 0x3, 0x3, 0, 0⟩, -- PART_CMD
  ⟨0x3C08, 0x4, 1, false, .none, true, 0, 0, 0, 0x70, 0, 0, 0, 0⟩, -- PART_STATUS
  ⟨0x3C10, 0x4, 1, false, .none, true, 0, 0xFFFFFFFF, 0, 0, 0, 0xFFFFFFFF, 0, 0xFFFFFFFF⟩, -- VI_BIND0
  ⟨0x3C14, 0x4, 1, false, .none, true, 0, 0xFFFFFFFF, 0, 0, 0, 0xFFFFFFFF, 0, 0xFFFFFFFF⟩, -- VI_BIND1
  ⟨0x3C18, 0x4, 1, false, .none, true, 0, 0, 0, 0, 0xFFFFFFFF, 0xFFFFFFFF, 0, 0⟩, -- VI_RESET_REQ
  ⟨0x3C40, 0x4, 4, false, .none, true, 0, 0xFFFFFFFF, 0xFFFFFFFF, 0, 0, 0xFFFFFFFF, 0, 0xFFFFFFFF⟩, -- PART_SEQ0–PART_SEQ3
  ⟨0x3C50, 0x4, 1, false, .none, true, 0, 0xFFFFFFFF, 0xFFFFFFFF, 0, 0, 0xFFFFFFFF, 0, 0xFFFFFFFF⟩, -- PART_AOUT0
  ⟨0x3C54, 0x4, 1, false, .none, true, 0, 0xFFFFFFFF, 0xFFFFFFFF, 0, 0, 0xFFFFFFFF, 0, 0xFFFFFFFF⟩, -- PART_AOUT1
  ⟨0x3C58, 0x4, 1, false, .none, true, 0, 0xFFFFFFFF, 0xFFFFFFFF, 0, 0, 0xFFFFFFFF, 0, 0xFFFFFFFF⟩, -- PART_PB0
  ⟨0x3C5C, 0x4, 1, false, .none, true, 0, 0xFFFFFFFF, 0xFFFFFFFF, 0, 0, 0xFFFFFFFF, 0, 0xFFFFFFFF⟩, -- PART_PB1
  ⟨0x3C60, 0x4, 1, false, .none, true, 0, 0xFFFFFFFF, 0xFFFFFFFF, 0, 0, 0xFFFFFFFF, 0, 0xFFFFFFFF⟩, -- PART_TRG0
  ⟨0x3C64, 0x4, 1, false, .none, true, 0, 0xFFFFFFFF, 0xFFFFFFFF, 0, 0, 0xFFFFFFFF, 0, 0xFFFFFFFF⟩, -- PART_TRG1
  ⟨0x3C68, 0x4, 4, false, .none, true, 0, 0xFFFFFFFF, 0xFFFFFFFF, 0, 0, 0xFFFFFFFF, 0, 0xFFFFFFFF⟩, -- PART_TIN0–PART_TIN3
  ⟨0x3C78, 0x4, 1, false, .none, true, 0, 0xFFFFFFFF, 0xFFFFFFFF, 0, 0, 0xFFFFFFFF, 0, 0xFFFFFFFF⟩, -- PART_ACMP
  ⟨0x3C7C, 0x4, 1, false, .none, true, 0, 0xFFFFFFFF, 0xFFFFFFFF, 0, 0, 0xFFFFFFFF, 0, 0xFFFFFFFF⟩, -- PART_KEY0
  ⟨0x3C80, 0x4, 1, false, .none, true, 0, 0xFFFFFFFF, 0xFFFFFFFF, 0, 0, 0xFFFFFFFF, 0, 0xFFFFFFFF⟩, -- PART_KEY1
  ⟨0x3C84, 0x4, 1, false, .none, true, 0, 0xFFFFFFFF, 0xFFFFFFFF, 0, 0, 0xFFFFFFFF, 0, 0xFFFFFFFF⟩, -- PART_LDE
  ⟨0x3C88, 0x4, 4, false, .none, true, 0, 0xFFFFFFFF, 0xFFFFFFFF, 0, 0, 0xFFFFFFFF, 0, 0xFFFFFFFF⟩, -- PART_EVC0–PART_EVC3
  ⟨0x3C98, 0x4, 1, false, .none, true, 0, 0xFFFFFFFF, 0xFFFFFFFF, 0, 0, 0xFFFFFFFF, 0, 0xFFFFFFFF⟩, -- PART_MISC
  ⟨0x3D00, 0x4, 32, false, .none, true, 0, 0xFFFFFFFF, 0xFFFFFFFF, 0, 0, 0xFFFFFFFF, 0, 0xFFFFFFFF⟩, -- PART_VAT0–PART_VAT31
  ⟨0x3E00, 0x4, 64, false, .none, true, 0, 0xFFFFFFFF, 0xFFFFFFFF, 0, 0, 0xFFFFFFFF, 0, 0xFFFFFFFF⟩ -- PART_MEM0–PART_MEM63
  ]

/-- Every register of the window, in ascending offset of instance 0. -/
def regTable : List RegRow :=
  regRows0 ++ regRows1 ++ regRows2 ++ regRows3 ++ regRows4 ++ regRows5 ++ regRows6 ++ regRows7 ++ regRows8 ++ regRows9 ++ regRows10 ++ regRows11

/-- The registers whose reset value is not 0: offset, distance, number of instances, value. Every other register resets
to 0, or is computed when it is read. -/
def regResets : List (Nat × Nat × Nat × Nat) := [
  (0x0100, 0x4, 1, 0x1),
  (0x011C, 0x4, 1, 0xA),
  (0x0290, 0x4, 1, 0xFFFFFFFF),
  (0x0400, 0x4, 1, 0x1),
  (0x0404, 0x4, 1, 0x10),
  (0x0410, 0x4, 1, 0x10A0028),
  (0x0414, 0x4, 1, 0x7),
  (0x042C, 0x4, 1, 0x400),
  (0x043C, 0x4, 1, 0x1),
  (0x0444, 0x4, 1, 0x64),
  (0x0480, 0x4, 1, 0x1),
  (0x04A0, 0x4, 1, 0x3),
  (0x04A4, 0x4, 1, 0xFFFF1616),
  (0x0504, 0x4, 1, 0x20),
  (0x0524, 0x4, 1, 0x10000),
  (0x0608, 0x10, 16, 0x10),
  (0x0714, 0x4, 1, 0x1),
  (0x1800, 0x4, 1, 0x1000000),
  (0x1814, 0x4, 1, 0x68180810),
  (0x1820, 0x4, 1, 0x5000),
  (0x1A00, 0x4, 1, 0x1),
  (0x1A04, 0x4, 1, 0x2),
  (0x1A08, 0x4, 1, 0x19000000),
  (0x1A0C, 0x4, 1, 0x802030A),
  (0x1A14, 0x4, 1, 0x1),
  (0x1A18, 0x4, 1, 0x5EED0001),
  (0x1A1C, 0x4, 1, 0x2),
  (0x1A48, 0x4, 1, 0x14000000),
  (0x1A4C, 0x4, 1, 0x802030A),
  (0x1A54, 0x4, 1, 0x1),
  (0x1A58, 0x4, 1, 0x5EED0002),
  (0x1A5C, 0x4, 1, 0x2),
  (0x1A88, 0x4, 1, 0x14000000),
  (0x1A8C, 0x4, 1, 0x802030A),
  (0x1A94, 0x4, 1, 0x1),
  (0x1A98, 0x4, 1, 0x5EED0003),
  (0x1A9C, 0x4, 1, 0x2),
  (0x1AC8, 0x4, 1, 0x14000000),
  (0x1ACC, 0x4, 1, 0x802030A),
  (0x1AD4, 0x4, 1, 0x1),
  (0x1AD8, 0x4, 1, 0x5EED0004),
  (0x1ADC, 0x4, 1, 0x2),
  (0x1B04, 0x4, 1, 0x2),
  (0x1B08, 0x4, 1, 0xC00),
  (0x1C08, 0x80, 8, 0x200),
  (0x1C1C, 0x80, 8, 0x7FFF),
  (0x1C2C, 0x80, 8, 0x6),
  (0x1C40, 0x80, 8, 0xFFFFFFFF),
  (0x200C, 0x100, 8, 0x10),
  (0x2010, 0x100, 8, 0x9A66),
  (0x2014, 0x100, 8, 0x8),
  (0x2080, 0x100, 8, 0x400000),
  (0x2084, 0x100, 8, 0x60),
  (0x2088, 0x100, 8, 0x400000),
  (0x208C, 0x100, 8, 0x60),
  (0x2090, 0x100, 8, 0x400000),
  (0x2094, 0x100, 8, 0x60),
  (0x2098, 0x100, 8, 0x400000),
  (0x209C, 0x100, 8, 0x60),
  (0x20A0, 0x100, 8, 0x400000),
  (0x20A4, 0x100, 8, 0x60),
  (0x20A8, 0x100, 8, 0x400000),
  (0x20AC, 0x100, 8, 0x60),
  (0x20B0, 0x100, 8, 0x400000),
  (0x20B4, 0x100, 8, 0x60),
  (0x20B8, 0x100, 8, 0x400000),
  (0x20BC, 0x100, 8, 0x60),
  (0x20C0, 0x100, 8, 0x400000),
  (0x20C4, 0x100, 8, 0x60),
  (0x20C8, 0x100, 8, 0x400000),
  (0x20CC, 0x100, 8, 0x60),
  (0x20D0, 0x100, 8, 0x400000),
  (0x20D4, 0x100, 8, 0x60),
  (0x20D8, 0x100, 8, 0x400000),
  (0x20DC, 0x100, 8, 0x60),
  (0x20E0, 0x100, 8, 0x400000),
  (0x20E4, 0x100, 8, 0x60),
  (0x20E8, 0x100, 8, 0x400000),
  (0x20EC, 0x100, 8, 0x60),
  (0x20F0, 0x100, 8, 0x400000),
  (0x20F4, 0x100, 8, 0x60),
  (0x20F8, 0x100, 8, 0x400000),
  (0x20FC, 0x100, 8, 0x60),
  (0x2850, 0x40, 8, 0x40),
  (0x2B40, 0x10, 4, 0x400),
  (0x2BA0, 0x4, 1, 0x3C0003),
  (0x2BB0, 0x8, 6, 0xC800C8),
  (0x2C00, 0x4, 1, 0x300),
  (0x2C0C, 0x4, 1, 0x2D00280),
  (0x2C10, 0x4, 1, 0x28),
  (0x2C14, 0x4, 1, 0x40190),
  (0x2C18, 0x4, 1, 0xC80008),
  (0x2C34, 0x4, 1, 0x1000),
  (0x2C38, 0x4, 1, 0x10000000),
  (0x2C40, 0x4, 1, 0x1000),
  (0x3010, 0x4, 1, 0xF),
  (0x3020, 0x4, 1, 0x20),
  (0x3024, 0x4, 1, 0x294),
  (0x3028, 0x4, 1, 0x96),
  (0x302C, 0x4, 1, 0x14),
  (0x3030, 0x4, 1, 0x9A),
  (0x3034, 0x4, 1, 0x80),
  (0x3038, 0x4, 1, 0x8),
  (0x3400, 0x4, 1, 0x10000),
  (0x3404, 0x4, 1, 0x8),
  (0x3420, 0x4, 1, 0x19000),
  (0x3804, 0x4, 1, 0x43),
  (0x380C, 0x4, 1, 0xD9601F9A),
  (0x3830, 0x4, 1, 0x1D960A27),
  (0x3D18, 0x4, 1, 0x80) ]

/-- Where the reset value of an offset stands in the list of them. -/
def resetIn : List (Nat × Nat × Nat × Nat) → Nat → Nat
  | [], _ => 0
  | (b, st, n, v) :: t, o => if b ≤ o ∧ (o - b) % st = 0 ∧ (o - b) / st < n then v else resetIn t o

/-- The key of a device register, and of VI `v`'s own copy of a register. -/
abbrev devKey (off : Nat) : Nat := off
abbrev viKey (v off : Nat) : Nat := (v + 1) * 0x4000 + off

/-- The reset value of the register at a key (each chapter's register tables). -/
def regReset (k : Nat) : Word := BitVec.ofNat 32 (resetIn regResets (k % 0x4000))

/-- The row, and the instance within it, that the normal offset `o` falls on. -/
def findRow : List RegRow → Nat → Option (RegRow × Nat)
  | [], _ => none
  | r :: t, o => if r.off ≤ o ∧ (o - r.off) % r.stride = 0 ∧ (o - r.off) / r.stride < r.cnt
      then some (r, (o - r.off) / r.stride) else findRow t o

end Sys2Proof.Machine
end

