-- ==== Sys2Proof/Machine/Tab.lean ====
section
/-! DEFINITION. `Tab`: the one representation of sparse data keyed by a number (registers, memories, per-unit state).
A table lists (key, value) pairs in canonical form: keys strictly rising, and no entry equal to what an unlisted key
reads as, so equal contents are equal data. What an unlisted key reads as is the default `d`, given at each use. -/

namespace Sys2Proof.Machine

/-- Sparse data by key, in canonical form (`Tab.wf`). -/
abbrev Tab (α : Type) := List (Nat × α)

/-- The listed entry at key `k`, if there is one. -/
def Tab.find {α : Type} : Tab α → Nat → Option α
  | [], _ => none
  | (k', v) :: t, k => if k' = k then some v else Tab.find t k

/-- The value at key `k`; an unlisted key reads as `d k`. -/
def Tab.get {α : Type} (d : Nat → α) (t : Tab α) (k : Nat) : α := (Tab.find t k).getD (d k)

/-- The table without any entry at key `k`. -/
def Tab.erase {α : Type} : Tab α → Nat → Tab α
  | [], _ => []
  | (k', v) :: t, k => if k' = k then Tab.erase t k else (k', v) :: Tab.erase t k

/-- Put the entry (k, v) before the first larger key. -/
def Tab.insert {α : Type} : Tab α → Nat → α → Tab α
  | [], k, v => [(k, v)]
  | (k', v') :: t, k, v => if k < k' then (k, v) :: (k', v') :: t else (k', v') :: Tab.insert t k v

/-- Write `v` at key `k`, keeping the canonical form. -/
def Tab.set {α : Type} [DecidableEq α] (d : Nat → α) (t : Tab α) (k : Nat) (v : α) : Tab α :=
  if v = d k then Tab.erase t k else Tab.insert (Tab.erase t k) k v

/-- Every key of the table is at least `lo`, and the keys rise strictly. -/
def Tab.risingFrom {α : Type} : Nat → Tab α → Bool
  | _, [] => true
  | lo, (k, _) :: t => decide (lo ≤ k) && Tab.risingFrom (k + 1) t

/-- The canonical form: keys strictly rising, no entry equal to its default. -/
def Tab.wf {α : Type} [DecidableEq α] (d : Nat → α) (t : Tab α) : Bool :=
  Tab.risingFrom 0 t && t.all fun e => decide (e.2 ≠ d e.1)

/-- Keep only the entries whose key satisfies `p` (the others return to their default). -/
def Tab.keep {α : Type} (p : Nat → Bool) (t : Tab α) : Tab α := t.filter fun e => p e.1

end Sys2Proof.Machine
end

