-- ==== Sys2Proof/Machine/State.lean ====
section
/-! DEFINITION. The state of the block, as plain data: every register, store, queue and counter the spec gives it, the
queue of waiting commands, and the record of what it has answered. Registers stand in `regs` (and, while staged, in
`shadows`); what the register tables do not show stands in one structure per chapter. -/

namespace Sys2Proof.Machine

/-- No command of this block faults: where the spec describes a failure it is an effect on the state. The type has no
member, so the fault outcome never occurs. -/
inductive Fault where
  deriving DecidableEq, Repr

/-- Why a command has no next state. -/
inductive Refusal where
  /-- Raised by a dispatch arm whose command has no meaning yet (none is left). Safe. -/
  | notModelled (mnemonic : String)
  deriving DecidableEq, Repr

/-- The mode in force (the six modes, R101 and after). -/
inductive Mode where
  | shelf | listen | primed | run | service | safe
  deriving DecidableEq, Repr

/-- The transition in progress (R117): a descent to LISTEN (on to SHELF), LISTEN to SHELF, the exit from SHELF, a wake,
the way into SERVICE and the way out of it. -/
inductive Trans where
  | none | descent (shelf : Bool) | toShelf | shelfExit | waking | toService | leaveService
  deriving DecidableEq, Repr

/-- Time of record (01): elapsed time, the keeper and the fast counter. `mono` is the model's own count of elapsed TU,
which no step of the time of record changes; `rounds` counts how often the clock has found rows due in the cycle (log entry 2).
`setNext` is the value that TIME_CMD.SET loads in the next FCLK cycle (R25); `shift` the elapsed TU by which a slew lengthens the
cycle in progress, and `acc` what the rate of SYN-A leaves over from the cycles before, in parts of a TU (R11, R23, R174);
`rate` the correction that a slaved unit last had in force, in TU per 1 ms (R24). -/
structure TimeSt where
  mono : Nat := 0
  nextKeep : Nat := 781250
  fclk : Bool := false
  fast : Time := 0
  keep : Time := 0
  frac : BitVec 6 := 0
  handoff : Bool := false
  setAtEdge : Option Time := none
  setNext : Option Time := none
  slew : Int := 0
  shift : Int := 0
  acc : Nat := 0
  rate : Int := 0
  keepEdges : Nat := 0
  rounds : Nat := 0
  xoPending : Bool := false
  deriving DecidableEq, Repr

/-- A scheduled action under the late rule (R40 to R44). `defer`: its arming moment has not come; `late`: judged late;
`earliest`: the elapsed time at which a late action can act; `primed` and `raised`: its wake point, or its raise to RUN,
has been reached; `prov`: the target counts on the fast grid before the handoff (R20). -/
structure Act where
  armed : Bool := false
  target : Time := 0
  drop : Bool := false
  defer : Bool := false
  late : Bool := false
  earliest : Nat := 0
  primed : Bool := false
  raised : Bool := false
  prov : Bool := false
  data : Nat := 0
  deriving DecidableEq, Repr

/-- One entry of the event log on its way through the merge stage (R65, R67). -/
structure LogEnt where
  stamp : Time
  seq : Word
  order : Nat
  byte12 : Byte
  ch : Nat
  unit : Byte
  flags : Nat
  due : Nat
  behind : Bool
  prov : Bool
  deriving DecidableEq, Repr

/-- Rennet (02): assertions in the resynchronisers with their age in cycles, the levels of producers 0 to 63 and of the
gates in this and the last three cycles, the merge stage, the monitored channels whose interrupts pend in the next cycle (R433), the
elapsed times of the next log and ring writes (R69, R71), the events held for producers and consumers, and the channels
whose active (`deadA`) or staged (`deadS`) gate entry is a constant 0 level (R53). `stage` holds the events that pass the channel
stage in this cycle, by channel, with the sequence number of their log entry, and `staged` those of the cycle before, which pass the
consumer stage in this one (R57). `next` holds
what a commit of this cycle puts in force at its end, as mask and value by register (`nextDead` the same for the dead entries), and
`dropped` the bits a discard of this cycle has kept (R62, R63). `quiet` says until when a channel that a VI reset has emptied discards
what was in flight (R73). -/
structure FabSt where
  inflight : List (Nat × Src) := []
  lv0 : BitVec 64 := 0
  lv1 : BitVec 64 := 0
  lv2 : BitVec 64 := 0
  lv3 : BitVec 64 := 0
  g1 : BitVec 128 := 0
  g2 : BitVec 128 := 0
  g3 : BitVec 128 := 0
  merge : List LogEnt := []
  heldP : List (HeldSrc × Time) := []
  heldC : Tab Src := []
  deadA : BitVec 64 := 0
  deadS : BitVec 64 := 0
  irqs : List (Nat × Nat) := []
  stage : List (Nat × Src × Option Word) := []
  staged : List (Nat × Src × Option Word) := []
  next : Tab (Word × Word) := []
  nextDead : BitVec 64 × BitVec 64 := (0, 0)
  dropped : Tab Word := []
  quiet : Tab Nat := []
  logAt : Nat := 0
  spillAt : Nat := 0
  deriving DecidableEq, Repr

/-- One Rind region (03): 0 to 31 the VI regions, 32 the physical one. `wait`: a commit is in progress; `failed`: a mismatch disarmed
it and it has not been committed again (R98, R99); `restarts` counts the restarts of its commit walk (R508). -/
structure RindSt where
  hasRef : Bool := false
  armed : Bool := false
  opened : Bool := false
  wait : Bool := false
  failed : Bool := false
  restarts : Nat := 0
  ref : Word := 0
  crc : Word := 0
  deriving DecidableEq, Repr

/-- The Rind walker (R93, R97): whether it walks, whether out of turn for a commit, whether it has taken the last register of its region;
the region whose turn it is and the one it walks, the word offset from which it looks for the next register, the elapsed time at which
it takes one, and the CRC register. -/
structure WalkSt where
  on : Bool := false
  out : Bool := false
  done : Bool := false
  turn : Nat := 32
  cur : Nat := 32
  pos : Nat := 0
  next : Nat := 0
  acc : Word := 0xFFFFFFFF
  deriving DecidableEq, Repr

/-- Operating modes and power domains (04). A domain's code is that of DOM_STATE; `unwanted` is the elapsed time at
which a domain that stopped being wanted starts gating, plus one (0: wanted). `svc`: SERVICE has been accepted while the device
was on its way to sleep or back (R118); `supplyBad`: a monitored supply is out of its window (R120). -/
structure ModeSt where
  eff : Mode := .shelf
  trans : Trans := .none
  holdUntil : Nat := 0
  safeN : Bool := false
  runAt : Nat := 0
  doms : Tab Nat := []
  unwanted : Tab Nat := []
  heldAcc : List HostAcc := []
  latched : Nat := 0
  wakeAfter : List WakeSrc := []
  svc : Bool := false
  supplyBad : Bool := false
  deriving DecidableEq, Repr

/-- A reset that has asserted, at elapsed time `at_`, and takes effect at `due` (R136, R137); `restart`: it asserted during
Starter (R152). -/
structure ResetReq where
  src : Nat
  level : Nat
  time : Time
  promoted : Bool
  at_ : Nat
  due : Nat
  restart : Bool
  deriving DecidableEq, Repr

/-- One record of an image (R158), with its index and its byte offset in the slot. -/
structure Rec where
  idx : Nat
  ofs : Nat
  typ : Nat
  flags : Nat
  pay : List Byte
  deriving DecidableEq, Repr

/-- Resets and the Starter (05): what holds a reset in P0; the last watchdog expiry; the core reset under way with the commands
that wait for it. `bare`: TRIES would have reached 8 (R153); `slot` is 0 A, 1 B, 3 none, at NVM offset `base`; `skip` the records a
COND still skips; `segCur` the SEG_LOAD that copies, `segWait` those that wait; `ended`: END was reached; `ready`: step 8 of R146 is
over; `segs` the SEG_LOAD records of the start-up, for the replay of R165; `maxClk` the fastest clock SFDP allows. -/
structure RstSt where
  phase : Nat := 0
  req : Option ResetReq := none
  holdLow : Bool := false
  holdHot : Bool := false
  holdVin : Bool := false
  lastWdt : Option Nat := none
  coreBusy : Bool := false
  coreWait : List Instr := []
  warmKept : Bool := false
  bare : Bool := false
  slot : Nat := 3
  base : Nat := 0
  failedA : Bool := false
  failedB : Bool := false
  ecc : Bool := false
  recs : List Rec := []
  idx : Nat := 0
  skip : Nat := 0
  segCur : Option Rec := none
  segWait : List Rec := []
  waiting : Option Rec := none
  waitEnd : Nat := 0
  ended : Bool := false
  lockWait : Bool := false
  ready : Bool := false
  startMode : Nat := 1
  startMono : Nat := 0
  maxClk : Nat := 0
  segs : List Rec := []
  deriving DecidableEq, Repr

/-- A timeline of edges or boundaries: number `j`, from `base` on, falls at elapsed time `anchor + frac / 2^40 + (j - base) * num / den`
TU. -/
structure Line where
  base : Nat := 0
  anchor : Nat := 0
  frac : Nat := 0
  num : Nat := 32
  den : Nat := 1
  deriving DecidableEq, Repr

/-- One synthesizer (06): the loop, the glide (`eff` the effective offset in ppb at elapsed time `glideAt`), the start of
the mute, the rising edges of its output (`out`),
and the divider to restore (R186). `lost`: no injection edge has arrived since REF_LOSS; `lfsr` the seed the dither began with, at
elapsed time `lfsrAt` (R173); `ranged`: RANGE has ended the acquisition until the next apply (R177). -/
structure SynSt where
  running : Bool := false
  acquiring : Bool := false
  windows : Nat := 0
  eff : Int := 0
  glideAt : Nat := 0
  muteAt : Nat := 0
  lfsr : Word := 0
  lfsrAt : Nat := 0
  ranged : Bool := false
  retained : Bool := false
  applyAt : Nat := 0
  out : Line := {}
  relock : Bool := false
  oldRef : Word := 0
  oldDiv : Word := 0
  restoring : Bool := false
  lost : Bool := false
  deriving DecidableEq, Repr

/-- A load engine's copy in progress (R216, R217): `done` bytes are written, and the block in flight ends at elapsed time `next`; `stop`:
it ends after that block. `stopAt` is the elapsed time of the last STOP. `nvmQ` lists the operations of the NVM that began before and have
not ended (R460): 0 to 3 the engines, 4 an erase. -/
structure LdeSt where
  busy : Bool := false
  stop : Bool := false
  stopAt : Option Nat := none
  done : Nat := 0
  next : Nat := 0
  suspended : Bool := false
  ctrl : Word := 0
  src : BitVec 64 := 0
  dst : BitVec 64 := 0
  len : Nat := 0
  nvmQ : List Nat := []
  deriving DecidableEq, Repr

/-- What an admission scan was started for (R210 to R213). -/
inductive ScanFor where
  | idle | precheck | start | entering | arm | late
  deriving DecidableEq, Repr

/-- A range of the NVM, from `lo` up to but not including `hi`, that an erase has left erased (`n` = 0) or whose contents an
aborted or failed one has left open, the `n`-th free value (R461, R462). -/
structure NvmRange where
  lo : Nat
  hi : Nat
  n : Nat
  deriving DecidableEq, Repr

/-- A BAR2 request that waits for an admission scan (R508): byte offset and length, and the bytes of a write. -/
structure Aper where
  vi : Fin 32
  ofs : Nat
  len : Nat
  bytes : List Byte
  write : Bool
  ecc : Ecc
  deriving DecidableEq, Repr

/-- The stores and their bookkeeping (07). `vat` and `mem` list the bytes that differ from 0, `nvm` (the
attached flash) those that differ from what `nvmRanges`, newest first, says of their range, 0xFF outside them; while `lost` is not 0
the Vat and the memory list the bytes written since their contents were lost, the `lost`-th free value (R101); `dir` the directory entries
that are not UNCHECKED (1 VALID, 2 + 16 × reason REJECTED); `notLoaded` the Vat granules not LOADED; `errs` the words with a bit error
(R193), by `errKey`: 1 single-bit, 2 uncorrectable; `scrubAt` the elapsed time at which the next scrub of the Vat ends; `rescans` how often
writes have restarted a sequencer's scan, `heldAper` the BAR2 requests that wait for one (R508). -/
structure MemSt where
  vat : Tab Byte := []
  mem : Tab Byte := []
  nvm : Tab Byte := []
  nvmRanges : List NvmRange := []
  dir : Tab Nat := []
  notLoaded : BitVec 128 := 0
  lost : Nat := 0
  errs : Tab Nat := []
  scrubAt : Nat := 51200000000
  lde : Tab LdeSt := []
  scan : Tab ScanFor := []
  rescans : Tab Nat := []
  heldAper : List Aper := []
  dirVal : Tab (Option (Nat × Nat)) := []
  training : Bool := false
  deriving DecidableEq, Repr

/-- A parameter list that runs in the background (R243, R246): its elements (frequency word, amplitude), loop points, dwell
and ramp in output periods, the element in force and the periods it has left. `both`: an FA list that sets both. -/
structure ListSt where
  elems : List (Nat × Nat) := []
  loopS : Nat := 0
  loopE : Nat := 0
  dwell : Nat := 1
  ramp : Nat := 0
  both : Bool := false
  idx : Nat := 0
  left : Nat := 1
  deriving DecidableEq, Repr

/-- What a committed step does at its boundary (R266). Channels and banks are physical. -/
inductive Eff where
  | marker (mask value : Nat) (pulse : Bool) (width : Nat)
  | freq (ch mode ftw : Nat) (lst : Option ListSt)
  | phase (ch : Nat) (add : Bool) (v : Nat)
  | ampl (ch a ramp : Nat) (lst : Option ListSt)
  | timing (banks : List Nat) (tset : Nat)
  | flip (link fb : Nat) (full timed pol : Bool) (time : Time)
  | post (q dvi : Nat) (payload : Nat)
  | fire (ch : Nat)
  deriving DecidableEq, Repr

/-- The output or holding step a sequencer is in, or will begin at a boundary. `head`, `section` and `tail` are in output
periods, `passes` the loop passes ended. `halting` ends the programme with a HALT_WHY. -/
inductive Cur where
  | idle
  | play (pat : Bool) (dest desc periods : Nat) (unbounded : Bool)
  | loop (pat : Bool) (dest desc loops : Nat) (exit : Option Nat) (head sect tail passes : Nat)
  | hold (periods : Nat)
  | waitEvent (inp els tmo : Nat)
  | waitTime (els : Nat)
  | sync (ident group els tmo : Nat)
  | flipStall (link fb : Nat) (timed pol : Bool) (time : Time)
  | stall
  | halting (why : Nat)
  deriving DecidableEq, Repr

/-- What a run of more than 64 executions found in its commit cycle and still reads (R265, R267): the event flags, and by physical number
the FAIL flags, fail counts and comparator outputs, the mailboxes that hold a message, and the channel counts. -/
structure Snap where
  ef : BitVec 4
  fail : BitVec 8
  failCnt : List Word
  acmp : BitVec 4
  mbq : BitVec 4
  evc : List Word
  deriving DecidableEq, Repr

/-- A head in the prefetch buffer (R274): directory entry, first element, bytes. -/
structure Head where
  desc : Nat
  elem : Nat
  bytes : Nat
  deriving DecidableEq, Repr

/-- A sequencer's own state beside its registers (08, 09). Its output boundaries are those of `tl`. `plan` is the latest committed
output or holding step, which begins at boundary `planAt`;
`target` the boundary whose run commits next, once it is known, or `aim` the elapsed time from which it is to be found once the clock
runs again; `lastC` the last commit cycle; `runAt` the cycle in which its run began and `snap` what it found there; `queue` the committed
boundaries not yet reached, each with its step index and the effects of its run; `cur` the step in progress, begun at boundary `began`,
`took` the bytes of it that the prefetch buffer gave;
`done` the boundary up to which outputs are computed. `halt` is a decided halt boundary with its HALT_WHY, `stopT` the elapsed time from
which a STOP or a step fault halts at an output boundary, `stopStep` the
HALT_WHY of a stop at a step boundary, `ecc` the boundary at which data with an uncorrectable error is due, with its step (R193).
`heads` holds the prefetch buffer. `memB0` is the earliest
elapsed time of the first boundary if the first output segment proves to lie in memory (R260). `asked` is the cycle in which a start
was accepted (R213); `loose`: the guarantee of R214 does not cover the sequencer (R209, R215). -/
structure SeqSt where
  pc : Nat := 0
  stack : List Nat := []
  eff : List Eff := []
  runLen : Nat := 0
  runAt : Nat := 0
  snap : Option Snap := none
  tl : Line := {}
  plan : Cur := .idle
  planAt : Nat := 0
  target : Option Nat := none
  aim : Option Nat := none
  lastC : Nat := 0
  queue : List (Nat × Nat × List Eff × Cur) := []
  cur : Cur := .idle
  began : Nat := 0
  took : Nat := 0
  done : Nat := 0
  halt : Option (Nat × Nat) := none
  stopT : Option (Nat × Nat) := none
  stopStep : Nat := 0
  ecc : Option (Nat × Nat) := none
  pulses : List (Nat × Nat × Bool) := []
  heads : List Head := []
  periods : BitVec 48 := 0
  whey : BitVec 48 := 0
  arrived : Option Nat := none
  underrun : Option Nat := none
  pausedAt : Nat := 0
  demand : Nat := 0
  started : Bool := false
  memB0 : Option Nat := none
  asked : Nat := 0
  loose : Bool := false
  deriving DecidableEq, Repr

/-- An amplitude ramp (R299): from, to, length and the output periods passed. -/
structure RampSt where
  a0 : Int
  a1 : Int
  len : Nat
  k : Nat
  deriving DecidableEq, Repr

/-- An analog channel (10): the working values, the NCO, the lists and the ramp, the phase reference of R297 (TIME in elapsed
TU, F), and the two table RAMs: `loading` names the
descriptor being loaded and the elapsed time of the boundary of a PLAY that waits for it.  The park an event or a command
has asked for and when (R303); the last element, what the interpolator remembers and the place within the element (R290); `upTo` the
elapsed time up to which the samples of an idle channel have been made (R285). -/
structure AoutSt where
  freq : BitVec 48 := 0
  phase : BitVec 16 := 0
  ampl : BitVec 16 := 0x7FFF
  offs : BitVec 16 := 0
  nco : BitVec 48 := 0
  fList : Option ListSt := none
  aList : Option ListSt := none
  ramp : Option RampSt := none
  phaseRef : Option (Int × Nat) := none
  evParked : Bool := false
  parkReq : Option (Nat × Bool) := none
  ramA : List Byte := []
  ramB : List Byte := []
  loading : Option (Nat × Option Nat) := none
  elem : Int := 0
  filt : Nat := 0
  fphase : Nat := 0
  upTo : Nat := 0
  lastCode : BitVec 16 := 0
  deriving DecidableEq, Repr

/-- A fail log or capture entry waiting in its buffer (R325, R329); `prov` marks a stamp taken on the fast grid before the handoff
(R20). -/
structure RingEnt where
  stamp : Time
  vec : Word
  a : BitVec 16
  b : BitVec 16
  bank : Nat
  flags : Nat
  due : Nat
  prov : Bool
  deriving DecidableEq, Repr

/-- A pattern bank (11): drive states (0 off, 1 low, 2 high) and last levels of its pins, the timing set in force, the
free-run (directory entry, vector boundaries, elements played), the elapsed time at which the last vector began and the edges of its pins
(pin, place on SYN-C's taps in 2^-40 TU, drive state from there on; R316), first fail, fail log and capture buffers. -/
structure PbSt where
  drive : List Nat := []
  last : BitVec 16 := 0
  tset : Nat := 0
  tsetOk : Bool := false
  firstArmed : Bool := true
  desc : Nat := 0
  tl : Line := {}
  done : Nat := 0
  stopAt : Option Nat := none
  vecAt : Nat := 0
  edges : List (Nat × Nat × Nat) := []
  played : Bool := false
  buf : List RingEnt := []
  loss : Bool := false
  cap0 : List RingEnt := []
  cap1 : List RingEnt := []
  capLoss0 : Bool := false
  capLoss1 : Bool := false
  deriving DecidableEq, Repr

/-- A trigger output (11): in elapsed TU, the end of the busy time, the leading edges to come, and the trailing edge of the
pulse in progress; the taps of SYN-C on which the last leading edge stands and the trailing edge after it stands or will, in 2^-40 TU
(R188, R334); `missed` a timed pulse whose target passed in a mute (R338). -/
structure TrgSt where
  busyTo : Nat := 0
  leads : List (Nat × Nat) := []
  trail : Nat := 0
  leadTap : Nat := 0
  trailTap : Nat := 0
  locked : Bool := false
  missed : Bool := false
  deriving DecidableEq, Repr

/-- An entry of a frame queue (R376): the frame-buffer set and, for a timed entry, the number of its scheduled action. -/
structure QEnt where
  fb : Nat
  slot : Option Nat
  deriving DecidableEq, Repr

/-- A rectangle latched for the frame in progress (R381, R383): its link, place, size and CHK, the running CRC register and
the lines of it already taken in. -/
structure RectRun where
  n : Nat
  link : Nat
  x : Nat
  y : Nat
  w : Nat
  h : Nat
  chk : Bool
  crc : Nat
  done : Nat
  deriving DecidableEq, Repr

/-- One link of the scan-out (13): its queue, the boundary its frame started at (`notional`: no frame has started), the
pending FRAME_GO with the elapsed time at which its consumer acted, the buffer in force with its descriptor and validity,
whether the frame is background only, the lines sent in full, the underrun of the line in progress (from which column), whether
the frame had one, the frames since the last skew calibration and the calibrations sent, whether the frame's blanking has begun, and a
stop asked for (`true`: at the
next line boundary). -/
structure LinkSt where
  q : List QEnt := []
  running : Bool := false
  line0 : Nat := 0
  notional : Bool := true
  go : Option Nat := none
  buf : Option Nat := none
  desc : List Byte := []
  bufOk : Bool := false
  bg : Bool := false
  sent : Bool := true
  ur : Option Nat := none
  urFrame : Bool := false
  frames : Nat := 0
  skews : Nat := 0
  blanked : Bool := false
  stopReq : Option Bool := none
  deriving DecidableEq, Repr

/-- The scan-out (13): its line boundaries are those of `tl`; a start that waits for its domain;
the register packet waiting for a blanking line, and those sent; the admitted demand; the rectangles of the frames in
progress. -/
structure DispSt where
  tl : Line := {}
  waiting : Bool := false
  demand : Nat := 0
  packet : Option (Word × List Byte) := none
  sent : List (Word × List Byte) := []
  rects : List RectRun := []
  l0 : LinkSt := {}
  l1 : LinkSt := {}
  deriving DecidableEq, Repr

/-- A mailbox message (R421). -/
structure Msg where
  at_ : Nat
  vi : Nat
  seqr : Option Nat
  epoch : Nat
  seq : Nat
  q : Nat
  payload : BitVec 64
  deriving DecidableEq, Repr

/-- A read response or interrupt message waiting at a VI's port (R434, R435). -/
inductive OutMsg where
  | msix (vi vector : Nat)
  | irq (vi unit dvi vector : Nat)
  | response (vi : Nat) (data : Word)
  deriving DecidableEq, Repr

/-- A read of VI_FENCE in progress (R418): VI_WTAG and the elapsed time at acceptance, whether a VI reset fell since, the
tags of the remote writes it waits for, and the port it came from. -/
structure Fence where
  tag : Nat
  at_ : Nat
  reset : Bool
  tags : List Nat
  held : List HostAcc
  aper : List Aper
  port : Port
  deriving DecidableEq, Repr

/-- One VI (15). `faulted`: a fault record was made or overflowed since the last fence. -/
structure ViSt where
  q0 : List Msg := []
  q1 : List Msg := []
  q2 : List Msg := []
  q3 : List Msg := []
  epoch : Nat := 0
  inReset : Bool := false
  mbSeq : Nat := 0
  fences : List Fence := []
  faulted : Bool := false
  deriving DecidableEq, Repr

/-- A semaphore (R428 to R430): owner VI, owner sequencer (physical), the owner's epoch. -/
structure SemSt where
  owner : Option (Nat × Option Nat) := none
  epoch : Nat := 0
  abandoned : Bool := false
  deriving DecidableEq, Repr

/-- A calibration set (R402): its temperature in 1/16 °C and its item words. -/
structure CalSet where
  temp : Int
  words : List Word
  deriving DecidableEq, Repr

/-- An item's anchor and the temperature it was taken at (R405). -/
structure Anchor where
  a : Int
  t : Int
  deriving DecidableEq, Repr

/-- Calibration and Affinage (14): the foreground calibration that runs, as VI, KIND and physical instance, and the links
that resume after a deskew (R393); the sets by index; the anchors taken since every item was last re-anchored, with the sets and
the temperature of that moment; the temperature of the last evaluation; the trims in force of the groups 16 · KIND + instance, with
the groups whose working values have not been applied (R405); the history ring; the tap tables (hits of SYN-A and SYN-C) and the
DTC gains; the channels whose tracking has made its history entry; the time of the next evaluation. -/
structure CalSt where
  run : Option (Nat × Nat × Nat) := none
  resume : BitVec 2 := 0
  sets : Tab (Option CalSet) := []
  refSets : Tab (Option CalSet) := []
  refTemp : Int := 0
  anchors : Tab (Option Anchor) := []
  temp : Int := 0
  applied : Tab (Option Int) := []
  dirty : Tab Bool := []
  hist : Tab (List Byte) := []
  taps : Tab (List Nat) := []
  dtc : Tab Int := []
  tracked : BitVec 8 := 0
  nextEval : Nat := 0
  deriving DecidableEq, Repr

/-- An entry of a time input's FIFO (R346); `prov` marks a stamp taken on the fast grid before the handoff (R20). -/
structure TinEnt where
  stamp : Time
  edge : Bool
  coarse : Bool
  loss : Bool
  prov : Bool
  deriving DecidableEq, Repr

/-- A packet that waits on a virtual channel (R488): the hops it has travelled (R485), and the elapsed time since which it has stood at
the head. -/
structure OutPkt where
  hops : Nat
  since : Nat
  pkt : Pkt
  deriving DecidableEq, Repr

/-- A sequenced link packet sent and not yet acknowledged (R489). -/
structure AirPkt where
  lseq : Nat
  hops : Nat
  pkt : Pkt
  tries : Nat
  deriving DecidableEq, Repr

/-- The last ANNOUNCE received on a port, and when (R472). -/
structure Ann where
  root : BitVec 64
  prio : Nat
  depth : Nat
  epoch : Nat
  sender : BitVec 64
  parent : BitVec 64
  at_ : Nat
  deriving DecidableEq, Repr

/-- A link port (17): the peer, the LSEQ expected and the next to send, what is in flight and the elapsed time from which the 20 µs of
R489 count, what waits on each virtual channel, the credits held, the end of an announced leave (R502), the last ANNOUNCE, and
the addresses behind it. -/
structure PortSt where
  peer : BitVec 64 := 0
  rx : Nat := 0
  tx : Nat := 0
  air : List AirPkt := []
  timer : Nat := 0
  evt : List OutPkt := []
  rsp : List OutPkt := []
  req : List OutPkt := []
  closeAt : Nat := 0
  cEvt : Nat := 8
  cRsp : Nat := 8
  cReq : Nat := 8
  ann : Option Ann := none
  subtree : List Nat := []
  deriving DecidableEq, Repr

/-- A member of the tree (R480), and an address the root keeps for a lost unit (R476). -/
structure RosEnt where
  serial : BitVec 64
  depth : Nat
  parent : Nat
  deriving DecidableEq, Repr
structure Resv where
  serial : BitVec 64
  until_ : Nat
  deriving DecidableEq, Repr

/-- A delivery waiting at an import line (R493, R495): the number of its scheduled action, or the elapsed
time at which it asserts where it has none (R494, R500), the event's stamp, the exporter and
its producer number, what INFO is to read, and the flags of the packet. -/
structure Deliv where
  slot : Nat
  due : Option Nat
  stamp : Time
  unit : Nat
  srcp : Nat
  info : Nat
  multi : Bool
  swf : Bool
  deriving DecidableEq, Repr

/-- A remote write in flight (R497, R499). -/
structure RaWrite where
  rid : Nat
  unit : Nat
  rvi : Nat
  ofs : Nat
  port : Nat
  deriving DecidableEq, Repr

/-- A VI's remote accesses: writes in flight, the read in flight, and the data of writes that wait for a slot, each with its
tag and the port it came from. -/
structure RaSt where
  writes : List RaWrite := []
  read : Option RaWrite := none
  waiting : List (Word × Nat × Nat) := []
  deriving DecidableEq, Repr

/-- A remote access this unit performs for another (R498) and has not answered: the VI, the offset and the direction, and the
originator with its request number and VI. -/
structure Served where
  vi : Nat
  off : Nat
  write : Bool
  src : Byte
  rid : BitVec 16
  ovi : Byte
  deriving DecidableEq, Repr

/-- Krairlink (17). `joins` are the joins forwarded, with the port each came from, `thetas` the last measured offsets, `served`
the accesses of other units under way, `lostAt` the elapsed time at which the last port closed, `sent` the packets put on each port
with their HOPS, in order. -/
structure KlSt where
  serial : BitVec 64 := 0
  ports : Tab PortSt := []
  parent : BitVec 64 := 0
  joining : Bool := false
  joins : List (BitVec 64 × Nat) := []
  aligned : Bool := false
  resv : Tab (Option Resv) := []
  roster : Tab (Option RosEnt) := []
  t1 : Option Time := none
  thetas : List Int := []
  nextReq : Nat := 0
  nextOfs : Nat := 0
  exps : Tab (List Src) := []
  imps : Tab (List Deliv) := []
  ras : Tab RaSt := []
  served : List Served := []
  lostAt : Option Nat := none
  sent : List (Nat × Nat × Pkt) := []
  deriving DecidableEq, Repr

/-- A time input (12): the raw level of its pin, the stamp of the last raw edge with whether it was taken on the fast grid before the
handoff (none: not stamped), the samples in a row that differ from the filtered level, the FIFO, the read window, whether entries were
just lost, and TINn_CNT, which no register shows. -/
structure TinSt where
  raw : Bool := false
  rawAt : Option (Time × Bool) := none
  run : Nat := 0
  fifo : List TinEnt := []
  win : Option TinEnt := none
  loss : Bool := false
  cnt : Word := 0
  deriving DecidableEq, Repr

/-- A comparator (12): the voltages of its pin and of VCCIO_T in µV, its output before the filter, the samples in a row that differ from
the filtered output, and the elapsed time from which the output is settled (none: it does not run). -/
structure AcmpSt where
  uv : Nat := 0
  vccio : Nat := 0
  out : Bool := false
  run : Nat := 0
  live : Option Nat := none
  deriving DecidableEq, Repr

/-- An operator key (12): the baseline, the scans of learning, consecutive scans at or above the threshold, the elapsed
time of the touch and of the start of a negative swing, the last raw count. -/
structure KeySt where
  base : Int := 0
  learn : List Int := []
  deb : Nat := 0
  since : Nat := 0
  neg : Option Nat := none
  raw : Int := 0
  deriving DecidableEq, Repr

/-- An SPI frame (R451 to R455): the word in progress, whether its access waits, since `at_`, and the response bytes of its words
so far, from each final status byte on. -/
structure SpiSt where
  vi : Nat
  off : Nat
  write : Bool
  crc : Bool
  inc : Bool
  wait : Bool
  at_ : Nat
  resp : List Byte
  deriving DecidableEq, Repr

/-- An access of the SPI target port whose frame ended before it was performed (R456). -/
structure LostAcc where
  vi : Nat
  off : Nat
  write : Bool
  deriving DecidableEq, Repr

/-- Host ports (16): `refused`: the access in progress has set a VI_ACC_ERR field; the status of the last PCIe request (0 Successful
Completion, 1 Unsupported Request, 2 Configuration Request Retry Status); the SPI frame in progress or last run,
and the accesses of frames cut short; the
configuration of the PCIe functions: NumVFs in force (0 while VF Enable is 0), D3hot and Bus Master Enable per function; the bytes an NVM erase that runs covers, as
from and to; the elapsed time, plus one, of the wake since which WAKE_N is low (R447; 0: released); the debug access's Capture-DR value (R465), and a
debug access held while FCLK is stopped (R186); whether the host has completed the PME_Turn_Off handshake (R447); the bindings at the start of the
cycle, where a write has changed them in it (R410). -/
structure HostSt where
  refused : Bool := false
  status : Nat := 0
  spi : Option SpiSt := none
  lost : List LostAcc := []
  vfs : Nat := 0
  d3hot : BitVec 32 := 0
  busMaster : BitVec 32 := 0
  erase : Option (Nat × Nat) := none
  wakeAt : Nat := 0
  dbgData : Word := 0
  dbgDone : Bool := false
  dbgErr : Bool := false
  dbgHeld : Option (BitVec 64) := none
  pmeOff : Bool := false
  bound : Option (Word × Word) := none
  deriving DecidableEq, Repr

/-- What happened to a register in the FCLK cycle in progress (R78, R82, R86, R514): the bits the block updated, what it added to the
register's counters, and, once a write has gone into its shadow, what was staged before the cycle. -/
structure Cyc where
  raised : Word := 0
  added : Word := 0
  was : Option (Option Word) := none
  deriving DecidableEq, Repr

/-- The state of the block. `free` numbers the free values taken (the model's own); `rdata` is the last read answered and `burst` the bytes the last BAR2 read returned; `cyc` lists what this cycle did;
`out` lists the messages and responses made for the ports, each with the elapsed time at which it became ready;
`peakTaken` says that TEMP_PEAK has been read since the last update; `agenda` holds the block's own follow-ups with the elapsed time at which each is due. -/
structure State where
  regs : Tab Word := []
  shadows : Tab Word := []
  cyc : Tab Cyc := []
  acts : Tab Act := []
  agenda : List (Nat × Instr) := []
  time : TimeSt := {}
  fab : FabSt := {}
  rind : Tab RindSt := []
  walk : WalkSt := {}
  mode : ModeSt := {}
  rst : RstSt := {}
  syn : Tab SynSt := []
  mem : MemSt := {}
  seqs : Tab SeqSt := []
  aouts : Tab AoutSt := []
  pbs : Tab PbSt := []
  trgs : Tab TrgSt := []
  disp : DispSt := {}
  vis : Tab ViSt := []
  sems : Tab SemSt := []
  out : List (Nat × OutMsg) := []
  cal : CalSt := {}
  kl : KlSt := {}
  host : HostSt := {}
  tins : Tab TinSt := []
  acmps : Tab AcmpSt := []
  keys : Tab KeySt := []
  peakTaken : Bool := true
  refinHz : Nat := 100000000
  hfxoHz : Nat := 25000000
  free : Nat := 0
  rdata : Option (Word × Bool) := none
  burst : List Byte := []
  pending : List Instr := []
  deriving DecidableEq, Repr

/-- The machine right after the assertion of power-on reset: start-up phase P0, nothing running, the outputs in the
states of R145, every register at its reset value (R45, R73, R100, R130, R131, R167). What the spec gives no reset value for takes the
values of log entries 13, 60, 61, 95 and 106. -/
def State.reset : State := {}

end Sys2Proof.Machine
end

