-- ==== Sys2Proof/Machine/Ops.lean ====
section
/-! DEFINITION. The named operations over the state that every meaning is written with: reading and writing registers
and their fields, shadows, the stores, the agenda, and the answer a command gives. -/

namespace Sys2Proof.Machine

/-- What a command answers. -/
abbrev Res := Host.Outcome State Fault Refusal

/-- A command that completes. -/
abbrev ok (s : State) : Res := .next s

/-- `if c then f s else s`, the shape of every conditional effect. -/
def State.when (s : State) (c : Bool) (f : State → State) : State := if c then f s else s

/-- Apply `f` for each element of a list, first to last. -/
def State.each {α : Type} (s : State) (l : List α) (f : State → α → State) : State := l.foldl f s

/-! ### Registers -/

/-- The active value of the register with key `k`. -/
def State.getKey (s : State) (k : Nat) : Word := Tab.get regReset s.regs k
/-- Write the active value of the register with key `k`. -/
def State.setKey (s : State) (k : Nat) (v : Word) : State := { s with regs := Tab.set regReset s.regs k v }

/-- The device register at physical offset `o`. -/
def State.rd (s : State) (o : Nat) : Word := s.getKey (devKey o)
def State.wr (s : State) (o : Nat) (v : Word) : State := s.setKey (devKey o) v
/-- VI `v`'s own copy of the register at offset `o`. -/
def State.rdv (s : State) (v o : Nat) : Word := s.getKey (viKey v o)
def State.wrv (s : State) (v o : Nat) (x : Word) : State := s.setKey (viKey v o) x

/-- Field [hi:lo] of a device register, and of a VI's own register. -/
def State.fld (s : State) (o hi lo : Nat) : Nat := bf (s.rd o) hi lo
def State.wfld (s : State) (o hi lo v : Nat) : State := s.wr o (setFld (s.rd o) hi lo v)
def State.fldv (s : State) (v o hi lo : Nat) : Nat := bf (s.rdv v o) hi lo
def State.wfldv (s : State) (v o hi lo x : Nat) : State := s.wrv v o (setFld (s.rdv v o) hi lo x)

/-- What the cycle in progress did to the register with key `k`. -/
def State.cy (s : State) (k : Nat) : Cyc := Tab.get (fun _ => {}) s.cyc k
def State.setCy (s : State) (k : Nat) (c : Cyc) : State := { s with cyc := Tab.set (fun _ => {}) s.cyc k c }
/-- The block updates the bits `m` of a register in this cycle: they stand over a write and an RC read of it (R78, R82). -/
def State.touch (s : State) (k : Nat) (m : Word) : State := s.setCy k { s.cy k with raised := (s.cy k).raised ||| m }

/-- Bit `i` of a device register, and of a VI's own register. A bit that the block sets is an update of this cycle. -/
def State.bit (s : State) (o i : Nat) : Bool := tb (s.rd o) i
def State.wbit (s : State) (o i : Nat) (b : Bool) : State :=
  let s := s.wr o (setBit (s.rd o) i b)
  if b then s.touch (devKey o) (1 <<< i) else s
def State.bitv (s : State) (v o i : Nat) : Bool := tb (s.rdv v o) i
def State.wbitv (s : State) (v o i : Nat) (b : Bool) : State :=
  let s := s.wrv v o (setBit (s.rdv v o) i b)
  if b then s.touch (viKey v o) (1 <<< i) else s

/-- Apply an addition to a counter register, and to what this cycle added to it (R514). -/
def State.tally (s : State) (k : Nat) (f : Word → Word) : State :=
  (s.setKey k (f (s.getKey k))).setCy k { s.cy k with added := f (s.cy k).added }
/-- Add to a 32-bit counter register: saturating, or wrapping. -/
def State.incSat (s : State) (o n : Nat) : State := s.tally (devKey o) (satAdd · n)
def State.incWrap (s : State) (o n : Nat) : State := s.tally (devKey o) (· + BitVec.ofNat 32 n)
def State.incSatv (s : State) (v o n : Nat) : State := s.tally (viKey v o) (satAdd · n)
/-- Add to a saturating counter field [hi:lo]. -/
def State.incFld (s : State) (o hi lo n : Nat) : State := s.tally (devKey o) (satFld · hi lo n)
/-- Clear a counter: the increments of this cycle stand, as if the clear had come first (R514). -/
def State.clrCnt (s : State) (k : Nat) : State := s.setKey k (s.cy k).added
/-- The same for a counter in the field [hi:lo]. -/
def State.clrFld (s : State) (k hi lo : Nat) : State := s.setKey k (setFld (s.getKey k) hi lo (bf (s.cy k).added hi lo))

/-- The 64-bit value of a register pair, low word first. -/
def State.rd64 (s : State) (lo hi : Nat) : BitVec 64 := cat64 (s.rd hi) (s.rd lo)
def State.wr64 (s : State) (lo hi : Nat) (v : BitVec 64) : State := (s.wr lo (lo32 v)).wr hi (hi32 v)

/-! ### Shadows (R85, R86) -/

/-- The value a shadow holds: the staged one, or the active value where nothing is staged. -/
def State.shadow (s : State) (k : Nat) : Word := (Tab.find s.shadows k).getD (s.getKey k)
/-- Stage a value: the shadow is listed only while it differs from the active value. -/
def State.stage (s : State) (k : Nat) (v : Word) : State :=
  { s with shadows := if v = s.getKey k then Tab.erase s.shadows k else Tab.insert (Tab.erase s.shadows k) k v }
/-- A write goes into a shadow: what was staged before the cycle is kept for a boundary in it (R86). -/
def State.stageNow (s : State) (k : Nat) (v : Word) : State :=
  let c := s.cy k
  (if c.was.isSome then s else s.setCy k { c with was := some (Tab.find s.shadows k) }).stage k v
/-- What a boundary in this cycle finds staged. -/
def State.staged (s : State) (k : Nat) : Option Word := (s.cy k).was.getD (Tab.find s.shadows k)
/-- Whether a shadow among the keys satisfying `p` differs from its active value. -/
def State.pendingShadow (s : State) (p : Nat → Bool) : Bool := s.shadows.any fun e => p e.1
/-- Apply every staged shadow whose key satisfies `p`, all at once. -/
def State.applyShadows (s : State) (p : Nat → Bool) : State :=
  let due := s.shadows.filter fun e => p e.1
  { (s.each due fun s e => s.setKey e.1 e.2) with shadows := s.shadows.filter fun e => !p e.1 }
/-- The shadow of register `k` applies at a boundary in this cycle: a value written in the cycle stays staged (R86). -/
def State.applyKey (s : State) (k : Nat) : State :=
  match s.staged k with
  | none => s
  | some x =>
    let y := s.shadow k
    let c := s.cy k
    ((if c.was.isSome then s.setCy k { c with was := some none } else s).setKey k x).stage k y
/-- Whether a boundary in this cycle finds a shadow among the keys satisfying `p` staged. -/
def State.pendingStaged (s : State) (p : Nat → Bool) : Bool :=
  (s.shadows.map (·.1) ++ s.cyc.map (·.1)).any fun k => p k && (s.staged k).isSome
/-- What is staged now counts as staged before the cycle. -/
def State.settle (s : State) : State :=
  { s with cyc := (s.cyc.map fun e => (e.1, { e.2 with was := none })).filter fun e => e.2 ≠ {} }
/-- A natural boundary of the shadows whose key satisfies `p` (R85, R86). -/
def State.boundary (s : State) (p : Nat → Bool) : State :=
  s.each (((s.shadows.map (·.1)) ++ s.cyc.map (·.1)).eraseDups.filter p) State.applyKey
/-- Return the staged shadows whose key satisfies `p` to the active values. -/
def State.dropShadows (s : State) (p : Nat → Bool) : State :=
  { s with shadows := s.shadows.filter fun e => !p e.1 }
/-- Return every register whose key satisfies `p` to its reset value, shadow and active value both (R87). -/
def State.resetRegs (s : State) (p : Nat → Bool) : State :=
  { s with regs := Tab.keep (fun k => !p k) s.regs, shadows := Tab.keep (fun k => !p k) s.shadows }

/-! ### State held per unit -/

def State.act (s : State) (a : ActId) : Act := Tab.get (fun _ => {}) s.acts (a.kind.val * 512 + a.inst.val)
def State.setAct (s : State) (a : ActId) (x : Act) : State :=
  { s with acts := Tab.set (fun _ => {}) s.acts (a.kind.val * 512 + a.inst.val) x }
/-- The scheduled action of a kind and an instance. -/
def actId (kind inst : Nat) : ActId := ⟨Fin.ofNat 16 kind, Fin.ofNat 512 inst⟩

def State.sq (s : State) (k : Nat) : SeqSt := Tab.get (fun _ => {}) s.seqs k
def State.setSq (s : State) (k : Nat) (x : SeqSt) : State := { s with seqs := Tab.set (fun _ => {}) s.seqs k x }
def State.ao (s : State) (n : Nat) : AoutSt := Tab.get (fun _ => {}) s.aouts n
def State.setAo (s : State) (n : Nat) (x : AoutSt) : State := { s with aouts := Tab.set (fun _ => {}) s.aouts n x }
def State.pb (s : State) (k : Nat) : PbSt := Tab.get (fun _ => {}) s.pbs k
def State.setPb (s : State) (k : Nat) (x : PbSt) : State := { s with pbs := Tab.set (fun _ => {}) s.pbs k x }
def State.trg (s : State) (n : Nat) : TrgSt := Tab.get (fun _ => {}) s.trgs n
def State.setTrg (s : State) (n : Nat) (x : TrgSt) : State := { s with trgs := Tab.set (fun _ => {}) s.trgs n x }
def State.sy (s : State) (x : Nat) : SynSt := Tab.get (fun _ => {}) s.syn x
def State.setSy (s : State) (x : Nat) (y : SynSt) : State := { s with syn := Tab.set (fun _ => {}) s.syn x y }
def State.vi (s : State) (v : Nat) : ViSt := Tab.get (fun _ => {}) s.vis v
def State.setVi (s : State) (v : Nat) (x : ViSt) : State := { s with vis := Tab.set (fun _ => {}) s.vis v x }
def State.sem (s : State) (n : Nat) : SemSt := Tab.get (fun _ => {}) s.sems n
def State.setSem (s : State) (n : Nat) (x : SemSt) : State := { s with sems := Tab.set (fun _ => {}) s.sems n x }
def State.rg (s : State) (r : Nat) : RindSt := Tab.get (fun _ => {}) s.rind r
def State.setRg (s : State) (r : Nat) (x : RindSt) : State := { s with rind := Tab.set (fun _ => {}) s.rind r x }
def State.lde (s : State) (e : Nat) : LdeSt := Tab.get (fun _ => {}) s.mem.lde e
def State.setLde (s : State) (e : Nat) (x : LdeSt) : State :=
  { s with mem := { s.mem with lde := Tab.set (fun _ => {}) s.mem.lde e x } }
def State.scanOf (s : State) (k : Nat) : ScanFor := Tab.get (fun _ => .idle) s.mem.scan k
def State.setScan (s : State) (k : Nat) (x : ScanFor) : State :=
  { s with mem := { s.mem with scan := Tab.set (fun _ => .idle) s.mem.scan k x } }

/-- The DOM_STATE code of power domain `d`; AO is always on (R124, R126). -/
def State.dom (s : State) (d : Nat) : Nat := if d = 0 then 2 else Tab.get (fun _ => 0) s.mode.doms d
def State.setDom (s : State) (d c : Nat) : State :=
  { s with mode := { s.mode with doms := Tab.set (fun _ => 0) s.mode.doms d c } }
/-- The domain is on, or draining requests it accepted before. -/
def State.domOn (s : State) (d : Nat) : Bool := s.dom d == 2

/-! ### The stores -/

/-- What a byte nothing has written reads as: 0 (log entry 13), or an open value once the contents were lost (R101). -/
def MemSt.blank (m : MemSt) (a : Nat) : Byte := if m.lost = 0 then 0 else Config.openByte a m.lost

/-- A byte of the Vat or of the on-package memory, by physical address. -/
def State.vatB (s : State) (a : Nat) : Byte := Tab.get s.mem.blank s.mem.vat a
def State.memB (s : State) (a : Nat) : Byte := Tab.get s.mem.blank s.mem.mem a
def State.wVat (s : State) (a : Nat) (b : Byte) : State :=
  { s with mem := { s.mem with vat := Tab.set s.mem.blank s.mem.vat a b } }
def State.wMem (s : State) (a : Nat) (b : Byte) : State :=
  { s with mem := { s.mem with mem := Tab.set s.mem.blank s.mem.mem a b } }
/-- What a byte of the attached NVM that nothing has programmed since the last erase reads as: 0xFF (log entry 13), or an
open value in a unit whose erase was aborted or failed (R462). -/
def MemSt.nvmBlank (m : MemSt) (a : Nat) : Byte :=
  match m.nvmRanges.find? fun r => decide (r.lo ≤ a) && decide (a < r.hi) with
  | some r => if r.n = 0 then 0xFF else Config.openByte a r.n
  | none => 0xFF
/-- A byte of the attached NVM. -/
def State.nvmB (s : State) (a : Nat) : Byte := Tab.get s.mem.nvmBlank s.mem.nvm a
def State.wNvm (s : State) (a : Nat) (b : Byte) : State :=
  { s with mem := { s.mem with nvm := Tab.set s.mem.nvmBlank s.mem.nvm a b } }
/-- The stores stand in their canonical form: addresses strictly rising, and no entry equal to what an unlisted address reads
as. -/
def Memory.wf (m : MemSt) : Bool := Tab.wf m.blank m.vat && Tab.wf m.blank m.mem && Tab.wf m.nvmBlank m.nvm

/-- The bytes of a range of the NVM are erased, or left open. -/
def State.wipeNvm (s : State) (lo hi : Nat) (erased : Bool) : State :=
  let r : NvmRange := { lo := lo, hi := hi, n := if erased then 0 else s.free + 1 }
  { s with mem := { s.mem with
      nvm := Tab.keep (fun a => !(lo ≤ a && a < hi)) s.mem.nvm
      nvmRanges := r :: s.mem.nvmRanges.filter fun q => !(lo ≤ q.lo && q.hi ≤ hi) }, free := s.free + 1 }
/-- The contents of the Vat and the memory are lost (R101). -/
def State.loseStores (s : State) : State :=
  { s with mem := { s.mem with vat := [], mem := [], errs := [], lost := s.free + 1 }, free := s.free + 1 }
/-- `n` bytes from a physical address of the Vat (`vat`) or of the memory. -/
def State.bytes (s : State) (vat : Bool) (a n : Nat) : List Byte :=
  (List.range n).map fun i => if vat then s.vatB (a + i) else s.memB (a + i)
/-- Store bytes from a physical address on. -/
def State.putBytes (s : State) (vat : Bool) : Nat → List Byte → State
  | _, [] => s
  | a, b :: bs => (if vat then s.wVat a b else s.wMem a b).putBytes vat (a + 1) bs

/-! ### Timelines -/

/-- The first multiple of `num / den` TU after `anchor` at or after elapsed time `t`, by its number and as an elapsed time. -/
def tlFrom (anchor num den t : Nat) : Nat := if t ≤ anchor then 0 else ((t - anchor) * den + num - 1) / num
def tlAt (anchor num den j : Nat) : Nat := anchor + j * num / den

/-- The elapsed time of boundary `j`, and the first boundary at or after elapsed time `t`. -/
def Line.at_ (l : Line) (j : Nat) : Nat := l.anchor + (l.frac * l.den + (j - l.base) * l.num * 2 ^ 40) / (l.den * 2 ^ 40)
def Line.from_ (l : Line) (t : Nat) : Nat :=
  l.base + (((t - l.anchor) * 2 ^ 40 - l.frac) * l.den + l.num * 2 ^ 40 - 1) / (l.num * 2 ^ 40)

/-- Boundary `j` in 2^-40 TU. -/
def Line.fine (l : Line) (j : Nat) : Nat := l.anchor * 2 ^ 40 + l.frac + (j - l.base) * l.num * 2 ^ 40 / l.den

/-- From elapsed time `t` on the period is `p`: what is left of the period in progress passes at the new rate. -/
def Line.retime (l : Line) (p : Nat × Nat) (t : Nat) : Line :=
  if l.num = p.1 ∧ l.den = p.2 then l
  else
    let j := l.from_ t
    let left := (l.anchor - t : Int) * 2 ^ 40 * l.den + l.frac * l.den + (j - l.base) * l.num * 2 ^ 40
    let u := left.toNat * p.1 / (p.2 * l.num)
    { base := j, anchor := t + u / 2 ^ 40, frac := u % 2 ^ 40, num := p.1, den := p.2 }

/-- The same boundaries, numbered from boundary `j` as 0. -/
def Line.numberFrom (l : Line) (j : Nat) : Line :=
  let u := l.frac * l.den + (j - l.base) * l.num * 2 ^ 40
  { l with base := 0, anchor := l.anchor + u / (l.den * 2 ^ 40), frac := u % (l.den * 2 ^ 40) / l.den }

/-- Boundary `j` falls at elapsed time `t`, and the period from there on is `p`. -/
def Line.startAt (j t : Nat) (p : Nat × Nat) : Line := { base := j, anchor := t, num := p.1, den := p.2 }

/-! ### Time and the agenda -/

/-- The start of the FCLK cycle that contains elapsed time `t`, 0 or more cycles from now; a past time gives now or
earlier. -/
def State.cycleOf (s : State) (t : Nat) : Nat :=
  if s.time.mono ≤ t then s.time.mono + (t - s.time.mono) / 32 * 32 else t

/-- The time of record (R11, R13): the fast counter while FCLK runs; otherwise the greater of the keeper's count and
the last value of the fast counter, compared as R41 compares times, so that a wrap of the count changes nothing (R10). -/
def State.now (s : State) : Time :=
  if s.time.fclk then s.time.fast else if 0 ≤ (s.time.keep - s.time.fast).toInt then s.time.keep else s.time.fast

/-- Put a follow-up of the block's own on the agenda, due `tu` of elapsed time from now. -/
def State.after (s : State) (tu : Nat) (c : Instr) : State :=
  { s with agenda := s.agenda ++ [(s.time.mono + tu, c)] }
/-- The same, at an absolute elapsed time. -/
def State.at_ (s : State) (t : Nat) (c : Instr) : State := { s with agenda := s.agenda ++ [(t, c)] }

/-- Take a follow-up off the agenda again. -/
def State.cancel (s : State) (c : Instr) : State := { s with agenda := s.agenda.filter fun e => e.2 ≠ c }

/-- Durations in TU: 25,600 TU to the µs (R10). -/
abbrev us (n : Nat) : Nat := n * 25600
abbrev ms (n : Nat) : Nat := n * 25600000

/-- A fresh number for a free value. -/
def State.fresh (s : State) : State := { s with free := s.free + 1 }

/-- Answer a read. -/
def State.answer (s : State) (w : Word) : State := { s with rdata := some (w, false) }

/-- The device is awake: PRIMED, RUN, SERVICE or SAFE (Power domains). -/
def State.awake (s : State) : Bool :=
  match s.mode.eff with
  | .shelf | .listen => false
  | _ => true

/-- Domains power up: the device is awake, or the Starter works (R140). -/
def State.powered (s : State) : Bool := s.awake || s.rst.phase == 3 || s.rst.phase == 4

/-- The code of a mode (The six modes). -/
def Mode.code : Mode → Nat
  | .shelf => 0 | .listen => 1 | .primed => 2 | .run => 3 | .service => 4 | .safe => 5
/-- The mode of a code from 1 to 3. -/
def Mode.ofCode (n : Nat) : Mode := if n = 0 then .shelf else if n = 2 then .primed else if n = 3 then .run else .listen

end Sys2Proof.Machine
end

