-- ==== Sys2Proof/Machine/Operands.lean ====
section
/-! DEFINITION. Operand forms: which VI owns a resource (R411, R413), the numbering of resources within a VI and in the
physical view (R4, R5, R415), and the translation of producer, consumer and channel numbers (R46, R55, R56). -/

namespace Sys2Proof.Machine

/-- The classes of resources the partition assigns (R411). `misc`: 0 scan-out, 1 SYN-B, 2 SYN-C, 3 SYN-D. -/
inductive Kind where
  | seq | aout | pb | trg | tin | acmp | key | lde | evg | misc | vat | mem
  deriving DecidableEq, Repr

/-- How many resources of a class the D960 has, and where their owner bytes begin. -/
def Kind.count : Kind → Nat
  | .seq => 16 | .aout => 8 | .pb => 8 | .trg => 8 | .tin => 16 | .acmp => 4 | .key => 6 | .lde => 4 | .evg => 16
  | .misc => 4 | .vat => 128 | .mem => 256
def Kind.base : Kind → Nat
  | .seq => 0x3C40 | .aout => 0x3C50 | .pb => 0x3C58 | .trg => 0x3C60 | .tin => 0x3C68 | .acmp => 0x3C78
  | .key => 0x3C7C | .lde => 0x3C84 | .evg => 0x3C88 | .misc => 0x3C98 | .vat => 0x3D00 | .mem => 0x3E00

/-- Who holds a resource: a VI, all of them (a shared event channel group, R56), or none (R413). -/
inductive Owner where
  | vi (v : Nat) | shared | nobody
  deriving DecidableEq, Repr

/-- A partition is in force (PART_STATUS.IN_FORCE). -/
def State.inForce (s : State) : Bool := s.bit 0x3C08 0

/-- The owner a partition byte names. -/
def ownerByte (b : Nat) : Owner := if b / 128 = 1 then .vi (b % 32) else if b / 64 = 1 then .shared else .nobody

/-- The owner of resource `i` of a class: VI0 for everything while no partition is in force; granule 24 of the Vat is
VI0's under every partition (R197). -/
def State.owner (s : State) (c : Kind) (i : Nat) : Owner :=
  if !s.inForce then .vi 0
  else if c = .vat ∧ i = 24 then .vi 0
  else ownerByte (byteOf (s.rd (c.base + 4 * (i / 4))) (i % 4))

def State.owns (s : State) (v : Nat) (c : Kind) (i : Nat) : Bool := s.owner c i == .vi v

/-- The VI that keeps the records of a resource: its owner, and VI0 for a shared or unassigned one (R44). -/
def State.ownerVi (s : State) (c : Kind) (i : Nat) : Nat :=
  match s.owner c i with
  | .vi v => v
  | _ => 0

/-- The resources of a class a VI owns, in ascending physical order: their VI numbers are their places here (R4). -/
def State.owned (s : State) (v : Nat) (c : Kind) : List Nat := (List.range c.count).filter (s.owns v c)

/-- VI0 looks through its physical view (R415). -/
def State.physView (s : State) (v : Nat) : Bool := v == 0 && s.bitv 0 0x100 0

/-- The physical number of the VI's resource `j`; in the physical view numbers are physical. The scan-out and the three
synthesizers are classes of one each, which keep their places (R168). -/
def State.phys (s : State) (v : Nat) (c : Kind) (j : Nat) : Option Nat :=
  if s.physView v then (if j < c.count then some j else none)
  else if c = .misc then (if s.owns v c j then some j else none)
  else (s.owned v c)[j]?

/-- The VI's own resource `j`, by the numbers its step words use (R228): one it owns, in the physical view too. -/
def State.own (s : State) (v : Nat) (c : Kind) (j : Nat) : Option Nat := (s.phys v c j).filter (s.owns v c)

/-- The VI number of physical resource `i` in the view of `v`. -/
def State.virt (s : State) (v : Nat) (c : Kind) (i : Nat) : Option Nat :=
  if s.physView v then some i
  else if c = .misc then (if s.owns v c i then some i else none)
  else (s.owned v c).findIdx? (· = i)

/-- The VI-relative number of a resource for its owner's records; physical for a shared or unassigned one (R44). -/
def State.relNum (s : State) (c : Kind) (i : Nat) : Nat :=
  match s.owner c i with
  | .vi v => ((s.owned v c).findIdx? (· = i)).getD i
  | _ => i

/-- The blocks of producer and consumer numbers: first number, how many, the class, numbers per resource. -/
def conMap : List (Nat × Nat × Kind × Nat) :=
  [(0, 64, .seq, 4), (64, 8, .trg, 1), (72, 16, .pb, 2), (88, 4, .misc, 4), (92, 8, .aout, 1), (100, 8, .pb, 1),
   (108, 32, .evg, 2), (140, 16, .evg, 1), (156, 4, .lde, 1), (160, 4, .lde, 1)]
def prodMap : List (Nat × Nat × Kind × Nat) :=
  [(0, 64, .seq, 4), (64, 16, .tin, 1), (80, 4, .acmp, 1), (84, 6, .key, 1), (90, 8, .misc, 8), (98, 16, .evg, 1),
   (114, 8, .pb, 1), (122, 32, .evg, 2), (154, 16, .seq, 1)]
/-- The gate entries that name resources of a VI (R51, R53). -/
def gateMap : List (Nat × Nat × Kind × Nat) :=
  [(1, 16, .tin, 1), (17, 4, .acmp, 1), (21, 16, .seq, 1), (56, 6, .key, 1)]

/-- The block a number falls in. -/
def blockOf : List (Nat × Nat × Kind × Nat) → Nat → Option (Nat × Kind × Nat)
  | [], _ => none
  | (b, n, c, per) :: t, x => if b ≤ x ∧ x < b + n then some (b, c, per) else blockOf t x

/-- The resource behind a number, if it belongs to one. -/
def resOf (m : List (Nat × Nat × Kind × Nat)) (x : Nat) : Option (Kind × Nat) :=
  (blockOf m x).map fun (b, c, per) => (c, (x - b) / per)

/-- A number of the VI's own numbering as the physical number, and back. -/
def State.toPhys (s : State) (v : Nat) (m : List (Nat × Nat × Kind × Nat)) (x : Nat) : Option Nat :=
  match blockOf m x with
  | none => none
  | some (b, c, per) => (s.phys v c ((x - b) / per)).map fun r => b + r * per + (x - b) % per
def State.toVirt (s : State) (v : Nat) (m : List (Nat × Nat × Kind × Nat)) (x : Nat) : Option Nat :=
  match blockOf m x with
  | none => none
  | some (b, c, per) => (s.virt v c ((x - b) / per)).map fun r => b + r * per + (x - b) % per

/-- The VI that owns a consumer, VI0 for one that no VI owns. -/
def State.conVi (s : State) (c : Nat) : Nat :=
  match resOf conMap c with
  | some (k, i) => s.ownerVi k i
  | none => 0
def State.conOwned (s : State) (v c : Nat) : Bool :=
  match resOf conMap c with
  | some (k, i) => s.owns v k i
  | none => false

/-- Channels: EVC4g to EVC4g+3 belong to group g. -/
def State.chOwner (s : State) (ch : Nat) : Owner := s.owner .evg (ch / 4)
/-- The physical channel of the VI's channel `n`, where the VI owns it, and back. -/
def State.chPhys (s : State) (v n : Nat) : Option Nat := (s.phys v .evg (n / 4)).map fun g => 4 * g + n % 4
def State.chOwn (s : State) (v n : Nat) : Option Nat := (s.own v .evg (n / 4)).map fun g => 4 * g + n % 4
def State.chVirt (s : State) (v ch : Nat) : Option Nat := (s.virt v .evg (ch / 4)).map fun g => 4 * g + ch % 4
/-- The shared channels in physical order (R56). -/
def State.sharedChs (s : State) : List Nat := (List.range 64).filter fun ch => s.chOwner ch == .shared

/-- The physical channel a stored selection byte names: [7] EN, [6] SHARED, [5:0] CH. Selections are stored with the
physical channel number (R414). -/
def selCh (b : Nat) : Option Nat := if b / 128 = 1 then some (b % 64) else none

/-- The physical channel whose latch a stored gate entry from 37 to 52 names: bits [22:17], which no read shows (log
entry 29). -/
def gateChan (c : Word) : Nat := bf c 22 17

/-- Selection byte `c` (R54): byte j of CON_SELk selects for consumer 4k + j. -/
def State.selByte (s : State) (c : Nat) : Nat := byteOf (s.rd (0xC00 + 4 * (c / 4))) (c % 4)

/-- The power domain whose state R61 tests for a consumer (R55); AO (0) where none does. -/
def conDom (c : Nat) : Nat :=
  if c < 64 then 3 else if c < 72 then 22 else if c < 88 then 14 + (c - 72) / 2 else if c < 92 then 23
  else if c < 100 then 6 + (c - 92) else if c < 108 then 14 + (c - 100) else if c < 140 then 2
  else if c < 144 then 0 else if c < 156 then 2 else if c < 164 then 5 else 0

/-- The producers whose resources a VI must own for a record or an interrupt: the VI of a producer, if it has one. -/
def State.prodVi (s : State) (p : Nat) : Option Nat :=
  match resOf prodMap p with
  | some (k, i) => match s.owner k i with
    | .vi v => some v
    | _ => none
  | none => none

/-- The lists of a VI's Vat granules: step pool, directory, data (R196, R198). -/
def State.stepG (s : State) (v : Nat) : List Nat := (s.owned v .vat).filter (· < 16)
def State.dirG (s : State) (v : Nat) : List Nat := (s.owned v .vat).filter fun g => 16 ≤ g ∧ g < 24
def State.dataG (s : State) (v : Nat) : List Nat := (s.owned v .vat).filter (24 ≤ ·)

/-- A VI Vat address as the physical byte offset (R198), and a VI memory address as the physical one (R199); in VI0
both views are physical. -/
def State.vatAddr (s : State) (v a : Nat) : Option Nat :=
  if v = 0 then (if a < 2 ^ 25 then some a else none)
  else ((s.owned v .vat)[a / 0x40000]?).map fun g => g * 0x40000 + a % 0x40000
def State.memAddr (s : State) (v a : Nat) : Option Nat :=
  if v = 0 then (if a < s.fld 0x1800 24 16 * 0x1000000 then some a else none)
  else ((s.owned v .mem)[a / 0x1000000]?).map fun g => g * 0x1000000 + a % 0x1000000

end Sys2Proof.Machine
end

