-- ==== Sys2Proof/Machine/Flags.lean ====
section
/-! DEFINITION. Flags that many blocks share: interrupt sources and vectors (R433, R434), assertions of producers (R46,
R57), fault records (R419, R420), and the late rule with its records (R40 to R44, R28). -/

namespace Sys2Proof.Machine

/-! ### Interrupts -/

/-- The OR of the pending and enabled sources of vector `v` (R434). -/
def vectorOn (pend en : Word) (maps : Nat → Nat) (v : Nat) : Bool :=
  (List.range 32).any fun i => tb pend i && tb en i && maps i == v

/-- The vector VI `v` assigns to source `i`. -/
def State.irqMap (s : State) (v i : Nat) : Nat := s.fldv v (0x190 + 4 * (i / 8)) (4 * (i % 8) + 3) (4 * (i % 8))

/-- The port VI `v` is bound to (R408). -/
def State.bindOf (s : State) (v : Nat) : Nat := s.fld (0x3C10 + 4 * (v / 16)) (2 * (v % 16) + 1) (2 * (v % 16))

/-- The PCIe function of VI `v` is enabled: the PF always, VF `v` with VF Enable up to NumVFs (R439). -/
def State.fnEnabled (s : State) (v : Nat) : Bool := v == 0 || decide (v ≤ s.host.vfs)

/-- The function is enabled and not in D3hot (R434, R439, R448). -/
def State.fnCarries (s : State) (v : Nat) : Bool := s.fnEnabled v && !s.host.d3hot.getLsbD v

/-- The message a firing vector makes, by the VI's port (R434). -/
def State.vectorMsg (s : State) (v n : Nat) : List OutMsg :=
  let b := s.bindOf v
  if b = 1 then (if s.fnCarries v then [.msix v n] else [])
  else if b = 3 then
    let c := s.rdv v 0x3618
    let u := bf c 23 16
    if tb c 31 && s.bit 0x3404 0 && s.bit (0x3440 + 4 * (u / 32)) (u % 32) then [.irq v u (bf c 4 0) n] else []
  else []

/-- Messages become ready at their VI's port (R434, R435). -/
def State.makeReady (s : State) (l : List OutMsg) : State := { s with out := s.out ++ l.map fun m => (s.time.mono, m) }

/-- The port whose requests VI `v` accepts in this cycle: a binding that the cycle has changed still stands (R410). -/
def State.portOf (s : State) (v : Nat) : Nat :=
  match s.host.bound with
  | some (b0, b1) => bf (if v < 16 then b0 else b1) (2 * (v % 16) + 1) (2 * (v % 16))
  | none => s.bindOf v

/-- Fire every vector whose OR rises between two settings of a VI's interrupt registers. -/
def State.vectors (s : State) (v : Nat) (p0 e0 : Word) (m0 : Nat → Nat) : State :=
  s.makeReady (((List.range 16).filter fun n =>
      !vectorOn p0 e0 m0 n && vectorOn (s.rdv v 0x180) (s.rdv v 0x184) (s.irqMap v) n).flatMap (s.vectorMsg v))

/-- Set source `i` of VI `v` pending, and fire the vector whose OR rises (R433, R434). -/
def State.pend (s : State) (v i : Nat) : State :=
  (s.wbitv v 0x180 i true).vectors v (s.rdv v 0x180) (s.rdv v 0x184) (s.irqMap v)

/-- Pend source `i` in every VI. -/
def State.pendAll (s : State) (i : Nat) : State := s.each (List.range 32) fun s v => s.pend v i

/-- Pend source `i` in the VI that owns a resource, if one does. -/
def State.pendOwner (s : State) (c : Kind) (r i : Nat) : State :=
  match s.owner c r with
  | .vi v => s.pend v i
  | _ => s

/-! ### Producers -/

/-- The unit's own address, 0 while no tree is joined (R65). -/
def State.unit (s : State) : Byte := BitVec.ofNat 8 (s.fld 0x3404 31 24)

/-- An assertion of producer `p` with a stamp. -/
def State.srcOf (s : State) (p : Nat) (stamp : Time) : Src :=
  { prod := p, stamp := stamp, unit := s.unit, swf := false, swvi := 0, ch := 0, imp := false, late := false,
    multi := false, prov := s.time.handoff }

/-- Put an assertion into resynchronisation stage 1 in this cycle (R57); while FCLK is stopped it is lost without count
(R186). -/
def State.assertSrc (s : State) (x : Src) : State :=
  if s.time.fclk then { s with fab := { s.fab with inflight := s.fab.inflight ++ [(0, x)] } } else s

/-- Producer `p` asserts in this cycle; its stamp is the start of the cycle (R30). -/
def State.fireP (s : State) (p : Nat) : State := s.assertSrc (s.srcOf p s.now)

/-- Set the level of marker producer `p` (0 to 63); a rise is an assertion (R46, R49). -/
def State.setLevel (s : State) (p : Nat) (b : Bool) : State :=
  let rose := b && !s.fab.lv0.getLsbD p
  let s := { s with fab := { s.fab with lv0 := setBit s.fab.lv0 p b } }
  if rose then s.fireP p else s

/-! ### Fault records -/

/-- Make a posted-write fault record in VI `v` (R419, R420): the lowest free slot, or a count when none is free; none
while the VI is in reset. Producer 177 fires and source PWF pends. -/
def State.pwf (s : State) (v ofs tag port reason : Nat) (remote : Option (Nat × Nat)) : State :=
  if (s.vi v).inReset then s
  else
    let s := s.setVi v { s.vi v with faulted := true }
    match (List.range 8).find? fun r => !s.bitv v 0x124 r with
    | none => s.wrv v 0x124 (satFld (s.rdv v 0x124) 31 16 1)
    | some r =>
      let b := 0x200 + 0x10 * r
      let addr := match remote with
        | some (u, rv) => setFld (setFld (setFld (setBit (0 : Word) 31 true) 28 24 rv) 23 16 u) 15 0 ofs
        | none => setFld (0 : Word) 15 0 ofs
      let s := s.wrv v b addr
      let s := s.wrv v (b + 4) (setFld (setFld (setFld (0 : Word) 31 16 tag) 9 8 port) 3 0 reason)
      let s := (s.wrv v (b + 8) (lo32 s.now)).wrv v (b + 12) (hi32 s.now)
      ((s.wbitv v 0x124 r true).fireP 177).pend v 0

/-! ### The late rule -/

/-- Where an action's own LATE and DROPPED flags and its lateness register stand: status register, LATE bit, DROPPED
bit, lateness register (0: none). WAIT_TIME (0x02), link events (0x07) and held events (0x09) have no flags of their own. -/
def lateRegs (kind i : Nat) : Option (Nat × Nat × Nat × Nat) :=
  if kind = 1 then some (devKey (0x60C + 0x10 * i), 2, 3, devKey (0x580 + 4 * i))
  else if kind = 3 then some (devKey (0x1008 + 0x80 * i), 12, 13, devKey (0x1024 + 0x80 * i))
  else if kind = 4 then some (devKey (0x1C2C + 0x80 * i), 6, 7, devKey (0x1C30 + 0x80 * i))
  else if kind = 5 then some (devKey (0x2848 + 0x40 * i), 2, 3, devKey (0x2860 + 0x40 * i))
  else if kind = 6 then some (devKey (0x2E14 + 0x80 * (i % 2)), 6, 7, devKey (0x2E2C + 0x80 * (i % 2)))
  else if kind = 8 then some (viKey i 0x440, 2, 3, 0)
  else none

/-- Where an action's ARMED bit stands: register and bit. -/
def armedBit (kind i : Nat) : Option (Nat × Nat) :=
  if kind = 1 then some (devKey (0x60C + 0x10 * i), 0)
  else if kind = 3 then some (devKey (0x1008 + 0x80 * i), 2)
  else if kind = 5 then some (devKey (0x2848 + 0x40 * i), 0)
  else if kind = 8 then some (viKey i 0x440, 0)
  else none

/-- The VI that keeps an action's late record, and the instance number it records (R44). -/
def State.actVi (s : State) (kind i : Nat) : Nat × Nat :=
  if kind = 1 then (s.ownerVi .evg i, s.relNum .evg i)
  else if kind = 2 ∨ kind = 3 then (s.ownerVi .seq i, s.relNum .seq i)
  else if kind = 4 then (s.ownerVi .aout i, s.relNum .aout i)
  else if kind = 5 then (s.ownerVi .trg i, s.relNum .trg i)
  else if kind = 6 then (s.ownerVi .misc 0, i % 2)
  else if kind = 7 then
    match s.owner .evg (i % 32 / 2) with
    | .vi v => (v, ((s.owned v .evg).findIdx? (· = i % 32 / 2)).getD 0 * 2 + i % 2)
    | _ => (0, i % 32)
  else if kind = 8 then (i, 0)
  else (s.conVi i, if s.physView (s.conVi i) then i else ((s.toVirt (s.conVi i) conMap i).getD i))

/-- The late record of R44 in a VI: count, lateness, kind and instance; source LATE pends. -/
def State.lateRecord (s : State) (v inst kind : Nat) (l : Word) (dropped : Bool) : State :=
  let s := s.incSatv v 0x52C 1
  let s := s.wrv v 0x530 l
  let src : Word := setFld (setFld (setBit (setBit 0 31 true) 16 dropped) 15 8 inst) 7 0 kind
  (s.wrv v 0x534 src).pend v 13

/-- The signed lead d of R41. -/
def lead (target now : Time) : Int := (target - now).toInt

/-- The keeper at one edge of the 32.768 kHz clock: 781,250 TU plus TRIM/64 TU more (R12). -/
def keeperStep (keep : Time) (frac : BitVec 6) (trim : Int) : Time × BitVec 6 :=
  let t : Int := frac.toNat + trim
  (keep + 781250 + BitVec.ofInt 64 (t / 64), BitVec.ofInt 6 (t % 64))

/-- The earliest moment a late action of a kind can act, in TU after its arming moment (R43, R238, R264, R298, R336,
R375, R493). -/
def earliestDelay (kind : Nat) : Nat :=
  if kind = 3 then 2048 else if kind = 5 ∨ kind = 6 then 128 else if kind = 7 then 160 else 32

/-- Set or clear an action's ARMED bit. -/
def State.markArmed (s : State) (a : ActId) (b : Bool) : State :=
  match armedBit a.kind.val a.inst.val with
  | some (k, i) => s.setKey k (setBit (s.getKey k) i b)
  | none => s

/-- Record a late judgement with lateness `l`: the action's own flags, then the record of its VI (R44). -/
def State.recordLate (s : State) (a : ActId) (l : Word) (dropped : Bool) : State :=
  let s := match lateRegs a.kind.val a.inst.val with
    | some (k, lb, db, lr) =>
      let s := s.setKey k (setBit (s.getKey k) lb true)
      let s := if dropped then s.setKey k (setBit (s.getKey k) db true) else s
      if lr = 0 then s else s.setKey lr l
    | none => s
  let (v, i) := s.actVi a.kind.val a.inst.val
  s.lateRecord v i a.kind.val l dropped

/-- The late judgement of R41 to R44 at `now`, which lies `ahead` TU after the cycle in progress: an action whose lead is below 2,048 TU is late, is recorded, and is
dropped under LATE_DROP or acts no earlier than its earliest moment under LATE_FIRE. -/
def State.judgeAt (ahead : Nat) (s : State) (a : ActId) (x : Act) (now : Time) : State :=
  let d := lead x.target now
  if d < 2048 then
    let s := s.recordLate a (sat32 (2048 - d).toNat) x.drop
    if x.drop then (s.setAct a {}).markArmed a false
    else s.setAct a { x with defer := false, late := true, earliest := s.time.mono + ahead + earliestDelay a.kind.val }
  else s.setAct a { x with defer := false }

/-- The late judgement in the cycle in progress. -/
def State.judge (s : State) (a : ActId) (x : Act) (now : Time) : State := s.judgeAt 0 a x now

/-- An alarm that runs in the always-on domain (R37): ALM0 to ALM3 with PRIME = 0. -/
def State.aoAlarm (s : State) (a : ActId) : Bool :=
  a.kind.val = 1 && a.inst.val < 4 && !s.bit (0x608 + 0x10 * a.inst.val) 4

/-- The power domains a scheduled action needs (R40): a sequencer's are SEQ and those of the channels and banks it binds (R257); an
always-on alarm's is AO alone (R37). -/
def State.actDoms (s : State) (a : ActId) : List Nat :=
  let i := a.inst.val
  match a.kind.val with
  | 1 => if s.aoAlarm a then [0] else [2]
  | 2 => [3]
  | 3 => 3 :: ((List.range 16).filter fun j => s.bit (0x100C + 0x80 * i) j).map (6 + ·)
  | 4 => [6 + i]
  | 5 => [22]
  | 6 => [23]
  | _ => [2]

/-- The arming moment has come: every domain the action needs runs and HANDOFF = 0 (R40). -/
def State.actReady (s : State) (a : ActId) : Bool :=
  s.time.fclk && !s.time.handoff && (s.actDoms a).all s.domOn

/-- Arm a scheduled action with a target and a policy (R34, R40): judged now, or at its arming moment when the domains
it needs do not run yet. Arming an armed action replaces it. -/
def State.armAct (s : State) (a : ActId) (x : Act) : State :=
  let s := (s.setAct a x).markArmed a true
  if s.actReady a then s.judge a x s.now else s
def State.arm (s : State) (a : ActId) (target : Time) (drop : Bool) (data : Nat) : State :=
  s.armAct a { armed := true, target := target, drop := drop, defer := true, data := data }

/-- Disarm a scheduled action. -/
def State.disarm (s : State) (a : ActId) : State := (s.setAct a {}).markArmed a false

/-- Re-examine every armed action that has been judged and was not late, as at a step of the time (R28). -/
def State.reexamine (s : State) (ahead : Nat) (now : Time) (p : Nat → Bool) : State :=
  s.each (s.acts.filter fun e => p e.1 && e.2.armed && !e.2.late && !e.2.defer) fun s e =>
    s.judgeAt ahead (actId (e.1 / 512) (e.1 % 512)) e.2 now

/-- The target of an armed, judged action has come: at the target if it is in time, no earlier than its earliest moment
if it is late (R42, R43). -/
def State.actDue (s : State) (x : Act) : Bool :=
  x.armed && !x.defer && decide (0 ≤ lead s.now x.target) && (!x.late || decide (x.earliest ≤ s.time.mono))

end Sys2Proof.Machine
end

