-- ==== Sys2Proof/Machine/Trims.lean ====
section
/-! DEFINITION. Calibration items (14): their words and ranges, the base over the temperature sets, anchors and working
values, and when a working value is applied. An item is numbered KIND · 1024 + INDEX. -/

namespace Sys2Proof.Machine

/-- The number of an item, and the item of a set's word (R402). -/
abbrev itemKey (kind idx : Nat) : Nat := kind * 1024 + idx
def wordItem (w : Word) : Nat := bf w 31 16
def wordVal (w : Word) : Int := sext 16 (bf w 15 0)

/-- Every item of a kind and physical instance (R402). -/
def itemsOf (kind inst : Nat) : List Nat :=
  match kind with
  | 1 => (List.range 67).map fun c => itemKey 1 (inst * 128 + c)
  | 2 => (List.range 16).map fun p => itemKey 2 (inst * 16 + p)
  | 3 => (List.range 5).map fun l => itemKey 3 (inst * 8 + l)
  | 4 => [itemKey 4 0, itemKey 4 1]
  | 5 => (List.range 4).map fun k => itemKey 5 (inst * 4 + k)
  | _ => []

/-- The groups of items (KIND, instance), and every item, in ascending order. -/
def calGroups : List (Nat × Nat) :=
  (List.range 8).map (fun n => (1, n)) ++ (List.range 8).map (fun n => (2, n)) ++ [(3, 0), (3, 1), (4, 0)] ++
    (List.range 4).map fun n => (5, n)
def allItems : List Nat := calGroups.flatMap fun g => itemsOf g.1 g.2

/-- The range of an item's value (R399, R402). -/
def itemRange (k : Nat) : Int × Int :=
  match k / 1024 with
  | 1 => (-511, 511)
  | 2 => (-255, 255)
  | 3 => (-64, 64)
  | 4 => if k % 1024 = 0 then (-128, 128) else (-2000, 2000)
  | _ => if k % 4 = 0 then (0, 15) else (-31, 31)

def inRange (k : Nat) (v : Int) : Bool := decide ((itemRange k).1 ≤ v) && decide (v ≤ (itemRange k).2)
def clampItem (k : Nat) (v : Int) : Int := max (itemRange k).1 (min (itemRange k).2 v)

/-- The value a set holds for an item. -/
def CalSet.find (c : CalSet) (k : Nat) : Option Int := (c.words.find? fun w => wordItem w == k).map wordVal

/-- Rounding half away from zero. -/
def roundHalf (a : Int) (b : Nat) : Int :=
  if 0 ≤ a then (2 * a + b) / (2 * b : Nat) else -((2 * -a + b) / (2 * b : Nat))

/-- The base B(T) of an item over sets, with whether it was clamped (R404). -/
def baseOf (sets : Tab (Option CalSet)) (k : Nat) (t : Int) : Int × Bool :=
  let pts := sets.filterMap fun e => e.2.bind fun c => (c.find k).map fun v => (c.temp, v)
  let lo := (pts.filter fun p => decide (p.1 ≤ t)).foldl (fun (m : Option (Int × Int)) p => match m with
    | some q => if q.1 < p.1 then some p else m
    | none => some p) none
  let hi := (pts.filter fun p => decide (t < p.1)).foldl (fun (m : Option (Int × Int)) p => match m with
    | some q => if p.1 < q.1 then some p else m
    | none => some p) none
  match lo, hi with
  | some p, some q => (p.2 + roundHalf ((q.2 - p.2) * (t - p.1)) (q.1 - p.1).toNat, false)
  | some p, none => (p.2, decide (2 ≤ pts.length))
  | none, some q => (q.2, decide (2 ≤ pts.length))
  | none, none => (clampItem k (Config.fuseTrim k), false)

/-- B(T) over the sets loaded. -/
def State.base (s : State) (k : Nat) (t : Int) : Int := (baseOf s.cal.sets k t).1

/-- An item's anchor: the last one taken, or the base at the moment every item was re-anchored (R405). -/
def State.anchor (s : State) (k : Nat) : Anchor :=
  match Tab.get (fun _ => none) s.cal.anchors k with
  | some a => a
  | none => { a := (baseOf s.cal.refSets k s.cal.refTemp).1, t := s.cal.refTemp }

/-- The working value of an item at the temperature last evaluated (R405). -/
def State.working (s : State) (k : Nat) : Int :=
  let a := s.anchor k
  clampItem k (a.a + s.base k s.cal.temp - s.base k a.t)

/-- The trim in force of an item: the fuse value until a working value is applied. -/
def State.trim (s : State) (k : Nat) : Int :=
  (Tab.get (fun _ => none) s.cal.applied k).getD (clampItem k (Config.fuseTrim k))

/-- The working values of a group have changed, and wait for the moment of R405. -/
def State.dirtyTrims (s : State) (kind inst : Nat) : State :=
  { s with cal := { s.cal with dirty := Tab.set (fun _ => false) s.cal.dirty (16 * kind + inst) true } }
def State.trimsDirty (s : State) (kind inst : Nat) : Bool := Tab.get (fun _ => false) s.cal.dirty (16 * kind + inst)

/-- A foreground calibration of a kind runs on an instance. -/
def State.calOn (s : State) (kind inst : Nat) : Bool := s.cal.run.any fun r => r.2.1 == kind && r.2.2 == inst

/-- The working values of a group apply. -/
def State.applyTrims (s : State) (kind inst : Nat) : State :=
  if !s.trimsDirty kind inst then s
  else
    let ap := (itemsOf kind inst).foldl (fun t k => Tab.set (fun _ => none) t k (some (s.working k))) s.cal.applied
    { s with cal := { s.cal with applied := ap, dirty := Tab.set (fun _ => false) s.cal.dirty (16 * kind + inst) false } }

end Sys2Proof.Machine
end

