-- ==== Sys2Proof/Machine/Halt.lean ====
section
/-! DEFINITION. Halting and parking: what every cause that stops a sequencer or parks an output does (R282, R283, R302,
R339), shared by the stops and faults of a sequencer, SAFE, core reset, VI reset and the partition edit. -/

namespace Sys2Proof.Machine

/-- Register bases of sequencer, analog channel, pattern bank and trigger. -/
abbrev seqR (k : Nat) : Nat := 0x1000 + 0x80 * k
abbrev aoutR (n : Nat) : Nat := 0x1C00 + 0x80 * n
abbrev pbR (k : Nat) : Nat := 0x2000 + 0x100 * k
abbrev trgR (n : Nat) : Nat := 0x2840 + 0x40 * n

/-- A sequencer's STATE: 0 HALTED, 1 STAGED, 2 RUNNING, 3 HOLDING; the STATE of a bank and of the scan-out. -/
def State.seqState (s : State) (k : Nat) : Nat := s.fld (seqR k + 8) 1 0
def State.setSeqState (s : State) (k v : Nat) : State := s.wfld (seqR k + 8) 1 0 v
def State.seqOn (s : State) (k : Nat) : Bool := s.seqState k != 0
def State.pbState (s : State) (k : Nat) : Nat := s.fld (pbR k + 8) 1 0
def State.dispState (s : State) : Nat := s.fld 0x2C08 1 0

/-- Any sequencer, pattern bank or the scan-out is running (R104). -/
def State.anyRunning (s : State) : Bool :=
  (List.range 16).any s.seqOn || (List.range 8).any (fun k => s.pbState k != 0) || s.dispState != 0

/-- Whether SEQk binds analog channel `n`, and pattern bank `k`. -/
def State.bindsAout (s : State) (q n : Nat) : Bool := s.bit (seqR q + 0xC) n
def State.bindsBank (s : State) (q k : Nat) : Bool := s.bit (seqR q + 0xC) (8 + k)
/-- No sequencer makes the channel's samples: none bound has reached its first boundary, or all have halted. -/
def State.aoutIdle (s : State) (n : Nat) : Bool :=
  !(List.range 16).any fun q => decide (2 ≤ s.seqState q) && s.bindsAout q n
/-- A running sequencer is bound to the channel, to the bank. -/
def State.aoutPlaying (s : State) (n : Nat) : Bool := (List.range 16).any fun q => s.seqOn q && s.bindsAout q n
def State.bankPlaying (s : State) (k : Nat) : Bool := (List.range 16).any fun q => s.seqOn q && s.bindsBank q k

/-- The channel's output stands at park and PARKED says so (R302). -/
def State.parkAout (s : State) (n : Nat) : State :=
  let s := s.wbit (aoutR n + 0x2C) 2 true
  s.setAo n { s.ao n with lastCode := (s.rd (aoutR n + 0xC)).setWidth 16 }

/-- The channel's parameter lists and ramps end; the values reached stay (R282, R299). -/
def State.endLists (s : State) (n : Nat) : State :=
  s.setAo n { s.ao n with fList := none, aList := none, ramp := none, phaseRef := none }

/-- The drive state of a pin: 0 off, 1 low, 2 high; a list shorter than 16 pins reads off. -/
def PbSt.drv (x : PbSt) (j : Nat) : Nat := (x.drive[j]?).getD 0

/-- The pins of the bank take the park codes of PBk_PARK, in V2 encoding (R339); KP keeps the drive state. -/
def State.parkBank (s : State) (k : Nat) : State :=
  let x := s.pb k
  let codes := (List.range 16).map fun j => s.fld (pbR k + 0x1C) (2 * j + 1) (2 * j)
  s.setPb k { x with drive := (List.range 16).map fun j =>
    let c := (codes[j]?).getD 2
    if c = 0 then 1 else if c = 1 then 2 else if c = 2 then 0 else x.drv j }

/-- The bank stops playing: STATE idle, pins to park. -/
def State.stopBank (s : State) (k : Nat) : State :=
  let s := (s.wfld (pbR k + 8) 1 0 0).setPb k { s.pb k with stopAt := none }
  s.parkBank k

/-- Release the semaphores that satisfy `p`; with `ab`, with ABANDONED set, which raises source SEM_ABANDON in the owning
VI unless that VI is being reset (R430). -/
def State.releaseSems (s : State) (p : SemSt → Bool) (ab : Bool) : State :=
  s.each (s.sems.filter fun e => p e.2) fun s e =>
    let s := s.setSem e.1 { owner := none, epoch := 0, abandoned := ab }
    match e.2.owner with
    | some (v, _) => if ab && !(s.vi v).inReset then s.pend v 8 else s
    | none => s

/-- Whey is counted; a CNT_CLR of this cycle leaves what the cycle counted (R275, R514). -/
def State.addWhey (s : State) (k n : Nat) : State :=
  let c := s.cy (seqR k + 0x30)
  (s.setSq k { s.sq k with whey := (s.sq k).whey + BitVec.ofNat 48 n }).setCy (seqR k + 0x30)
    { c with added := c.added + BitVec.ofNat 32 n }

/-- The prefetched heads not taken are released as whey (R274, R275). -/
def State.releaseHeads (s : State) (k : Nat) : State :=
  let x := s.sq k
  let n := (x.heads.map (·.bytes)).sum
  (s.setSq k { x with heads := [] }).addWhey k n

/-- All markers of the sequencer to 0; pending pulse returns cancelled (R282). -/
def State.clearMarkers (s : State) (k : Nat) : State :=
  let s := s.each (List.range 4) fun s m => s.setLevel (4 * k + m) false
  (s.wfld (seqR k + 0x44) 11 8 0).setSq k { s.sq k with pulses := [] }

/-- The effective mode falls 8 FCLK cycles after the last running block stops (R106). -/
def State.noteStop (s : State) : State := if s.anyRunning then s else s.after 256 .runFall

/-- Sequencer `k` halts (R282): outputs to park, lists end, markers to 0, its halted producer fires, its demand leaves
ADMIT_USED, heads released, STATE HALTED with HALT_WHY; its semaphores are released, ABANDONED unless it halted by END
(R430). A halted sequencer only takes the markers' zero. -/
def State.haltSeq (s : State) (k why : Nat) : State :=
  if !s.seqOn k then s
  else
    let x := s.sq k
    let plays := decide (2 ≤ s.seqState k)
    let s := (s.setSeqState k 0).wfld (seqR k + 8) 27 24 why
    let s := s.wbit (seqR k + 8) 18 false
    let s := s.each ((List.range 8).filter (s.bindsAout k)) fun s n =>
      let s := ((s.endLists n).parkAout n).wbit (aoutR n + 0x2C) 0 false
      if plays then s.setAo n { s.ao n with upTo := x.tl.at_ x.done } else s
    let s := s.each ((List.range 8).filter (s.bindsBank k)) fun s b => s.stopBank b
    let s := (s.clearMarkers k).fireP (154 + k)
    let s := s.wr 0x1824 (BitVec.ofNat 32 (s.fld 0x1824 15 0 - x.demand))
    let s := (s.wbit (0x1840 + 4 * k) 17 false).releaseHeads k
    let s := s.setSq k { s.sq k with eff := [], cur := .idle, plan := .idle, target := none, aim := none, queue := [], halt := none,
                                     stopT := none, ecc := none, stopStep := 0, arrived := none, underrun := none, demand := 0,
                                     started := false, snap := none, took := 0, loose := false }
    let s := s.releaseSems (fun m => match m.owner with
      | some (_, some q) => q == k
      | _ => false) (why != 1)
    (s.pendOwner .seq k 9).noteStop

/-- Trigger `n` goes to its idle level at once (R339). -/
def State.cutTrg (s : State) (n : Nat) : State :=
  (s.setTrg n { s.trg n with leads := [], busyTo := 0, trail := 0 }).wbit (trgR n + 8) 1 false

/-- Sequencers halt, and every analog channel, pattern pin and trigger output goes to park (R121, R132). -/
def State.parkAll (s : State) (why : Nat) : State :=
  let s := s.each (List.range 16) fun s k => s.haltSeq k why
  let s := s.each (List.range 8) fun s n => s.parkAout n
  let s := s.each (List.range 8) fun s k => s.stopBank k
  s.each (List.range 8) fun s n => s.cutTrg n

end Sys2Proof.Machine
end

