-- ==== Sys2Proof/Machine/Power.lean ====
section
/-! DEFINITION. The effective mode (R104 to R106), entry into SAFE (R120 to R122), and the power domains' sequence (R124 to
R127): the operations that the rows of chapter 04, the register writes and the other blocks share. -/

namespace Sys2Proof.Machine

/-! ### Power domains -/

/-- An enable wants domain `d` (Power domains, R124). -/
def State.enableWants (s : State) (d : Nat) : Bool :=
  if d < 3 ∨ d = 4 ∨ d = 5 then true
  else if d = 3 then (List.range 16).any fun k => s.bit (seqR k) 0
  else if d < 14 then s.bit (aoutR (d - 6)) 0
  else if d < 22 then s.bit (pbR (d - 14)) 0
  else if d = 22 then (List.range 8).any fun n => s.bit (trgR n) 0
  else if d = 23 then s.bit 0x2C00 0
  else if d < 28 then s.bit (0x3500 + 0x40 * (d - 24)) 0
  else (List.range 32).any fun v => s.bindOf v == 1 || s.bindOf v == 2

/-- An event is held for one of the domain's consumers (R61, R126). -/
def State.heldFor (s : State) (d : Nat) : Bool := s.fab.heldC.any fun e => conDom e.1 == d

def State.wants (s : State) (d : Nat) : Bool := s.enableWants d || s.heldFor d

/-- The longest power-up of a domain from OFF, in TU (R124). -/
def powerUpTu (d : Nat) : Nat :=
  if d = 3 ∨ d = 22 then us 1 else if d < 14 then us 6 else if d < 22 then us 2 else if d = 23 then us 12
  else if d < 28 then us 1200 else us 2

/-- The domains that enables gate: SEQ, ANA, PATB, TRG, DISP, KL and HOST. -/
def gated : List Nat := 3 :: (List.range 23).map (· + 6)

/-! ### The effective mode -/

/-- The request of VI `v` as R104 counts it: a VI0 request of 4 outside SERVICE counts as PRIMED. -/
def State.reqCode (s : State) (v : Nat) : Nat :=
  let r := s.fldv v 0x400 2 0
  if r = 4 then 2 else r

/-- The mode each scheduled action calls for: PRIMED from its wake point, its own mode for a timed mode change, RUN from
256 TU before a timed start (R104). -/
def Act.calls (kind : Nat) (x : Act) : Nat :=
  if !x.armed then 0 else if x.raised then 3 else if x.primed then (if kind = 8 then x.data else 2) else 0

/-- The highest mode that anything calls for (R104), as a code from 1 to 3; a foreground calibration holds PRIMED
(R391). -/
def State.wantedMode (s : State) : Nat :=
  let reqs := ((List.range 32).map s.reqCode).foldl max 1
  let acts := (s.acts.map fun e => e.2.calls (e.1 / 512)).foldl max 1
  let run := if s.anyRunning then 3 else 1
  let hold := if s.time.mono < s.mode.holdUntil ∨ s.cal.run ≠ none then 2 else 1
  max (max reqs acts) (max run hold)

/-- The mode in force becomes `m`; source MODE pends in every VI when it changed (R433). -/
def State.setEff (s : State) (m : Mode) : State :=
  if s.mode.eff = m then s else ({ s with mode := { s.mode with eff := m } }).pendAll 24

def State.setTrans (s : State) (t : Trans) : State := { s with mode := { s.mode with trans := t } }

/-- The hold of R104: PRIMED for MODE_CFG.HOLD ms from now. -/
def State.startHold (s : State) : State :=
  let t := s.time.mono + ms (s.fld 0x410 23 16)
  ({ s with mode := { s.mode with holdUntil := t } }).at_ t .holdExpiry

/-- The bit of WAKE_SRC for a source (R109); a wake by a SAFE cause or by a request sets none. -/
def wakeBit : WakeSrc → Option Nat
  | .tin n => some n.val
  | .alm n => some (4 + n.val)
  | .key => some 8
  | .kl0 => some 9
  | .host => some 10
  | .sched => some 11
  | .safe => none

/-- The sources of a wake as WAKE_SRC records them (R109). -/
def wakeSrcWord (l : List WakeSrc) : Word :=
  l.foldl (fun w x => match wakeBit x with
    | some i => setBit w i true
    | none => w) 0

/-- The states domains take at the start of a wake (R126, R116): each wanted one powers up from then on; a HOST domain
kept in retention is on. -/
def State.wakeDoms (s : State) : State :=
  let s := s.each [1, 2, 4, 5] fun s d => s.setDom d 1
  s.each gated fun s d =>
    if s.wants d then
      if d = 28 ∧ s.dom d = 6 then s.setDom d 2
      else (s.setDom d 1).after (powerUpTu d) (.domainPowerUpDone (Fin.ofNat 29 d))
    else s.setDom d 0

/-- A reference is switched on: the REFIN receiver, or a stable HFXO (R171). -/
def State.refRuns (s : State) (src : Nat) : Bool :=
  if src = 0 then s.bit 0x1B04 2 else if src = 1 then s.bit 0x1B08 16 else true

/-- The frequency of a reference in Hz; REFIN and HFXO are the board's. -/
def State.refHz (s : State) (src : Nat) : Nat :=
  if src = 0 then s.refinHz else if src = 1 then s.hfxoHz else if src = 2 then 64000000
  else if src = 3 then 125000000 else 800000000

/-- The length of a wake window in TU: the largest whole number of injection cycles that fits in 2 µs (R178). -/
def State.wakeTu (s : State) (x : Nat) : Nat :=
  let hz := max 1 (s.refHz (s.fld (0x1A04 + 0x40 * x) 2 0))
  let div := s.fld (0x1A04 + 0x40 * x) 11 8 + 1
  (us 2 * hz / (div * 25600000000)) * div * 25600000000 / hz

/-- The wake window of synthesizer `x` begins, where its reference has edges; FCLK has them once SYN-A clocks it. -/
def State.wakeTry (s : State) (x : Nat) : State :=
  let y := s.sy x
  let src := s.fld (0x1A04 + 0x40 * x) 2 0
  if y.acquiring && y.retained && !y.lost && s.refRuns src && (src != 4 || s.time.fclk) then
    s.after (s.wakeTu x) (.wakeWindow (Fin.ofNat 4 x) 0)
  else s

/-- Start a wake (R109): WAKE_SRC is replaced by its sources, PRIMED is held, wanted domains power up, and the
synthesizers restart from their retained codes (R178) through the row WAKE_WINDOW; one that RANGE has stopped stays so (R177). -/
def State.startWake (s : State) (src : List WakeSrc) (t : Trans) : State :=
  let s := (((s.wr 0x430 (wakeSrcWord src)).touch (devKey 0x430) (wakeSrcWord src)).setTrans t).wakeDoms
  let s := { s with mode := { s.mode with wakeAfter := [] } }
  let s := s.startHold
  let s := s.each ((List.range 4).filter fun x => (s.sy x).running && !(s.sy x).ranged) fun s x =>
    (s.setSy x { s.sy x with acquiring := true, retained := true, windows := 0, lfsr := s.rd (0x1A18 + 0x40 * x),
                             lfsrAt := s.time.mono }).wakeTry x
  s.after (us 18) .wakeSlow

/-- Re-evaluate the effective mode (R104): raise to RUN, arrange the fall from RUN (R106), the descent to LISTEN (R115)
or the wake from it. SERVICE, SAFE, a transition in progress and start-up are left alone. -/
def State.reviewMode (s : State) : State :=
  if s.mode.trans ≠ .none ∨ s.rst.phase ≠ 5 ∨ s.rst.coreBusy = true then s
  else match s.mode.eff with
    | .primed =>
      if s.wantedMode = 3 then (if s.mode.runAt ≤ s.time.mono then s.setEff .run else s)
      else if s.wantedMode = 1 then s.after 0 .descentStart else s
    | .run => if s.wantedMode = 3 then s else s.after 256 .runFall
    | .listen => if 2 ≤ s.wantedMode then s.startWake [] .waking else s
    | _ => s

/-- An accepted start raises PRIMED to RUN, `tu` after acceptance (R106); a raise that is under way already comes no later for it. -/
def State.raiseRun (s : State) (tu : Nat) : State :=
  if s.mode.eff = .primed then
    let t := s.time.mono + tu
    let t := if s.time.mono < s.mode.runAt then min s.mode.runAt t else t
    ({ s with mode := { s.mode with runAt := t } }).at_ t .holdExpiry
  else s

/-- A wake has done what it includes (R116, R117): the wanted domains but the link ports are on, and SYN-B to SYN-D are locked
or past their wake windows. -/
def State.wakeDone (s : State) : Bool :=
  (gated.all fun d => s.dom d != 1 || (decide (24 ≤ d) && decide (d < 28))) &&
    [1, 2, 3].all fun x => !((s.sy x).acquiring && (s.sy x).retained && !(s.sy x).lost)

/-- A wake goes on to PRIMED when it is done. -/
def State.wakeOn (s : State) : State :=
  if (s.mode.trans = .waking ∨ s.mode.trans = .shelfExit) ∧ s.wakeDone then s.after 0 .primedReached else s

/-- READY is driven high (R129); low from the assertion of a reset deeper than core (R142). -/
def State.ready (s : State) : Bool :=
  !s.rst.req.any (fun r => decide (r.level < 3)) && (s.mode.eff == .primed || s.mode.eff == .run) && s.time.fclk && !s.time.handoff && s.mode.trans == .none

/-- Starts are refused in SERVICE, from the cycle the request is accepted, and in SAFE (R118, R122). -/
def State.noStart (s : State) : Bool :=
  s.mode.eff == .service || s.mode.eff == .safe || s.mode.trans == .toService || s.mode.svc

/-- A refused mode request or command: REFUSED in the VI, with the reason (R103). -/
def State.refuseMode (s : State) (v why : Nat) : State := (s.wbitv v 0x404 16 true).wfldv v 0x40C 3 0 why

/-! ### SAFE -/

/-- The kinds SAFE disarms: timed starts, trigger pulses, frame starts and mode changes (R121). -/
def safeDisarms (kind : Nat) : Bool := kind == 3 || kind == 5 || kind == 6 || kind == 8

/-- Disarm the actions of R121, each counted in SAFE_DISARM, with its DROPPED flag. -/
def State.safeDisarm (s : State) : State :=
  s.each (s.acts.filter fun e => e.2.armed && safeDisarms (e.1 / 512)) fun s e =>
    let a := actId (e.1 / 512) (e.1 % 512)
    let s := (s.disarm a).incSat 0x420 1
    match lateRegs (e.1 / 512) (e.1 % 512) with
    | some (k, _, db, _) => (s.setKey k (setBit (s.getKey k) db true)).touch k (1 <<< db)
    | none => s

/-- The SAFE posture (R121): playback halts, outputs to park, SAFE_N low, producer 173 once, the count and the time, and
the timed actions disarmed. A foreground calibration is aborted. -/
def State.safePosture (s : State) : State :=
  let s := (s.parkAll 6).setTrans .none
  let s := ({ s with mode := { s.mode with safeN := false, wakeAfter := [], svc := false } }).setEff .safe
  let s := ((s.fireP 173).incSat 0x41C 1).wr64 0x424 0x428 s.now
  (s.safeDisarm.pendAll 12).after 0 (.calAbort .safe)

/-- A SAFE cause arises (R120): it is recorded, CMD counting as cleared at once; awake it enters SAFE, adds to a SAFE in force (R122), and otherwise is
latched: in SHELF and on the way to it from LISTEN (log entry 99), in a descent, during start-up; in LISTEN it starts a wake into
SAFE. -/
def State.safeCause (s : State) (c : Nat) : State :=
  let s := (if c = 4 then s else s.wbit 0x418 c true).wbit 0x418 (8 + c) true
  if s.mode.eff = .safe then s
  else if s.rst.phase ≠ 5 ∨ s.mode.eff = .shelf ∨ s.mode.trans = .shelfExit ∨ s.mode.trans = .toShelf then
    { s with mode := { s.mode with latched := s.mode.latched ||| (1 <<< c) } }
  else match s.mode.trans with
    | .descent _ => { s with mode := { s.mode with latched := s.mode.latched ||| (1 <<< c), wakeAfter := s.mode.wakeAfter ++ [.safe] } }
    | .waking => { s with mode := { s.mode with latched := s.mode.latched ||| (1 <<< c) } }
    | _ => if s.mode.eff = .listen then
        ({ s with mode := { s.mode with latched := s.mode.latched ||| (1 <<< c) } }).startWake [.safe] .waking
      else s.safePosture

/-- A SAFE cause has cleared: it leaves SAFE_CAUSE.ACTIVE (R120, R123). -/
def State.clearCause (s : State) (c : Nat) : State := s.wbit 0x418 c false

/-- When a domain that is no longer wanted starts gating, plus one; 0 while it is wanted. -/
def State.unwanted (s : State) (d : Nat) : Nat := Tab.get (fun _ => 0) s.mode.unwanted d
def State.setUnwanted (s : State) (d t : Nat) : State :=
  { s with mode := { s.mode with unwanted := Tab.set (fun _ => 0) s.mode.unwanted d t } }

/-- Review one domain after an enable or a held event changed (R124): power up from OFF, start the gating delay in force
now, or cancel it. In a domain that is still powering up the delay runs from the same moment, and gating waits until it is on. -/
def State.reviewDom (s : State) (d : Nat) : State :=
  let c := s.dom d
  if s.wants d then
    let s := s.setUnwanted d 0
    if c = 0 && s.powered then (s.setDom d 1).after (powerUpTu d) (.domainPowerUpDone (Fin.ofNat 29 d)) else s
  else if (c = 1 ∨ c = 2) ∧ s.unwanted d = 0 then
    let t := s.time.mono + us (s.fld 0x444 15 0)
    (s.setUnwanted d (t + 1)).at_ t (.domainGateStart (Fin.ofNat 29 d))
  else if c = 2 ∧ s.unwanted d ≤ s.time.mono + 1 then s.after 0 (.domainGateStart (Fin.ofNat 29 d))
  else s
def State.reviewDoms (s : State) : State := s.each gated fun s d => s.reviewDom d

/-- The offsets of a domain's block in the window. -/
def domRange (d : Nat) : Nat × Nat :=
  if d = 3 then (0x1000, 0x1800) else if 6 ≤ d ∧ d < 14 then (aoutR (d - 6), aoutR (d - 6) + 0x80)
  else if 14 ≤ d ∧ d < 22 then (pbR (d - 14), pbR (d - 14) + 0x100) else if d = 22 then (0x2800, 0x2A40)
  else if d = 23 then (0x2C00, 0x3000) else (0, 0)

/-- A register of live state: not configuration, that is neither covered by Rind nor buffered (R125). The model's own
registers at unlisted offsets are live state too. -/
def liveReg (o : Nat) : Bool :=
  match findRow regTable o with
  | some (r, _) => r.rind == 0 && r.rwb == 0
  | none => true

/-- The live state of a domain returns to its reset value (R125); a channel starts parked with the working values of its
set-points (R305). That of a scan-out whose start waits for the domain began with the start. -/
def State.resetLive (s : State) (d : Nat) : State :=
  if d = 23 && s.disp.waiting then s else
  let (lo, hi) := domRange d
  let s := { s with regs := Tab.keep (fun k => !(lo ≤ k && k < hi && liveReg k)) s.regs }
  if d = 3 then { s with seqs := [] }
  else if 6 ≤ d ∧ d < 14 then
    let n := d - 6
    s.setAo n { freq := (cat64 (s.rd (aoutR n + 0x14)) (s.rd (aoutR n + 0x10))).setWidth 48,
                phase := (s.rd (aoutR n + 0x18)).setWidth 16, ampl := (s.rd (aoutR n + 0x1C)).setWidth 16,
                offs := (s.rd (aoutR n + 0x20)).setWidth 16, upTo := s.time.mono, lastCode := (s.rd (aoutR n + 0xC)).setWidth 16 }
  else if 14 ≤ d ∧ d < 22 then (s.setPb (d - 14) {}).parkBank (d - 14)
  else if d = 22 then s.each (List.range 8) fun s n => s.setTrg n { locked := (s.trg n).locked }
  else if d = 23 then { s with disp := {} }
  else s

/-- The consumers of a domain for which an event is held. -/
def State.heldCons (s : State) (d : Nat) : List Nat := (s.fab.heldC.filter fun e => conDom e.1 == d).map (·.1)

/-- The states the domains take in LISTEN, and in SHELF (R126). -/
def State.sleepDoms (s : State) (shelf : Bool) : State :=
  let s := { s with mode := { s.mode with unwanted := [] } }
  s.each ((List.range 28).map (· + 1)) fun s d =>
    let c :=
      if d = 1 then 6
      else if shelf then 0
      else if d = 4 ∨ d = 5 then 6
      else if d = 24 then (if s.bit 0x3500 0 then 6 else 0)
      else if d = 28 then (if s.enableWants 28 then 6 else 0)
      else 0
    s.setDom d c

end Sys2Proof.Machine
end

