-- ==== Sys2Proof/Machine/Synth.lean ====
section
/-! DEFINITION. Synthesizers (06): muting, lock detection, wake, glide, divider updates. Bases SYNx at 0x1A00 + 0x40·x, x 0 to
3 for A to D. Status bits of SYNx_STATUS: 0 LOCKED, 1 MUTED, 2 GLIDING, 3 HOLDOVER, 4 WAKE_LOCK, 5 GRID, 8 LOL, 9 REF_LOSS,
10 UPD_REFUSED, 11 GLIDE_REFUSED, 12 RANGE, 13 WAKE_SLOW. -/

namespace Sys2Proof.Machine

abbrev synR (x : Nat) : Nat := 0x1A00 + 0x40 * x
/-- SYNx_STATUS, and one of its bits. -/
abbrev synSt (x : Nat) : Nat := synR x + 0x1C
def State.synBit (s : State) (x i : Nat) : Bool := s.bit (synSt x) i
def State.wsyn (s : State) (x i : Nat) (b : Bool) : State := s.wbit (synSt x) i b

/-- The reference codes a synthesizer accepts (References). -/
def synSrcOk (x src : Nat) : Bool := src = 0 || src = 1 || (if x = 0 then src = 2 || src = 3 else src = 4)

/-- The effective offset now, in ppb: the ramp of R182 from the offset at `glideAt` towards the target, at `slew` ppm per µs. -/
def State.ofsAt (s : State) (x slew : Nat) : Int :=
  let y := s.sy x
  let tgt := sext 24 (s.fld (synR x + 0x10) 23 0)
  let moved := ((s.time.mono - y.glideAt) * slew * 1000 / 25600 : Nat)
  if tgt - y.eff ≤ moved ∧ y.eff - tgt ≤ moved then tgt
  else if y.eff < tgt then y.eff + moved else y.eff - moved
/-- The same at the rate of SYNx_SLEW. -/
def State.effOfs (s : State) (x : Nat) : Int := s.ofsAt x (s.fld (synR x + 0x14) 7 0)

/-- One step of the dither generator, with feedback polynomial x^32 + x^22 + x^2 + x + 1 (R173). -/
def lfsrNext (w : Word) : Word := (w <<< 1) ||| (if (tb w 31 ^^ tb w 21 ^^ tb w 1 ^^ tb w 0) then 1 else 0)

/-- The dither generator of synthesizer `x` now: its seed, stepped once for each injection cycle since the loop started (R173, log
entry 97). -/
def State.dither (s : State) (x : Nat) : Word :=
  let y := s.sy x
  let n := (s.time.mono - y.lfsrAt) * s.refHz (s.fld (synR x + 4) 2 0) / ((s.fld (synR x + 4) 11 8 + 1) * 25600000000)
  Nat.repeat lfsrNext n y.lfsr

/-- The ratio in force scaled by 2^24 · 10^9 (R172). -/
def State.synRatio (s : State) (x : Nat) : Nat :=
  (s.fld (synR x + 8) 31 24 * 2 ^ 24 + s.fld (synR x + 8) 23 0) * (1000000000 + s.effOfs x).toNat

/-- The period of a synthesizer's output as a ratio of TU (R172); SYN-D's is divided by 2^POST (R168, log entry 107). Without a
reference frequency it counts for nothing. -/
def State.outPeriod (s : State) (x : Nat) : Nat × Nat :=
  let n := 25600000000 * (s.fld (synR x + 4) 11 8 + 1) * 2 ^ 24 * 1000000000 * (if x = 3 then 2 ^ s.fld (synR x + 4) 14 12 else 1)
  let d := s.refHz (s.fld (synR x + 4) 2 0) * s.synRatio x
  if d = 0 then (32, 1) else (n, d)

/-- The length of one lock-detector window in TU (R175). -/
def State.windowTu (s : State) (x : Nat) : Nat :=
  2 ^ s.fld (synR x + 0xC) 4 0 * (s.fld (synR x + 4) 11 8 + 1) * 25600000000 / max 1 (s.refHz (s.fld (synR x + 4) 2 0))

/-- Whether the error of a window's count against the expected count of R175 is at most `tol`. -/
def State.within (s : State) (x count tol : Nat) : Bool :=
  let den := 2 ^ 24 * 1000000000
  let want := 2 ^ s.fld (synR x + 0xC) 4 0 * s.synRatio x
  decide (count * den ≤ want + tol * den) && decide (want ≤ count * den + tol * den)

/-- LOCK_TOL as used: at least 4 in fractional mode (R172, R175). -/
def State.lockTol (s : State) (x : Nat) : Nat :=
  let t := s.fld (synR x + 0xC) 23 16
  if s.fld (synR x + 8) 23 0 = 0 ∧ s.effOfs x = 0 then t else max t 4

/-- Grid-locked (R189): FCLK reference, integer mode, OFS = 0, as the target and as the offset in effect. -/
def State.gridLock (s : State) (x : Nat) : Bool :=
  s.fld (synR x + 4) 2 0 == 4 && s.fld (synR x + 8) 23 0 == 0 && s.fld (synR x + 0x10) 23 0 == 0 && s.effOfs x == 0

/-- The output's next falling edge at or after now, in elapsed TU (R181): the output falls half a period before each rising edge. -/
def State.nextFall (s : State) (x : Nat) : Nat :=
  let l := (s.sy x).out
  let r := l.at_ (l.from_ s.time.mono)
  let half := l.num / (2 * l.den)
  if s.time.mono + half ≤ r then r - half else r + half

/-- The length of an FCLK cycle in elapsed TU, as a fraction: 32 TU at 1.6 GHz, and at the rate SYN-A's divider makes of its reference
otherwise (R174). -/
def State.cycleFrac (s : State) : Nat × Nat :=
  let den := s.refHz (s.fld 0x1A04 2 0) * s.synRatio 0
  if den = 0 then (32, 1) else (32 * 1600000000 * (s.fld 0x1A04 11 8 + 1) * 2 ^ 24 * 1000000000, den)

/-- The elapsed time of the FCLK cycle in progress in TU, with what the cycles before left over and what a slew adds (R23, R174). -/
def State.cycleTu (s : State) : Nat :=
  ((((s.cycleFrac).1 + s.time.acc) / (s.cycleFrac).2 : Nat) + s.time.shift).toNat

/-- The output domain of a sequencer that a synthesizer clocks: 1 analog by SYN-B, 2 pattern by SYN-C (R258). -/
def State.clockedBy (s : State) (x k : Nat) : Bool := s.seqOn k && x ≠ 0 && s.fld (seqR k + 8) 23 22 == x

/-- A mute: the output stops; sequencers it clocks pause (R280), pulses in progress are cut (R338), and a running
scan-out stops with NOCLK. -/
def State.mute (s : State) (x : Nat) : State :=
  if s.synBit x 1 then s
  else
    let s := (s.wsyn x 1 true).setSy x { s.sy x with muteAt := s.nextFall x }
    let s := s.each ((List.range 16).filter (s.clockedBy x)) fun s k =>
      (s.wbit (seqR k + 8) 18 true).setSq k { s.sq k with pausedAt := s.time.mono }
    if x = 2 then s.each ((List.range 8).filter fun n => s.bit (trgR n + 8) 1) fun s n =>
      (s.cutTrg n).wbit (trgR n + 8) 5 true
    else if x = 3 ∧ s.dispState ≠ 0 then (s.wbit 0x2C08 12 true).after 0 .stopNow
    else s

/-- The output period of sequencer `k` in output domain `dom`: of FCLK, of SYN-B, or of the vectors of its banks (R224, R258, R311). -/
def State.seqPeriodIn (s : State) (k dom : Nat) : Nat × Nat :=
  match dom with
  | 0 => s.cycleFrac
  | 1 => s.outPeriod 1
  | _ =>
    let bank := ((List.range 8).find? fun j => s.bindsBank k j).getD 0
    ((s.outPeriod 2).1 * s.fld (pbR bank + 0x14) 11 0, (s.outPeriod 2).2)

/-- The clock of a sequencer runs again (R280): it resumes at the boundary it had reached, on an edge of the restarted clock, and the
pause adds to SLIP. What was to come at the first boundary from some moment on is found now. -/
def State.resumeSeq (s : State) (x k : Nat) : State :=
  let y := s.sq k
  let b := max y.done (y.tl.from_ (y.pausedAt + 1))
  let slip := s.time.mono - y.tl.at_ b
  let tl := Line.startAt b s.time.mono (s.seqPeriodIn k x)
  let s := (s.wbit (seqR k + 8) 18 false).incSat (seqR k + 0x38) slip
  let y := { y with tl := tl }
  match y.aim with
  | none => s.setSq k y
  | some t =>
    let j := max (y.planAt + (if y.started then 1 else 0)) (tl.from_ t)
    s.setSq k { y with aim := none, target := some j, done := if y.started then y.done else j }

/-- The output restarts: MUTE_LAST takes the length, and paused sequencers and free-running banks resume at the boundary they had
reached (R181, R280, R332). Edges of a vector that were still to come are placed after the restart (R339). -/
def State.unmute (s : State) (x : Nat) : State :=
  if !s.synBit x 1 then s
  else
    let d := s.time.mono - (s.sy x).muteAt
    let s := (s.wsyn x 1 false).wr (synR x + 0x24) (sat32 d)
    let s := s.setSy x { s.sy x with out := Line.startAt 0 s.time.mono (s.outPeriod x) }
    let s := s.each ((List.range 16).filter fun k => s.clockedBy x k && s.bit (seqR k + 8) 18) fun s k => s.resumeSeq x k
    if x ≠ 2 then s
    else
      let m := (s.sy 2).muteAt * 2 ^ 40
      let s := s.each (List.range 8) fun s k => s.setPb k { s.pb k with edges := (s.pb k).edges.map fun e =>
        (e.1, if m < e.2.1 then e.2.1 + d * 2 ^ 40 else e.2.1, e.2.2) }
      s.each ((List.range 8).filter fun k => s.pbState k == 2) fun s k =>
      let y := s.pb k
      let p := s.outPeriod 2
      let tl := Line.startAt (y.tl.from_ ((s.sy 2).muteAt + 1)) s.time.mono (p.1 * s.fld (pbR k + 0x14) 11 0, p.2)
      let stop := y.stopAt.map fun t => s.cycleOf (tl.at_ (y.tl.from_ t))
      let s := s.setPb k { y with tl := tl, stopAt := stop }
      (stop.map fun t => s.at_ t (.pbStop (Fin.ofNat 8 k))).getD s

/-- The output lies within 3 % of the core range of R168, at the nominal reference (R177). -/
def State.coreOk (s : State) (x : Nat) : Bool :=
  let (lo, hi) := if x = 0 then (1600, 1600) else if x = 1 then (500, 1250) else if x = 2 then (800, 1600) else (625, 1250)
  let f := s.refHz (s.fld (synR x + 4) 2 0) * s.synRatio x
  let one := (s.fld (synR x + 4) 11 8 + 1) * 2 ^ 24 * 1000000000 * 10000
  decide (97 * lo * one ≤ f) && decide (f ≤ 103 * hi * one)

/-- The first window of an acquisition, with the count the nominal reference gives. -/
def State.firstWindow (s : State) (x : Nat) : State :=
  s.after (us 1 + s.windowTu x) (.synLockWindow (Fin.ofNat 4 x)
    ((2 ^ s.fld (synR x + 0xC) 4 0 * s.synRatio x + 2 ^ 23 * 1000000000) / (2 ^ 24 * 1000000000)) (s.coreOk x))

/-- No window of `x` ends: its reference has stopped. -/
def State.noWindows (s : State) (x : Nat) : State :=
  { s with agenda := s.agenda.filter fun e => match e.2 with
      | .synLockWindow y _ _ => y.val != x
      | _ => true }

/-- The loop starts, or restarts, and acquires: LOCKED clears, the LFSR loads the seed (R173), windows of an earlier acquisition
end, and acquisition starts 1 µs later (R176) where the reference runs. -/
def State.startLoop (s : State) (x : Nat) : State :=
  let s := ((s.wsyn x 0 false).wsyn x 4 false).noWindows x
  let s := s.setSy x { s.sy x with
    running := true, acquiring := true, windows := 0, ranged := false, lfsr := s.rd (synR x + 0x18), lfsrAt := s.time.mono }
  let src := s.fld (synR x + 4) 2 0
  if s.refRuns src && !(s.sy x).lost && (src != 4 || s.time.fclk) then s.firstWindow x else s

/-- A start by an enable or an apply looks for the reference anew, whatever was lost before. -/
def State.startFresh (s : State) (x : Nat) : State := (s.setSy x { s.sy x with lost := false, retained := false }).startLoop x

/-- A reference starts, by SYN_REFIN_CFG.EN, READY of the HFXO or FCLK: the synthesizers that wait for it acquire, from their
retained codes in a wake (R178). -/
def State.refStarts (s : State) (src : Nat) : State :=
  s.each ((List.range 4).filter fun x => (s.sy x).running && (s.sy x).acquiring && s.fld (synR x + 4) 2 0 == src) fun s x =>
    let s := (s.setSy x { s.sy x with lost := false }).noWindows x
    if (s.sy x).retained then s.wakeTry x else s.firstWindow x

/-- A reference stops: REF_LOSS after 2 injection periods (R176). -/
def State.refStops (s : State) (src : Nat) : State :=
  s.each ((List.range 4).filter fun x => (s.sy x).running && s.fld (synR x + 4) 2 0 == src) fun s x =>
    s.after (2 * (s.fld (synR x + 4) 11 8 + 1) * 25600000000 / max 1 (s.refHz src)) (.refLoss (Fin.ofNat 4 x))

/-- FCLK runs from SYN-A again: the handoff is pending until the next keeper edge (R19, R20), and what takes FCLK for its reference
has it. The fast grid begins where the keeper, running on, would put it, on a multiple of 32 TU and not before the time last
reached. -/
def State.startFclk (s : State) : State :=
  if s.time.fclk then s
  else
    let t := s.time
    let next := (keeperStep t.keep t.frac (sext 16 (s.fld 0x524 15 0))).1
    let g := (next - BitVec.ofNat 64 (t.nextKeep - t.mono)) &&& ~~~31#64
    let low := (s.now + 31) &&& ~~~31#64
    let s := { s with time := { t with
      fclk := true, fast := if 0 ≤ lead g low then g else low, handoff := true, shift := 0, acc := 0, keepEdges := 0 } }
    ((s.wbit 0x504 6 true).wbit 0x504 4 (s.fld 0x1A04 2 0 == 2)).refStarts 4

/-- FCLK stops; the time of record advances from the keeper (R13, R186). -/
def State.stopFclk (s : State) : State :=
  let s := { s with time := { s.time with
    fclk := false, handoff := false, setNext := none, setAtEdge := (s.time.setNext <|> s.time.setAtEdge) } }
  (s.wbit 0x504 5 true).wbit 0x504 6 false

/-- The register command a held access becomes again once it can proceed (R110, R186, R432). -/
def accCmd (a : HostAcc) : Instr :=
  if a.write then
    (if a.off.toNat < 0x4000 then .registerWrite a.vi a.port a.off a.data a.be
     else .aliasWrite a.vi a.port a.off a.data a.be)
  else .rcRead a.vi a.port a.off a.be

/-- Held accesses that satisfy `p` proceed, in the order they came (R79). -/
def State.releaseAcc (s : State) (p : HostAcc → Bool) : State :=
  let due := s.mode.heldAcc.filter p
  let s := { s with mode := { s.mode with heldAcc := s.mode.heldAcc.filter fun a => !p a } }
  s.each due fun s a => s.after 0 (accCmd a)

/-- The BAR2 command a held request becomes again. -/
def aperCmd (a : Aper) : Instr :=
  if a.write then .apertureWrite a.vi a.ofs a.bytes a.ecc else .apertureRead a.vi a.ofs a.len a.ecc

/-- What BAR2 requests waited for is over: they proceed in the order they came, then the register accesses behind them (R443,
R508). -/
def State.releaseAper (s : State) : State :=
  let l := s.mem.heldAper
  let s := { s with mem := { s.mem with heldAper := [] } }
  if l.isEmpty then s
  else (s.each l fun s a => s.after 0 (aperCmd a)).releaseAcc fun b => b.port == .pcie && l.any fun a => a.vi == b.vi

/-- Every held access proceeds. -/
def State.releaseAll (s : State) : State := s.releaseAper.releaseAcc fun _ => true

/-- Lock is declared (R176): LOCKED, unmute; SYN-A leaves holdover and its LOCK cause clears (R180), FCLK runs, and a
wake in progress reaches PRIMED. -/
def State.lockSyn (s : State) (x : Nat) : State :=
  let s := s.setSy x { s.sy x with acquiring := false, windows := 0, relock := false, restoring := false }
  let s := ((s.wsyn x 0 true).wsyn x 5 (s.gridLock x)).unmute x
  if x = 0 then
    let s := ((s.wsyn 0 3 false).clearCause 2).startFclk
    let s := s.wbit 0x504 4 (s.fld 0x1A04 2 0 == 2)
    let s := s.wakeOn
    if s.mode.trans = .none then s.releaseAll else s
  else s.wakeOn

/-- A cause of SAFE with its enable (R120): before P5 it is latched whatever the enable; later it acts when enabled. -/
def State.cause (s : State) (c : Nat) : State :=
  if s.rst.phase ≠ 5 ∨ 3 ≤ c ∨ s.bit 0x414 c then s.safeCause c else s

/-- The conditions of THERM, SUPPLY and LOCK that stand now (R120). -/
def State.safeConds (s : State) : List Nat :=
  (if 2240 ≤ sext 16 (s.fld 0x2B88 15 0) then [0] else []) ++ (if s.mode.supplyBad then [1] else []) ++
    (if s.synBit 0 3 then [2] else [])

/-- Causes are evaluated while awake (R120): one whose condition stands, and that its enable has come to admit, enters SAFE. -/
def State.safeEval (s : State) : State :=
  if s.awake && s.rst.phase == 5 then
    s.each (s.safeConds.filter fun c => s.bit 0x414 c && !s.bit 0x418 c) fun s c => s.safeCause c
  else s

/-- A loss of lock (R180): LOCKED clears, LOL, LOL_CNT, producer 175 and a new acquisition; SYN-B to SYN-D mute, SYN-A
goes into holdover with SAFE cause LOCK. -/
def State.loseLock (s : State) (x : Nat) : State :=
  let s := ((s.wsyn x 8 true).incFld (synR x + 0x20) 15 0 1).fireP 175
  let s := ((s.startLoop x).wsyn x 5 false).after 0 (.calAbort .clock)
  let s := if x = 0 then { s with time := { s.time with keepEdges := 0 } } else s
  if x = 0 then (s.wsyn 0 3 true).cause 2 else s.mute x

/-- The keys of a synthesizer's buffered registers. -/
def synShadow (x : Nat) (k : Nat) : Bool := k = synR x + 4 || k = synR x + 8

/-- The apply proper (R185): glide and offset to 0, the new divider and reference, and, while enabled, mute, restart and
acquisition. SYN-A's relock stops FCLK and keeps the old divider for 10 ms (R186). -/
def State.applySyn (s : State) (x : Nat) : State :=
  let r := s.rd (synR x + 4)
  let d := s.rd (synR x + 8)
  let en := s.bit (synR x) 0
  let s := if en then s.mute x else s
  let s := (s.wr (synR x + 0x10) 0).wsyn x 2 false
  let s := s.setSy x { s.sy x with eff := 0, glideAt := s.time.mono }
  let s := s.boundary (synShadow x)
  if !en then s.wsyn x 5 false
  else
    let s := (s.startFresh x).wsyn x 5 false
    let s := s.setSy x { s.sy x with relock := true, restoring := false, oldRef := r, oldDiv := d, applyAt := s.time.mono }
    if x = 0 then ((s.stopFclk).refStops 4).after (ms 10) .synApplyTimeout else s

/-- The strobe or the bound alarm at synthesizer `x` (R184 to R186): nothing without a shadow pending before this cycle (R86); a reference code
it does not accept, or SYN-A outside SERVICE, is refused with the shadow left pending. -/
def State.synBoundary (s : State) (x : Nat) : State :=
  if !s.pendingStaged (synShadow x) then s
  else if !synSrcOk x (bf ((s.staged (synR x + 4)).getD (s.rd (synR x + 4))) 2 0) then s.wsyn x 10 true
  else if x = 0 ∧ ¬(s.mode.eff = .service ∧ s.mode.trans ≠ .leaveService) then s.wsyn 0 10 true
  else s.applySyn x

/-- SYN_UPDATE (R184): one bit of the strobe. -/
def execSynUpdate (x : Fin 4) (s : State) : Res := ok (s.synBoundary x)

/-- SYN-A has not locked 10 ms after an apply: the previous divider and reference are restored, UPD_REFUSED sets, and the
loop relocks on them (R186). -/
def execSynApplyTimeout (s : State) : Res :=
  let y := s.sy 0
  if y.relock && !y.restoring && !s.synBit 0 0 && decide (y.applyAt + ms 10 ≤ s.time.mono) then
    let s := ((s.wr 0x1A04 y.oldRef).wr 0x1A08 y.oldDiv).wsyn 0 10 true
    ok ((s.setSy 0 { s.sy 0 with restoring := true }).startFresh 0)
  else ok s

/-- ERR, the signed count error of a window, saturating at ±127; where the expected count is not whole its rounding is
not stated, and the field is a free value (log entry 14). -/
def State.windowErr (s : State) (x count : Nat) : Nat :=
  let den := 2 ^ 24 * 1000000000
  let want := 2 ^ s.fld (synR x + 0xC) 4 0 * s.synRatio x
  if want % den = 0 then (BitVec.ofInt 8 (max (-127) (min 127 ((count : Int) - (want / den : Nat))))).toNat
  else (Config.openWord 1 s.free).toNat % 256

/-- The end of a lock-detector window (R175 to R177, R180). -/
def execSynLockWindow (x : Fin 4) (count : Nat) (rangeOk : Bool) (s : State) : Res :=
  let y := { s.sy x with lost := false }
  let s := s.setSy x y
  if !y.running || (!y.acquiring && !s.synBit x 0) then ok s
  else
    let s := (s.wfld (synSt x) 31 24 (s.windowErr x count)).fresh
    let good := s.within x count (s.lockTol x)
    if y.acquiring then
      if !rangeOk then ok ((s.wsyn x 12 true).setSy x { y with acquiring := false, ranged := true })
      else if !good then ok (let s := s.setSy x { y with windows := 0 }
                             s.after (s.windowTu x) (.synLockWindow x count rangeOk))
      else if y.windows + 1 < s.fld (synR x + 0xC) 11 8 then
        ok ((s.setSy x { y with windows := y.windows + 1 }).after (s.windowTu x) (.synLockWindow x count rangeOk))
      else ok (s.lockSyn x)
    else if s.synBit x 4 then
      if !good then ok (s.loseLock x)
      else if y.windows + 1 < s.fld (synR x + 0xC) 11 8 then ok (s.setSy x { y with windows := y.windows + 1 })
      else ok ((s.setSy x { y with windows := 0 }).wsyn x 4 false)
    else if s.within x count (max (s.fld (synR x + 0xC) 31 24) (s.lockTol x)) then ok s
    else ok (s.loseLock x)

/-- No injection edge for 2 injection periods (R176): REF_LOSS, and a loss of lock when locked. Windows end again once edges
arrive. -/
def execRefLoss (x : Fin 4) (s : State) : Res :=
  if !(s.sy x).running then ok s
  else
    let s := (s.wsyn x 9 true).setSy x { s.sy x with lost := true }
    if s.synBit x 0 then ok ((s.loseLock x).noWindows x) else ok ((s.setSy x { s.sy x with windows := 0 }).noWindows x)

/-- The end of a wake window with count error `err` (R178): one window within LOCK_TOL declares lock with WAKE_LOCK, where the output
lies in its range (R177). -/
def execWakeWindow (x : Fin 4) (err : Int) (s : State) : Res :=
  let s := s.setSy x { s.sy x with lost := false }
  if (s.sy x).acquiring && (s.sy x).retained && !s.coreOk x then
    ok (((s.wsyn x 12 true).setSy x { s.sy x with acquiring := false, retained := false, ranged := true }).wakeOn)
  else if (s.sy x).acquiring && (s.sy x).retained && decide (err.natAbs ≤ s.lockTol x) then
    ok (((s.setSy x { s.sy x with retained := false }).lockSyn x).wsyn x 4 true)
  else ok s

/-- SYN-A has not locked 18 µs after the wake (R179): WAKE_SLOW, producer 175, and cold acquisition, to which SYN-B to SYN-D
fall back likewise. -/
def execWakeSlow (s : State) : Res :=
  let s := (s.each ([1, 2, 3].filter fun x => (s.sy x).acquiring && (s.sy x).retained) fun s x =>
    (s.setSy x { s.sy x with retained := false }).startLoop x).wakeOn
  if (s.mode.trans = .waking ∨ s.mode.trans = .shelfExit) ∧ !s.synBit 0 0 ∧ !(s.sy 0).ranged then
    let s := s.wsyn 0 13 true
    let s := { s with fab := { s.fab with inflight := s.fab.inflight ++ [(0, s.srcOf 175 s.now)] } }
    ok ((s.setSy 0 { s.sy 0 with retained := false }).startLoop 0)
  else ok s

/-- The end of a glide in progress, as its rate stands; a rate of 0 gives none (R182). -/
def State.glideOn (s : State) (x : Nat) : State :=
  let left := (sext 24 (s.fld (synR x + 0x10) 23 0) - s.effOfs x).natAbs
  let r := s.fld (synR x + 0x14) 7 0 * 1000
  if left = 0 ∨ r = 0 then s else s.after ((left * 25600 + r - 1) / r) (.glideDone (Fin.ofNat 4 x))

/-- A write of SYNx_GLIDE.OFS (R182, R183): refused when the target is more than 2,000,000 ppb away, while muted, and for
SYN-A; otherwise the ramp goes on from the effective offset. -/
def execSynGlide (x : Fin 4) (ofs : BitVec 24) (s : State) : Res :=
  let e := s.effOfs x
  if decide (2000000 < (ofs.toInt - e).natAbs) || s.synBit x 1 || x.val == 0 then ok (s.wsyn x 11 true)
  else
    let s := s.setSy x { s.sy x with eff := e, glideAt := s.time.mono }
    let s := (s.wfld (synR x + 0x10) 23 0 ofs.toNat).wsyn x 2 (ofs.toInt != e)
    let s := s.wsyn x 5 (s.gridLock x && s.synBit x 0)
    ok (s.glideOn x)

/-- A write of SYNx_SLEW (R182): the ramp goes on from the offset in effect, which the rate before the write has made. -/
def State.slewWritten (s : State) (x slew : Nat) : State :=
  if !s.synBit x 2 then s
  else
    let s := s.setSy x { s.sy x with eff := s.ofsAt x slew, glideAt := s.time.mono }
    (s.cancel (.glideDone (Fin.ofNat 4 x))).glideOn x

/-- The effective offset reaches the glide target: GLIDING clears (R182), and the output may be on the grid again (R189). -/
def execGlideDone (x : Fin 4) (s : State) : Res :=
  let e := s.effOfs x
  if s.synBit x 2 && e == sext 24 (s.fld (synR x + 0x10) 23 0) then
    let s := (s.setSy x { s.sy x with eff := e, glideAt := s.time.mono }).wsyn x 2 false
    ok (s.wsyn x 5 (s.gridLock x && s.synBit x 0))
  else ok s

/-- The loop of SYN-B, SYN-C or SYN-D stops with its output muted (Edges, Enable). -/
def State.synOff (s : State) (x : Nat) : State :=
  let s := ((((s.mute x).wsyn x 0 false).wsyn x 4 false).wsyn x 5 false).noWindows x
  s.setSy x { s.sy x with running := false, acquiring := false, windows := 0 }

/-- SYNx_CTRL.EN (Edges, Enable): 1 starts acquisition with the active divider, 0 mutes and stops the loop; SYN-A's EN
cannot be changed. -/
def execSynEn (x : Fin 4) (en : Bool) (s : State) : Res :=
  if x.val = 0 ∨ s.bit (synR x) 0 = en then ok s
  else
    let s := s.wbit (synR x) 0 en
    let y := s.sy x
    if en then ok ((s.setSy x { y with muteAt := if y.muteAt = 0 then s.time.mono else y.muteAt }).startFresh x)
    else ok (s.synOff x)

/-- The crystal oscillator's output is stable (R171). -/
def execHfxoReady (s : State) : Res := if s.bit 0x1B08 0 then ok ((s.wbit 0x1B08 16 true).refStarts 1) else ok s

end Sys2Proof.Machine
end

