-- ==== Sys2Proof/Machine/View.lean ====
section
/-! DEFINITION. Whose register is it: the owner of each instance, bit or byte of the window (R3, R550), the Rind region it
falls in (R91, R92), and the request for a device reset (R134 to R137), which several chapters make. -/

namespace Sys2Proof.Machine

/-- The owner of a consumer's configuration. -/
def State.conOwner (s : State) (c : Nat) : Owner :=
  match resOf conMap c with
  | some (k, i) => s.owner k i
  | none => .nobody

/-- The owner of instance `i` of a register class; device-wide registers belong to no VI. -/
def State.clsOwner (s : State) : RCls → Nat → Owner
  | .seq, i => s.owner .seq i
  | .aout, i => s.owner .aout i
  | .pb, i => s.owner .pb i
  | .trg, i => s.owner .trg i
  | .tin, i => s.owner .tin i
  | .acmp, i => s.owner .acmp i
  | .key, i => s.owner .key i
  | .lde, i => s.owner .lde i
  | .evg, i => s.owner .evg i
  | .evg4, i => s.owner .evg (i / 4)
  | .evg2, i => s.owner .evg (i / 2)
  | .disp, _ => s.owner .misc 0
  | .syn, i => if i = 0 then .nobody else s.owner .misc i
  | .con, i => s.conOwner i
  | _, _ => .nobody

/-- The classes whose registers hold one bit or byte per resource. -/
def RCls.perBit : RCls → Bool
  | .chanBits | .conBits | .conBytes | .trgBits | .tinBits | .keyBits => true
  | _ => false

/-- The resource bit `j` of instance `i` configures, for a register of a bit or byte class at row offset `o`. -/
def bitRes (c : RCls) (o i j : Nat) : Option (Kind × Nat) :=
  match c with
  | .chanBits => some (.evg, (32 * ((o - 0x80C) / 4 % 2) + j) / 4)
  | .conBits => resOf conMap (32 * i + j)
  | .conBytes => resOf conMap (4 * i + j / 8)
  | .trgBits => if j < 8 then some (.trg, j) else none
  | .tinBits => some (.tin, j % 16)
  | .keyBits => if j < 6 then some (.key, j) else none
  | _ => none

/-- The owner of the resource behind bit `j` of such a register; none for a bit that configures no resource. -/
def State.bitOwner (s : State) (c : RCls) (o i j : Nat) : Option Owner := (bitRes c o i j).map fun x => s.owner x.1 x.2

/-- The bits of a register whose owner satisfies `p`. -/
def State.ownedBits (s : State) (r : RegRow) (i : Nat) (p : Owner → Bool) : Word :=
  if r.cls.perBit then maskOf fun j => (s.bitOwner r.cls r.off i j).any p
  else if p (s.clsOwner r.cls i) then BitVec.allOnes 32 else 0

/-! ### Rind regions -/

/-- The region of an owner: the VI's own, or the physical region, 32 (R91). -/
def regionOf : Owner → Nat
  | .vi v => v
  | _ => 32

/-- Every trigger of a region is locked; it has one (R92). -/
def State.trgLocked (s : State) (p : Owner → Bool) : Bool :=
  let l := (List.range 8).filter fun n => p (s.owner .trg n)
  !l.isEmpty && l.all fun n => (s.trg n).locked

/-- A held selection byte with SHARED = 1 as it is read: with the index among the shared channels (R56). -/
def State.sharedOut (s : State) (b : Nat) : Nat :=
  match s.sharedChs.findIdx? (· = b % 64) with
  | some i => 192 + i
  | none => 0

/-- A held selection byte as a VI0 debug read in the physical view returns it. -/
def State.selPhys (s : State) (b : Nat) : Nat := if 192 ≤ b then s.sharedOut b else b

/-- What region `g` feeds for the register at offset `o`, instance `i` of row `r`, if it is fed into it (R91, R92): its active
value as a VI0 debug read in the physical view gives it, W1F and WO fields as 0, fields of other regions as 0. -/
def State.feeds (s : State) (g o : Nat) (r : RegRow) (i : Nat) : Option Word :=
  if r.rind = 0 then none
  else
    let act : Word := ~~~(BitVec.ofNat 32 r.act)
    if r.own then
      (if g < 32 then
        let v := s.rdv g o &&& act
        some (if r.hide && g != 0 then 0 else if r.off = 0x188 then mapBytes s.selPhys v else v)
      else none)
    else
      let p : Owner → Bool := fun w => regionOf w == g
      let m := s.ownedBits r i p
      if m = 0 then none
      else
        let v := s.rd o &&& act
        let v := if r.off = 0xA00 then setFld (setBit v 23 (decide (i < 16))) 22 17 0
          else if r.off = 0xC00 then mapBytes s.selPhys v else v
        if r.cls = .trgBits then some (setBit (v &&& m) 16 (s.trgLocked p)) else some (v &&& m)

/-- The same by offset alone. -/
def State.covered (s : State) (g o : Nat) : Option Word := (findRow regTable o).bind fun x => s.feeds g o x.1 x.2

/-- The registers of the window marked C, by offset, with row and instance (R91). -/
def coveredRegs : List (Nat × RegRow × Nat) :=
  (List.range 4096).filterMap fun i => (findRow regTable (4 * i)).bind fun x => if x.1.rind = 0 then none else some (4 * i, x)

/-- The registers of a region in ascending offset, as fed. -/
def State.regionWords (s : State) (g : Nat) : List Word := coveredRegs.filterMap fun c => s.feeds g c.1 c.2.1 c.2.2

/-- The CRC-32C of a region (R92). -/
def State.regionCrc (s : State) (g : Nat) : Word :=
  BitVec.ofNat 32 (crc32c ((s.regionWords g).flatMap wordBytes))

/-- The bits of the register with key `k` that belong to region `g` (R91, R92). -/
def State.regionBits (s : State) (g k : Nat) : Word :=
  match findRow regTable (k % 0x4000) with
  | none => 0
  | some (r, i) =>
    if r.rind = 0 then 0
    else if r.own then (if k / 0x4000 = g + 1 then BitVec.allOnes 32 else 0)
    else if 0x4000 ≤ k then 0
    else s.ownedBits r i fun w => regionOf w == g

/-- A shadow of the region is pending (R97). -/
def State.regionPending (s : State) (g : Nat) : Bool :=
  s.shadows.any fun e => (e.2 ^^^ s.getKey e.1) &&& s.regionBits g e.1 != 0

/-- Start a commit of region `g` (R97): it counts as open until its walk ends. -/
def State.startCommit (s : State) (g : Nat) : State :=
  s.setRg g { s.rg g with opened := false, wait := true, restarts := 0 }

/-- The commit walk of region `g` runs. -/
def State.walksOut (s : State) (g : Nat) : Bool := s.walk.on && s.walk.out && s.walk.cur == g

/-- A write of the bits `m` of register `k` meets the commit walk of a region they belong to. -/
def State.walkMeets (s : State) (k : Nat) (m : Word) : Bool :=
  s.walk.on && s.walk.out && m &&& s.regionBits s.walk.cur k != 0

/-- A write of a covered register of a region during its commit walk starts the walk again (R97); the restarts are counted (R508). -/
def State.restartWalks (s : State) (k : Nat) (m : Word) : State :=
  if s.walkMeets k m then
    let x := s.rg s.walk.cur
    { s.setRg s.walk.cur { x with restarts := x.restarts + 1 } with walk := { s.walk with on := false } }
  else s

/-- A further write that would restart a commit walk after its eighth restart is held (R508). -/
def State.walkHolds (s : State) (k : Nat) (m : Word) : Bool := s.walkMeets k m && decide (8 ≤ (s.rg s.walk.cur).restarts)

/-! ### Requests for a reset -/

/-- The level of a reset in progress (R137): the one waiting to take effect, the recorded one between P0 and P2, or a core
reset whose supervisor restart runs. -/
def State.resetLevel (s : State) : Option Nat :=
  match s.rst.req with
  | some r => some r.level
  | none => if s.rst.phase < 3 then some (s.fld 0x480 11 8) else if s.rst.coreBusy then some 3 else none

/-- The memory holds nothing to keep (R133): SHELF, or training has not completed. -/
def State.untrained (s : State) : Bool := !s.bit 0x1800 0 || (s.rst.phase == 5 && s.mode.eff == .shelf)

/-- The level a request is carried out at: a core reset during Starter as system (R152), a warm reset with the memory
untrained as system (R133). Levels are coded 0 POR, 1 system, 2 warm, 3 core. -/
def State.levelFor (s : State) (level : Nat) : Nat :=
  if level = 3 ∧ (s.rst.phase = 3 ∨ s.rst.phase = 4) then 1
  else if level = 2 ∧ s.untrained = true then 1
  else level

/-- A source that takes effect at once: 0x02, 0x09, and every core reset (R136). -/
def atOnce (src level : Nat) : Bool := src == 2 || src == 9 || level == 3

/-- The link ports do not announce a departure (R136). -/
def State.noDepart (s : State) : State := s.each (List.range 4) fun s p => s.cancel (.portClose (Fin.ofNat 4 p) .reset)

/-- Put a request down: it takes effect at once, or 2 µs later, after the link ports announce their departure (R136). -/
def State.putRequest (s : State) (src level : Nat) (promoted : Bool) : State :=
  let due := s.time.mono + (if atOnce src level then 0 else us 2)
  let s := { s with rst := { s.rst with
    req := some { src := src, level := level, time := s.time.keep, promoted := promoted, at_ := s.time.mono, due := due,
                  restart := s.rst.phase == 3 || s.rst.phase == 4 } } }
  let s := (s.cancel .resetTakeEffect).at_ due .resetTakeEffect
  if atOnce src level then s.noDepart
  else s.each ((List.range 4).filter fun p => s.bit (0x3500 + 0x40 * p) 0) fun s p =>
    s.after 0 (.portClose (Fin.ofNat 4 p) .reset)

/-- A device reset source asserts (R134, R136, R137, R152): absorbed by a deeper or equal reset in progress, but that among
sources of one cycle and one level the lowest SRC is the one recorded, and one that takes effect at once makes the reset do so. -/
def State.requestReset (s : State) (src level : Nat) : State :=
  let l := s.levelFor level
  let promoted := level == 3 && l == 1
  match s.rst.req with
  | some r =>
    if l < r.level then s.putRequest src l promoted
    else if l = r.level ∧ r.at_ = s.time.mono then
      let r := if src < r.src then { r with src := src, promoted := promoted } else r
      if atOnce src l && s.time.mono < r.due then
        let s := { s with rst := { s.rst with req := some { r with due := s.time.mono } } }
        ((s.cancel .resetTakeEffect).after 0 .resetTakeEffect).noDepart
      else { s with rst := { s.rst with req := some r } }
    else s
  | none => if s.resetLevel.any (· ≤ l) then s else s.putRequest src l promoted

/-- From the assertion of a reset deeper than core until P5 (R142): the assertion of its source, the 2 µs of R136 included (DEDUCED, log
entry 105). -/
def State.starting (s : State) : Bool := s.rst.phase != 5 || s.rst.req.any fun r => decide (r.level < 3)

/-- The level of the SAFE_N pin (R121, R142). -/
def State.safePin (s : State) : Bool := s.mode.safeN && !s.starting

/-! ### Refused accesses -/

/-- The PORT code of R419. -/
def portCode : Port → Nat
  | .internal => 0 | .pcie => 1 | .spi => 2 | .link => 3

/-- Set VI_ACC_ERR field `i` (0 NARROW, 1 ALIAS, 2 RO_WRITE, 3 GATED, 4 UNASSIGNED, 5 LOCKED) of VI `v` (R84, R416). -/
def State.accErr (s : State) (v i ofs port : Nat) (write : Bool) : State :=
  let s := { s.wbitv v 0x10C i true with host := { s.host with refused := true } }
  (s.wrv v 0x110 (setBit (setFld (setFld (0 : Word) 25 24 port) 15 0 ofs) 31 write)).pend v 1

/-- The tag of a write the VI accepts (R417). -/
def State.nextTag (s : State) (v : Nat) : State := s.wrv v 0x118 (BitVec.ofNat 32 ((s.fldv v 0x118 15 0 + 1) % 65536))

/-- A write refused for GATED, UNASSIGNED or LOCKED also makes a posted-write fault record (R84, R419). -/
def State.refuseWrite (s : State) (v i ofs port : Nat) : State :=
  (s.accErr v i ofs port true).pwf v ofs (s.fldv v 0x118 15 0) port (i - 2) none

/-- A read refused answers 0 (R125). -/
def State.refuseRead (s : State) (v i ofs port : Nat) : State :=
  { (s.accErr v i ofs port false) with rdata := some (0, true) }

end Sys2Proof.Machine
end

