-- ==== Sys2Proof/Machine/Rind.lean ====
section
/-! DEFINITION. Register locks and Rind (03): LOCK fields, the walk, commits, mismatches. -/

namespace Sys2Proof.Machine

/-- The partition's own shadows: the owner bytes (R412). -/
def partShadow (k : Nat) : Bool := 0x3C40 ≤ k && k < 0x4000

/-- A block's shadows (R90). -/
def lockShadows : LockBlk → Nat → Bool
  | .syn x, k => synShadow x k
  | .elec b, k => pbR b ≤ k && k < pbR b + 0x100
  | .part, k => partShadow k
  | _, _ => false

/-- Where a LOCK field stands: register and bit; the trigger lock is held per trigger. -/
def lockField : LockBlk → Option (Nat × Nat)
  | .syn x => some (synR x, 16)
  | .elec b => some (pbR b + 0xC, 16)
  | .part => some (0x3C00, 16)
  | .rind => some (0x714, 8)
  | .rst => some (0x490, 8)
  | .trg => none

/-- Who may set a LOCK field (R88). -/
def State.mayLock (s : State) (v : Nat) : LockBlk → Bool
  | .syn x => if x.val = 0 then v == 0 else s.owns v .misc x
  | .elec b => s.owns v .pb b
  | .trg => !(s.owned v .trg).isEmpty
  | _ => v == 0

/-- A write of 1 to a LOCK field (R88): refused with LOCK_REFUSED while the block has a pending shadow (R90). -/
def execLockSet (v : Fin 32) (blk : LockBlk) (s : State) : Res :=
  if !s.mayLock v blk then ok s
  else if s.pendingShadow (lockShadows blk) then ok (s.wbitv v 0x704 0 true)
  else match lockField blk with
    | some (o, i) => ok ((s.wbit o i true).restartWalks o (BitVec.allOnes 32))
    | none =>
      ok ((s.each (s.owned v .trg) fun s n => s.setTrg n { s.trg n with locked := true }).restartWalks 0x2800 (BitVec.allOnes 32))

/-- The walker runs (RIND_CTRL.EN). -/
def State.rindOn (s : State) : Bool := s.bit 0x714 0

/-- The VI that a region's faults are recorded in: the owning VI, VI0 for the physical region. -/
def regionVi (g : Nat) : Nat := if g < 32 then g else 0

/-- A mismatch (R98): FAULT and map bits, the count, producer 170, disarmed, and the action of RIND_CTRL. -/
def State.rindMismatch (s : State) (g : Nat) : State :=
  let v := regionVi g
  let s := if g < 32 then (s.wbitv v 0x710 1 true).wbit 0x730 g true
           else (s.wbitv 0 0x710 0 true).wbit 0x734 0 true
  let s := ((s.incSatv v 0x720 1).fireP 170).setRg g { s.rg g with armed := false, failed := true }
  let s := s.pend v 11
  let repOnly := s.bit 0x714 7 && decide (1 ≤ g ∧ g ≤ 31)
  if repOnly then s
  else match s.fld 0x714 5 4 with
    | 0 => s
    | 2 => s.requestReset 0x0A 1
    | _ => s.cause 3

/-- The next register of the region being walked, from the walker's place on: its word offset and what it feeds. -/
def State.walkNext (s : State) : Option (Nat × Word) :=
  (coveredRegs.dropWhile fun c => decide (c.1 < 4 * s.walk.pos)).findSome? fun c =>
    (s.feeds s.walk.cur c.1 c.2.1 c.2.2).map fun w => (c.1 / 4, w)

/-- Nothing of the region is left to walk. -/
def State.walkLook (s : State) : State := { s with walk := { s.walk with done := s.walkNext.isNone } }

/-- The walker takes one register into the CRC (R92, R93). -/
def State.walkTake (s : State) : State :=
  if !s.walk.on || s.walk.done then s
  else match s.walkNext with
    | none => s.walkLook
    | some (o, w) =>
      let acc := (wordBytes w).foldl crcByte s.walk.acc.toNat
      { s with walk := { s.walk with pos := o + 1, next := s.time.mono + 128, acc := BitVec.ofNat 32 acc } }.walkLook

/-- The walk of region `g` begins, in its turn or out of turn (R93, R97). -/
def State.walkFrom (s : State) (g : Nat) (out : Bool) : State :=
  { s with walk :=
      { on := true, out := out, turn := if out then s.walk.turn else g, cur := g, next := s.time.mono + 128 } }.walkLook

/-- A fresh walk, with the physical region first (R93), while Rind is enabled. -/
def State.freshWalk (s : State) : State := if s.rindOn then s.walkFrom 32 false else { s with walk := {} }

/-- The CRC of the walk that has ended (R92). -/
def State.walkCrc (s : State) : Word := ~~~s.walk.acc

/-- The walker has come to the end of region `r`, in its turn or out of turn. -/
def State.walkEnds (s : State) (r : Nat) (out : Bool) : Bool :=
  s.walk.on && s.walk.done && s.walk.out == out && s.walk.cur == r

/-- The region whose commit is next to be walked out of turn (R97): none of its shadows is pending. -/
def State.commitNext (s : State) : Option Nat :=
  (32 :: List.range 32).find? fun g => (s.rg g).wait && !s.regionPending g

/-- A commit takes the walker, ahead of the region whose turn it is, which is walked again from its start afterwards (R97; DESIGN
CHOICE, log entry 7); in SHELF the walker stands (R93). -/
def State.startWalks (s : State) : State :=
  if s.mode.eff = .shelf || (s.walk.on && s.walk.out) then s
  else match s.commitNext with
    | some g => s.walkFrom g true
    | none => if s.walk.on || !s.rindOn || !s.walk.out then s else s.walkFrom s.walk.turn false

/-- The walker reaches the end of region `r` (R93, R94): the CRC is kept, an armed region that is not open is compared,
after region 31 a walk is complete, and the walk of the next region begins. -/
def execRindRegionEnd (r : Fin 33) (s : State) : Res :=
  if !s.rindOn || !s.walkEnds r false then ok s
  else
    let x := s.rg r
    let c := s.walkCrc
    let s := s.setRg r { x with crc := c }
    let s := if r.val = 31 then s.incWrap 0x724 1 else s
    let s := s.walkFrom ((r.val + 1) % 33) false
    if x.armed && !x.opened && !x.wait && c != x.ref then ok (s.rindMismatch r) else ok s

/-- The region a write of RIND_OPEN or RIND_COMMIT names: the VI's own, or the physical one for VI0. -/
def rindTarget (v : Nat) (phys : Bool) : Option Nat := if phys then (if v = 0 then some 32 else none) else some v

/-- RIND_OPEN written 1 (R96): the region opens; a commit in progress is cancelled. -/
def execRindOpen (v : Fin 32) (phys : Bool) (s : State) : Res :=
  match rindTarget v phys with
  | some g =>
    let s := s.setRg g { s.rg g with opened := true, wait := false }
    ok (if s.walksOut g then { s with walk := { s.walk with on := false } } else s)
  | none => ok s

/-- RIND_COMMIT, or an open flag written 0 (R97). -/
def execRindCommit (v : Fin 32) (phys : Bool) (s : State) : Res :=
  match rindTarget v phys with
  | some g => ok (s.startCommit g)
  | none => ok s

/-- The SAFE cause RIND counts as cleared once every region that a mismatch disarmed has been committed again (R99). -/
def State.rindCleared (s : State) : State :=
  if s.bit 0x418 3 && (List.range 33).all (fun g => !(s.rg g).failed) then s.clearCause 3 else s

/-- The commit walk of region `r` ends (R97): the result becomes the reference and the region is armed while Rind is enabled. Accesses
held for the walk proceed, in their order (R79, R508). -/
def execRindCommitDone (r : Fin 33) (s : State) : Res :=
  if !(s.rg r).wait || !s.walkEnds r true then ok s
  else
    let c := s.walkCrc
    let s := s.setRg r { hasRef := true, armed := s.rindOn, opened := false, wait := false, ref := c, crc := c }
    let s := { s with walk := { s.walk with on := false } }
    ok (s.rindCleared.releaseAcc fun _ => true)

end Sys2Proof.Machine
end

