-- ==== Sys2Proof/Machine/Time.lean ====
section
/-! DEFINITION. Time of record and alarms (01): the keeper, the handoff, setting the time, late records, ALM0 to ALM15. -/

namespace Sys2Proof.Machine

/-- KEEP_TRIM.TRIM, in 1/64 TU per keeper cycle. -/
def State.keepTrim (s : State) : Int := sext 16 (s.fld 0x524 15 0)

/-- The keeper may be measured against the fast counter: FCLK runs from a locked SYN-A, not in holdover, whose reference
is not the internal RC (R14, R180). -/
def State.trimmable (s : State) : Bool :=
  s.time.fclk && !s.time.handoff && s.synBit 0 0 && !s.synBit 0 3 && s.fld 0x1A04 2 0 != 2

/-- A keeper edge stamped at `ofs` TU into the FCLK cycle reloads the keeper from the time of record (R17). A measurement window is
open from an edge at which the keeper may be measured, and closes 1,024 cycles later; an edge at which it may not, or a keeper on the
RC oscillator (R141), ends it unfinished (R14). -/
def execKeeperReload (ofs : Fin 32) (s : State) : Res :=
  if s.time.fclk && !s.time.handoff then
    let n := if s.trimmable && !s.bit 0x494 3 then s.time.keepEdges + 1 else 0
    let s := { s with time := { s.time with keep := s.time.fast + BitVec.ofNat 64 ofs.val, frac := 0,
                                            keepEdges := if n = 1025 then 1 else n } }
    if n = 1025 then ok (s.after 0 (.keepTrimWindow 0)) else ok s
  else ok s

/-- The end of a measurement window (R14 to R16): outside ±25,000 it is discarded with RANGE; otherwise MEAS and the
KEEP_HIST ring take it and, with AUTO, TRIM moves an eighth of the way, rounding towards zero. While the keeper runs on
the RC oscillator the window is discarded silently (R141). KEEP_HIST.TEMP takes the whole degrees at or below the sensor's 1/16 °C
value (DESIGN CHOICE, log entry 96). -/
def execKeepTrimWindow (measured : Int) (s : State) : Res :=
  if !s.trimmable || s.bit 0x494 3 then ok s
  else if 25000 < measured.natAbs then ok (s.wbit 0x528 16 true)
  else
    let i := if s.bit 0x528 17 then (s.fld 0x528 31 28 + 1) % 16 else 0
    let m := (BitVec.ofInt 16 measured).toNat
    let temp := (BitVec.ofInt 8 (sext 16 (s.fld 0x2B88 15 0) / 16)).toNat
    let s := ((s.wfld 0x528 31 28 i).wbit 0x528 17 true).wfld 0x528 15 0 m
    let s := s.wr (0x540 + 4 * i) (BitVec.ofNat 32 (temp * 0x10000 + m))
    if s.bit 0x524 16 then
      ok ((s.wfld 0x524 15 0 (BitVec.ofInt 16 (s.keepTrim + tdiv (measured - s.keepTrim) 8)).toNat).touch 0x524 0xFFFF)
    else ok s

/-- The keeper count at the next keeper edge (R12, R25). -/
def State.keepNext (s : State) : Time := s.time.setAtEdge.getD (keeperStep s.time.keep s.time.frac s.keepTrim).1

/-- A source whose stamp was taken on the fast grid, moved by `d`. -/
def srcMoved (d : Time) (x : Src) : Src := if x.prov then { x with stamp := x.stamp + d, prov := false } else x

/-- A follow-up that carries a stamp taken on the fast grid, moved by `d`. -/
def cmdMoved (d : Time) : Instr → Instr
  | .channelEvent ch l => .channelEvent ch (l.map (srcMoved d))
  | .exportEv n x => .exportEv n (srcMoved d x)
  | .almRearmEvent n ⟨t, true⟩ => .almRearmEvent n ⟨t + d, false⟩
  | .tinEdge n r ⟨t, none⟩ => .tinEdge n r ⟨t + d, none⟩
  | c => c

/-- Convert the stamps taken on the fast grid before the handoff (R20): of events in Rennet, held for consumers and for the link, of log,
fail log, capture and time-input entries, of alarm targets formed from them, and of what is to act later in the cycle. -/
def State.convertStamps (s : State) (d : Time) : State :=
  let ce (e : LogEnt) : LogEnt := if e.prov then { e with stamp := e.stamp + d, prov := false } else e
  let ct (e : TinEnt) : TinEnt := if e.prov then { e with stamp := e.stamp + d, prov := false } else e
  let cx (x : TinSt) : TinSt :=
    { x with fifo := x.fifo.map ct, rawAt := x.rawAt.map fun r => if r.2 then (r.1 + d, false) else r }
  let cr (e : RingEnt) : RingEnt := if e.prov then { e with stamp := e.stamp + d, prov := false } else e
  let ca (x : Act) : Act := if x.prov then { x with target := x.target + d, prov := false } else x
  let f := { s.fab with
    inflight := s.fab.inflight.map (fun e => (e.1, srcMoved d e.2)), merge := s.fab.merge.map ce,
    heldC := s.fab.heldC.map (fun e => (e.1, srcMoved d e.2)),
    stage := s.fab.stage.map (fun e => (e.1, srcMoved d e.2.1, e.2.2)),
    staged := s.fab.staged.map (fun e => (e.1, srcMoved d e.2.1, e.2.2)) }
  { s with
    fab := f, tins := s.tins.map (fun e => (e.1, cx e.2)),
    pbs := s.pbs.map (fun e => (e.1, { e.2 with buf := e.2.buf.map cr, cap0 := e.2.cap0.map cr, cap1 := e.2.cap1.map cr })),
    acts := s.acts.map (fun e => (e.1, ca e.2)),
    kl := { s.kl with exps := s.kl.exps.map (fun e => (e.1, e.2.map (srcMoved d))) },
    agenda := s.agenda.map (fun e => (e.1, cmdMoved d e.2)) }

/-- Every armed action that waits for its arming moment is judged now (R40). -/
def State.deferredNow (s : State) : State :=
  s.each (s.acts.filter fun e => e.2.armed && e.2.defer) fun s e =>
    s.after 0 (.deferredArming (actId (e.1 / 512) (e.1 % 512)))

/-- Record a step of the time of record of signed size `d` (R23, R25). -/
def State.recordStep (s : State) (d : Time) : State := (s.wr64 0x51C 0x520 d).wbit 0x504 8 true

/-- The key of an action is that of an alarm which runs on the keeper (R37). -/
def State.aoKey (s : State) (k : Nat) : Bool := s.aoAlarm (actId (k / 512) (k % 512))

/-- The handoff edge E, which the fast grid stamps `gridE` (R19, R20): E takes the keeper's count, or the value set for it (R25), and
FCLK is shifted so that its next cycle starts on a multiple of 32 TU (R11). Held stamps are converted, held accesses complete, and
armed actions are judged or, but for the always-on alarms, judged again (R21, R28, R37, R40, R186). The time never decreases but by a
step (R27). -/
def execHandoff (gridE : Time) (s : State) : Res :=
  if !(s.time.fclk && s.time.handoff) then ok s
  else
    let d := if 0 ≤ lead s.time.keep gridE then s.time.keep - gridE else 0
    let s := s.convertStamps d
    let set := s.time.setAtEdge
    let d2 := (set.map (· - gridE)).getD d
    let t := (gridE + d2 + 31) &&& ~~~31#64
    let r := (t - (s.time.fast + d2)).toNat % 64
    let s := { s with time := { s.time with
      fast := t, mono := s.time.mono + r, handoff := false, keepEdges := 0, setAtEdge := none } }
    let s := (s.wbit 0x504 6 false).wbit 0x504 5 false
    let s := match set with
      | some v => ({ s with time := { s.time with keep := v, frac := 0 } }).recordStep (d2 - d)
      | none => s
    let s := s.reexamine 0 t fun k => !s.aoKey k
    ok s.deferredNow.releaseAll

/-- TIME_CMD.SET (R25, R26): refused while slaved. While FCLK runs the next FCLK cycle takes the value, with bits [4:0] 0;
otherwise the next keeper edge does. -/
def execTimeSet (s : State) : Res :=
  if s.bit 0x504 2 then ok (s.wbit 0x504 9 true)
  else
    let v := s.rd64 0x510 0x514 &&& ~~~31#64
    if s.time.fclk then ok { s with time := { s.time with setNext := some v } }
    else ok { s with time := { s.time with setAtEdge := some v } }

/-- The FCLK cycle that takes a set time (R25): the step is recorded, and every armed action not judged late is judged again
(R28). Before the handoff the stamps taken so far are converted by the keeper's count at the coming edge, and the keeper is set so that
it carries the new time to that edge (log entry 15). -/
def State.takeSet (s : State) : State :=
  match s.time.setNext with
  | none => s
  | some v =>
    let t := s.time
    let left := BitVec.ofNat 64 (t.nextKeep - t.mono)
    let d := if t.handoff then s.keepNext - (t.fast + left) else 0
    let s := if t.handoff then s.convertStamps d else s
    let s := { s with time := { s.time with
      fast := v, setNext := none, setAtEdge := none,
      keep := if t.handoff then v + left - (keeperStep 0 0 s.keepTrim).1 else t.keep,
      frac := if t.handoff then 0 else t.frac } }
    let s := s.recordStep (v - (t.fast + d))
    if t.handoff then
      s.each (s.acts.filter fun e => e.2.armed && !e.2.late && s.aoKey e.1) fun s e =>
        s.setAct (actId (e.1 / 512) (e.1 % 512)) { e.2 with defer := true }
    else s.reexamine 0 v fun _ => true

/-- The keeper edge at which a set time is taken while FCLK is stopped (R25): the keeper fraction clears; always-on alarms
are judged against the new count, every other action at its next arming moment (R28). -/
def execTimeSetKeeper (s : State) : Res :=
  match s.time.setAtEdge with
  | none => ok s
  | some v =>
    if s.time.fclk then ok s
    else
      let old := s.now
      let s := { s with time := { s.time with keep := v, fast := v, frac := 0, setAtEdge := none } }
      let s := s.recordStep (v - old)
      let s := s.reexamine 0 v s.aoKey
      ok (s.each (s.acts.filter fun e => e.2.armed && !e.2.late && !s.aoKey e.1) fun s e =>
        s.setAct (actId (e.1 / 512) (e.1 % 512)) { e.2 with defer := true })

/-- TIME_CMD.LATE_CLR: the VI's late records clear. -/
def execLateClr (v : Fin 32) (s : State) : Res := ok (((s.clrCnt (viKey v 0x52C)).wrv v 0x530 0).wrv v 0x534 0)

/-- The arming moment of an action armed while it could not be judged (R40, R37): it is judged now. -/
def execDeferredArming (a : ActId) (s : State) : Res :=
  let x := s.act a
  if !(x.armed && x.defer) then ok s
  else if s.actReady a then ok (s.judge a x s.now)
  else if s.aoAlarm a && (!s.time.fclk || s.time.handoff) then ok (s.judge a x s.time.keep)
  else ok s

/-! ### Alarms -/

abbrev almR (n : Nat) : Nat := 0x600 + 0x10 * n

/-- The dividers bound to alarm `n` apply (R184). -/
def State.almSynths (s : State) (n : Nat) : State :=
  s.each ((List.range 4).filter fun x => s.bit (synR x) 4 && s.fld (synR x) 11 8 == n) fun s x => s.synBoundary x

/-- After a firing the alarm disarms, or with AUTO_REARM is armed at the fired target plus INTV, judged at `now`
(R35, R38). -/
def State.almNext (s : State) (n : Nat) (now : Time) : State :=
  let a := actId 1 n
  let x := s.act a
  if s.bit (almR n + 8) 3 then
    s.judge a { armed := true, target := x.target + (s.rd (0x5C0 + 4 * n)).setWidth 64, drop := s.bit (almR n + 8) 2 } now
  else s.disarm a

/-- A further event of a source whose held event is pending is lost and counted (R112): bit `i` of WAKE_OVR. -/
def State.wakeOvr (s : State) (i : Nat) : State := (s.wbit 0x448 i true).incFld 0x448 31 16 1

/-- Hold a producer's event through a wake, one deep (R112). -/
def State.holdProd (s : State) (h : HeldSrc) (stamp : Time) (ovr : Nat) : State :=
  if s.fab.heldP.any fun e => e.1 == h then s.wakeOvr ovr
  else { s with fab := { s.fab with heldP := s.fab.heldP ++ [(h, stamp)] } }

/-- The event of alarm `n` (R35, R37, R112): held while FAB does not run, lost and counted while an earlier one is held. -/
def State.almEvent (s : State) (n : Nat) : State :=
  let h : HeldSrc := .alm (Fin.ofNat 4 n)
  if decide (n < 4) && s.fab.heldP.any (fun e => e.1 == h) then s.wakeOvr (4 + n)
  else if s.aoAlarm (actId 1 n) && !s.domOn 2 then s.holdProd h s.now (4 + n)
  else s.fireP (98 + n)

/-- The firing of alarm `n` while FCLK runs: FIRED, producer 98 + n, the bound dividers, then the re-arm (R35, R38); in a descent one of
ALM0 to ALM3 with WAKE = 1 also asks for the wake that follows it (R109, R115). -/
def State.fireAlarm (s : State) (n : Nat) : State :=
  let s := (s.wbit (almR n + 0xC) 1 true).almEvent n
  let s := match s.mode.trans with
    | .descent _ => s.when (decide (n < 4) && s.bit (almR n + 8) 5) fun s => s.after 0 (.wake (.alm (Fin.ofNat 4 n)))
    | _ => s
  ((s.almSynths n).almNext n s.now).reviewMode

/-- A firing due in this cycle completes before an arm, disarm or re-arm of the same cycle (R39). -/
def State.settleAlarm (s : State) (n : Nat) : State :=
  if s.time.fclk && s.actDue (s.act (actId 1 n)) then s.fireAlarm n else s

/-- ALMn_CTRL.ARM (R34): the target registers are latched and the alarm is armed under the late rule. -/
def execAlmArm (n : Fin 16) (s : State) : Res :=
  let s := s.settleAlarm n
  ok (s.arm (actId 1 n) (s.rd64 (almR n) (almR n + 4)) (s.bit (almR n + 8) 2) 0)

/-- ALMn_CTRL.DISARM (R34). -/
def execAlmDisarm (n : Fin 16) (s : State) : Res := ok (((s.settleAlarm n).disarm (actId 1 n)).reviewMode)

/-- The first FCLK boundary at or after the target of an armed alarm (R35). -/
def execAlmFire (n : Fin 16) (s : State) : Res :=
  if s.time.fclk && s.actDue (s.act (actId 1 n)) then ok (s.fireAlarm n) else ok s

/-- ALM0 to ALM3 with PRIME = 0 while FCLK is stopped (R37): fires at the first keeper edge at or after its target, holds
its event and, with WAKE = 1 in SHELF or LISTEN, requests a wake. -/
def execAlmFireSleep (n : Fin 4) (s : State) : Res :=
  let a := actId 1 n.val
  let x := s.act a
  if s.aoAlarm a && (!s.time.fclk || s.time.handoff) && x.armed && !x.defer && decide (0 ≤ lead s.time.keep x.target) then
    let s := s.wbit (almR n + 0xC) 1 true
    let s := s.holdProd (.alm n) s.time.keep (4 + n)
    let s := (s.almSynths n).almNext n s.time.keep
    if s.bit (almR n + 8) 5 && !s.awake then ok (s.after 0 (.wake (.alm n))) else ok s
  else ok s

/-- An event at the alarm's re-arm consumer (R38): the target registers, or the event's stamp plus INTV, which before the handoff
may count on the fast grid (`prov`, R20). -/
def execAlmRearmEvent (n : Fin 16) (e : Stamp) (s : State) : Res :=
  let s := s.settleAlarm n
  let ev := s.bit (almR n + 8) 6
  let t := if ev then e.at_ + (s.rd (0x5C0 + 4 * n)).setWidth 64 else s.rd64 (almR n) (almR n + 4)
  ok (s.armAct (actId 1 n) { armed := true, target := t, drop := s.bit (almR n + 8) 2, defer := true, prov := e.prov && ev })

end Sys2Proof.Machine
end

