-- ==== Sys2Proof/Machine/Mode.lean ====
section
/-! DEFINITION. Operating modes and power domains (04): requests, wakes, descents, SERVICE, SAFE, domain gating. -/

namespace Sys2Proof.Machine

/-- Mode, partition and calibration commands wait while the supervisor restarts (R132). -/
def State.orWait (s : State) (c : Instr) (f : State → State) : State :=
  if s.rst.coreBusy then { s with rst := { s.rst with coreWait := s.rst.coreWait ++ [c] } } else f s

/-! ### Requests -/

/-- A playback start or a pulse that would act at a time is armed (R118). -/
def State.timedPlayback (s : State) : Bool :=
  s.acts.any fun e => e.2.armed && (e.1 / 512 == 3 || e.1 / 512 == 5 || e.1 / 512 == 6)

/-- What an exit from SERVICE waits for: a calibration, an NVM write, a partition edit, the supervisor (R119, R132). -/
def State.serviceBusy (s : State) : Bool :=
  s.cal.run.isSome || s.bit 0x382C 0 || s.bit 0x3C08 2 || s.rst.coreBusy ||
    (List.range 4).any fun e => (s.lde e).busy && bf (s.lde e).ctrl 6 4 == 3

/-- A request for SERVICE (R118): refused in SAFE, with a block running or with a timed start armed; otherwise accepted, with the rules
of SERVICE in force at once. Accepted on the way to sleep or back, it is entered when PRIMED is reached again; while an exit from SERVICE
waits it is stored and counts as PRIMED (DESIGN CHOICE, log entry 98). -/
def State.askService (s : State) : State :=
  if s.mode.eff = .safe then s.refuseMode 0 8
  else if s.anyRunning then s.refuseMode 0 1
  else if s.timedPlayback then s.refuseMode 0 2
  else
    let s := s.wfldv 0 0x400 2 0 4
    if (s.mode.eff = .primed ∨ s.mode.eff = .run) ∧ s.mode.trans = .none then
      (s.setTrans .toService).after (us 1) .serviceReached
    else if s.mode.trans = .leaveService ∨ s.mode.eff = .service then s.reviewMode
    else { s with mode := { s.mode with svc := true } }.reviewMode

/-- VI0 requests 1, 2 or 3 while SERVICE is in force or on its way: the exit waits for the work in progress (R119). -/
def State.leaveService (s : State) (req : Nat) : State :=
  let s := (s.wfldv 0 0x400 2 0 req).setEff .service
  let s := s.setTrans .leaveService
  if s.serviceBusy then s else s.after 0 .serviceExitDone

def State.inService (s : State) : Bool := s.mode.eff == .service || s.mode.trans == .toService

/-- MODE_REQ.REQ (R103). -/
def State.askMode (s : State) (v req : Nat) : State :=
  if req = 1 ∨ req = 2 ∨ req = 3 then
    if v = 0 ∧ s.inService then s.leaveService req
    else ({ s with mode := { s.mode with svc := s.mode.svc && v != 0 } }.wfldv v 0x400 2 0 req).reviewMode
  else if req = 4 then (if v = 0 then s.askService else s.refuseMode v 5)
  else s.refuseMode v 6

def execModeReq (v : Fin 32) (req : BitVec 3) (s : State) : Res :=
  ok (s.orWait (.modeReq v req) fun s => s.askMode v req.toNat)

/-- MODE_REQ.REQ = 4 from VI0 (R118). -/
def execServiceRequest (s : State) : Res := ok (s.orWait .serviceRequest fun s => s.askService)

/-- A MODE_REQ write by VI0 while SERVICE is in force (R119). -/
def execServiceExit (req : BitVec 3) (s : State) : Res :=
  ok (s.orWait (.serviceExit req) fun s => s.askMode 0 req.toNat)

/-- SERVICE is reached, at most 1 µs after the request (R117). -/
def execServiceReached (s : State) : Res :=
  if s.mode.trans = .toService then ok ((s.setTrans .none).setEff .service) else ok s

/-- The work that held the exit from SERVICE is done: the device takes the effective mode (R119). -/
def execServiceExitDone (s : State) : Res :=
  if s.mode.trans = .leaveService ∧ s.serviceBusy = false then
    ok (((s.setTrans .none).setEff .primed).reviewMode)
  else ok s

/-! ### Timed mode changes -/

/-- MODE_TMC_CTRL.ARM (R107): a mode other than 1 to 3 is refused. -/
def execModeTmcArm (v : Fin 32) (s : State) : Res :=
  let c := s.rdv v 0x43C
  let m := bf c 2 0
  if m = 0 ∨ 3 < m then ok (s.refuseMode v 6)
  else ok ((s.arm (actId 8 v) (cat64 (s.rdv v 0x438) (s.rdv v 0x434)) (tb c 4) m).reviewMode)

/-- MODE_TMC_CTRL.DISARM. -/
def execModeTmcDisarm (v : Fin 32) (s : State) : Res := ok ((s.disarm (actId 8 v)).reviewMode)

/-- The target of a timed mode change: its mode becomes the VI's request, which is no exit from SERVICE (R107). -/
def execModeTmcFire (v : Fin 32) (s : State) : Res :=
  let a := actId 8 v
  let x := s.act a
  if s.time.fclk && s.actDue x then
    ok (((((s.disarm a).wbitv v 0x440 1 true).wfldv v 0x400 2 0 x.data).touch (viKey v 0x400) 7).reviewMode)
  else ok s

/-! ### SHELF -/

/-- A running block of R108: playback, a load engine (R219), a calibration (R391). -/
def State.blockActive (s : State) : Bool :=
  s.anyRunning || s.cal.run.isSome || (List.range 4).any fun e => (s.lde e).busy

/-- An armed action that keeps the device out of SHELF (R108): any but an always-on alarm. -/
def State.shelfPending (s : State) : Bool :=
  s.acts.any fun e => e.2.armed && !s.aoKey e.1

/-- Every enabled port announces its leave as its domain goes off (R128, R502). -/
def State.closePorts (s : State) : State :=
  s.each ((List.range 4).filter fun p => s.bit (0x3500 + 0x40 * p) 0) fun s p =>
    s.after 0 (.portClose (Fin.ofNat 4 p) .domainOff)

/-- A descent from PRIMED begins (R115, R117): it ends at a keeper edge that realigns the keeper (R18). -/
def State.startDescent (s : State) (shelf : Bool) : State :=
  ((s.setTrans (.descent shelf)).closePorts).at_ s.time.nextKeep .listenReached

/-- The refusal of a SHELF command, in the order of R108. -/
def State.shelfWhy (s : State) : Option Nat :=
  if s.mode.eff = .safe then some 8
  else if s.inService then some 7
  else if (List.range 32).any (fun v => 2 ≤ s.reqCode v) then some 3
  else if s.blockActive then some 1
  else if s.shelfPending then some 2
  else none

/-- MODE_CMD.SHELF (R108). An accepted command ends the hold of R104: only what arises in the descent wakes the device. -/
def State.askShelf (s : State) : State :=
  match s.shelfWhy with
  | some w => s.refuseMode 0 w
  | none =>
    let s := { s with mode := { s.mode with holdUntil := 0 } }
    match s.mode.eff, s.mode.trans with
    | .listen, .none => (s.setTrans .toShelf).after (us 100) .shelfReached
    | _, .descent _ => s.setTrans (.descent true)
    | .primed, .none => s.startDescent true
    | .run, .none => (s.setEff .primed).startDescent true
    | _, _ => s

def execShelf (s : State) : Res := ok (s.orWait .shelf fun s => s.askShelf)

/-! ### SAFE -/

/-- MODE_CMD.SAFE_ENTER (R120, R121). -/
def execSafeEnter (s : State) : Res := ok (s.safeCause 4)

/-- MODE_CMD.SAFE_EXIT (R123): refused while a cause has not cleared. It waits while the supervisor restarts (R132). -/
def State.askSafeExit (s : State) : State :=
  if s.mode.eff ≠ .safe then s
  else if s.fld 0x418 4 0 ≠ 0 then (s.refuseMode 0 4).wbitv 0 0x404 17 true
  else ({ s with mode := { s.mode with safeN := true } }.setEff .primed).reviewMode

def execSafeExit (s : State) : Res := ok (s.orWait .safeExit fun s => s.askSafeExit)

/-- The junction reaches 140 °C (R120), evaluated while awake or from the end of P2 in start-up: producer 171 and, enabled,
SAFE cause THERM. -/
def execThermalWarning (s : State) : Res :=
  if s.awake then ok ((s.fireP 171).cause 0) else if 2 < s.rst.phase ∧ s.rst.phase < 5 then ok (s.cause 0) else ok s

/-- A supply leaves its window (R120, R519): producer 172 and, enabled, SAFE cause SUPPLY. -/
def execSupplyFault (s : State) : Res :=
  let s := { s with mode := { s.mode with supplyBad := true } }
  if s.rst.phase < 3 then ok s else ok ((s.fireP 172).cause 1)

/-- The condition of a SAFE cause has ended (R120). -/
def execSafeCauseCleared (c : Fin 5) (s : State) : Res :=
  let s := { s with mode := { s.mode with supplyBad := s.mode.supplyBad && c != 1 } }
  ok (s.clearCause c)

/-! ### Wakes and descents -/

/-- A source may wake the device now (R109). -/
def State.wakeAllowed (s : State) : WakeSrc → Bool
  | .tin n => s.bit 0x42C n
  | .alm n => s.bit (almR n + 8) 5
  | .key => s.bit 0x42C 8 && (s.mode.eff != .shelf || s.bit 0x410 25)
  | .kl0 => s.mode.eff != .shelf && s.bit 0x42C 9
  | .host => s.mode.eff != .shelf && s.bit 0x42C 10
  | .sched => true
  | .safe => s.mode.eff != .shelf

/-- The way out of SHELF (R102): memory is trained, at most 14 ms in all (R117). -/
def State.wakeShelf (s : State) (l : List WakeSrc) : State :=
  let s := s.startWake l .shelfExit
  let s := { s with host := { s.host with wakeAt := s.time.mono + 1 } }
  { s with mem := { s.mem with training := true } }.after (ms 13) .shelfExit

/-- A wake source arrives (R109, R115): it starts the wake, joins one in progress, whose hold it restarts (R104), or waits for the end
of a descent, or of a supervisor restart (R132). -/
def State.wakeBy (s : State) (src : WakeSrc) : State :=
  s.orWait (.wake src) fun s =>
  match s.mode.trans with
  | .waking | .shelfExit =>
    ((s.wr 0x430 (s.rd 0x430 ||| wakeSrcWord [src])).touch (devKey 0x430) (wakeSrcWord [src])).startHold
  | .descent _ | .toShelf => { s with mode := { s.mode with wakeAfter := s.mode.wakeAfter ++ [src] } }
  | _ =>
    if s.mode.eff = .listen then s.startWake [src] .waking
    else if s.mode.eff = .shelf ∧ s.rst.phase = 5 then s.wakeShelf [src]
    else s

def execWake (src : WakeSrc) (s : State) : Res :=
  if s.wakeAllowed src then ok (s.wakeBy src) else ok s

/-- A host access while FCLK is stopped for sleep (R110): held and waking the device with WAKE_CFG.HOST = 1, refused as
GATED without it; in SHELF there is no response. -/
def State.sleepAccess (s : State) (a : HostAcc) : State :=
  if s.mode.eff = .shelf then s
  else if s.bit 0x42C 10 then
    ({ s with mode := { s.mode with heldAcc := s.mode.heldAcc ++ [a] } }).wakeBy .host
  else if a.write then (s.nextTag a.vi).refuseWrite a.vi 3 a.off.toNat (portCode a.port)
  else s.refuseRead a.vi 3 a.off.toNat (portCode a.port)

/-- A host register access that arrives in LISTEN, or in a descent once FCLK has stopped (R110). -/
def execHostAccessWake (a : HostAcc) (s : State) : Res :=
  if s.mode.eff = .listen ∨ s.mode.eff = .shelf then ok (s.sleepAccess a) else ok s

/-- Receive activity on KL0 in LISTEN (R109). -/
def execKl0Activity (s : State) : Res :=
  if s.dom 24 = 6 ∧ s.wakeAllowed .kl0 then ok (s.wakeBy .kl0) else ok s

/-- An armed action that primes the device: every one but an always-on alarm and a timed change to LISTEN (R36, R107). -/
def State.primes (s : State) (k : Nat) (x : Act) : Bool :=
  x.armed && !s.aoAlarm (actId (k / 512) (k % 512)) && !(k / 512 == 8 && x.data == 1)

/-- The wake point of a target, in elapsed time (R113): the latest keeper edge no later than the target minus PRIME_LEAD
and minus 784,000 TU. While FCLK is stopped edges lie a keeper period of 781,250 + TRIM/64 TU apart in the time of record (R12), from the
keeper's count at the last edge; while it runs they lie 781,250 TU apart. -/
def State.wakePoint (s : State) (target : Time) : Int :=
  let l : Int := max (us (s.fld 0x410 15 0)) 784000
  let edge : Int := s.time.nextKeep
  if s.time.fclk then
    let d := lead target s.now - l
    edge + (s.time.mono + d - edge) / 781250 * 781250
  else
    let d := 64 * (lead target s.time.keep - l) - s.time.frac.toNat
    edge - 781250 + d / (64 * 781250 + s.keepTrim) * 781250

/-- The wake point of a scheduled action has come (R113): the effective mode rises to PRIMED. -/
def execPrimeWakePoint (a : ActId) (s : State) : Res :=
  let x := s.act a
  if s.primes (a.kind.val * 512 + a.inst.val) x && !x.primed && decide (s.wakePoint x.target ≤ s.time.mono) then
    let s := s.setAct a { x with primed := true }
    match s.mode.trans with
    | .descent _ | .toShelf => ok (s.wakeBy .sched)
    | _ => if s.awake then ok s.reviewMode else ok (s.wakeBy .sched)
  else ok s

/-- 256 TU before a timed start, pulse or frame start the effective mode rises to RUN (R104). -/
def execTimedRunRaise (a : ActId) (s : State) : Res :=
  let x := s.act a
  if x.armed && !x.raised && (a.kind.val == 3 || a.kind.val == 5 || a.kind.val == 6) && decide (lead x.target s.now ≤ 256)
  then ok ((s.setAct a { x with raised := true }).reviewMode)
  else ok s

/-- The hold ends (R104). -/
def execHoldExpiry (s : State) : Res := ok s.reviewMode

/-- The effective mode falls from RUN, 8 FCLK cycles after the last running block stopped (R106). -/
def execRunFall (s : State) : Res :=
  if s.mode.eff = .run ∧ s.mode.trans = .none ∧ s.wantedMode < 3 then ok ((s.setEff .primed).reviewMode) else ok s

/-- Every pending wake point lies at least 40 µs and one keeper cycle ahead (R115). -/
def State.mayDescend (s : State) : Bool :=
  s.acts.all fun e => !s.primes e.1 e.2 || decide ((s.time.mono + us 40 + 781250 : Int) ≤ s.wakePoint e.2.target)

/-- The descent from PRIMED to LISTEN begins, when nothing asks for more (R115). -/
def execDescentStart (s : State) : Res :=
  if s.mode.eff = .primed ∧ s.mode.trans = .none ∧ s.rst.phase = 5 ∧ s.wantedMode = 1 ∧ s.mayDescend then
    ok (s.startDescent false)
  else ok s

/-- A synthesizer stops glitch-free on the way into LISTEN and keeps its codes (R178, R181). -/
def State.sleepSyn (s : State) (x : Nat) : State :=
  let s := ((s.mute x).wsyn x 0 false).wsyn x 4 false
  s.setSy x { s.sy x with retained := true, acquiring := false, windows := 0 }

/-- FCLK stops in sleep: what travels in the fabric and what waits at the engines stops with it (R13, R219, R353). -/
def State.enterSleep (s : State) : State :=
  let s := s.each ((List.range 4).filter fun x => (s.sy x).running) fun s x => s.sleepSyn x
  let s := (s.stopFclk).sleepDoms false
  let s := { s with fab := { s.fab with inflight := [], stage := [], staged := [] } }
  let s := s.each ((List.range 4).filter fun e => (s.lde e).busy) fun s e => s.setLde e { s.lde e with suspended := true }
  s.wbit 0x2B88 31 true

/-- The keeper edge at which FCLK stops: LISTEN is reached (R18, R117), or passed on the way to SHELF; a source or a SAFE
cause that arrived meanwhile starts the wake (R115, R120). -/
def execListenReached (s : State) : Res :=
  match s.mode.trans with
  | .descent shelf =>
    let s := s.enterSleep.setEff .listen
    if shelf then ok ((s.setTrans .toShelf).after (us 100) .shelfReached)
    else
      let s := s.setTrans .none
      if s.mode.wakeAfter ≠ [] then ok (s.startWake s.mode.wakeAfter .waking) else ok s.reviewMode
  | _ => ok s

/-- The PCIe link goes down on SHELF entry (R447): counted, unless the host has completed the PME_Turn_Off handshake. -/
def State.linkOff (s : State) : State :=
  if s.bit 0x3800 31 then
    let s := (s.wbit 0x3800 31 false).wfld 0x3800 10 0 0
    if s.host.pmeOff then s else s.incFld 0x3808 31 16 1
  else s

/-- WAKE_N is driven low (R447): from a wake out of SHELF until the link reaches L0, for at most 100 ms. -/
def State.wakePin (s : State) : Bool := s.host.wakeAt != 0 && decide (s.time.mono + 1 < s.host.wakeAt + ms 100)

/-- Something that arose on the way to SHELF, or an action whose wake point passed, wakes the device (R108). -/
def State.wakesShelf (s : State) : Bool := s.mode.wakeAfter ≠ [] || 2 ≤ s.wantedMode || s.shelfPending

/-- SHELF is reached: memory is powered down and its contents are lost (R101, R117). -/
def execShelfReached (s : State) : Res :=
  if s.mode.trans = .toShelf then
    let s := (((((s.setTrans .none).setEff .shelf).sleepDoms true).loseStores).linkOff).wbit 0x1800 0 false
    let s := { s with walk := {} }
    if s.wakesShelf then ok (s.wakeShelf (s.mode.wakeAfter ++ if s.shelfPending then [.sched] else [])) else ok s
  else ok s

/-- Leaving SHELF: memory is trained and the Vat initialised; every granule is unloaded and every directory entry
UNCHECKED (R102, R200, R206); with SHELF_RELOAD the SEG_LOAD records are replayed. -/
def execShelfExit (s : State) : Res :=
  if s.mode.trans = .shelfExit then
    let s := { (s.wbit 0x1800 0 true) with mem := { s.mem with training := false, dir := [], notLoaded := BitVec.allOnes 128 } }.freshWalk
    if s.bit 0x410 24 then ok (s.after 0 .shelfReload) else ok (s.after 0 .primedReached)
  else ok s

/-- Producer events held through the wake enter Rennet once FAB runs (R111, R37). -/
def State.deliverHeld (s : State) : State :=
  s.each s.fab.heldP fun s e => s.after 0 (.heldProducerDeliver e.1)

/-- The latched causes that are enabled (R120): THERM, SUPPLY and LOCK by SAFE_EN, RIND and CMD always. -/
def State.latchedOn (s : State) : Bool :=
  (List.range 5).any fun c => s.mode.latched.testBit c && (3 ≤ c || s.bit 0x414 c)

/-- PRIMED is reached: SYN-A is locked and, from SHELF, memory is trained (R114, R179). Held accesses complete, engines
resume, held events are delivered; latched SAFE causes take the device into SAFE (R120). -/
def execPrimedReached (s : State) : Res :=
  if (s.mode.trans = .waking ∨ s.mode.trans = .shelfExit) ∧ s.synBit 0 0 ∧ s.time.fclk ∧ s.mem.training = false ∧
      s.wakeDone then
    let s := ((s.setTrans .none).setEff .primed).startHold
    let s := { s with cal := { s.cal with nextEval := s.time.mono } }
    let s := s.each [1, 2, 4, 5] fun s d => s.setDom d 2
    let s := s.each ((List.range 4).filter fun e => (s.lde e).busy) fun s e =>
      s.setLde e { s.lde e with suspended := false, next := max (s.lde e).next (s.time.mono + 32) }
    let on := s.latchedOn
    let s := { s with mode := { s.mode with latched := 0 } }
    let s := if on then s.safePosture else s
    let s := if s.mode.svc then
        ({ s with mode := { s.mode with svc := false } }.setTrans .toService).after (us 1) .serviceReached
      else s
    let s := s.releaseAll.deliverHeld
    let s := s.safeEval.deferredNow
    let s := s.each (s.fab.heldC.filter fun e => s.domOn (conDom e.1)) fun s e =>
      s.after 0 (.consumerHeldDeliver (Fin.ofNat 192 e.1))
    ok s.reviewMode
  else ok s

/-! ### Power domains -/

/-- A domain that stays unwanted starts gating (R124): CLOSING, with its outputs at park (R302, R305, R339); a port
announces its leave (R128). -/
def execDomainGateStart (d : Fin 29) (s : State) : Res :=
  if s.dom d = 2 ∧ 0 < s.unwanted d ∧ s.unwanted d ≤ s.time.mono + 1 ∧ s.wants d = false then
    let s := (s.setDom d 3).setUnwanted d 0
    let s :=
      if 6 ≤ d.val ∧ d.val < 14 then s.parkAout (d - 6)
      else if 14 ≤ d.val ∧ d.val < 22 then s.stopBank (d - 14)
      else if d.val = 22 then s.each (List.range 8) fun s n => s.cutTrg n
      else if 24 ≤ d.val ∧ d.val < 28 then s.after 0 (.portClose (Fin.ofNat 4 (d - 24)) .domainOff)
      else s
    ok (s.after (32 + us 2) (.domainDrainEnd d))
  else ok s

/-- DRAINING ends: the domain is ISOLATED for 8 FCLK cycles (R124). -/
def execDomainDrainEnd (d : Fin 29) (s : State) : Res :=
  if s.dom d = 3 ∨ s.dom d = 4 then ok ((s.setDom d 5).after 256 (.domainIsolatedCheck d)) else ok s

/-- The domain is on: events held for its consumers are delivered, and armed actions that waited for it are judged
(R126, R127, R40); a link port trains (R469). -/
def State.domainOn (s : State) (d : Nat) : State :=
  let s := s.setDom d 2
  let s := if s.time.fclk then s.each (s.heldCons d) fun s c => s.after 0 (.consumerHeldDeliver (Fin.ofNat 192 c)) else s
  let s := if 24 ≤ d ∧ d < 28 then
      (s.wfld (0x3504 + 0x40 * (d - 24)) 2 0 1).after (ms 10) (.trainFail (Fin.ofNat 4 (d - 24)))
    else s
  s.deferredNow.reviewDom d

/-- The check in the last cycle of ISOLATED (R126): back on, with its live state, or OFF. -/
def execDomainIsolatedCheck (d : Fin 29) (s : State) : Res :=
  if s.dom d = 5 then (if s.wants d then ok (s.domainOn d) else ok (s.setDom d 0)) else ok s

/-- Power-up from OFF completes: live state restarts from its reset value (R124, R125). -/
def execDomainPowerUpDone (d : Fin 29) (s : State) : Res :=
  if s.dom d = 1 then ok ((s.resetLive d).domainOn d).wakeOn else ok s

end Sys2Proof.Machine
end

