-- ==== Sys2Proof/Machine/Memory.lean ====
section
/-! DEFINITION. Segment memory (07): descriptors and their validation, writes that land in the stores, admission, load
engines, the host aperture and the scrub. -/

namespace Sys2Proof.Machine

/-! ### Bit errors (R193, R195) -/

/-- The key of the 64-bit word at a physical address of the Vat or of the memory in `MemSt.errs`. -/
def errKey (vat : Bool) (p : Nat) : Nat := 2 * (p / 8) + b2n vat

/-- The words among `n` bytes from a physical address that hold an error of kind `e`, 1 single-bit, 2 uncorrectable, by address; the
memory's code works while ECC is on, the Vat's always. -/
def State.errsIn (s : State) (vat : Bool) (p n e : Nat) : List Nat :=
  if vat || s.bit 0x1800 1 then
    (s.mem.errs.filter fun x => x.2 == e && x.1 % 2 == b2n vat && decide (p < x.1 / 2 * 8 + 8) && decide (x.1 / 2 * 8 < p + n)).map
      fun x => x.1 / 2 * 8
  else []

/-- Words are read under the code of R193: corrected errors count, uncorrectable ones count, and the block of the last is recorded. -/
def State.readWords (s : State) (vat : Bool) (p n : Nat) : State :=
  (s.each (s.errsIn vat p n 1) fun s _ => s.incSat 0x1808 1).each (s.errsIn vat p n 2) fun s a =>
    (s.incSat 0x180C 1).wr 0x1810 (BitVec.ofNat 32 (a / 32 * 32 + b2n vat))

/-- A word takes an error; what an uncorrectable one leaves of the word is a free value (log entry 108). -/
def State.spoil (s : State) (vat : Bool) (a e : Nat) : State :=
  let k := errKey vat a
  let old := Tab.get (fun _ => 0) s.mem.errs k
  let s := { s with mem := { s.mem with errs := Tab.set (fun _ => 0) s.mem.errs k (max old e) } }
  if e = 2 ∧ old < 2 then
    (s.putBytes vat (a / 8 * 8) ((List.range 8).map fun i => Config.openByte (a / 8 * 8 + i) s.free)).fresh
  else s

/-- Errors that arose in words of a store. -/
def State.spoils (s : State) (vat : Bool) (e : Ecc) : State :=
  (s.each e.single fun s a => s.spoil vat a 1).each e.multi fun s a => s.spoil vat a 2

/-- A write of `n` bytes ends the errors of the words it covers, and the single-bit ones of those it writes in part. -/
def State.mend (s : State) (vat : Bool) (p n : Nat) : State :=
  if n = 0 then s
  else { s with mem := { s.mem with errs := s.mem.errs.filter fun x =>
    let a := x.1 / 2 * 8
    !(x.1 % 2 == b2n vat && decide (p < a + 8) && decide (a < p + n) && (x.2 == 1 || (decide (p ≤ a) && decide (a + 8 ≤ p + n)))) } }

/-! ### Descriptors -/

/-- A segment descriptor (R203); `res` says that a reserved bit is 1. -/
structure Desc where
  typ : Nat
  fmt : Nat
  mem : Bool
  rate : Nat
  banks : Nat
  addr : Nat
  len : Nat
  ls : Nat
  le : Nat
  res : Bool
  deriving DecidableEq, Repr

/-- The fields of a 32-byte descriptor (R203). -/
def parseDesc (b : List Byte) : Desc :=
  let w (i : Nat) : Nat := leNat ((b.drop i).take 4)
  let x : Word := BitVec.ofNat 32 (w 0)
  { typ := bf x 3 0, fmt := bf x 7 4, mem := tb x 8, rate := bf x 15 12, banks := bf x 17 16, addr := w 4, len := w 8,
    ls := w 12, le := w 16,
    res := bf x 11 9 != 0 || bf x 31 18 != 0 || (bf x 3 0 != 3 && bf x 17 16 != 0) || (b.drop 24).any (· != 0) }

/-- The element size in bits (R201). -/
def Desc.eb (d : Desc) : Nat :=
  match d.typ, d.fmt with
  | 1, 1 => 12
  | 1, 2 => 8
  | 3, 0 => 32 * 2 ^ d.banks
  | 3, 1 => 64 * 2 ^ d.banks
  | 4, 0 => 64
  | 4, 2 => 64
  | _, _ => 16

/-- The number of formats of a type (R201). -/
def fmtCount (typ : Nat) : Nat := if typ = 1 then 3 else if typ = 2 then 1 else if typ = 3 then 2 else if typ = 4 then 3 else 0

/-- The extent of a segment in bytes (R202). -/
def Desc.extent (d : Desc) : Nat := (d.len * d.eb + 255) / 256 * 32

/-- The physical address of directory entry `d` of VI `v`, if it lies within the VI's directory (R198). -/
def State.dirEntry (s : State) (v d : Nat) : Option Nat :=
  let base := if v = 0 then 0x400000 else (s.stepG v).length * 0x40000
  match s.vatAddr v (base + 32 * d) with
  | some p => if 0x400000 ≤ p ∧ p < 0x600000 ∧ d < 65536 ∧ s.owns v .vat (p / 0x40000) = true then some p else none
  | none => none

/-- The physical address of step index `i` of VI `v`, if it lies within the VI's step pool (R198). -/
def State.stepAddr (s : State) (v i : Nat) : Option Nat :=
  match s.vatAddr v (16 * i) with
  | some p => if p < 0x400000 ∧ i < 262144 ∧ s.owns v .vat (p / 0x40000) = true then some p else none
  | none => none

/-- The step word at a physical address holds an uncorrectable error (R193, R255). -/
def State.badStep (s : State) (p : Nat) : Bool := !(s.errsIn true p 16 2).isEmpty

/-- The step word at index `i` (R225); words outside the step pool read 0. -/
def State.stepWord (s : State) (v i : Nat) : BitVec 128 :=
  match s.stepAddr v i with
  | some p => BitVec.ofNat 128 (leNat (s.bytes true p 16))
  | none => 0

/-- The descriptor of an entry at a physical address. -/
def State.descAt (s : State) (p : Nat) : Desc := parseDesc (s.bytes true p 32)

/-- The physical address of byte `i` of a VI's Vat data part, or memory space. -/
def State.dataAddr (s : State) (v : Nat) (mem : Bool) (a : Nat) : Option Nat :=
  if mem then
    match s.memAddr v a with
    | some p => if s.owns v .mem (p / 0x1000000) then some p else none
    | none => none
  else match s.vatAddr v a with
    | some p => if 0x600000 ≤ p ∧ s.owns v .vat (p / 0x40000) = true then some p else none
    | none => none

/-- An extent lies wholly in the VI's space: each of its granules does. -/
def State.inSpace (s : State) (v : Nat) (mem : Bool) (a n : Nat) : Bool :=
  let g := if mem then 0x1000000 else 0x40000
  (List.range ((a + n - 1) / g + 1 - a / g)).all fun i => (s.dataAddr v mem (max a ((a / g + i) * g))).isSome

/-- The physical byte ranges (start, length) of an extent, granule by granule. -/
def State.ranges (s : State) (v : Nat) (mem : Bool) (a n : Nat) : List (Nat × Nat) :=
  let g := if mem then 0x1000000 else 0x40000
  (List.range ((a + n - 1) / g + 1 - a / g)).filterMap fun i =>
    let lo := max a ((a / g + i) * g)
    let hi := min (a + n) ((a / g + i + 1) * g)
    ((if mem then s.memAddr v lo else s.vatAddr v lo)).map fun p => (p, hi - lo)

/-- Two byte ranges overlap. -/
def meets (x y : Nat × Nat) : Bool := decide (x.1 < y.1 + y.2) && decide (y.1 < x.1 + x.2)

/-- A ring that begins at VI memory granule `g` (R326). -/
def State.ringAt (s : State) (v g : Nat) (entries : Nat) : List (Nat × Nat) :=
  s.ranges v true (g * 0x1000000) (16 * entries)

/-- The memory rings in use: log spill, captures and fail logs (R205). -/
def State.rings (s : State) : List (Nat × Nat) :=
  let spill := if s.bit 0x880 2 then s.ringAt 0 (s.fld 0x890 7 0) (2 ^ s.fld 0x890 12 8) else []
  let bank (k o : Nat) : List (Nat × Nat) :=
    if s.bit (pbR k + o) 0 then s.ringAt (s.ownerVi .pb k) (s.fld (pbR k + o) 23 16) (2 ^ s.fld (pbR k + o) 12 8) else []
  spill ++ (List.range 8).flatMap fun k => bank k 0x44 ++ bank k 0x60 ++ bank k 0x70

/-- The check of R205, SIDE_EFFECT. -/
def State.sideEffect (s : State) (v : Nat) (d : Desc) : Bool :=
  let r := s.ranges v d.mem d.addr d.extent
  if d.mem then r.any fun x => s.rings.any (meets x) else r.any fun x => meets x (0x600000, 0x10000)

/-- The rules of R203 to R205 that a descriptor breaks, as reason codes; none means it is valid. -/
def State.descBreaks (s : State) (v : Nat) (d : Desc) : List Nat :=
  let c (b : Bool) (n : Nat) : List Nat := if b then [n] else []
  let loopBad := (d.ls != 0 || d.le != 0) &&
    !(decide (d.ls < d.le) && decide (d.le ≤ d.len) && d.ls * d.eb % 256 == 0 && d.le * d.eb % 256 == 0)
  let rangeBad := d.len == 0 || !s.inSpace v d.mem d.addr d.extent
  c (d.typ == 0 || decide (4 < d.typ)) 1 ++ c (decide (fmtCount d.typ ≤ d.fmt)) 2 ++ c d.res 3 ++
    c (d.addr % 32 != 0) 4 ++ c rangeBad 5 ++ c loopBad 6 ++ c (d.mem && d.rate == 0) 7 ++
    c (!rangeBad && s.sideEffect v d) 8 ++ c (d.typ == 2 && d.len != 4096) 9

/-- The result of validating a descriptor: 0, or the lowest reason it is rejected for (log entry 20). -/
def State.descReason (s : State) (v : Nat) (d : Desc) : Nat := (s.descBreaks v d).headD 0

/-- The state of the entry at a physical address: 0 UNCHECKED, 1 VALID, 2 + 16 · reason REJECTED (R206). -/
def State.dirState (s : State) (p : Nat) : Nat := Tab.get (fun _ => 0) s.mem.dir ((p - 0x400000) / 32)
def State.setDirState (s : State) (p c : Nat) : State :=
  { s with mem := { s.mem with dir := Tab.set (fun _ => 0) s.mem.dir ((p - 0x400000) / 32) c } }

/-- Validate the entry at a physical address, for VI `v` (R206). -/
def State.validate (s : State) (v p : Nat) : State :=
  let s := s.readWords true p 32
  let r := s.descReason v (s.descAt p)
  s.setDirState p (if r = 0 then 1 else 2 + 16 * r)

/-- Validate the entry if it is UNCHECKED. -/
def State.validateNew (s : State) (v p : Nat) : State := if s.dirState p = 0 then s.validate v p else s

/-! ### Admission -/

/-- The demand of a rate class in MB/s (R208). -/
def classMBps (r : Nat) : Nat :=
  ([0, 50, 100, 200, 400, 800, 1000, 1250, 1600, 1875, 2000, 2500, 3200, 5000, 6400, 12800][r]?).getD 0

/-- The limit of the budget now (R214). -/
def State.budgetMax (s : State) : Nat := if s.bit 0x1800 1 then 17920 else 20480

/-- The budget is lowered to the limit in force (R214, log entry 116). -/
def State.fitBudget (s : State) : State := s.wfld 0x1820 15 0 (min (s.fld 0x1820 15 0) s.budgetMax)

/-- A segment too short for its class (R215): a memory segment below 640 ns, a Vat segment with a class below 160 ns. -/
def Desc.short (d : Desc) : Bool :=
  if d.mem then decide (d.extent * 1000 < 640 * classMBps d.rate)
  else d.rate != 0 && decide (d.extent * 1000 < 160 * classMBps d.rate)

/-- The opcode of a step word (R225). -/
def opOf (w : BitVec 128) : Nat := bf w 127 120

/-- The directory index a step word names, if it names one (R210). -/
def namedDesc (w : BitVec 128) : Option Nat :=
  if opOf w = 1 ∨ opOf w = 2 ∨ ((opOf w = 0x0B ∨ opOf w = 0x0D) ∧ tb w 116 = true) then some (bf w 111 96) else none

/-- The steps a step word can continue at: its fall-through and its targets (R210). The start of a loop is reached by fall-through,
so a LOOP_END adds none. -/
def stepSuccs (i : Nat) (w : BitVec 128) : List Nat :=
  let t := bf w 81 64
  match opOf w with
  | 0x04 => if bf w 31 0 = 0 then [i + 1] else [i + 1, t]
  | 0x05 => if tb w 119 then [i + 1, t] else [i + 1]
  | 0x06 => [i + 1, t]
  | 0x09 => [t, i + 1]
  | 0x0A => []
  | 0x0F => if bf w 31 0 = 0 then [i + 1] else [i + 1, t]
  | 0x1F => []
  | _ => [i + 1]

/-- The reachable steps from the start step (R210), in the order met; each is visited once. -/
def State.reach (s : State) (v first last : Nat) : Nat → List Nat → List Nat → List Nat
  | 0, _, seen => seen
  | _, [], seen => seen
  | n + 1, i :: todo, seen =>
    if seen.contains i || decide (i < first) || decide (last < i) then s.reach v first last n todo seen
    else s.reach v first last n (stepSuccs i (s.stepWord v i) ++ todo) (i :: seen)

/-- The steps a start of sequencer `k` can reach. -/
def State.reachOf (s : State) (k : Nat) : List Nat :=
  let first := s.fld (seqR k + 0x10) 17 0
  let last := s.fld (seqR k + 0x14) 17 0
  s.reach (s.ownerVi .seq k) first last (2 * (last + 1 - first) + 2) [s.fld (seqR k + 0x18) 17 0] []

/-- A step that ends a run: it plays, holds or halts (R265). -/
def endsRun (w : BitVec 128) : Bool := [0x01, 0x02, 0x03, 0x04, 0x05, 0x0F, 0x1F].contains (opOf w)

/-- A decision of R273. -/
def isDecision (w : BitVec 128) : Bool :=
  opOf w == 0x06 || (opOf w == 0x04 && bf w 31 0 != 0) || (opOf w == 0x05 && tb w 119) || (opOf w == 0x0F && bf w 31 0 != 0)

/-- Where a run can be: the step, the loop levels (count, start, unbounded; none inactive) and the call stack (R240, R242). -/
structure RunAt where
  step : Nat
  loops : List (Option (Nat × Nat × Bool))
  stack : List Nat
  deriving DecidableEq, Repr

/-- The steps at which the runs from some places end, and whether a decision lies on a way there: `ends` says where a run ends,
`next` how it goes on. A place is passed once. -/
def runEnds (ends dec : RunAt → Bool) (next : RunAt → List RunAt) :
    Nat → List RunAt → List RunAt → List Nat → Bool → List Nat × Bool
  | 0, _, _, es, d => (es, d)
  | _, [], _, es, d => (es, d)
  | n + 1, p :: todo, seen, es, d =>
    if seen.contains p then runEnds ends dec next n todo seen es d
    else if ends p then runEnds ends dec next n todo (p :: seen) (es ++ [p.step]) d
    else runEnds ends dec next n (next p ++ todo) (p :: seen) es (d || dec p)

/-- The way a BRANCH can go on: one for ALWAYS (R239). -/
def branchWays (i : Nat) (w : BitVec 128) : List Nat :=
  if bf w 119 116 = 0 then [if tb w 115 then i + 1 else bf w 81 64] else [i + 1, bf w 81 64]

/-- The descriptor a step names, as it stands. -/
def State.stepDesc (s : State) (v i : Nat) : Option Desc :=
  match namedDesc (s.stepWord v i) with
  | some d => (s.dirEntry v d).map s.descAt
  | none => none

/-- The banks and the channels bound to a sequencer. -/
def State.banksOf (s : State) (k : Nat) : List Nat := (List.range 8).filter (s.bindsBank k)
def State.aoutsOf (s : State) (k : Nat) : List Nat := (List.range 8).filter (s.bindsAout k)

/-- The output domain of the binding (R258). -/
def State.domainOf (s : State) (k : Nat) : Nat :=
  if !(s.aoutsOf k).isEmpty then 1 else if !(s.banksOf k).isEmpty then 2 else 0

/-- The output period that the binding of a sequencer gives, as a ratio of TU (R224, R258, R311). -/
def State.seqPeriod (s : State) (k : Nat) : Nat × Nat := s.seqPeriodIn k (s.domainOf k)

/-- How a run can go on past a step, among the reachable steps of a scan (R210, R277): a LOOP_END back to the starts its level can
have, a RETURN to the steps after the CALLs (log entry 109). -/
def State.scanNext (s : State) (v : Nat) (steps : List Nat) (i : Nat) : List Nat :=
  let w := s.stepWord v i
  let after (p : BitVec 128 → Bool) : List Nat := (steps.filter fun j => p (s.stepWord v j)).map (· + 1)
  match opOf w with
  | 0x06 => branchWays i w
  | 0x08 => (i + 1) :: after fun u => opOf u == 7 && bf u 119 118 == bf w 119 118
  | 0x09 => [bf w 81 64]
  | 0x0A => after fun u => opOf u == 9
  | _ => stepSuccs i w

/-- The first output steps that the runs from some steps can reach, by the steps as the scan knows them. -/
def State.scanRun (s : State) (v : Nat) (steps from_ : List Nat) : List Nat :=
  (runEnds (fun p => endsRun (s.stepWord v p.step)) (fun _ => false)
    (fun p => ((s.scanNext v steps p.step).filter steps.contains).map fun j => { step := j, loops := [], stack := [] })
    ((steps.length + 2) * (steps.length + 2)) (from_.map fun j => { step := j, loops := [], stack := [] }) [] [] false).1

/-- The segments that the steps name. -/
def State.namesOf (s : State) (v : Nat) (l : List Nat) : List Nat := (l.filterMap fun e => namedDesc (s.stepWord v e)).eraseDups

/-- A HOLD too short for the memory or the Vat before a decision (R277): its count, and the segments that can follow. -/
def State.holdShort (s : State) (v : Nat) (per : Nat × Nat) (count : Nat) (ends : List Nat) : Bool :=
  ends.any fun e => match s.stepDesc v e with
    | some d => decide (count * per.1 < per.2 * (if d.mem then 16384 else 4096))
    | none => false

/-- The conditions of R215 and R277 under which a scan sets SHORT_SEG: a segment too short for its class; more than four first
segments of a run; a HOLD too short that stands directly before a decision. -/
def State.scanShort (s : State) (k : Nat) (steps : List Nat) : Bool :=
  let v := s.ownerVi .seq k
  let many (from_ : List Nat) : Bool := decide (4 < (s.namesOf v (s.scanRun v steps from_)).length)
  many [s.fld (seqR k + 0x18) 17 0] || steps.any fun i =>
    let w := s.stepWord v i
    let nx := s.scanNext v steps i
    (match s.stepDesc v i with
      | some d => d.short
      | none => false) ||
    (endsRun w && many nx) ||
    (opOf w == 3 && nx.any fun j =>
      let u := s.stepWord v j
      isDecision u && s.holdShort v (s.seqPeriod k) (bf w 31 0)
        (s.scanRun v steps (if endsRun u then s.scanNext v steps j else [j])))

/-- The result of an admission scan (R210): the validations it makes, whether every named descriptor is VALID, and the
demand. -/
def State.scan (s : State) (k : Nat) : State × Bool × Nat × Bool :=
  let v := s.ownerVi .seq k
  let steps := s.reachOf k
  let names := steps.filterMap fun i => namedDesc (s.stepWord v i)
  let entries := names.map (s.dirEntry v)
  let s := s.each (entries.filterMap id) fun s p => s.validateNew v p
  let good := entries.all fun e => match e with
    | some p => s.dirState p == 1
    | none => false
  let need := ((steps.filterMap fun i => s.stepDesc v i).map fun d => if d.mem then classMBps d.rate else 0).foldl max 0
  (s, good, need, s.scanShort k steps)

/-- How long a scan takes (R210): 4 steps in an FCLK cycle. -/
def State.scanTu (s : State) (k : Nat) : Nat := 32 * max 1 (((s.reachOf k).length + 3) / 4)

/-! ### Writes that land in the stores -/

/-- The demand cache of sequencer `k` clears (R211). -/
def State.dropCache (s : State) (k : Nat) : State := s.wbit (0x1840 + 4 * k) 16 false

/-- How often writes have restarted the scan that runs (R508). -/
def State.rescanOf (s : State) (k : Nat) : Nat := Tab.get (fun _ => 0) s.mem.rescans k

/-- A write during a scan restarts it (R211): the scan that is due is void. -/
def State.restartScan (s : State) (k : Nat) : State :=
  if s.scanOf k = .idle ∨ s.scanOf k = .entering then s
  else
    let s := { s with mem := { s.mem with rescans := Tab.set (fun _ => 0) s.mem.rescans k (s.rescanOf k + 1) } }
    (s.cancel (.admitScanDone (Fin.ofNat 16 k))).after (s.scanTu k) (.admitScanDone (Fin.ofNat 16 k))

/-- A table whose descriptor's entry or data is written is no longer resident (R300). -/
def State.dropTables (s : State) (vat : Bool) (p n : Nat) : State :=
  s.each (List.range 8) fun s c =>
    let v := s.ownerVi .aout c
    let hit (d : Nat) : Bool := d != 0xFFFF && match s.dirEntry v d with
      | some e => (vat && meets (e, 32) (p, n)) ||
        (let x := s.descAt e
         x.mem == !vat && (s.ranges v x.mem x.addr x.extent).any fun r => meets r (p, n))
      | none => true
    let w := s.rd (aoutR c + 0x40)
    let w := if hit (bf w 15 0) then setFld w 15 0 0xFFFF else w
    let w := if hit (bf w 31 16) then setFld w 31 16 0xFFFF else w
    s.wr (aoutR c + 0x40) w

/-- What a write of `n` bytes at physical Vat address `p` does beside storing them: granules become LOADED (R200), entries
UNCHECKED (R206), demand caches of the VI clear and its scans restart (R211), tables stop being resident (R300). -/
def State.vatWritten (s : State) (p n : Nat) : State :=
  if n = 0 then s
  else
    let gs := (List.range ((p + n - 1) / 0x40000 + 1 - p / 0x40000)).map (· + p / 0x40000)
    let s := s.each gs fun s g => { s with mem := { s.mem with notLoaded := setBit s.mem.notLoaded g false } }
    let lo := max p 0x400000
    let hi := min (p + n) 0x600000
    let s := if lo < hi then { s with mem := { s.mem with dir := Tab.keep (fun d =>
      decide (d < (lo - 0x400000) / 32) || decide ((hi - 1 - 0x400000) / 32 < d)) s.mem.dir } } else s
    let s := s.each (gs.filter (· < 24)) fun s g =>
      s.each ((List.range 16).filter fun k => s.owner .vat g == .vi (s.ownerVi .seq k)) fun s k =>
        (s.dropCache k).restartScan k
    s.dropTables true p n

/-- Store bytes at a physical address of the Vat, or of the memory. -/
def State.store (s : State) (vat : Bool) (p : Nat) (b : List Byte) : State :=
  let s := (s.putBytes vat p b).mend vat p b.length
  if vat then s.vatWritten p b.length else s.dropTables false p b.length

/-- Store bytes from a VI address on; the ones outside the VI's space are dropped. -/
def State.storeVi (s : State) (v : Nat) (mem : Bool) (a : Nat) (b : List Byte) : State :=
  ((s.ranges v mem a b.length).foldl (fun x r => (x.1.store (!mem) r.1 (x.2.take r.2), x.2.drop r.2)) (s, b)).1

/-- The bytes of a VI's space from an address on; the ones outside it read 0. -/
def State.loadVi (s : State) (v : Nat) (mem : Bool) (a n : Nat) : List Byte :=
  (List.range n).map fun i =>
    match (if mem then s.memAddr v (a + i) else s.vatAddr v (a + i)) with
    | some p => if mem then s.memB p else s.vatB p
    | none => 0

/-- Bytes of a VI's space are read under the code of R193. -/
def State.readVi (s : State) (v : Nat) (mem : Bool) (a n : Nat) : State :=
  s.each (s.ranges v mem a n) fun s r => s.readWords (!mem) r.1 r.2

/-- The first word with an uncorrectable error among bytes of a VI's space: its place among them, and its physical address. -/
def State.firstBad (s : State) (v : Nat) (mem : Bool) (a n : Nat) : Option (Nat × Nat) :=
  if s.mem.errs.isEmpty then none
  else ((s.ranges v mem a n).foldl (fun (acc : Nat × Option (Nat × Nat)) r =>
    (acc.1 + r.2, acc.2 <|> ((s.errsIn (!mem) r.1 r.2 2).head?.map fun p => (acc.1 + (p - r.1), p)))) (0, none)).2

/-! ### Starts under admission -/

/-- Run an admission scan of sequencer `k` for a purpose: BUSY shows until it ends. -/
def State.startScan (s : State) (k : Nat) (p : ScanFor) : State :=
  let v := s.ownerVi .seq k
  let s := { s with mem := { s.mem with rescans := Tab.set (fun _ => 0) s.mem.rescans k 0 } }
  ((s.setScan k p).wbitv v 0x182C 0 true).after (s.scanTu k) (.admitScanDone (Fin.ofNat 16 k))

/-- Cache the result of a scan (R211), and report it (ADMIT_STATUS, ADMIT_DEMANDn). -/
def State.cacheScan (s : State) (k need : Nat) (short : Bool) : State :=
  let v := s.ownerVi .seq k
  let a := 0x1840 + 4 * k
  let s := (((s.wfld a 15 0 need).wbit a 16 true).wbit a 18 short)
  let s := (s.wfldv v 0x182C 31 16 need).wfldv v 0x182C 15 12 (s.relNum .seq k)
  if short then s.wbitv v 0x182C 3 true else s

/-- A start refused by admission, in the starter's VI (R212): ADMIT_FAIL or DESC, and the count. -/
def State.admitRefused (s : State) (k bitNo : Nat) : State :=
  let v := s.ownerVi .seq k
  (((s.wbitv v 0x182C bitNo true).wfldv v 0x182C 15 12 (s.relNum .seq k)).incSatv v 0x1830 1).pendOwner .seq k 27

/-- The last admission in the VI: the sequencer and its demand (ADMIT_STATUS). -/
def State.admitNote (s : State) (k need : Nat) : State :=
  let v := s.ownerVi .seq k
  (s.wfldv v 0x182C 31 16 need).wfldv v 0x182C 15 12 (s.relNum .seq k)

/-- ADMIT_CMD.PRECHECK for a sequencer (R211). -/
def execPrecheck (k : Fin 16) (s : State) : Res :=
  if s.scanOf k = .idle then ok (s.startScan k .precheck) else ok s

/-- A write of `n` bytes at VI address `a` of the Vat would restart a scan that has restarted 8 times (R508). -/
def State.scanHolds (s : State) (v a n : Nat) : Bool :=
  (List.range 16).any fun k =>
    s.scanOf k != .idle && s.scanOf k != .entering && decide (8 ≤ s.rescanOf k) &&
      (s.ranges v false a n).any fun r =>
        (List.range 24).any fun g => s.owner .vat g == .vi (s.ownerVi .seq k) && meets (g * 0x40000, 0x40000) r

/-! ### Directory validation -/

/-- DIR_VAL_CMD.GO (R206): COUNT entries from DIR_VAL_FIRST, 2 FCLK cycles each. A GO while a validation of the VI runs does nothing (log
entry 113). -/
def execDirValGo (v : Fin 32) (count : BitVec 17) (s : State) : Res :=
  let n := count.toNat
  if n = 0 ∨ 65536 < n ∨ s.bitv v 0x1888 0 = true then ok s
  else
    let f := s.fldv v 0x1880 15 0
    let s := { s with mem := { s.mem with dirVal := Tab.set (fun _ => none) s.mem.dirVal v (some (f, n)) } }
    ok ((s.wbitv v 0x1888 0 true).after (64 * n) (.dirValDone v))

/-- The validation ends, with the first rejection recorded (R206). -/
def execDirValDone (v : Fin 32) (s : State) : Res :=
  match Tab.get (fun _ => none) s.mem.dirVal v with
  | none => ok s
  | some (f, n) =>
    let es := (List.range n).filterMap fun i => (s.dirEntry v (f + i)).map fun p => (f + i, p)
    let s := s.each es fun s e => s.validate v e.2
    let rej := es.find? fun e => s.dirState e.2 != 1
    let w : Word := match rej with
      | some (i, p) => setFld (setFld (0 : Word) 31 28 (s.dirState p / 16)) 27 12 i
      | none => 0
    ok ({ s with mem := { s.mem with dirVal := Tab.set (fun _ => none) s.mem.dirVal v none } }.wrv v 0x1888 w)

/-! ### Load engines -/

abbrev ldeR (e : Nat) : Nat := 0x1900 + 0x20 * e

/-- The VI of a load engine. -/
def State.ldeVi (s : State) (e : Nat) : Nat := s.ownerVi .lde e

/-- A whole extent of the NVM (R461, NVM_INFO). -/
def State.nvmSize (s : State) : Nat := min (2 ^ s.fld 0x3820 31 24) 0x10000000

/-- The check of one side of a copy (R216, R217): the reason it fails, 0 if it passes. -/
def State.ldeSide (s : State) (v space addr len : Nat) (dst : Bool) : Nat :=
  match space with
  | 0 => if (s.ranges v false addr len).foldl (fun n r => n + r.2) 0 = len then 0 else 2
  | 1 => if (s.ranges v true addr len).foldl (fun n r => n + r.2) 0 = len then 0 else 2
  | 2 => if s.bindOf v = 1 then 0 else 1
  | 3 => if v ≠ 0 then 1 else if dst && !(s.mode.eff == .service) then 7
         else if s.nvmSize < addr + len then 2 else 0
  | _ => 1

/-- The check before a byte moves (R217), reasons in the order of LDEn_STAT.REASON (log entry 21). -/
def State.ldeCheck (s : State) (e : Nat) : Nat :=
  let v := s.ldeVi e
  let src := (s.rd64 (ldeR e) (ldeR e + 4)).toNat
  let dst := (s.rd64 (ldeR e + 8) (ldeR e + 12)).toNat
  let len := (s.rd (ldeR e + 16)).toNat
  let a := s.ldeSide v (s.fld (ldeR e + 0x14) 2 0) src len false
  let b := s.ldeSide v (s.fld (ldeR e + 0x14) 6 4) dst len true
  let align := if src % 32 ≠ 0 ∨ dst % 32 ≠ 0 ∨ len % 32 ≠ 0 ∨ len = 0 then 3 else 0
  (([a, b, align].filter (· ≠ 0)).min?).getD 0

/-- A copy from or to host memory, with the function's Bus Master Enable clear (R445). -/
def State.ldeNoBus (s : State) (e : Nat) : Bool :=
  let c := (s.lde e).ctrl
  (bf c 2 0 == 2 || bf c 6 4 == 2) && !s.host.busMaster.getLsbD (s.ldeVi e)

/-- The model itself moves the blocks of the copy: between the stores, or from the NVM. -/
def LdeSt.local_ (x : LdeSt) : Bool := decide (bf x.ctrl 6 4 ≤ 1) && bf x.ctrl 2 0 != 2

/-- The copy uses the NVM. -/
def LdeSt.nvm (x : LdeSt) : Bool := bf x.ctrl 2 0 == 3 || bf x.ctrl 6 4 == 3

/-- The operations of the NVM under way (R460): engines, and an erase as 4. -/
def State.nvmOps (s : State) : List Nat :=
  (List.range 4).filter (fun e => (s.lde e).busy && (s.lde e).nvm) ++ (if s.host.erase.isSome then [4] else [])

/-- How long a 32-byte block takes at the full rate of R218 (log entry 21). -/
def LdeSt.blockTu (x : LdeSt) : Nat := if bf x.ctrl 2 0 = 3 then 2048 else 128

/-- LDEn_CTRL.START, or an event at the start consumer (R217). Copies between the Vat, the memory and from the NVM go block by block
at the full rate of R218 (log entry 21); those with the host, and programming, end with LDE_DONE. A STOP of the same cycle wins. -/
def execLdeStart (e : Fin 4) (s : State) : Res :=
  if (s.lde e).busy || (s.lde e).stopAt == some s.time.mono then ok s
  else
    let s := (s.wr (ldeR e + 0x1C) 0).wfld (ldeR e + 0x18) 11 8 0
    let r := s.ldeCheck e
    if r ≠ 0 then ok (((s.wbit (ldeR e + 0x18) 2 true).wfld (ldeR e + 0x18) 11 8 r).pendOwner .lde e 15)
    else
      let x : LdeSt := { busy := true, stopAt := (s.lde e).stopAt, ctrl := s.rd (ldeR e + 0x14),
                         src := s.rd64 (ldeR e) (ldeR e + 4), dst := s.rd64 (ldeR e + 8) (ldeR e + 12),
                         len := (s.rd (ldeR e + 16)).toNat }
      let x := { x with nvmQ := if x.nvm then s.nvmOps else [] }
      let s := (s.setLde e { x with next := s.time.mono + x.blockTu }).wbit (ldeR e + 0x18) 0 true
      if s.ldeNoBus e then ok (s.after 0 (.ldeDone e (.err 5 0))) else ok s

/-- `n` bytes of a copy's source from byte `at_` on; what a host source gives is in the operand, and a free value where it gives too
little. -/
def State.ldeSource (s : State) (v : Nat) (x : LdeSt) (at_ n : Nat) (host : List Byte) : List Byte :=
  let a := x.src.toNat + at_
  match bf x.ctrl 2 0 with
  | 0 => s.loadVi v false a n
  | 1 => s.loadVi v true a n
  | 3 => (List.range n).map fun i => s.nvmB (a + i)
  | _ => (host.drop at_ ++ (List.range n).map fun i => Config.openByte (a + i) s.free).take n

/-- A 32-byte block of a copy goes to the VI's Vat space: in the log area it is dropped, with a fault record (R197, log entry 110). -/
def State.ldeVat (s : State) (v a : Nat) (b : List Byte) : State :=
  match s.vatAddr v a with
  | some p => if 0x600000 ≤ p ∧ p < 0x610000 then s.pwf v (a % 65536) (s.fldv v 0x118 15 0) 0 2 none else s.storeVi v false a b
  | none => s

/-- Copy `n` bytes from byte `at_` of the copy on; a program clears bits of the flash, and what one over bytes that are not
erased leaves is a free value (R461, log entry 21). -/
def State.ldeCopy (s : State) (e at_ n : Nat) (host : List Byte) : State :=
  let x := s.lde e
  let v := s.ldeVi e
  let b := s.ldeSource v x at_ n host
  let s := if bf x.ctrl 2 0 ≤ 1 then s.readVi v (bf x.ctrl 2 0 == 1) (x.src.toNat + at_) n else s
  let s := s.fresh
  let d := x.dst.toNat + at_
  match bf x.ctrl 6 4 with
  | 0 => s.each (List.range ((n + 31) / 32)) fun s i => s.ldeVat v (d + 32 * i) ((b.drop (32 * i)).take 32)
  | 1 => s.storeVi v true d b
  | 3 => (s.each (b.zipIdx) fun s p =>
      s.wNvm (d + p.2) (if s.nvmB (d + p.2) = 0xFF then p.1 else Config.openByte (d + p.2) s.free)).fresh
  | _ => s

/-- The directory entries that a copy to VI Vat addresses wrote are validated (R206). -/
def State.ldeValidate (s : State) (e n : Nat) : State :=
  let x := s.lde e
  let v := s.ldeVi e
  if tb x.ctrl 12 && bf x.ctrl 6 4 == 0 then
    s.each ((List.range (n / 32)).filterMap fun i => s.vatAddr v (x.dst.toNat + 32 * i)) fun s p =>
      if 0x400000 ≤ p ∧ p < 0x600000 then s.validate v p else s
  else s

/-- An operation of the NVM has ended: the next in order of start goes on (R460). -/
def State.nvmNext (s : State) (op : Nat) : State :=
  s.each ((List.range 4).filter fun e => (s.lde e).nvmQ.contains op) fun s e =>
    let x := s.lde e
    s.setLde e { x with nvmQ := x.nvmQ.filter (· ≠ op), next := max x.next (s.time.mono + x.blockTu) }

/-- The engine is idle; LDEn_STAT takes the ending bit and the reason, LDEn_DONE_BYTES the bytes written. Entries written are validated
however the copy ends (log entry 111). -/
def State.ldeEnd (s : State) (e n bitNo reason : Nat) : State :=
  let s := ((s.ldeValidate e n).setLde e { stopAt := (s.lde e).stopAt }).nvmNext e
  let s := ((s.wbit (ldeR e + 0x18) 0 false).wbit (ldeR e + 0x18) bitNo true).wfld (ldeR e + 0x18) 11 8 reason
  let s := (s.wr (ldeR e + 0x1C) (BitVec.ofNat 32 n)).pendOwner .lde e 15
  if s.mode.trans = .leaveService then s.after 0 .serviceExitDone else s

/-- A copy of an engine is cut off, as an edit or a reset does. How many blocks a copy with the host, or a program, has moved by then is
not stated: a free value. -/
def State.stopLde (s : State) (e : Nat) : State :=
  let x := s.lde e
  if !x.busy then s
  else if x.local_ then s.ldeEnd e x.done 3 0
  else
    let n := 32 * ((Config.openWord 4 s.free).toNat % (x.len / 32) + 1)
    (s.fresh.ldeCopy e 0 n []).ldeEnd e n 3 0

/-- LDEn_CTRL.STOP, or an event at the stop consumer (R217): the copy ends after the block in flight; one that was started in this cycle
copies nothing, and one whose last block is written ends as done. -/
def execLdeStop (e : Fin 4) (s : State) : Res :=
  let s := s.setLde e { s.lde e with stopAt := some s.time.mono }
  let x := s.lde e
  if !x.busy then ok s
  else if x.local_ then
    if x.next = s.time.mono + x.blockTu ∧ x.done = 0 then ok (s.ldeEnd e 0 3 0)
    else ok (s.setLde e { x with stop := true })
  else ok (s.stopLde e)

/-- The block in flight of a copy of the model's own ends in this cycle: it is written, unless its source holds an uncorrectable error
(R193, R217, R219). The last one leaves the end to LDE_DONE. -/
def State.ldeBlock (s : State) (e : Nat) : State :=
  let x := s.lde e
  if !(x.busy && x.local_ && !x.suspended && x.nvmQ.isEmpty && decide (x.done < x.len) && decide (x.next < s.time.mono + s.cycleTu)) then s
  else
    let src := x.src.toNat + x.done
    if bf x.ctrl 2 0 ≤ 1 ∧ (s.firstBad (s.ldeVi e) (bf x.ctrl 2 0 == 1) src 32).isSome then
      (s.readVi (s.ldeVi e) (bf x.ctrl 2 0 == 1) src 32).ldeEnd e x.done 2 4
    else
      let s := s.ldeCopy e x.done 32 []
      let s := s.wr (ldeR e + 0x1C) (BitVec.ofNat 32 (x.done + 32))
      let rest := match s.mode.trans with
        | .descent _ => true
        | _ => false
      let s := s.setLde e { x with done := x.done + 32, next := x.next + x.blockTu, suspended := rest }
      if x.stop && decide (x.done + 32 < x.len) then s.ldeEnd e (x.done + 32) 3 0 else s

/-- The copy ends (R217, R445, R460, R461): all bytes written and DONE, or ERR with a reason after some of them. -/
def execLdeDone (e : Fin 4) (how : LdeEnd) (s : State) : Res :=
  let x := s.lde e
  if !x.busy then ok s
  else if x.suspended then ok (s.after 781250 (.ldeDone e how))
  else if !x.nvmQ.isEmpty then ok (s.after s.cycleTu (.ldeDone e how))
  else match how, s.ldeNoBus e with
    | .ok host, false => ok ((s.ldeCopy e x.done (x.len - x.done) host).ldeEnd e x.len 1 0)
    | .ok _, true => ok (s.ldeEnd e 0 2 5)
    | .err r n, _ =>
      let m := max x.done (min (n / 32 * 32) x.len)
      let s := s.ldeCopy e x.done (m - x.done) []
      let mem := bf x.ctrl 2 0 == 1
      let s := if r.val = 4 ∧ bf x.ctrl 2 0 ≤ 1 then
          (match (s.ranges (s.ldeVi e) mem (x.src.toNat + m) 8).head? with
            | some p => (s.spoil (!mem) p.1 2).readWords (!mem) p.1 8
            | none => s)
        else s
      ok (s.ldeEnd e m 2 r)

/-- One pass of the Vat scrub (R195): errors are counted, uncorrectable ones recorded, and corrected words written back. The next pass
ends 2 s later (log entry 112). -/
def execVatScrub (corrected uncorrectable : List Nat) (s : State) : Res :=
  if !s.awake then ok s
  else
    let s := (s.spoils true { single := corrected, multi := uncorrectable }).readWords true 0 0x2000000
    ok { s with mem := { s.mem with errs := s.mem.errs.filter fun x => !(x.1 % 2 == 1 && x.2 == 1),
                                    scrubAt := s.time.mono + 51200000000 } }

end Sys2Proof.Machine
end

