-- ==== Sys2Proof/Machine/Timeline.lean ====
section
/-! DEFINITION. The output timeline: boundary times, the loop arithmetic of segments
(R224, R233, R234, R265), and what a boundary's step plays. -/

namespace Sys2Proof.Machine

def SeqSt.at_ (x : SeqSt) (j : Nat) : Nat := x.tl.at_ j
def SeqSt.from_ (x : SeqSt) (t : Nat) : Nat := x.tl.from_ t

/-- The elapsed time of a scheduled action's target. -/
def State.targetAt (s : State) (target : Time) : Nat := ((s.time.mono : Int) + lead target s.now).toNat

/-- An underrun holds the timeline of the sequencer (R279, HOLD_AND_SLIP). -/
def State.gapHolds (s : State) (k : Nat) : Bool := (s.sq k).underrun.isSome && !s.bit (seqR k) 1

/-- The decided halt of a sequencer, with its HALT_WHY (R281, R283): the earliest of a step boundary's, of the first output boundary
after a STOP or a step fault, and of the boundary at which bad data is due. In an underrun that holds only the second comes. -/
def State.haltDue (s : State) (k : Nat) : Option (Nat × Nat) :=
  let x := s.sq k
  let stop : Option (Nat × Nat) := x.stopT.map fun p => (x.from_ p.1, p.2)
  let ecc : Option (Nat × Nat) := x.ecc.map fun p => (p.1, 2)
  (if s.gapHolds k then stop.toList else x.halt.toList ++ stop.toList ++ ecc.toList).foldl (fun m p => match m with
    | some q => if p.1 < q.1 then some p else some q
    | none => some p) none

/-- The cycle in which the run that ends at boundary `j` commits (R265): the one containing B − 2,048 TU, never earlier
than the cycle after the previous run's; the first run of a start commits when its start says. -/
def State.commitCycle (s : State) (x : SeqSt) (j : Nat) : Nat :=
  if x.started then max (x.lastC + 32) (s.cycleOf (x.at_ j - 2048)) else x.lastC + 32

/-- Element `i` of a play that runs through `len` elements over and over. -/
def playElem (len i : Nat) : Nat := if len = 0 then 0 else i % len

/-- Element `i` of a segment with an inner loop that is passed without end (R332). -/
def loopElem (ls le len i : Nat) : Nat :=
  if ls = 0 ∧ le = 0 then playElem len i else if i < le then i else ls + (i - le) % max 1 (le - ls)

/-- Element `i` of a PLAYLOOP whose loop section ends after `n` elements, if it ends (R234). -/
def loopPlayElem (ls le : Nat) (n : Option Nat) (i : Nat) : Nat :=
  match n with
  | some m => if i < m then loopElem ls le le i else le + (i - m)
  | none => loopElem ls le le i

/-- The interpolation factor of channel `n` (R287). -/
def State.interp (s : State) (n : Nat) : Nat :=
  if s.fld (aoutR n + 4) 1 0 = 1 then 1 else 2 ^ s.fld (aoutR n + 4) 5 4

/-- Round to nearest, ties away from zero (R288). -/
def roundDiv (a : Int) (b : Nat) : Int :=
  if 0 ≤ a then (2 * a + b) / (2 * b : Nat) else -((2 * -a + b) / (2 * b : Nat))

/-- Saturate to a signed 16-bit number (R288). -/
def sat16 (y : Int) : Int := max (-32768) (min 32767 y)

end Sys2Proof.Machine
end

