-- ==== Sys2Proof/Machine/Analog.lean ====
section
/-! DEFINITION. Analog channels (10): one output period of the datapath, lists and ramps, phase resets, tables, park. -/

namespace Sys2Proof.Machine

/-- Bits of AOUTn_STATUS. -/
def State.waout (s : State) (n i : Nat) (b : Bool) : State := s.wbit (aoutR n + 0x2C) i b
def State.aoutBit (s : State) (n i : Nat) : Bool := s.bit (aoutR n + 0x2C) i

/-- The running sequencer bound to the channel, if there is one. -/
def State.aoutSeq (s : State) (n : Nat) : Option Nat := (List.range 16).find? fun q => s.seqOn q && s.bindsAout q n

/-- Element `i` of an analog segment, left-justified to 16 bits (R201). -/
def State.analogElem (s : State) (v : Nat) (d : Desc) (i : Nat) : Int :=
  let b := s.loadVi v d.mem (d.addr + i * d.eb / 8) 2
  if d.eb = 12 then sext 16 ((leNat b >>> (i * 12 % 8)) % 4096 * 16)
  else if d.eb = 8 then sext 16 (leNat b % 256 * 256)
  else sext 16 (leNat b)

/-! ### Lists and ramps -/

/-- The elements of a PARAM segment as (frequency word, amplitude) pairs (R201). -/
def State.paramElems (s : State) (v : Nat) (d : Desc) : List (Nat × Nat) :=
  (List.range d.len).map fun i =>
    let x := leNat (s.loadVi v d.mem (d.addr + i * d.eb / 8) (d.eb / 8))
    if d.fmt = 1 then (0, x) else (x % 2 ^ 48, x / 2 ^ 48)

/-- The ramp's amplitude at the next output period (R299). -/
def AoutSt.stepRamp (x : AoutSt) : AoutSt :=
  match x.ramp with
  | none => x
  | some r =>
    if r.k = 0 then { x with ramp := some { r with k := 1 } }
    else
      let a := r.a0 + roundDiv ((r.a1 - r.a0) * r.k) r.len
      { x with ampl := BitVec.ofInt 16 a, ramp := if r.k = r.len then none else some { r with k := r.k + 1 } }

/-- Start a ramp at a boundary from the amplitude an earlier ramp reaches there (R246, R299) towards `a`, or set it at once. -/
def AoutSt.rampTo (x : AoutSt) (a len : Nat) : AoutSt :=
  let x := x.stepRamp
  if len = 0 then { x with ampl := BitVec.ofNat 16 a, ramp := none }
  else { x with ramp := some { a0 := x.ampl.toInt, a1 := sext 16 a, len := len, k := 0 } }

/-- The element after `i` (R243): the loop section repeats, or the last element is held. -/
def ListSt.succ (l : ListSt) : Nat :=
  if l.loopS = 0 ∧ l.loopE = 0 then min (l.idx + 1) (l.elems.length - 1)
  else if l.idx + 1 < l.loopE then l.idx + 1 else l.loopS

def ListSt.elem (l : ListSt) : Nat × Nat := (l.elems[l.idx]?).getD (0, 0)

/-- A list takes its next element once the dwell has passed; otherwise it counts. -/
def ListSt.advance (l : ListSt) : ListSt × Bool :=
  if l.left = 0 then
    let i := l.succ
    ({ l with idx := i, left := l.dwell - 1 }, i != l.idx || l.loopE != 0)
  else ({ l with left := l.left - 1 }, false)

/-- The frequency list at an output boundary. -/
def AoutSt.stepFreq (x : AoutSt) : AoutSt :=
  match x.fList with
  | none => x
  | some l =>
    let (l, new) := l.advance
    let x := { x with fList := some l }
    if new then
      let x := { x with freq := BitVec.ofNat 48 l.elem.1 }
      if l.both then { x with ampl := BitVec.ofNat 16 l.elem.2, ramp := none } else x
    else x

/-- The amplitude list at an output boundary. -/
def AoutSt.stepAmpl (x : AoutSt) : AoutSt :=
  match x.aList with
  | none => x
  | some l =>
    let (l, new) := l.advance
    let x := { x with aList := some l }
    if new then x.rampTo l.elem.2 l.ramp else x

/-! ### One output period (R285, R288, R293) -/

/-- The phase θ: the accumulator with the offset added to its top 16 bits. -/
def AoutSt.theta (x : AoutSt) : BitVec 48 := x.nco + ((x.phase.setWidth 48) <<< 32)

/-- A table entry of the active RAM; what a RAM holds before its first load is a free value (log entry 13). -/
def AoutSt.tableAt (x : AoutSt) (e n : Nat) : Int :=
  let b := (x.ramA.drop (2 * e)).take 2
  if b.length = 2 then sext 16 (leNat b) else sext 16 (Config.openWord 5 n).toNat

/-- The sine of a phase in 2^-20 turns: 0 and the peaks of R288 at the quarter turns, elsewhere a free value within the peaks (log entry
12). -/
def sineAt (p : Nat) : Int :=
  if p % 2 ^ 19 = 0 then 0
  else if p = 2 ^ 18 then 32767
  else if p = 3 * 2 ^ 18 then -32767
  else max (-32767) (min 32767 (Config.sine p))

/-- The interpolator in an output period (R290): at the first period of an element, given or held, it takes the element. `e` is the
element and the place of the period within it; none while the channel holds. -/
def AoutSt.filter (x : AoutSt) (f : Nat) (e : Option (Int × Nat)) : AoutSt × Int :=
  let (v, p) := e.getD (x.elem, x.fphase % f)
  let filt := if p = 0 then Config.filterNext f x.filt v else x.filt
  ({ x with elem := v, filt := filt, fphase := (p + 1) % f }, if f = 1 then v else sat16 (Config.filterOut f filt p))

/-- The 16-bit source value of the mode (R288); `e` is the interpolated sample. -/
def State.aoutSource (s : State) (n : Nat) (x : AoutSt) (e : Int) : Int :=
  let th := x.theta
  match s.fld (aoutR n + 4) 1 0 with
  | 1 => x.tableAt (bf th 47 36) s.free
  | 2 => roundDiv (e * sineAt (bf th 47 28)) 32768
  | _ => e

/-- The channel's park by event or command takes effect (R303). PARKED also stands while no sequencer plays the channel, and in the gap
of an underrun under DROP_AND_KEEP_TIME (R279, R302). -/
def State.parkNow (s : State) (n : Nat) (p : Bool) : State :=
  let gap := (List.range 16).any fun q =>
    s.bindsAout q n && decide (2 ≤ s.seqState q) && (s.sq q).underrun.isSome && s.bit (seqR q) 1
  ((s.setAo n { s.ao n with evParked := p, parkReq := none }).waout n 3 p).waout n 2 (p || gap || s.aoutIdle n)

/-- A park asked for takes effect at an output boundary at elapsed time `t`, the first one at or after the request. -/
def State.parkAtBoundary (s : State) (n t : Nat) : State :=
  match (s.ao n).parkReq with
  | some (r, p) => if r ≤ t then s.parkNow n p else s
  | none => s

/-- One DAC sample, at elapsed time `t`: lists, ramp, NCO, amplitude and offset, saturation with its count, and the park multiplexer
(R285). `elem` is the element due and the place within it, none while the channel holds (R230, R301). -/
def State.aoutSample (s : State) (n : Nat) (elem : Option (Int × Nat)) (t : Nat) : State :=
  let s := s.parkAtBoundary n t
  let (x, e) := (s.ao n).filter (s.interp n) elem
  let x := x.stepFreq.stepAmpl.stepRamp
  let x := { x with nco := x.nco + x.freq }
  let y := roundDiv (s.aoutSource n x e * x.ampl.toInt) 32768 + x.offs.toInt
  let parked := s.aoutBit n 2
  let s := s.fresh.setAo n { x with lastCode := if parked then (s.rd (aoutR n + 0xC)).setWidth 16 else BitVec.ofInt 16 (sat16 y) }
  if y = sat16 y then s else (s.incSat (aoutR n + 0x34) 1).waout n 5 true

/-- `m` samples of an idle channel, from edge `j` of SYN-B on. -/
def State.idleFrom (s : State) (n j : Nat) : Nat → State
  | 0 => s
  | m + 1 => (s.aoutSample n none ((s.sy 1).out.at_ j)).idleFrom n (j + 1) m

/-- The samples before elapsed time `t` of a channel that no sequencer plays: it computes a code and advances its NCO at every edge of
SYN-B, unseen behind its park (R285, R293, R302; the source goes on as in a hold, log entry 117). A mute stops the edges (R181). -/
def State.idleTo (s : State) (n t : Nat) : State :=
  if !s.domOn (6 + n) || !s.aoutIdle n then s
  else
    let y := s.sy 1
    let a := (s.ao n).upTo
    let e := if s.synBit 1 1 then min t y.muteAt else t
    let s := if y.running then s.idleFrom n (y.out.from_ a) (y.out.from_ e - y.out.from_ a) else s
    let s := if a < t then s.setAo n { s.ao n with upTo := t } else s
    if !y.running || s.synBit 1 1 then s.parkAtBoundary n t else s

/-- The lists begin at a boundary with element 0 in force for a dwell. -/
def newList (d : Desc) (es : List (Nat × Nat)) (dwell ramp : Nat) : ListSt :=
  { elems := es, loopS := d.ls, loopE := d.le, dwell := dwell, ramp := ramp, both := d.fmt == 2, idx := 0, left := dwell }

/-- SET_FREQ takes effect (R243 to R245, R296): the working frequency, the list, and the phase. -/
def State.setFreqAt (s : State) (n : Nat) (mode ftw : Nat) (lst : Option ListSt) : State :=
  let x := { s.ao n with freq := BitVec.ofNat 48 ftw, fList := lst }
  let x := match lst with
    | some l => if l.both then { x with ampl := BitVec.ofNat 16 l.elem.2, ramp := none } else x
    | none => x
  s.setAo n (if mode = 1 then { x with nco := 0 - x.freq } else x)

/-- SET_AMPL takes effect (R246, R299). -/
def State.setAmplAt (s : State) (n a ramp : Nat) (lst : Option ListSt) : State :=
  s.setAo n ({ s.ao n with aList := lst }.rampTo a ramp)

/-- PHASE_RESET (R297, R298): at the first output boundary at or after TIME and B the accumulator is loaded from the phase
reference. `phaseRef` holds B and the action holds F. -/
def State.phaseLoad (s : State) (n q : Nat) (target : Int) : State :=
  let y := s.sq q
  let a := s.act (actId 4 n)
  let b := ((s.ao n).phaseRef.map fun r => r.1).getD 0
  let i : Nat := max b.toNat (y.from_ target.toNat)
  let l := y.tl
  let p := roundDiv ((a.data : Int) * (((l.anchor : Int) - target) * (l.den * 2 ^ 40) + l.frac * l.den + (i - l.base : Nat) * l.num * 2 ^ 40))
    (l.num * 2 ^ 40)
  let x := s.ao n
  s.setAo n { x with nco := BitVec.ofInt 48 p - x.freq, phaseRef := none }

/-- The boundary S of a phase reset of the channel on sequencer `q`, once the boundary B of its step has come (R297). -/
def State.phaseAt (s : State) (n q : Nat) : Option Nat :=
  (s.ao n).phaseRef.map fun r => max r.1.toNat ((s.sq q).from_ (s.targetAt (s.act (actId 4 n)).target))

/-! ### Set-points (R294, R295) -/

/-- The keys of a channel's buffered set-points. -/
def aoutShadow (n : Nat) (k : Nat) : Bool := aoutR n + 0x10 ≤ k && k ≤ aoutR n + 0x20

/-- Apply the pending set-point shadows of a channel: each replaces its working value, a frequency ends the list, an
amplitude ends list and ramp. -/
def State.applySetPoints (s : State) (n : Nat) : State :=
  let has (lo hi : Nat) : Bool := s.pendingShadow fun k => decide (aoutR n + lo ≤ k) && decide (k ≤ aoutR n + hi)
  let f := has 0x10 0x14
  let p := has 0x18 0x18
  let a := has 0x1C 0x1C
  let o := has 0x20 0x20
  let s := s.boundary (aoutShadow n)
  let x := s.ao n
  let x := if f then { x with freq := (s.rd64 (aoutR n + 0x10) (aoutR n + 0x14)).setWidth 48, fList := none } else x
  let x := if p then { x with phase := (s.rd (aoutR n + 0x18)).setWidth 16 } else x
  let x := if a then { x with ampl := (s.rd (aoutR n + 0x1C)).setWidth 16, aList := none, ramp := none } else x
  let x := if o then { x with offs := (s.rd (aoutR n + 0x20)).setWidth 16 } else x
  s.setAo n x

/-! ### Tables (R300) -/

/-- How long a table load takes at most: 1 µs from the Vat, at the class rate from memory. -/
def tableTu (d : Desc) : Nat := if d.mem then 8192 * 25600 / max 1 (classMBps d.rate) else us 1

/-- The descriptor of a directory index, if the entry is VALID. -/
def State.validDesc (s : State) (v d : Nat) : Option Desc :=
  match s.dirEntry v d with
  | some p => if s.dirState p = 1 then some (s.descAt p) else none
  | none => none

/-- Load descriptor `d` into the standby RAM; a load in progress is replaced. -/
def State.loadTable (s : State) (n d : Nat) (x : Desc) (wait : Option Nat) : State :=
  let c : Instr := .tableLoadDone (Fin.ofNat 8 n)
  let s := ((s.cancel c).wfld (aoutR n + 0x40) 31 16 0xFFFF).waout n 9 true
  (s.setAo n { s.ao n with loading := some (d, wait) }).after (roundUp (tableTu x) 32) c

/-- The RAMs change places. -/
def State.swapTables (s : State) (n : Nat) : State :=
  let w := s.rd (aoutR n + 0x40)
  let x := s.ao n
  (s.wr (aoutR n + 0x40) (setFld (setFld w 15 0 (bf w 31 16)) 31 16 (bf w 15 0))).setAo n
    { x with ramA := x.ramB, ramB := x.ramA }

/-- A PLAY of TABLE descriptor `d` commits with boundary at elapsed time `t` (R300). -/
def State.wantTable (s : State) (n d t : Nat) (x : Desc) : State :=
  let w := s.rd (aoutR n + 0x40)
  if bf w 15 0 = d ∨ bf w 31 16 = d then s
  else match (s.ao n).loading with
    | some (e, _) => if e = d then s.setAo n { s.ao n with loading := some (d, some t) } else s.loadTable n d x (some t)
    | none => s.loadTable n d x (some t)

/-- At the boundary of the PLAY a resident table becomes active. -/
def State.takeTable (s : State) (n d : Nat) : State :=
  let w := s.rd (aoutR n + 0x40)
  if bf w 15 0 = d then s else if bf w 31 16 = d then s.swapTables n else s

/-- AOUTn_CMD.PRELOAD (R300): TBL_ERR where TBL_IDX names no VALID TABLE. -/
def execPreload (n : Fin 8) (s : State) : Res :=
  let v := s.ownerVi .aout n
  let d := s.fld (aoutR n + 0x28) 15 0
  match s.validDesc v d with
  | some x => if x.typ = 2 then ok (s.loadTable n d x none) else ok (s.waout n 10 true)
  | none => ok (s.waout n 10 true)

/-! ### Mode, park and counters -/

/-- AOUTn_MODE (R287): ignored, with CFG_BUSY, while a running sequencer is bound; MODE code 3 leaves the field. -/
def execAoutModeWrite (n : Fin 8) (v : Word) (s : State) : Res :=
  let s := s.idleTo n s.time.mono
  if (s.aoutSeq n).isSome then ok (s.waout n 4 true)
  else if bf v 1 0 = 3 then ok ((s.wfld (aoutR n + 4) 5 4 (bf v 5 4)).waout n 4 true)
  else ok ((s.wfld (aoutR n + 4) 5 4 (bf v 5 4)).wfld (aoutR n + 4) 1 0 (bf v 1 0))

/-- Park or unpark by event or command (R303): it acts at the first output boundary from now on, or at once where the channel has no
output clock. -/
def State.evPark (s : State) (n : Nat) (p : Bool) : State :=
  if s.domOn (6 + n) then s.setAo n { s.ao n with parkReq := some (s.time.mono, p) } else s.parkNow n p

/-- The park by event or command, as the requests so far leave it. -/
def AoutSt.evWants (x : AoutSt) : Bool := (x.parkReq.map (·.2)).getD x.evParked

/-- AOUTn_CMD.PARK and UNPARK (R303). -/
def execPark (n : Fin 8) (s : State) : Res := ok (s.evPark n true)
def execUnpark (n : Fin 8) (s : State) : Res := ok (s.evPark n false)

/-- An event at consumer 92 + n (R303): EV_ACT selects toggle, park, unpark or nothing. -/
def execAoutParkEvent (n : Fin 8) (s : State) : Res :=
  match s.fld (aoutR n) 5 4 with
  | 0 => ok (s.evPark n !(s.ao n).evWants)
  | 1 => ok (s.evPark n true)
  | 2 => ok (s.evPark n false)
  | _ => ok s

/-- AOUTn_CMD.CNT_CLR: CLIP_CNT, TBL_WAIT and LATE clear. -/
def execAoutCntClr (n : Fin 8) (s : State) : Res :=
  ok (((s.clrCnt (aoutR n + 0x30)).clrCnt (aoutR n + 0x34)).clrCnt (aoutR n + 0x38))

/-- A bound sequencer starts (R303): a park by event clears; the channel stays at park up to the first boundary (log entry 118). -/
def State.aoutStart (s : State) (n : Nat) : State :=
  let s := s.setAo n { s.ao n with evParked := false, parkReq := none }
  let s := { s with cal := { s.cal with tracked := setBit s.cal.tracked n false } }
  (s.waout n 3 false).waout n 0 true

/-- The first boundary of a start, at elapsed time `t`: the samples of the idle channel end, the filter history is cleared (R290), and
the channel leaves park. -/
def State.aoutBegin (s : State) (n t : Nat) : State :=
  let s := s.idleTo n t
  let s := s.setAo n { s.ao n with elem := 0, filt := 0, fphase := 0 }
  s.waout n 2 (s.ao n).evParked

/-- The latency of the pipeline in DAC periods (R291). -/
def aoutLatency (f : Nat) : Nat := if f = 1 then 16 else if f = 2 then 72 else if f = 4 then 128 else 184

/-- The channel is on the internal load (R304, R305): not switched out, not enabled, its domain not on, or in a
foreground calibration. -/
def State.onLoad (s : State) (n : Nat) : Bool :=
  !s.bit (aoutR n) 1 || !s.bit (aoutR n) 0 || !s.domOn (6 + n) || s.cal.run.any fun r => r.2.1 == 1 && r.2.2 == n

/-! ### The currents (R289, R302, R304) -/

/-- The code the DAC converts: the park code while the channel is parked, else the last sample's. -/
def State.dacCode (s : State) (n : Nat) : Int :=
  if s.aoutBit n 2 then sext 16 (s.fld (aoutR n + 0xC) 15 0) else (s.ao n).lastCode.toInt

/-- The full-scale current in units of 1 mA / 12,800,000: 8 mA and CODE steps of 3/128 mA, trimmed by GTRIM steps of 10 ppm. -/
def State.fullScale (s : State) (n : Nat) : Int :=
  (1024 + 3 * (s.fld (aoutR n + 8) 10 0 : Int)) * (100000 + sext 12 (s.fld (aoutR n + 8) 27 16))

/-- The currents at AOUTnP and AOUTnN, in units of the full scale's unit / 65,536; none at the pins on the internal load. -/
def State.pinCurrents (s : State) (n : Nat) : Int × Int :=
  if s.onLoad n then (0, 0)
  else
    let p := s.fullScale n * (s.dacCode n + 32768)
    (p, s.fullScale n * 65536 - p)

end Sys2Proof.Machine
end

