-- ==== Sys2Proof/Machine/Bank.lean ====
section
/-! DEFINITION. Pattern banks (11): timing sets, what one vector does, starts, rings of fail logs and captures. -/

namespace Sys2Proof.Machine

def State.wpb (s : State) (k i : Nat) (b : Bool) : State := s.wbit (pbR k + 8) i b
def State.pbBit (s : State) (k i : Nat) : Bool := s.bit (pbR k + 8) i

/-- The vector period of bank `k` as a ratio of TU (R311). -/
def State.vecPeriod (s : State) (k : Nat) : Nat × Nat := ((s.outPeriod 2).1 * s.fld (pbR k + 0x14) 11 0, (s.outPeriod 2).2)

/-- The vector boundaries of a bank that starts and the first one at or after elapsed time `t` (R314): from an edge of SYN-C on; with
SYN-C grid-locked the first one falls on an FCLK boundary. -/
def State.firstVector (s : State) (k t : Nat) : Line × Nat :=
  let p := s.vecPeriod k
  let e := (s.sy 2).out
  if s.gridLock 2 then
    let rdiv := s.fld (synR 2 + 4) 11 8 + 1
    let step := 32 * (rdiv / Nat.gcd rdiv (s.fld (synR 2 + 8) 31 24))
    (Line.startAt 0 (tlAt e.anchor step 1 (tlFrom e.anchor step 1 t)) p, 0)
  else
    let l : Line := { e with num := p.1, den := p.2 }
    (l, l.from_ t)

/-- Timing set `j` of the bank: ET0, ET1, CS. -/
def State.tset (s : State) (k j : Nat) : Nat × Nat × Nat :=
  (s.fld (pbR k + 0x80 + 8 * j) 15 0, s.fld (pbR k + 0x80 + 8 * j) 31 16, s.fld (pbR k + 0x84 + 8 * j) 15 0)

/-- The set is valid for the period in force (R315). -/
def State.tsetValid (s : State) (k j : Nat) : Bool :=
  let (num, den) := s.vecPeriod k
  let (e0, e1, cs) := s.tset k j
  decide (e0 * den < num) && decide (cs * den < num) && decide (e0 + 32 ≤ e1) && decide (e1 * den < num)

/-- Select a timing set (R317): an invalid one is refused with TSET_ERR. -/
def State.selectTset (s : State) (k j : Nat) : State :=
  if s.tsetValid k j then s.setPb k { s.pb k with tset := j, tsetOk := true } else s.wpb k 6 true

/-- The vector rate is over the maximum of the bank's band (R310, R312). -/
def State.overRate (s : State) (k : Nat) : Bool :=
  let (num, den) := s.vecPeriod k
  let m := match s.fld (pbR k + 8) 21 20 with
    | 1 => 400
    | 2 => 250
    | 3 => 200
    | _ => 0
  m != 0 && decide (m * num < 25600 * den)

/-- A start of the bank, for a sequencer or free-running (R312, R317, R319, R323, R324). -/
def State.bankStart (s : State) (k st : Nat) : State :=
  let s := ((s.wfld (pbR k + 8) 1 0 st).wpb k 2 false).wpb k 3 false
  let s := (((s.wr (pbR k + 0x30) 0).wr (pbR k + 0x34) 0).wr (pbR k + 0x38) 0).wr (pbR k + 0x3C) 0
  let s := s.setPb k { s.pb k with last := 0, firstArmed := true, tsetOk := false, played := false, stopAt := none }
  let s := s.selectTset k (s.fld (pbR k + 0x18) 3 0)
  if s.overRate k && st == 1 then s.wpb k 3 true else s

/-- The keys of a bank's buffered registers. -/
def bankShadow (k : Nat) (x : Nat) : Bool := pbR k ≤ x && x < pbR k + 0x100

/-! ### Rings (R326, R330) -/

/-- The 16 bytes of a fail log entry (R325), and of a capture entry (R329). -/
def failBytes (e : RingEnt) : List Byte :=
  natBytes 8 e.stamp.toNat ++ natBytes 4 e.vec.toNat ++ natBytes 2 e.a.toNat ++ natBytes 1 e.bank ++ natBytes 1 e.flags
def capBytes (e : RingEnt) : List Byte :=
  natBytes 8 e.stamp.toNat ++ natBytes 4 (e.vec.toNat % 2 ^ 24 + e.bank * 2 ^ 24 + e.flags * 2 ^ 27) ++
    natBytes 2 e.a.toNat ++ natBytes 2 e.b.toNat

/-- Write an entry to a ring whose configuration, WR, RD and LOST stand at `c`, `c+4`, `c+8`, `c+12`: the entry is stored,
overwrites the oldest under WRAP, or is lost under STOP. Answers whether it was stored. -/
def State.ringPut (s : State) (v c : Nat) (b : List Byte) : State × Bool :=
  let n := 2 ^ s.fld c 12 8
  let wr := (s.rd (c + 4)).toNat % n
  let rd := (s.rd (c + 8)).toNat % n
  let nx := (wr + 1) % n
  if nx = rd ∧ !s.bit c 1 then (s.incSat (c + 12) 1, false)
  else
    let s := if nx = rd then ((s.wr (c + 8) (BitVec.ofNat 32 ((rd + 1) % n))).touch (c + 8) (BitVec.allOnes 32)).incSat (c + 12) 1 else s
    ((s.storeVi v true (s.fld c 23 16 * 0x1000000 + 16 * wr) b).wr (c + 4) (BitVec.ofNat 32 nx), true)

/-- The capture unit's registers: unit `u` = 2k + j lies in the block of bank k. -/
abbrev capR (u : Nat) : Nat := pbR (u / 2) + 0x60 + 0x10 * (u % 2)

/-- The buffer of a capture unit. -/
def State.capBuf (s : State) (u : Nat) : List RingEnt := if u % 2 = 0 then (s.pb (u / 2)).cap0 else (s.pb (u / 2)).cap1
def State.setCapBuf (s : State) (u : Nat) (b : List RingEnt) : State :=
  let x := s.pb (u / 2)
  s.setPb (u / 2) (if u % 2 = 0 then { x with cap0 := b } else { x with cap1 := b })
def State.capLoss (s : State) (u : Nat) : Bool := if u % 2 = 0 then (s.pb (u / 2)).capLoss0 else (s.pb (u / 2)).capLoss1
def State.setCapLoss (s : State) (u : Nat) (b : Bool) : State :=
  let x := s.pb (u / 2)
  s.setPb (u / 2) (if u % 2 = 0 then { x with capLoss0 := b } else { x with capLoss1 := b })

/-- The order of captures: stamps, then banks (R330). -/
def entLe (a b : RingEnt) : Bool := a.stamp.toNat < b.stamp.toNat || (a.stamp == b.stamp && a.bank ≤ b.bank)

/-- Put a capture into a unit's 64-entry buffer; it is written at the first FCLK boundary at or after its stamp + 2,048 TU.
A full buffer loses it. `tu` is the elapsed time of the stamp. -/
def State.capture (s : State) (u : Nat) (e : RingEnt) (tu : Nat) : State :=
  if (s.capBuf u).length < 64 then
    let e := { e with flags := e.flags + (if s.capLoss u then 2 else 0), due := s.time.mono + roundUp (tu + 2048 - s.time.mono) 32 }
    ((s.setCapBuf u (s.capBuf u ++ [e])).setCapLoss u false).at_ e.due (.captureWrite (Fin.ofNat 16 u))
  else (s.incSat (capR u + 12) 1).setCapLoss u true

/-- The units that take captures from physical bank `k` under bit `i` of CAPu_CFG (2 STREAM, 3 SNAP). -/
def State.capUnits (s : State) (k i : Nat) : List Nat :=
  (List.range 16).filter fun u => s.bit (capR u) 0 && s.bit (capR u) i && s.bit (capR u) (24 + k)

/-! ### One vector (R319) -/

/-- The state codes of the 16 pins in bank word `j` of element `i` (R201). -/
def State.vecCodes (s : State) (v : Nat) (d : Desc) (i j : Nat) : List Nat :=
  let w := if d.fmt = 0 then 4 else 8
  let n := leNat (s.loadVi v d.mem (d.addr + i * d.eb / 8 + j * w) w)
  (List.range 16).map fun p => if d.fmt = 0 then n / 4 ^ p % 4 else n / 16 ^ p % 16

/-! ### Edges on SYN-C's taps (R188, R316) -/

/-- The widths of SYN-C's 32 taps in 2^-20 of its period (R395): those of the last accepted update, equal ones before the first. -/
def State.tapHits (s : State) : List Nat :=
  match Tab.get (fun _ => []) s.cal.taps 1 with
  | _ :: h => h
  | [] => List.replicate 32 32768

/-- Where the taps begin within the period, and the period's end. -/
def tapPlaces (h : List Nat) : List Nat :=
  let r := h.foldl (fun (a : List Nat × Nat) w => (a.1 ++ [a.2], a.2 + w)) ([], 0)
  r.1 ++ [r.2]

/-- The taps of the period of SYN-C that a time in 2^-40 TU falls in. -/
def State.tapsAround (s : State) (u : Nat) : List Nat :=
  let l := (s.sy 2).out
  let p : Nat := max 1 (l.num * 2 ^ 40 / l.den)
  let a : Int := (l.anchor * 2 ^ 40 + l.frac : Nat)
  let e : Int := a + ((u : Int) - a) / (p : Int) * (p : Int)
  (tapPlaces s.tapHits).map fun w => (e + (p * w / 2 ^ 20 : Nat)).toNat

def absDiff (a b : Nat) : Nat := (a - b) + (b - a)

/-- The tap nearest to a time in 2^-40 TU (R188); of two equally near the earlier (log entry 121). -/
def State.onTap (s : State) (u : Nat) : Nat :=
  match s.tapsAround u with
  | [] => u
  | a :: t => t.foldl (fun m x => if absDiff x u < absDiff m u then x else m) a

/-- The last tap before a time in 2^-40 TU (R316). -/
def State.tapBefore (s : State) (u : Nat) : Nat :=
  let l := s.tapsAround (u - 1)
  (l.filter (· < u)).foldl max (l.headD u)

/-- What a code drives from ET0 on; ET1 brings the state of `codeAfter`. -/
def codeMid (code drive : Nat) (last : Bool) : Nat :=
  match code with
  | 0x0 | 0x8 | 0xA => 1
  | 0x1 | 0x9 | 0xB => 2
  | 0x3 | 0xD => drive
  | 0xC => if last then 1 else 2
  | _ => 0

/-- What a code leaves: the drive state (0 off, 1 low, 2 high) and the last level, from those before. -/
def codeAfter (code drive : Nat) (last : Bool) : Nat × Bool :=
  match code with
  | 0x0 | 0x8 => (1, false)
  | 0x1 | 0x9 => (2, true)
  | 0x3 | 0xD => (drive, last)
  | 0xA => (2, true)
  | 0xB => (1, false)
  | 0xC => (if last then 1 else 2, !last)
  | _ => (0, last)

/-- The edge of pin `j` at time `e` of the timing set, for a vector whose boundary is `u` (2^-40 TU): its place on a tap, with the pin's
deskew trim, and whether it is clipped (R316). An edge is clipped only where SYN-C's glide takes it past the next boundary. -/
def State.placeEdge (s : State) (k j u e : Nat) : Nat × Bool :=
  let (num, den) := s.vecPeriod k
  let next := u + num * 2 ^ 40 / den
  let t := (((u + e * 2 ^ 40 : Nat) : Int) + s.trim (itemKey 2 (16 * k + j)) * 2 ^ 36).toNat
  if next ≤ t ∧ (num ≤ e * den ∨ s.synBit 2 2 = true) then (s.tapBefore next, true) else (s.onTap t, false)

/-- The edges a pin makes in a vector, and whether one of them is clipped: an edge occurs only where the driver's state changes
(R319, R320). -/
def State.pinEdges (s : State) (k j u code drive : Nat) (last : Bool) : List (Nat × Nat × Nat) × Bool :=
  let (e0, e1, _) := s.tset k (s.pb k).tset
  let m := codeMid code drive last
  let z := (codeAfter code drive last).1
  let a := s.placeEdge k j u e0
  let b := s.placeEdge k j u e1
  ((if m = drive then [] else [(j, a.1, m)]) ++ (if z = m then [] else [(j, b.1, z)]), (m != drive && a.2) || (z != m && b.2))

/-- A vector of a bank whose boundary is `u` in 2^-40 TU: pins with their edges, PBk_VEC, VEC_CODE, EDGE_CLIP and captures. With the
compare off (no valid timing set yet, R317) the pins stay. The levels a capture reads are the world's, a free value (log entry 22), and
none with IO_EN = 0 (R328). -/
def State.vector (s : State) (k : Nat) (codes : List Nat) (u : Nat) : State :=
  let x := s.pb k
  let t := u / 2 ^ 40
  let s := s.wr (pbR k + 0x30) (if x.played then s.rd (pbR k + 0x30) + 1 else 0)
  let aft := (codes.zipIdx).map fun c => codeAfter c.1 (x.drv c.2) (tb x.last c.2)
  let pins := (codes.zipIdx).map fun c => s.pinEdges k c.2 u c.1 (x.drv c.2) (tb x.last c.2)
  let x := { x with played := true, vecAt := t }
  let x := if x.tsetOk then
      { x with drive := aft.map (·.1), last := BitVec.ofNat 16 (bitsNat (aft.map (·.2))), edges := pins.flatMap (·.1) }
    else x
  let s := s.setPb k x
  let s := if codes.any (14 ≤ ·) then s.wpb k 5 true else s
  let s := if x.tsetOk && pins.any (·.2) then s.wpb k 4 true else s
  if x.tsetOk && codes.contains 0xD then
    s.each (s.capUnits k 2) fun s m =>
      let w := Config.openWord 2 s.free
      let io := s.bit (pbR k + 0xC) 0
      let hi : BitVec 16 := if io then BitVec.ofNat 16 (bf w 15 0) else 0
      let lo : BitVec 16 := if io then BitVec.ofNat 16 (bf w 31 16) &&& ~~~hi else 0
      let tu := t + (s.tset k x.tset).2.2
      let stamp := s.now + BitVec.ofInt 64 ((tu : Int) - s.time.mono)
      s.fresh.capture m { stamp := stamp, vec := s.rd (pbR k + 0x30), a := hi, b := lo, bank := s.relNum .pb k,
                          flags := 0, due := 0, prov := s.time.handoff } tu
  else s

/-! ### The pins (R309, R310, R333, R339) -/

/-- Pin `j` of bank `k`: its drive state, 0 high-impedance, 1 low, 2 high, and whether its pull-down is on. -/
def State.patPin (s : State) (k j : Nat) : Nat × Bool :=
  let e := s.rd (pbR k + 0xC)
  if !tb e 0 then (0, true) else (if s.pbBit k 11 then 0 else (s.pb k).drv j, tb e 1)

/-- Trigger output `n`: none while it is high-impedance, else whether TRGnP stands above TRGnN. -/
def State.trgPin (s : State) (n : Nat) : Option Bool :=
  if s.bit (trgR n) 0 then some (s.bit (trgR n + 8) 1 != s.bit (trgR n) 1) else none

end Sys2Proof.Machine
end

