-- ==== Sys2Proof/Machine/Play.lean ====
section
/-! DEFINITION. What runs between step boundaries: the samples and vectors of the step in progress, computed up to a
boundary or to now (R230, R233, R234, R301, R332). -/

namespace Sys2Proof.Machine

/-- The element of the step's segment that output period `p` of the step plays, on a channel with factor `f`; none while
it holds (R230). -/
def Cur.elemAt (c : Cur) (d : Desc) (f p : Nat) : Option Nat :=
  match c with
  | .play _ _ _ _ _ => some (playElem d.len (p / f))
  | .loop _ _ _ loops _ head sect _ _ =>
    some (loopPlayElem d.ls d.le (if loops = 0 then none else some ((head + (loops - 1) * sect) / f)) (p / f))
  | _ => none

/-- The descriptor a step in progress plays. -/
def State.curDesc (s : State) (v : Nat) : Cur → Option Desc
  | .play _ _ d _ _ | .loop _ _ d _ _ _ _ _ _ => (s.dirEntry v d).map s.descAt
  | _ => none

/-- The analog channel a step plays on (physical), and the pattern banks in bank-word order. -/
def Cur.aout (c : Cur) (n : Nat) : Bool :=
  match c with
  | .play false d _ _ _ | .loop false d _ _ _ _ _ _ _ => d == n
  | _ => false
def State.curBanks (s : State) (v : Nat) (c : Cur) (w : Nat) : List (Nat × Nat) :=
  match c with
  | .play true d _ _ _ | .loop true d _ _ _ _ _ _ _ =>
    ((List.range w).filterMap fun j => (s.phys v .pb (d + j)).map fun k => (k, j))
  | _ => []

/-- The words that begin in element `i` of a segment are read as it is played (R193). -/
def State.readElem (s : State) (v : Nat) (d : Desc) (i : Nat) : State :=
  let a := (i * d.eb + 63) / 64
  let b := ((i + 1) * d.eb + 63) / 64
  if s.mem.errs.isEmpty || decide (b ≤ a) then s else s.readVi v d.mem (d.addr + 8 * a) (8 * (b - a))

/-- What the step in progress reads in its output period `p`: the element that begins there, but for the first bytes, which the
prefetch buffer gave (R274). -/
def State.readPeriod (s : State) (v : Nat) (x : SeqSt) (d : Desc) (f p : Nat) : State :=
  match x.cur.elemAt d f p with
  | some i => if p % f ≠ 0 ∨ (p / f = i ∧ (i + 1) * d.eb ≤ 8 * x.took) then s else s.readElem v d i
  | none => s

/-- One output period of sequencer `k`: boundary `j` of its timeline. -/
def State.seqPeriodAt (s : State) (k j : Nat) : State :=
  let x := s.sq k
  let v := s.ownerVi .seq k
  let d := s.curDesc v x.cur
  let late := x.underrun.isSome
  let s := match d with
    | some d =>
      let f := if d.typ = 1 then s.interp (((List.range 8).find? x.cur.aout).getD 0) else 1
      if late || d.typ == 2 then s else s.readPeriod v x d f (j - x.began)
    | none => s
  let s := s.each ((List.range 8).filter (s.bindsAout k)) fun s n =>
    let e := match d with
      | some d => if x.cur.aout n && d.typ == 1 && !late then
          (x.cur.elemAt d (s.interp n) (j - x.began)).map fun i => (s.analogElem v d i, (j - x.began) % s.interp n) else none
      | none => none
    s.aoutSample n e (x.at_ j)
  match d with
  | some d =>
    if d.typ = 3 ∧ late = false then
      s.each (s.curBanks v x.cur (2 ^ d.banks)) fun s b =>
        match x.cur.elemAt d 1 (j - x.began) with
        | some i => s.vector b.1 (s.vecCodes v d i b.2) (x.tl.fine j)
        | none => s
    else s
  | none => s

/-- `n` output periods from boundary `j` on. -/
def State.periodsFrom (s : State) (k j : Nat) : Nat → State
  | 0 => s
  | n + 1 => (s.seqPeriodAt k j).periodsFrom k (j + 1) n

/-- The periods of sequencer `k` have an output: a channel it plays, or a segment. -/
def State.hasOutput (s : State) (k : Nat) : Bool :=
  (List.range 8).any (s.bindsAout k) || (s.curDesc (s.ownerVi .seq k) (s.sq k).cur).isSome

/-- Outputs and PERIODS of sequencer `k` up to boundary `j`, exclusive. -/
def State.playTo (s : State) (k j : Nat) : State :=
  let x := s.sq k
  let n := j - x.done
  let s := if s.hasOutput k then s.periodsFrom k x.done n else s
  s.setSq k { s.sq k with done := max x.done j, periods := x.periods + BitVec.ofNat 48 n }

/-- The boundary past which the outputs of a sequencer are not known yet: the next committed one, the one whose run is to commit (a
stall holds there, R267), a decided halt, the phase reset of a bound channel. In the gap of an underrun the outputs hold on. -/
def State.knownTo (s : State) (k j : Nat) : Nat :=
  let x := s.sq k
  let next := match x.queue with
    | (b, _, _) :: _ => some b
    | [] => if x.cur == Cur.stall then none else x.target.map (max x.done)
  let stops := (if s.gapHolds k then [] else next.toList) ++ ((s.haltDue k).map (·.1)).toList ++
    (((List.range 8).filter fun n => s.bindsAout k n && (s.act (actId 4 n)).armed).filterMap fun n => s.phaseAt n k)
  stops.foldl min j

/-- The outputs of a running sequencer up to the boundaries of this cycle, or of the moment its clock stopped (R280), as far as they are
known. -/
def State.catchUp (s : State) (k : Nat) : State :=
  let x := s.sq k
  if s.seqState k < 2 then s
  else s.playTo k (s.knownTo k (x.from_ ((if s.bit (seqR k + 8) 18 then x.pausedAt else s.time.mono) + 1)))

/-- One vector of a free-running bank (R332). -/
def State.freeVector (s : State) (k j : Nat) : State :=
  let v := s.ownerVi .pb k
  match (s.dirEntry v (s.pb k).desc).map s.descAt with
  | some d =>
    let i := loopElem d.ls d.le d.len j
    (s.readElem v d i).vector k (s.vecCodes v d i 0) ((s.pb k).tl.fine j)
  | none => s

def State.freeFrom (s : State) (k j : Nat) : Nat → State
  | 0 => s
  | n + 1 => (s.freeVector k j).freeFrom k (j + 1) n

/-- Vector boundary `j` begins a pass of a free-running bank's loop (R318). -/
def State.passAt (s : State) (k j : Nat) : Bool :=
  match (s.dirEntry (s.ownerVi .pb k) (s.pb k).desc).map s.descAt with
  | none => false
  | some d =>
    if d.ls = 0 ∧ d.le = 0 then j % max 1 d.len == 0 else j == 0 || (decide (d.le ≤ j) && (j - d.le) % max 1 (d.le - d.ls) == 0)

/-- Something waits for the bank's next vector-segment boundary: a staged register (R318) or a trim (R405). -/
def State.segmentWaits (s : State) (k : Nat) : Bool := s.pendingStaged (bankShadow k) || s.trimsDirty 2 k

/-- The vectors of a free-running bank up to now, or to the boundary at which it stops (R332); the first vector of a pass stays until
what waits for the pass has been applied. -/
def State.catchUpFree (s : State) (k : Nat) : State :=
  let x := s.pb k
  if s.pbState k ≠ 2 then s
  else
    let i := x.tl.from_ s.time.mono
    let j := if s.synBit 2 1 then x.tl.from_ ((s.sy 2).muteAt + 1)
      else if s.passAt k i && s.segmentWaits k then i else x.tl.from_ (s.time.mono + 1)
    let j := (x.stopAt.map fun t => min j (x.tl.from_ t)).getD j
    let s := s.freeFrom k x.done (j - x.done)
    s.setPb k { s.pb k with done := max x.done j }

/-- The outputs of everything that runs, and the codes of the idle channels, up to now. -/
def State.catchUpAll (s : State) : State :=
  ((s.each (List.range 16) fun s k => s.catchUp k).each (List.range 8) fun s k => s.catchUpFree k).each (List.range 8) fun s n =>
    s.idleTo n (s.time.mono + 1)

end Sys2Proof.Machine
end

