-- ==== Sys2Proof/Machine/Queues.lean ====
section
/-! DEFINITION. What a step, a register write and an event share: posting to a mailbox (R421 to R423), the frame queues of the
scan-out (R370, R375, R376) and software fires of channels (R58). -/

namespace Sys2Proof.Machine

/-! ### Mailboxes -/

def ViSt.queue (x : ViSt) (q : Nat) : List Msg := if q = 0 then x.q0 else if q = 1 then x.q1 else if q = 2 then x.q2 else x.q3
def ViSt.setQueue (x : ViSt) (q : Nat) (l : List Msg) : ViSt :=
  if q = 0 then { x with q0 := l } else if q = 1 then { x with q1 := l } else if q = 2 then { x with q2 := l }
  else { x with q3 := l }

/-- The order of posts of one cycle (R424): senders, and within one the host before its sequencers. -/
def Msg.rank (m : Msg) : Nat := m.vi * 64 + (match m.seqr with
  | none => 0
  | some k => k + 1)

/-- A message enters a queue after those that came before, and among those of its cycle by rank (R424). -/
def putMsg (m : Msg) : List Msg → List Msg
  | [] => [m]
  | a :: t => if a.at_ = m.at_ ∧ m.rank < a.rank then m :: a :: t else a :: putMsg m t

/-- A post from VI `v` (by its VI-relative sequencer `sq`, or the host) to queue `q` of VI `dvi` (R423), and its RESULT code:
0 ACCEPTED, 1 FULL, 2 REFUSED, 3 DISCARDED. -/
def State.post (s : State) (v : Nat) (sq : Option Nat) (dvi q : Nat) (pay : BitVec 64) : State × Nat :=
  let r := s.vi dvi
  if !s.bitv dvi 0x290 v then ((s.incSatv v 0x298 1).pend v 7, 2)
  else if r.inReset then (s.incSatv v 0x294 1, 3)
  else if 32 ≤ (r.queue q).length then ((s.incSatv v 0x298 1).pend v 7, 1)
  else
    let x := s.vi v
    let m : Msg := { at_ := s.time.mono, vi := v, seqr := sq, epoch := x.epoch, seq := x.mbSeq, q := q, payload := pay }
    let s := s.setVi v { x with mbSeq := (x.mbSeq + 1) % 65536 }
    let r := s.vi dvi
    ((s.setVi dvi (r.setQueue q (putMsg m (r.queue q)))).pend dvi (2 + q), 0)

/-! ### Frame queues -/

abbrev dsiR (l : Nat) : Nat := 0x2E00 + 0x80 * l

def State.lk (s : State) (l : Nat) : LinkSt := if l = 0 then s.disp.l0 else s.disp.l1
def State.setLk (s : State) (l : Nat) (x : LinkSt) : State :=
  { s with disp := if l = 0 then { s.disp with l0 := x } else { s.disp with l1 := x } }

/-- Both links scan one frame (R370): everything of the queue is DSIA's. -/
def State.lock2 (s : State) : Bool := s.bit 0x2C00 12
def State.qLink (s : State) (l : Nat) : Nat := if s.lock2 then 0 else l

/-- The scheduled action of a queue slot of a link. -/
def qAct (l slot : Nat) : ActId := actId 6 (2 * slot + l)

/-- The queue of a link: a timed entry whose action is no longer armed has been dropped, flushed or removed. -/
def State.dsiQ (s : State) (l : Nat) : List QEnt :=
  (s.lk l).q.filter fun e => match e.slot with
    | some i => (s.act (qAct l i)).armed
    | none => true

def State.setDsiQ (s : State) (l : Nat) (q : List QEnt) : State := s.setLk l { s.lk l with q := q }

/-- Entries that committed FLIP steps will queue at their boundaries hold their slots from the commit on (log entry 23). -/
def State.dsiReserved (s : State) (l : Nat) : Nat :=
  let cnt (es : List Eff) : Nat := (es.filter fun e => match e with
    | .flip n _ false _ _ _ => n == 2 || s.qLink n == l
    | _ => false).length
  (s.seqs.map fun e => cnt e.2.eff + (e.2.queue.map fun q => cnt q.2.2.1).sum).sum

/-- The queue of the link an entry for `l` goes to is full (R376). -/
def State.dsiFull (s : State) (l : Nat) : Bool :=
  let l := s.qLink l
  decide (8 ≤ (s.dsiQ l).length + s.dsiReserved l)

/-- Queue an entry (R375, R376): a timed one is armed in this cycle, and a late one under LATE_DROP leaves at once. -/
def State.dsiPush (s : State) (l fb : Nat) (timed pol : Bool) (time : Time) : State :=
  let l := s.qLink l
  let q := s.dsiQ l
  if timed then
    let used := q.filterMap (·.slot)
    let i := ((List.range 8).find? fun i => !used.contains i).getD 0
    let s := s.setDsiQ l (q ++ [{ fb := fb, slot := some i }])
    s.arm (qAct l i) time pol 0
  else s.setDsiQ l (q ++ [{ fb := fb, slot := none }])

/-! ### Software fires -/

/-- A software fire of physical channel `ch` by VI `v` (R58): it enters at resynchronisation stage 1 in this cycle. -/
def State.swFire (s : State) (v ch : Nat) : State :=
  let x := s.srcOf 256 s.now
  s.assertSrc { x with swf := true, swvi := Fin.ofNat 32 v, ch := Fin.ofNat 64 ch }

end Sys2Proof.Machine
end

