-- ==== Sys2Proof/Machine/Steps.lean ====
section
/-! DEFINITION. Step words (08): each row is sequencer k committing the step at its next index, when that step's opcode is
the row's. A step of another opcode is another row's; an undefined opcode is carried by PLAY (R231). -/

namespace Sys2Proof.Machine

/-! ### Committing a step -/

/-- The sequencer's step-table range (R227). -/
def State.inTable (s : State) (k i : Nat) : Bool :=
  decide (s.fld (seqR k + 0x10) 17 0 ≤ i) && decide (i ≤ s.fld (seqR k + 0x14) 17 0)

/-- The opcodes of the table (R231). -/
def opcodes : List Nat := (List.range 0x13).map (· + 1) ++ [0x1F]

/-- A reserved bit of the word is 1: a bit outside the opcode and the listed fields (R226). -/
def resBad (w : BitVec 128) (fields : List (Nat × Nat)) : Bool :=
  ((127, 120) :: fields).foldl (fun (x : BitVec 128) f => setFld x f.1 f.2 0) w != 0

/-- The lowest fault code among those whose cause holds (R255). -/
def lowest (l : List (Bool × Nat)) : Option Nat :=
  ((l.filter (·.1)).map (·.2)).foldl (fun m c => some (match m with
    | some a => min a c
    | none => c)) none

/-- A halt at the first output boundary at or after elapsed time `t`, unless one from an earlier moment is decided (R281, R283). -/
def SeqSt.stopFrom (x : SeqSt) (t why : Nat) : SeqSt :=
  match x.stopT with
  | some (u, _) => if u ≤ t then x else { x with stopT := some (t, why) }
  | none => { x with stopT := some (t, why) }

/-- SEQk_FAULT takes a code and a step index, and the interrupt source pends (R255). -/
def State.noteFault (s : State) (k code step : Nat) : State :=
  (s.wr (seqR k + 0x48) (BitVec.ofNat 32 (code * 2 ^ 24 + step))).pendOwner .seq k 10

/-- A step fault in this cycle (R255, R283): the code and the index are recorded, and the sequencer halts at the first
output boundary at or after the cycle. -/
def State.stepFault (s : State) (k code : Nat) : State :=
  let x := s.sq k
  let s := s.noteFault k code x.pc
  s.setSq k ({ x with target := none, plan := .idle, eff := [] }.stopFrom s.time.mono 2)

/-- The external state that a run reads, as it stands now (R265). -/
def State.snapshot (s : State) (k : Nat) : Snap :=
  { ef := BitVec.ofNat 4 (s.fld (seqR k + 0x44) 3 0)
    fail := BitVec.ofNat 8 (bitsNat ((List.range 8).map fun b => s.pbBit b 2))
    failCnt := (List.range 8).map fun b => s.rd (pbR b + 0x34)
    acmp := BitVec.ofNat 4 (bitsNat ((List.range 4).map fun n => s.bit (0x2B44 + 0x10 * n) 0))
    mbq := BitVec.ofNat 4 (bitsNat ((List.range 4).map fun q => !((s.vi (s.ownerVi .seq k)).queue q).isEmpty))
    evc := (List.range 64).map fun c => s.rd (0xB00 + 4 * c) }

/-- What the run of sequencer `k` sees: as things stand in its commit cycle, and for a run that goes on beyond it as they stood there
(R265, R267). -/
def State.seen (s : State) (k : Nat) : Snap := (s.sq k).snap.getD (s.snapshot k)

/-- A control step has committed: the run goes on at `next`, with `e` to take effect at its boundary. What a run of more than 64
executions still reads is kept from its commit cycle. -/
def State.goOn (s : State) (k next : Nat) (e : List Eff) : State :=
  let x := s.sq k
  s.setSq k { x with pc := next, eff := x.eff ++ e, runLen := x.runLen + 1,
                     runAt := if x.runLen = 0 then s.time.mono else x.runAt,
                     snap := if x.runLen = 63 then some (s.snapshot k) else x.snap }

/-- The timeline of a start and its first boundary at or after elapsed time `t` (R258): FCLK cycles, edges of SYN-B, or vector
boundaries. -/
def State.firstBoundary (s : State) (k dom t : Nat) : Line × Nat :=
  match dom with
  | 0 =>
    let l := Line.startAt 0 s.time.mono (s.seqPeriodIn k 0)
    (l, l.from_ t)
  | 1 => ((s.sy 1).out, (s.sy 1).out.from_ t)
  | _ => s.firstVector (((s.banksOf k).head?).getD 0) t

/-- The run ends at boundary `b` with an output or holding step (R265): a run of more than 64 executions stalls (R267), from `b` on
unless it holds there already. `tgt` gives the next boundary when it is known from this one. -/
def State.endRun (s : State) (k b next : Nat) (c : Cur) (tgt : Nat → Option Nat) : State :=
  let v := s.ownerVi .seq k
  let x := s.sq k
  let (x, b) := match x.memB0, (s.curDesc v c).any (·.mem) with
    | some t, true =>
      let (l, j) := s.firstBoundary k (s.fld (seqR k + 8) 23 22) t
      ({ x with tl := l, memB0 := none, done := j }, j)
    | _, _ => ({ x with memB0 := none }, b)
  let b' := if 64 < x.runLen then max b (x.from_ (x.runAt + 32 * x.runLen)) else b
  let s := if b < b' then (s.incSat (seqR k + 0x38) (x.at_ b' - x.at_ b)).wbit (seqR k + 8) 19 true else s
  let hold := if b < b' ∧ x.cur ≠ .stall then [(b, x.pc, ([] : List Eff), Cur.stall)] else []
  s.setSq k { x with pc := next, eff := [], runLen := 0, snap := none, queue := x.queue ++ hold ++ [(b', x.pc, x.eff, c)], plan := c,
                     planAt := b', target := tgt b', lastC := s.time.mono, started := true }

/-- Sequencer `k` commits the step at its next index, if a run is to commit and the step is one of `op` (and satisfies
`sel`): PC takes the index; a fault halts, otherwise the step does what `run` says, given the VI, the boundary and the word. -/
def State.commitStep (s : State) (k op : Nat) (sel : BitVec 128 → Bool)
    (chk : State → Nat → BitVec 128 → List (Bool × Nat)) (run : State → Nat → Nat → BitVec 128 → State) : Res :=
  let x := s.sq k
  match x.target with
  | none => ok s
  | some b =>
    let v := s.ownerVi .seq k
    let w := s.stepWord v x.pc
    let undef := !opcodes.contains (opOf w)
    if s.seqOn k && x.stopStep != 0 && x.runLen == 0 then
      ok (s.setSq k { x with halt := some (b, x.stopStep), target := none, plan := .idle, stopStep := 0 })
    else if !s.seqOn k || !(opOf w == op && sel w || (undef && op == 1)) then ok s
    else
      let s := s.wr (seqR k + 0x40) (BitVec.ofNat 32 x.pc)
      let s := match (namedDesc w).bind (s.dirEntry v) with
        | some p => s.validateNew v p
        | none => s
      let bad := (s.stepAddr v x.pc).any s.badStep
      let s := match s.stepAddr v x.pc with
        | some p => s.readWords true p 16
        | none => s
      let faults := if undef then [(true, 1)] else chk s v w ++ [(bad, 0x0C)]
      match lowest faults with
      | some c => ok (s.stepFault k c)
      | none => ok (run s v b w)

/-- Every word of the opcode. -/
def anyWord (_ : BitVec 128) : Bool := true

/-- The next step lies within the range (R227). -/
def State.nextBad (s : State) (k : Nat) : Bool := !s.inTable k ((s.sq k).pc + 1)

/-- A channel of the VI that the sequencer binds (R228). -/
def State.boundAout (s : State) (v k n : Nat) : Option Nat :=
  match s.phys v .aout n with
  | some c => if s.bindsAout k c then some c else none
  | none => none
/-- The banks n to n + w − 1 of the VI, when the sequencer binds each of them. -/
def State.boundBanks (s : State) (v k n w : Nat) : Option (List Nat) :=
  let l := (List.range w).filterMap fun j => match s.phys v .pb (n + j) with
    | some b => if s.bindsBank k b then some b else none
    | none => none
  if l.length = w then some l else none

/-! ### PLAY and PLAYLOOP -/

/-- The checks PLAY and PLAYLOOP share (R232): destination, descriptor, type. -/
def State.playBad (s : State) (v k : Nat) (w : BitVec 128) (table : Bool) : List (Bool × Nat) :=
  let n := bf w 114 112
  let d := s.validDesc v (bf w 111 96)
  let typ := (d.map (·.typ)).getD 0
  let wd := 2 ^ ((d.map (·.banks)).getD 0)
  if tb w 119 then
    [((s.boundBanks v k n 1).isNone, 5), (d.isSome && typ == 3 && (decide (8 < n + wd) || (s.boundBanks v k n wd).isNone), 5),
     (d.isNone, 6), (d.isSome && typ != 3, 7)]
  else
    let ch := (s.boundAout v k n).getD 0
    let want := if s.fld (aoutR ch + 4) 1 0 = 1 then 2 else 1
    [((s.boundAout v k n).isNone, 5), (d.isNone, 6), (d.isSome && (typ != want || (typ == 2 && !table)), 7)]

/-- The destination a step plays on: physical for a channel, the VI's first bank for pattern banks. -/
def State.playDest (s : State) (v : Nat) (w : BitVec 128) : Nat :=
  if tb w 119 then bf w 114 112 else (s.phys v .aout (bf w 114 112)).getD 0

/-- Output periods per element: the interpolation factor, 1 for vectors and tables. -/
def State.perElem (s : State) (v : Nat) (w : BitVec 128) (d : Desc) : Nat :=
  if d.typ = 1 then s.interp (s.playDest v w) else 1

/-- PLAY (R232, R233, R300). -/
def execPlay (k : Fin 16) (s : State) : Res :=
  s.commitStep k 0x01 anyWord
    (fun s v w => [(resBad w [(119, 119), (114, 112), (111, 96), (95, 64)], 2), (s.nextBad k, 4)] ++ s.playBad v k w true)
    (fun s v b w =>
      let i := bf w 111 96
      let d := (s.validDesc v i).getD (parseDesc [])
      let r := bf w 95 64
      let n := if d.typ = 2 then r else d.len * s.perElem v w d * r
      let dest := s.playDest v w
      let s := if d.typ = 2 then s.wantTable dest i ((s.sq k).at_ b) d else s
      s.endRun k b ((s.sq k).pc + 1) (.play (tb w 119) dest i n (r == 0)) fun b => if r = 0 then none else some (b + n))

/-- PLAYLOOP (R234, R235). -/
def execPlayloop (k : Fin 16) (s : State) : Res :=
  s.commitStep k 0x02 anyWord
    (fun s v w =>
      let d := s.validDesc v (bf w 111 96)
      [(resBad w ([(119, 119), (114, 112), (111, 96), (95, 64), (63, 63)] ++ if tb w 63 then [(61, 60)] else []), 2),
       (s.nextBad k, 4), (d.any fun d => d.ls == 0 && d.le == 0, 8)] ++ s.playBad v k w false)
    (fun s v b w =>
      let i := bf w 111 96
      let d := (s.validDesc v i).getD (parseDesc [])
      let n := s.perElem v w d
      let loops := bf w 95 64
      let exit := if tb w 63 then some (bf w 61 60) else none
      let head := d.le * n
      let sect := (d.le - d.ls) * n
      let tail := (d.len - d.le) * n
      s.endRun k b ((s.sq k).pc + 1) (.loop (tb w 119) (s.playDest v w) i loops exit head sect tail 0) fun b =>
        if loops = 0 ∨ exit.isSome = true then none else some (b + head + (loops - 1) * sect + tail))

/-- The plan changes, and so does the step in progress, or the committed one, that it stands for. -/
def SeqSt.setPlan (x : SeqSt) (c : Cur) : SeqSt :=
  match x.queue.reverse with
  | [] => { x with plan := c, cur := c }
  | (b, i, e, _) :: t => { x with plan := c, queue := (((b, i, e, c) :: t)).reverse }

/-- An event flag of a sequencer (R221, R222), and consuming it. -/
def State.ef (s : State) (k i : Nat) : Bool := s.bit (seqR k + 0x44) i
def State.consumeEf (s : State) (k i : Nat) : State :=
  let x := s.sq k
  let s := if x.snap.isSome then s.setSq k { x with snap := x.snap.map fun y => { y with ef := setBit y.ef i false } } else s
  (s.wbit (seqR k + 0x44) i false).touch (seqR k + 0x44) (1 <<< i)

/-- The FAIL flag of a bank is consumed (R239). -/
def State.consumeFail (s : State) (k bank : Nat) : State :=
  let x := s.sq k
  let s := if x.snap.isSome then s.setSq k { x with snap := x.snap.map fun y => { y with fail := setBit y.fail bank false } } else s
  s.wpb bank 2 false

/-- The sequencer goes on at the first output boundary at or after elapsed time `t`, after its step's own; while its clock is muted
that boundary is found when it runs again (R268, R280). -/
def State.goAt (s : State) (k t : Nat) : State :=
  let x := s.sq k
  if s.bit (seqR k + 8) 18 then s.setSq k { x with aim := some t }
  else s.setSq k { x with target := some (max (x.planAt + 1) (x.from_ t)) }

/-! ### The prefetch buffer (R274, R275) -/

/-- Put a head into the prefetch buffer (R274): one already there serves; with four heads one is evicted unused, which one is
not stated: a free value. The bytes of a new one are read (R193). -/
def State.addHead (s : State) (k : Nat) (d : Desc) (h : Head) : State :=
  let x := s.sq k
  if h.bytes = 0 ∨ (x.heads.any fun g => g.desc == h.desc && g.elem == h.elem) = true then s
  else
    let s := s.readVi (s.ownerVi .seq k) d.mem (d.addr + h.elem * d.eb / 8) h.bytes
    if x.heads.length < 4 then s.setSq k { x with heads := x.heads ++ [h] }
    else
      let i := (Config.openWord 3 s.free).toNat % 4
      let out := ((x.heads[i]?).map (·.bytes)).getD 0
      (s.fresh.setSq k { x with heads := x.heads.eraseIdx i ++ [h] }).addWhey k out

/-- The head of a segment from element `e` on is taken: how many bytes it gives. -/
def State.headBytes (s : State) (k d e : Nat) : Nat :=
  ((s.sq k).heads.find? fun h => h.desc == d && h.elem == e).elim 0 (·.bytes)
def State.takeHead (s : State) (k d e : Nat) : State :=
  let x := s.sq k
  s.setSq k { x with heads := x.heads.filter fun h => !(h.desc == d && h.elem == e) }

/-- The tail and the loop section of a PLAYLOOP with an exit test, its two successors at each test (R273). -/
def loopHeads (i : Nat) (d : Desc) : List Head :=
  [{ desc := i, elem := d.le, bytes := min 4096 ((d.len - d.le) * d.eb / 8) },
   { desc := i, elem := d.ls, bytes := min 4096 ((d.le - d.ls) * d.eb / 8) }]

/-! ### Bad data (R193, R283) -/

/-- The output period of a step, counted from its begin, in which element `e` is first due, once that is known. -/
def Cur.dueAt (c : Cur) (d : Desc) (f e : Nat) : Option Nat :=
  match c with
  | .play _ _ _ _ _ => some (e * f)
  | .loop _ _ _ loops exit head sect _ n =>
    if e < d.le then some (e * f)
    else if loops ≠ 0 ∧ (exit = none ∨ loops = n) then some (head + (loops - 1) * sect + (e - d.le) * f)
    else none
  | _ => none

/-- With UE_HALT the sequencer is to halt where data of its step with an uncorrectable error is due: the step `c` of index `i` begun at
boundary `b`, with `f` periods per element; a table is due at once. -/
def State.watchData (s : State) (k i b : Nat) (c : Cur) (d : Desc) (f : Nat) : State :=
  let v := s.ownerVi .seq k
  if !s.bitv v 0x1804 0 then s
  else match s.firstBad v d.mem d.addr d.extent with
    | none => s
    | some (ofs, _) =>
      match (if d.typ = 2 then some 0 else c.dueAt d f (8 * ofs / max 1 d.eb)) with
      | some p => s.setSq k { s.sq k with ecc := some (b + p, i) }
      | none => s

/-- The exit test of a PLAYLOOP at the end of a pass (R235, R270). -/
def execPlayloopExitTest (k : Fin 16) (s : State) : Res :=
  let x := s.sq k
  match x.plan, x.target with
  | .loop p d i loops (some e) head sect tail n, none =>
    let passEnd := x.planAt + head + n * sect
    let hit := s.ef k e
    let last := loops != 0 && n + 1 == loops
    let s := if hit then s.consumeEf k e else s
    let x := s.sq k
    let c : Cur := .loop p d i (if hit then n + 1 else loops) (some e) head sect tail (n + 1)
    let s := s.setSq k { x.setPlan c with target := if hit || last then some (passEnd + tail) else none }
    match (s.dirEntry (s.ownerVi .seq k) i).map s.descAt with
    | none => ok s
    | some y =>
      if hit || last then
        ok ((s.takeHead k i y.le).watchData k (s.fld (seqR k + 0x40) 17 0) x.planAt c y (if p then 1 else s.interp d))
      else ok (s.each ((loopHeads i y).drop 1) fun s h => (s.takeHead k i y.ls).addHead k y h)
  | _, _ => ok s

/-! ### Holding steps -/

/-- HOLD (R236). -/
def execHold (k : Fin 16) (s : State) : Res :=
  s.commitStep k 0x03 anyWord
    (fun s _ w => [(resBad w [(31, 0)], 2), (bf w 31 0 == 0, 3), (s.nextBad k, 4)])
    (fun s _ b w => s.endRun k b ((s.sq k).pc + 1) (.hold (bf w 31 0)) fun _ => none)

/-- WAIT_EVENT (R237). -/
def execWaitEvent (k : Fin 16) (s : State) : Res :=
  s.commitStep k 0x04 anyWord
    (fun s _ w =>
      let tmo := bf w 31 0
      [(resBad w ([(119, 118), (117, 117), (31, 0)] ++ if tmo = 0 then [] else [(81, 64)]), 2), (s.nextBad k, 4),
       (tmo != 0 && !s.inTable k (bf w 81 64), 4)])
    (fun s _ b w =>
      let i := bf w 119 118
      let s := if tb w 117 then s.consumeEf k i else s
      s.endRun k b ((s.sq k).pc + 1) (.waitEvent i (bf w 81 64) (bf w 31 0)) fun _ => none)

/-- WAIT_TIME (R238): armed in this cycle as a scheduled action of kind 0x02; a late one under LATE_DROP goes on at ELSE at
once. -/
def execWaitTime (k : Fin 16) (s : State) : Res :=
  s.commitStep k 0x05 anyWord
    (fun s _ w =>
      [(resBad w ([(119, 119), (63, 0)] ++ if tb w 119 then [(81, 64)] else []), 2), (s.nextBad k, 4),
       (tb w 119 && !s.inTable k (bf w 81 64), 4)])
    (fun s _ b w =>
      let s := s.arm (actId 2 k) (BitVec.ofNat 64 (bf w 63 0)) (tb w 119) 0
      if (s.act (actId 2 k)).armed then s.endRun k b ((s.sq k).pc + 1) (.waitTime (bf w 81 64)) fun _ => none
      else s.goOn k (bf w 81 64) [])

/-- SYNC (R248): the member arrives at its step boundary (R278, log entry 114). -/
def execSync (k : Fin 16) (s : State) : Res :=
  s.commitStep k 0x0F anyWord
    (fun s v w =>
      let tmo := bf w 31 0
      let g := bf w 111 96
      let own : Bool := match s.virt v .seq k with
        | some j => g.testBit j
        | none => false
      let all := (List.range 16).all fun j => !g.testBit j || (s.own v .seq j).isSome
      [(resBad w ([(119, 116), (111, 96), (31, 0)] ++ if tmo = 0 then [] else [(81, 64)]), 2), (!own || !all, 3),
       (s.nextBad k, 4), (tmo != 0 && !s.inTable k (bf w 81 64), 4)])
    (fun s _ b w => s.endRun k b ((s.sq k).pc + 1) (.sync (bf w 119 116) (bf w 111 96) (bf w 81 64) (bf w 31 0)) fun _ => none)

/-! ### Control steps -/

/-- The comparison of BRANCH (R239). -/
def compareOp (op a b : Nat) : Bool :=
  match op with
  | 0 => a == b
  | 1 => a != b
  | 2 => decide (a < b)
  | 3 => decide (b ≤ a)
  | 4 => decide (a ≤ b)
  | _ => decide (b < a)

/-- The condition of a BRANCH before NEG, as things stand in the commit cycle (R239, R265, R267). -/
def State.branchCond (s : State) (v k : Nat) (w : BitVec 128) : Bool :=
  let sel := bf w 107 104
  let bank := (s.own v .pb sel).getD 0
  let e := s.seen k
  match bf w 119 116 with
  | 0 => true
  | 1 => e.ef.getLsbD sel
  | 2 => e.fail.getLsbD bank
  | 3 => compareOp (bf w 111 108) ((e.failCnt[bank]?).getD 0).toNat (bf w 31 0)
  | 4 => compareOp (bf w 111 108) (s.rd (seqR k + 0x70 + 4 * sel)).toNat (bf w 31 0)
  | 5 => e.acmp.getLsbD ((s.own v .acmp sel).getD 0)
  | _ => e.mbq.getLsbD sel

/-- BRANCH (R239). -/
def execBranch (k : Fin 16) (s : State) : Res :=
  s.commitStep k 0x06 anyWord
    (fun s v w =>
      let src := bf w 119 116
      let sel := bf w 107 104
      let lim := match src with
        | 0 => 1
        | 2 | 3 => 8
        | _ => 4
      let cmp := src == 3 || src == 4
      let taken := s.branchCond v k w != tb w 115
      [(resBad w ([(119, 116), (115, 115), (107, 104), (81, 64)] ++ (if src = 1 ∨ src = 2 then [(114, 114)] else []) ++
          if cmp then [(111, 108), (31, 0)] else []), 2),
       (decide (7 ≤ src) || (cmp && decide (6 ≤ bf w 111 108)) || decide (lim ≤ sel), 3),
       (!s.inTable k (bf w 81 64) || (!taken && s.nextBad k), 4),
       ((src == 2 || src == 3) && (s.own v .pb sel).isNone || (src == 5 && (s.own v .acmp sel).isNone), 5)])
    (fun s v _ w =>
      let taken := s.branchCond v k w != tb w 115
      let sel := bf w 107 104
      let s := if !tb w 114 then s else if bf w 119 116 = 1 then s.consumeEf k sel
        else s.consumeFail k ((s.own v .pb sel).getD 0)
      s.goOn k (if taken then bf w 81 64 else (s.sq k).pc + 1) [])

abbrev loopR (k n : Nat) : Nat := seqR k + 0x50 + 8 * n

/-- LOOP_BEGIN (R240). -/
def execLoopBegin (k : Fin 16) (s : State) : Res :=
  s.commitStep k 0x07 anyWord
    (fun s _ w => [(resBad w [(119, 118), (31, 0)], 2), (s.nextBad k, 4)])
    (fun s _ _ w =>
      let n := bf w 119 118
      let c := bf w 31 0
      let p := (s.sq k).pc + 1
      let s := (s.wr (loopR k n) (BitVec.ofNat 32 c)).wr (loopR k n + 4)
        (setBit (setBit (BitVec.ofNat 32 p) 30 (c == 0)) 31 true)
      s.goOn k p [])

/-- Where a LOOP_END continues (R240): at the start while the loop is unbounded or passes remain. -/
def State.loopAgain (s : State) (k n : Nat) : Bool :=
  s.bit (loopR k n + 4) 30 || s.rd (loopR k n) - 1 != 0

/-- LOOP_END (R240). -/
def execLoopEnd (k : Fin 16) (s : State) : Res :=
  s.commitStep k 0x08 anyWord
    (fun s _ w =>
      let n := bf w 119 118
      let nx := if s.loopAgain k n then s.fld (loopR k n + 4) 17 0 else (s.sq k).pc + 1
      let on := s.bit (loopR k n + 4) 31
      [(resBad w [(119, 118)], 2), (on && !s.inTable k nx, 4), (!on, 0x0B)])
    (fun s _ _ w =>
      let n := bf w 119 118
      let st := s.fld (loopR k n + 4) 17 0
      let again := s.loopAgain k n
      let s := if s.bit (loopR k n + 4) 30 then s else s.wr (loopR k n) (s.rd (loopR k n) - 1)
      if again then s.goOn k st [] else (s.wbit (loopR k n + 4) 31 false).goOn k ((s.sq k).pc + 1) [])

/-- SEQk_STACK shows the call stack. -/
def State.showStack (s : State) (k : Nat) : State :=
  let l := (s.sq k).stack
  s.wr (seqR k + 0x4C) (BitVec.ofNat 32 (l.length * 2 ^ 28 + l.headD 0))

/-- CALL (R242). -/
def execCall (k : Fin 16) (s : State) : Res :=
  s.commitStep k 0x09 anyWord
    (fun s _ w => [(resBad w [(81, 64)], 2), (!s.inTable k (bf w 81 64), 4), (decide (8 ≤ (s.sq k).stack.length), 9)])
    (fun s _ _ w =>
      let x := s.sq k
      ((s.setSq k { x with stack := (x.pc + 1) :: x.stack }).showStack k).goOn k (bf w 81 64) [])

/-- RETURN (R242). -/
def execRet (k : Fin 16) (s : State) : Res :=
  s.commitStep k 0x0A anyWord
    (fun s _ w =>
      let l := (s.sq k).stack
      [(resBad w [], 2), (!l.isEmpty && !s.inTable k (l.headD 0), 4), (l.isEmpty, 0x0A)])
    (fun s _ _ _ =>
      let x := s.sq k
      ((s.setSq k { x with stack := x.stack.tail }).showStack k).goOn k (x.stack.headD 0) [])

/-- The parameter list a step names is read (R193). -/
def State.readList (s : State) (v : Nat) (w : BitVec 128) : State :=
  match (if tb w 116 then s.validDesc v (bf w 111 96) else none) with
  | some d => s.readVi v d.mem d.addr d.extent
  | none => s

/-- The list a SET_FREQ or SET_AMPL names starts at its boundary with element 0. -/
def State.listFor (s : State) (v : Nat) (w : BitVec 128) (dwell ramp : Nat) : Option ListSt :=
  if tb w 116 then (s.validDesc v (bf w 111 96)).map fun d => newList d (s.paramElems v d) dwell ramp else none

/-- SET_FREQ (R243 to R245, R298): RESET_TIME is armed in this cycle as a scheduled action of kind 0x04; its boundary B is known when
the step takes effect. -/
def execSetFreq (k : Fin 16) (s : State) : Res :=
  s.commitStep k 0x0B anyWord
    (fun s v w =>
      let mode := bf w 119 118
      let d := s.validDesc v (bf w 111 96)
      [(resBad w ([(119, 118), (116, 116), (114, 112), (111, 64)] ++ if mode = 2 then [(117, 117), (63, 0)] else []), 2),
       (mode == 3 || (tb w 116 && bf w 95 64 == 0), 3), (s.nextBad k, 4), ((s.boundAout v k (bf w 114 112)).isNone, 5),
       (tb w 116 && d.isNone, 6), (tb w 116 && d.any fun d => d.typ != 4 || d.fmt == 1, 7)])
    (fun s v _ w =>
      let ch := (s.boundAout v k (bf w 114 112)).getD 0
      let l := s.listFor v w (bf w 95 64) 0
      let f := match l with
        | some l => l.elem.1
        | none => bf w 111 64
      let s := s.readList v w
      let s := if bf w 119 118 = 2 then
          (s.setAo ch { s.ao ch with phaseRef := none }).arm (actId 4 ch) (BitVec.ofNat 64 (bf w 63 0)) (tb w 117) f
        else s
      s.goOn k ((s.sq k).pc + 1) [.freq ch (bf w 119 118) f l])

/-- SET_PHASE. -/
def execSetPhase (k : Fin 16) (s : State) : Res :=
  s.commitStep k 0x0C anyWord
    (fun s v w => [(resBad w [(116, 116), (114, 112), (15, 0)], 2), (s.nextBad k, 4),
                   ((s.boundAout v k (bf w 114 112)).isNone, 5)])
    (fun s v _ w =>
      s.goOn k ((s.sq k).pc + 1) [.phase ((s.boundAout v k (bf w 114 112)).getD 0) (tb w 116) (bf w 15 0)])

/-- SET_AMPL (R246). -/
def execSetAmpl (k : Fin 16) (s : State) : Res :=
  s.commitStep k 0x0D anyWord
    (fun s v w =>
      let d := s.validDesc v (bf w 111 96)
      [(resBad w ([(116, 116), (114, 112), (63, 32)] ++ if tb w 116 then [(111, 96), (31, 0)] else [(79, 64)]), 2),
       (tb w 116 && bf w 31 0 == 0, 3), (s.nextBad k, 4), ((s.boundAout v k (bf w 114 112)).isNone, 5),
       (tb w 116 && d.isNone, 6), (tb w 116 && d.any fun d => d.typ != 4 || d.fmt == 0, 7)])
    (fun s v _ w =>
      let l := s.listFor v w (bf w 31 0) (bf w 63 32)
      let a := match l with
        | some l => l.elem.2
        | none => bf w 79 64
      (s.readList v w).goOn k ((s.sq k).pc + 1) [.ampl ((s.boundAout v k (bf w 114 112)).getD 0) a (bf w 63 32) l])

/-- MARKER (R247). -/
def execMarker (k : Fin 16) (s : State) : Res :=
  s.commitStep k 0x0E anyWord
    (fun s _ w =>
      let p := tb w 111
      [(resBad w ([(119, 116), (115, 112), (111, 111)] ++ if p then [(31, 0)] else []), 2),
       ((bf w 115 112 &&& (15 - bf w 119 116)) != 0 || (p && bf w 31 0 == 0), 3), (s.nextBad k, 4)])
    (fun s _ _ w => s.goOn k ((s.sq k).pc + 1) [.marker (bf w 119 116) (bf w 115 112) (tb w 111) (bf w 31 0)])

/-- SIGNAL POST (R249); a KIND of 2 or 3 faults here, and has no fields (R226). -/
def execSignalPost (k : Fin 16) (s : State) : Res :=
  s.commitStep k 0x10 (fun w => bf w 119 118 != 1)
    (fun s _ w => [(resBad w ((119, 118) :: if bf w 119 118 = 0 then [(117, 116), (108, 104), (63, 0)] else []), 2), (decide (2 ≤ bf w 119 118), 3), (s.nextBad k, 4)])
    (fun s _ _ w => s.goOn k ((s.sq k).pc + 1) [.post (bf w 117 116) (bf w 108 104) (bf w 63 0)])

/-- SIGNAL FIRE (R250); it takes effect at the boundary (R266, log entry 24). -/
def execSignalFire (k : Fin 16) (s : State) : Res :=
  s.commitStep k 0x10 (fun w => bf w 119 118 == 1)
    (fun s v w => [(resBad w [(119, 118), (101, 96)], 2), (s.nextBad k, 4), ((s.chOwn v (bf w 101 96)).isNone, 5)])
    (fun s v _ w => s.goOn k ((s.sq k).pc + 1) [.fire ((s.chOwn v (bf w 101 96)).getD 0)])

/-- COUNT (R251). -/
def execCount (k : Fin 16) (s : State) : Res :=
  s.commitStep k 0x11 anyWord
    (fun s v w =>
      let op := bf w 119 116
      let sel := bf w 109 104
      [(resBad w ([(119, 116), (113, 112)] ++ if op = 3 ∨ op = 4 then [(109, 104)] else if op < 3 then [(31, 0)] else []), 2),
       (decide (5 ≤ op) || (op == 3 && decide (8 ≤ sel)), 3), (s.nextBad k, 4),
       ((op == 3 && (s.own v .pb sel).isNone) || (op == 4 && (s.chOwn v sel).isNone), 5)])
    (fun s v _ w =>
      let c := seqR k + 0x70 + 4 * bf w 113 112
      let x : Word := BitVec.ofNat 32 (bf w 31 0)
      let sel := bf w 109 104
      let y := match bf w 119 116 with
        | 0 => x
        | 1 => s.rd c + x
        | 2 => s.rd c - x
        | 3 => ((s.seen k).failCnt[(s.own v .pb sel).getD 0]?).getD 0
        | _ => ((s.seen k).evc[(s.chOwn v sel).getD 0]?).getD 0
      ((s.wr c y).touch c (BitVec.allOnes 32)).goOn k ((s.sq k).pc + 1) [])

/-- A queue that a FLIP's entry goes to is full (R252). -/
def State.flipFull (s : State) (link : Nat) : Bool :=
  if link = 2 then s.dsiFull 0 || s.dsiFull 1 else s.dsiFull link

/-- FLIP (R252): with FULL = 0 and no slot the sequencer holds; the entry of a step that holds is queued by FLIP itself once
a slot frees, and the run goes on from there. -/
def execFlip (k : Fin 16) (s : State) : Res :=
  let x := s.sq k
  match x.cur, x.target with
  | .flipStall link fb timed pol time, none =>
    if s.flipFull link || x.planAt != x.began then ok s
    else
      let s := s.each (if link = 2 then (if s.lock2 then [0] else [0, 1]) else [link]) fun s l => s.dsiPush l fb timed pol time
      let x := s.sq k
      ok (s.setSq k { x with target := some (max (x.planAt + 1) (x.from_ (s.time.mono + 2048))) })
  | _, _ =>
    s.commitStep k 0x12 anyWord
      (fun s v w =>
        let t := tb w 116
        [(resBad w ([(119, 118), (116, 116), (115, 115), (69, 64)] ++ if t then [(117, 117), (63, 0)] else []), 2),
         (bf w 119 118 == 3, 3), (s.nextBad k, 4), (!s.owns v .misc 0, 5)])
      (fun s _ b w =>
        let link := bf w 119 118
        let time : Time := BitVec.ofNat 64 (bf w 63 0)
        if !tb w 115 && s.flipFull link then
          s.endRun k b ((s.sq k).pc + 1) (.flipStall link (bf w 69 64) (tb w 116) (tb w 117) time) fun _ => none
        else s.goOn k ((s.sq k).pc + 1) [.flip link (bf w 69 64) (tb w 115) (tb w 116) (tb w 117) time])

/-- TIMING (R253). -/
def execTiming (k : Fin 16) (s : State) : Res :=
  s.commitStep k 0x13 anyWord
    (fun s v w =>
      let n := 2 ^ bf w 101 100
      [(resBad w [(114, 112), (107, 104), (101, 100)], 2), (decide (8 < bf w 114 112 + n), 3), (s.nextBad k, 4),
       ((s.boundBanks v k (bf w 114 112) n).isNone, 5)])
    (fun s v _ w =>
      s.goOn k ((s.sq k).pc + 1)
        [.timing ((s.boundBanks v k (bf w 114 112) (2 ^ bf w 101 100)).getD []) (bf w 107 104)])

/-- END (R254). -/
def execEndStep (k : Fin 16) (s : State) : Res :=
  s.commitStep k 0x1F anyWord (fun _ _ w => [(resBad w [], 2)])
    (fun s _ b _ => s.endRun k b (s.sq k).pc (.halting 1) fun _ => none)

end Sys2Proof.Machine
end

