-- ==== Sys2Proof/Machine/Sequencer.lean ====
section
/-! DEFINITION. Sequencers in time (09): starts, step boundaries, holding steps, barriers, prefetch, underruns, stops. -/

namespace Sys2Proof.Machine

/-! ### Starting -/

def State.wseq (s : State) (k i : Nat) (b : Bool) : State := s.wbit (seqR k + 8) i b

/-- A refused start (R259). -/
def State.refuseSeq (s : State) (k why : Nat) : State := (s.wseq k 14 true).wfld (seqR k + 8) 31 28 why

/-- The granules of the VI's step pool that a step-table range touches: one index in each. -/
def rangeProbes (first last : Nat) : List Nat :=
  first :: last :: ((List.range 16).map (· * 16384)).filter fun i => decide (first < i) && decide (i < last)

/-- A step-pool granule of the table, or a directory granule of the VI, is not LOADED (R200). -/
def State.notLoaded (s : State) (k : Nat) : Bool :=
  let v := s.ownerVi .seq k
  let bad (p : Nat) : Bool := s.mem.notLoaded.getLsbD (p / 0x40000)
  (rangeProbes (s.fld (seqR k + 0x10) 17 0) (s.fld (seqR k + 0x14) 17 0)).any
      (fun i => (s.stepAddr v i).any bad) ||
    (s.dirG v).any fun g => s.mem.notLoaded.getLsbD g

/-- The range is valid (R259). -/
def State.rangeOk (s : State) (k : Nat) : Bool :=
  let f := s.fld (seqR k + 0x10) 17 0
  let l := s.fld (seqR k + 0x14) 17 0
  let st := s.fld (seqR k + 0x18) 17 0
  decide (f ≤ st) && decide (st ≤ l) &&
    (rangeProbes f l).all fun i => (s.stepAddr (s.ownerVi .seq k) i).isSome

/-- The bound banks have different vector periods (R258). -/
def State.rateMix (s : State) (k : Nat) : Bool :=
  let l := (s.banksOf k).map fun b => s.fld (pbR b + 0x14) 11 0
  l.any (· != l.headD 0)

/-- The first failing reason of R259 before admission; `timed`: at the staging moment of a timed start. -/
def State.startWhy (s : State) (k : Nat) (timed : Bool) : Option Nat :=
  if !s.bit (seqR k) 0 then some 1
  else if s.seqOn k then some 2
  else if s.noStart then some 3
  else if s.notLoaded k then some 10
  else if !s.rangeOk k then some 6
  else if !(s.banksOf k).isEmpty && !(s.aoutsOf k).isEmpty then some 7
  else if s.rateMix k then some 8
  else if !timed && s.bit (seqR k + 8) 2 then some 9
  else none

/-- The programme starts (R223, R258, R260, R263): its first run commits in the cycle that begins at `c0`, and its first
boundary is the first one at or after `t`, or after `tm` if the first output segment proves to lie in memory. With its clock muted it
begins paused (R280). -/
def State.beginSeq (s : State) (k c0 t : Nat) (tm : Option Nat) : State :=
  let dom := s.domainOf k
  let s := (((s.setSeqState k 1).wfld (seqR k + 8) 23 22 dom).wr (seqR k + 0x48) 0).wr (seqR k + 0x4C) 0
  let s := (s.each (List.range 4) fun s n => (s.wr (loopR k n) 0).wr (loopR k n + 4) 0).wfld (seqR k + 0x44) 3 0 0
  let s := (s.touch (seqR k + 0x44) 0xF).wr (seqR k + 0x40) 0
  let s := s.boundary (· == seqR k)
  let y := s.sq k
  let (l, b) := s.firstBoundary k dom t
  let s := s.setSq k { pc := s.fld (seqR k + 0x18) 17 0, tl := l, target := some b, done := b, whey := y.whey, demand := y.demand,
                       lastC := c0 - 32, memB0 := tm, asked := y.asked, loose := s.bit (0x1840 + 4 * k) 18 }
  let s := s.each (s.aoutsOf k) fun s n => s.aoutStart n
  let s := s.each (s.banksOf k) fun s n => s.bankStart n 1
  let s := if dom ≠ 0 ∧ s.synBit dom 1 = true then
      (s.wseq k 18 true).setSq k { s.sq k with pausedAt := s.time.mono, target := none, aim := some t }
    else s
  s.after 0 (.calAbort .start)

/-- Admission with the cached demand (R212): the demand joins ADMIT_USED, or the start is refused; ADMIT_STATUS shows it either way. -/
def State.takeIn (s : State) (k : Nat) : State × Bool :=
  let need := s.fld (0x1840 + 4 * k) 15 0
  let used := s.fld 0x1824 15 0
  let s := s.admitNote k need
  if used + need ≤ s.fld 0x1820 15 0 then
    let s := (s.wr 0x1824 (BitVec.ofNat 32 (used + need))).wbit (0x1840 + 4 * k) 17 true
    (s.setSq k { s.sq k with demand := need }, true)
  else ((s.admitRefused k 1).refuseSeq k 4, false)

/-- A start of a lower-numbered sequencer, accepted in the same cycle, is not admitted yet (R213, log entry 115). -/
def State.admitWaits (s : State) (k : Nat) : Bool :=
  (List.range k).any fun j => (s.scanOf j == .start || s.scanOf j == .entering) && (s.sq j).asked == (s.sq k).asked

/-- A start by register or event goes on after its scan, or with a cached demand (R260): RUN is reached 8 cycles after
admission when PRIMED was in force. It waits for those that go before it (R213). -/
def State.startNow (s : State) (k : Nat) : State :=
  if s.admitWaits k then (s.setScan k .entering).after 32 (.admitScanDone (Fin.ofNat 16 k))
  else
    let (s, good) := s.takeIn k
    if !good then s
    else
      let primed := s.mode.eff == .primed
      let c0 := s.time.mono + (if primed then 256 else 0)
      let s := s.beginSeq k c0 (c0 + 768) (some (c0 + 1792))
      if primed then s.raiseRun 256 else s

/-- A start by register or by event, accepted in this cycle (R259, R260): admission follows 2 cycles later with a cached
demand, or at the end of the scan (R212). -/
def State.startSeq (s : State) (k : Nat) : State :=
  match s.startWhy k false with
  | some w => s.refuseSeq k w
  | none =>
    let s := s.setSq k { s.sq k with asked := s.time.mono }
    if s.scanOf k ≠ .idle then s.setScan k .start
    else if s.bit (0x1840 + 4 * k) 16 then (s.setScan k .entering).after 64 (.admitScanDone (Fin.ofNat 16 k))
    else s.startScan k .start

/-- SEQk_CMD.START (R260). -/
def execSeqStart (k : Fin 16) (s : State) : Res := ok (s.startSeq k)

/-- An event at the start input of a halted sequencer (R261). -/
def execSeqEvstart (k : Fin 16) (s : State) : Res :=
  if s.bit (seqR k) 4 && !s.seqOn k then ok (s.startSeq k) else ok s

/-- SEQk_CMD.ARM (R262, R264): the target is latched, the start armed, and the scan run. -/
def execSeqArm (k : Fin 16) (s : State) : Res :=
  if s.noStart then ok (s.refuseSeq k 3)
  else
    let s := s.arm (actId 3 k) (s.rd64 (seqR k + 0x1C) (seqR k + 0x20)) (s.bit (seqR k) 12) 0
    let s := if s.bit (0x1840 + 4 * k) 16 || s.scanOf k != .idle then s else s.startScan k .arm
    ok s.reviewMode

/-- SEQk_CMD.DISARM (R262). -/
def execSeqDisarm (k : Fin 16) (s : State) : Res := ok ((s.disarm (actId 3 k)).reviewMode)

/-- The first boundary time of an armed start (R263, R264): at or after the target, and the earliest moment of a late one. -/
def State.stageAt (s : State) (x : Act) : Nat := max (s.targetAt x.target) (if x.late then x.earliest else 0)

/-- The staging moment has come: the cycle containing B0 − 2,048 TU (R263); for a late start the arming moment (R264). -/
def State.stageDue (s : State) (k : Nat) : Bool :=
  let x := s.act (actId 3 k)
  let (l, b) := s.firstBoundary k (s.domainOf k) (s.stageAt x)
  x.armed && !x.defer && (x.late || decide (s.cycleOf (l.at_ b - 2048) ≤ s.time.mono))

/-- The staging moment of a timed start (R263): refusals, admission, and the first run. Without a cached demand the scan
goes first, and the stage is late. -/
def execSeqStage (k : Fin 16) (s : State) : Res :=
  let x := s.act (actId 3 k)
  if !s.stageDue k then ok s
  else
    let s := s.disarm (actId 3 k)
    match s.startWhy k true with
    | some w => ok ((s.refuseSeq k w).reviewMode)
    | none =>
      if s.bit (0x1840 + 4 * k) 16 then
        let (s, good) := s.takeIn k
        if good then ok ((s.beginSeq k s.time.mono (s.stageAt x) none).reviewMode) else ok s.reviewMode
      else
        let s := s.setAct (actId 3 k) { x with armed := false, data := s.time.mono }
        if s.scanOf k = .idle then ok (s.startScan k .late) else ok (s.setScan k .late)

/-- A scan for a timed start ended after its staging moment (R263): LATE, with the delay in SEQk_LATE and in the late
records. The scan that the arming of a late start itself runs is no second lateness while it ends within the start's earliest
moment, which then stands (R264). -/
def State.stageLate (s : State) (k : Nat) : State :=
  let x := s.act (actId 3 k)
  let d := s.time.mono - x.data
  let inTime := x.late && decide (s.time.mono ≤ x.earliest)
  let t := s.stageAt x
  let s := if inTime then s else s.recordLate (actId 3 k) (sat32 d) false
  let (s, good) := s.takeIn k
  let s := s.setAct (actId 3 k) {}
  if good then s.beginSeq k s.time.mono (if inTime then t else max t (s.time.mono + 2048)) none else s

/-- An admission scan ends (R210 to R212): the demand is cached, or the scan fails with DESC; then the start it was for goes
on. A start with a cached demand is admitted without a scan, unless the cache has been cleared since. -/
def execAdmitScanDone (k : Fin 16) (s : State) : Res :=
  let p := s.scanOf k
  if p = .idle then ok s
  else if p = .entering then
    let s := s.setScan k .idle
    match s.startWhy k true with
    | some w => ok (s.refuseSeq k w)
    | none => if s.bit (0x1840 + 4 * k) 16 then ok (s.startNow k) else ok (s.startScan k .start)
  else
    let v := s.ownerVi .seq k
    let (s, good, need, short) := s.scan k
    let s := s.setScan k .idle
    let s := s.wbitv v 0x182C 0 ((List.range 16).any fun j => s.ownerVi .seq j == v && s.scanOf j != .idle)
    let s := (if good then s.cacheScan k need short else s).releaseAper
    match p with
    | .start =>
      match s.startWhy k true with
      | some w => ok (s.refuseSeq k w)
      | none => if good then ok (s.startNow k) else ok ((s.admitRefused k 2).refuseSeq k 5)
    | .late =>
      match s.startWhy k true with
      | some w => ok ((s.refuseSeq k w).reviewMode)
      | none => if good then ok ((s.stageLate k).reviewMode) else ok (((s.admitRefused k 2).refuseSeq k 5).reviewMode)
    | _ => if good then ok s else ok (s.wbitv v 0x182C 2 true)

/-! ### Stopping -/

/-- The earlier of a decided halt and a new one. -/
def SeqSt.haltAt (x : SeqSt) (j why : Nat) : SeqSt :=
  match x.halt with
  | some (i, _) => if i ≤ j then x else { x with halt := some (j, why) }
  | none => { x with halt := some (j, why) }

/-- A holding step (R230). -/
def Cur.holds : Cur → Bool
  | .hold _ | .waitEvent _ _ _ | .waitTime _ | .sync _ _ _ _ | .flipStall _ _ _ _ _ => true
  | _ => false

/-- A stop at a step boundary, accepted in this cycle (R281): while a holding step runs every output boundary counts. -/
def State.stopAtStep (s : State) (k why : Nat) : State :=
  if !s.seqOn k then s
  else
    let x := s.sq k
    if x.plan.holds then s.setSq k (x.haltAt (max (x.planAt + 1) (x.from_ (s.time.mono + 2048))) why)
    else s.setSq k { x with stopStep := why }

/-- SEQk_CMD.STOP (R281): a halt at the first output boundary 128 TU from now, whenever that comes. -/
def execSeqStop (k : Fin 16) (s : State) : Res :=
  if s.seqOn k then ok (s.setSq k ((s.sq k).stopFrom (s.time.mono + 128) 3)) else ok s

/-- SEQk_CMD.STOP_STEP (R281). -/
def execSeqStopStep (k : Fin 16) (s : State) : Res := ok (s.stopAtStep k 4)

/-- An event at the stop input of a running sequencer (R281). -/
def execSeqEvstop (k : Fin 16) (s : State) : Res := if s.bit (seqR k) 8 then ok (s.stopAtStep k 5) else ok s

/-- An event at event input i (R222, R261, R281): it starts a halted sequencer, stops a running one, or sets the flag. -/
def execSeqEventInput (k : Fin 16) (i : Fin 4) (s : State) : Res :=
  if !s.seqOn k then
    if s.bit (seqR k) 4 && s.fld (seqR k) 6 5 == i.val then ok (s.startSeq k) else ok s
  else if s.bit (seqR k) 8 && s.fld (seqR k) 10 9 == i.val then ok (s.stopAtStep k 5)
  else ok (s.wbit (seqR k + 0x44) i true)

/-- The halt boundary H of a decided halt (R282, R283); bad data that is due there is the step fault ECC_DATA. -/
def execSeqHalt (k : Fin 16) (s : State) : Res :=
  let x := s.sq k
  match s.haltDue k with
  | some (j, why) =>
    if s.seqOn k then
      let s := s.playTo k j
      let s := match x.ecc with
        | some (e, i) => if e = j then s.noteFault k 0x0D i else s
        | none => s
      ok (s.haltSeq k why)
    else ok s
  | none => ok s

/-- SEQk_CMD.CNT_CLR: WHEY, SLIP and DROP clear. -/
def execSeqCntClr (k : Fin 16) (s : State) : Res :=
  ok (((s.clrCnt (seqR k + 0x38)).clrCnt (seqR k + 0x3C)).setSq k { s.sq k with whey := (s.cy (seqR k + 0x30)).added.setWidth 48 })

/-! ### Prefetch and whey -/

/-- How a run goes on from a place, with the loop levels and the stack as they will stand there (R239, R240, R242). -/
def State.pathNext (s : State) (v : Nat) (p : RunAt) : List RunAt :=
  let w := s.stepWord v p.step
  let n := bf w 119 118
  let at_ (i : Nat) : RunAt := { p with step := i }
  match opOf w with
  | 0x06 => (branchWays p.step w).map at_
  | 0x07 => [{ p with step := p.step + 1, loops := p.loops.set n (some (bf w 31 0, p.step + 1, bf w 31 0 == 0)) }]
  | 0x08 =>
    match (p.loops[n]?).getD none with
    | none => []
    | some (c, st, inf) =>
      if inf then [at_ st]
      else if c = 1 then [{ p with step := p.step + 1, loops := p.loops.set n none }]
      else [{ p with step := st, loops := p.loops.set n (some (c - 1, st, false)) }]
  | 0x09 => if 8 ≤ p.stack.length then [] else [{ p with step := bf w 81 64, stack := (p.step + 1) :: p.stack }]
  | 0x0A => match p.stack with
    | [] => []
    | i :: t => [{ p with step := i, stack := t }]
  | _ => (stepSuccs p.step w).map at_

/-- The place from which the run after step `i` begins, with the loop levels and the stack of sequencer `k`. -/
def State.placeOf (s : State) (k i : Nat) : RunAt :=
  { step := i, stack := (s.sq k).stack
    loops := (List.range 4).map fun n =>
      if s.bit (loopR k n + 4) 31 then some ((s.rd (loopR k n)).toNat, s.fld (loopR k n + 4) 17 0, s.bit (loopR k n + 4) 30) else none }

/-- A step at which a run would end now: a FLIP stalls while its queue is full (R252, R265). -/
def State.endsNow (s : State) (w : BitVec 128) : Bool :=
  endsRun w || (opOf w == 0x12 && !tb w 115 && s.flipFull (bf w 119 118))

/-- The ends of the run that follows step `i`, and whether it holds a decision or the step is one (R273). At most 1,024 places are
looked at (log entry 109). -/
def State.runAfter (s : State) (k i : Nat) : List Nat × Bool :=
  let v := s.ownerVi .seq k
  let p := s.placeOf k i
  runEnds (fun p => s.endsNow (s.stepWord v p.step)) (fun p => isDecision (s.stepWord v p.step)) (s.pathNext v) 1024
    ((stepSuccs i (s.stepWord v i)).map fun j => { p with step := j }) [] [] (isDecision (s.stepWord v i))

/-- At the begin of an output or holding step at index `i` the heads of every path through its run are fetched, if a decision
lies there (R273), and the tail and the loop section of a PLAYLOOP with an exit test. -/
def State.prefetch (s : State) (k i : Nat) : State :=
  let v := s.ownerVi .seq k
  let w := s.stepWord v i
  let s := match s.stepDesc v i with
    | some d => if opOf w == 0x02 && tb w 63 then s.each (loopHeads (bf w 111 96) d) fun s h => s.addHead k d h else s
    | none => s
  let (ends, dec) := s.runAfter k i
  if dec then
    s.each ends fun s e =>
      match namedDesc (s.stepWord v e), s.stepDesc v e with
      | some d, some x => if x.typ = 1 ∨ x.typ = 3 then s.addHead k x { desc := d, elem := 0, bytes := min 4096 x.extent } else s
      | _, _ => s
  else s

/-! ### Step boundaries -/

/-- A marker change at boundary `b` (R247, R272): levels, and the return of a pulse. -/
def State.setMarkers (s : State) (k b mask value : Nat) (pulse : Bool) (width : Nat) : State :=
  s.each ((List.range 4).filter mask.testBit) fun s m =>
    let old := s.bit (seqR k + 0x44) (8 + m)
    let x := s.sq k
    let keep := x.pulses.filter fun p => p.1 != m
    let s := s.setSq k { x with pulses := if pulse then keep ++ [(m, b + width, old)] else keep }
    (s.wbit (seqR k + 0x44) (8 + m) (value.testBit m)).setLevel (4 * k + m) (value.testBit m)

/-- One effect of a run at its boundary `b` (R266, R295). -/
def State.applyEff (s : State) (k b : Nat) : Eff → State
  | .marker m v p w => s.setMarkers k b m v p w
  | .freq ch mode f l =>
    let s := s.setFreqAt ch mode f l
    if mode = 2 ∧ (s.act (actId 4 ch)).armed = true then s.setAo ch { s.ao ch with phaseRef := some (b, f) } else s
  | .phase ch add p =>
    let x := s.ao ch
    s.setAo ch { x with phase := BitVec.ofNat 16 (if add then x.phase.toNat + p else p) }
  | .ampl ch a r l => s.setAmplAt ch a r l
  | .timing bs t => s.each bs fun s j => s.selectTset j t
  | .flip l fb full timed pol time =>
    if full && s.flipFull l then s.wbit (seqR k + 0x44) 12 true
    else s.each (if l = 2 then (if s.lock2 then [0] else [0, 1]) else [l]) fun s l => s.dsiPush l fb timed pol time
  | .post q dvi p =>
    (s.post (s.ownerVi .seq k) (some (s.relNum .seq k)) dvi q (BitVec.ofNat 64 p)).1
  | .fire ch => s.swFire (s.ownerVi .seq k) ch

/-- The real demand of a segment, at the rates in force, exceeds its class by more than 0.5 % (R208, R209). -/
def State.overClass (s : State) (k : Nat) (d : Desc) (f : Nat) : Bool :=
  let l := (s.sq k).tl
  d.mem && decide (classMBps d.rate * 1005 * l.num * f * 8 < 25600 * l.den * d.eb * 1000)

/-- What a step that plays does at the boundary `b` at which it begins: the check of R207, the table, UNDERCLASS, ECC_DATA. -/
def State.playBegins (s : State) (k i b : Nat) (c : Cur) (dest di : Nat) : State :=
  let v := s.ownerVi .seq k
  match (s.dirEntry v di).map s.descAt with
  | none => s
  | some d =>
    if s.sideEffect v d then (s.noteFault k 0x0E i).haltSeq k 2
    else
      let n := s.headBytes k di 0
      let s := if d.typ = 2 then s.takeTable dest di else s.takeHead k di 0
      let s := s.setSq k { s.sq k with took := n }
      let f := if d.typ = 1 then s.interp dest else 1
      let s := if s.overClass k d f then (s.wbitv v 0x182C 4 true).setSq k { s.sq k with loose := true } else s
      s.watchData k i b c d f

/-- A run of more than 64 executions is not complete at its boundary: the outputs hold from there on (R267). -/
def SeqSt.stalls (x : SeqSt) : Option Nat :=
  if x.queue.isEmpty && decide (64 ≤ x.runLen) && x.cur != Cur.stall then x.target else none

/-- At the first boundary of a start its channels take up the sequencer's samples. -/
def State.outBegins (s : State) (k b : Nat) : State :=
  if s.seqState k ≠ 1 then s else s.each (s.aoutsOf k) fun s n => s.aoutBegin n ((s.sq k).at_ b)

/-- STEP_BOUNDARY (R266): the outputs up to the boundary, set-point shadows, the effects of the run in program order, and the
step that begins. -/
def execStepBoundary (k : Fin 16) (s : State) : Res :=
  match (s.sq k).queue with
  | [] => match (s.sq k).stalls with
    | some b =>
      let s := (s.playTo k b).outBegins k b
      ok ((s.setSq k { s.sq k with cur := .stall, began := b }).setSeqState k 3)
    | none => ok s
  | (b, i, effs, c) :: _ =>
    let s := (s.playTo k b).outBegins k b
    let s := s.boundary (· == seqR k)
    let s := s.each (s.aoutsOf k) fun s n => (s.applySetPoints n).applyTrims 1 n
    let s := match c with
      | .play true _ _ _ _ | .loop true _ _ _ _ _ _ _ _ =>
        let v := s.ownerVi .seq k
        let w := 2 ^ ((s.curDesc v c).map Desc.banks).getD 0
        s.each (s.curBanks v c w) fun s x => (s.boundary (bankShadow x.1)).applyTrims 2 x.1
      | _ => s
    let x := s.sq k
    let s := s.setSq k { x with queue := x.queue.tail, cur := c, began := b, took := 0 }
    let s := s.each effs fun s e => s.applyEff k b e
    let s := s.setSeqState k (if c.holds || c == Cur.stall then 3 else 2)
    let s := match c with
      | .play _ dest di _ _ | .loop _ dest di _ _ _ _ _ _ => s.playBegins k i b c dest di
      | .sync _ _ _ _ => s.setSq k { s.sq k with arrived := some s.time.mono }
      | .halting why => s.haltSeq k why
      | _ => s
    if s.seqOn k && c != Cur.stall then ok (s.prefetch k i) else ok s

/-- A pulsed marker returns (R247, R272). -/
def execMarkerPulseReturn (k : Fin 16) (m : Fin 4) (s : State) : Res :=
  let x := s.sq k
  match x.pulses.find? fun p => p.1 == m.val with
  | some (_, _, lv) =>
    let s := s.setSq k { x with pulses := x.pulses.filter fun p => p.1 != m.val }
    ok ((s.wbit (seqR k + 0x44) (8 + m) lv).setLevel (4 * k + m) lv)
  | none => ok s

/-! ### Holding steps -/

/-- HOLD ends at the boundary COUNT output periods after its own (R268): the run that follows is to commit for it. -/
def execHoldEnd (k : Fin 16) (s : State) : Res :=
  let x := s.sq k
  match x.plan, x.target with
  | .hold n, none => ok (s.setSq k { x with target := some (x.planAt + n) })
  | _, _ => ok s

/-- The candidate boundary whose commit cycle is this one (R269). -/
def State.candidate (s : State) (x : SeqSt) : Option Nat :=
  [x.planAt + 1, max (x.planAt + 1) (x.from_ (s.time.mono + 2048))].find? fun j => s.commitCycle x j == s.time.mono

/-- A WAIT_EVENT finds its flag set (R237, R269): the flag is consumed, and the run commits for the candidate boundary. -/
def execWaitEventEnd (k : Fin 16) (s : State) : Res :=
  let x := s.sq k
  match x.plan, x.target with
  | .waitEvent i _ _, none =>
    if s.ef k i then
      let j := (s.candidate x).getD (max (x.planAt + 1) (x.from_ (s.time.mono + 2048)))
      ok ((s.consumeEf k i).setSq k { x with target := some j })
    else ok s
  | _, _ => ok s

/-- TMO output periods pass first (R237, R268): the run continues at ELSE. A flag that is set wins (R269). -/
def execWaitEventTimeout (k : Fin 16) (s : State) : Res :=
  let x := s.sq k
  match x.plan, x.target with
  | .waitEvent i els tmo, none =>
    if tmo = 0 then ok s
    else if s.ef k i then ok ((s.consumeEf k i).setSq k { x with target := some (x.planAt + tmo) })
    else ok (s.setSq k { x with pc := els, target := some (max (x.planAt + tmo) (x.from_ (s.time.mono + 2048))) })
  | _, _ => ok s

/-- The boundary at which a WAIT_TIME ends (R238, R268): the first one at or after the FCLK boundary of its target. -/
def State.waitTimeAt (s : State) (k : Nat) : Nat :=
  let x := s.sq k
  let a := s.act (actId 2 k)
  let t := max (s.targetAt a.target) (if a.late then a.earliest else 0)
  max x.planAt (x.from_ (if t ≤ s.time.mono then t else s.time.mono + roundUp (t - s.time.mono) 32))

/-- WAIT_TIME ends (R238); dropped when a step of the time made it late (R28), it goes on at ELSE at once. -/
def execWaitTimeEnd (k : Fin 16) (s : State) : Res :=
  let x := s.sq k
  match x.plan, x.target with
  | .waitTime els, none =>
    let a := s.act (actId 2 k)
    if a.armed && a.defer then ok s
    else if a.armed then ok ((s.disarm (actId 2 k)).setSq k { x with target := some (s.waitTimeAt k) })
    else ok (s.setSq k { x with pc := els, target := some (max x.planAt (x.from_ (s.time.mono + 2048))) })
  | _, _ => ok s

/-- Sequencer `j` waits at the barrier ID with the same GROUP. -/
def State.waitsAt (s : State) (j ident group : Nat) : Bool :=
  match (s.sq j).cur with
  | .sync i g _ _ => i == ident && g == group && (s.sq j).arrived.isSome && (s.sq j).target.isNone
  | _ => false

/-- The members of a barrier, when all of them wait (R248). -/
def State.barrier (s : State) (k : Nat) : Option (List Nat) :=
  match (s.sq k).cur with
  | .sync i g _ _ =>
    let v := s.ownerVi .seq k
    let ms := ((List.range 16).filter g.testBit).map fun j => s.phys v .seq j
    if ms.all fun m => match m with
      | some j => s.waitsAt j i g
      | none => false
    then some (ms.filterMap id) else none
  | _ => none

/-- Every member waits: all are released in one cycle (R248, R278). -/
def execSyncRelease (k : Fin 16) (s : State) : Res :=
  match s.barrier k with
  | some ms => ok (s.each ms fun s j => (s.setSq j { s.sq j with arrived := none }).goAt j (s.time.mono + 2048))
  | none => ok s

/-- A member's TMO expires first (R248, R278): it continues at ELSE; a release in the same cycle wins. -/
def execSyncTimeout (k : Fin 16) (s : State) : Res :=
  let x := s.sq k
  match x.cur, x.target, x.arrived with
  | .sync _ _ els tmo, none, some _ =>
    if tmo = 0 ∨ (s.barrier k).isSome = true then ok s
    else ok ((s.setSq k { x with arrived := none, pc := els }).goAt k (s.time.mono + 2048))
  | _, _, _ => ok s

/-! ### Channels in time -/

/-- A parameter list takes its next element at its output boundary (R243, R296): the channel is computed up to now. -/
def execParamListAdvance (n : Fin 8) (s : State) : Res :=
  match s.aoutSeq n with
  | some q => ok (s.catchUp q)
  | none => ok s

/-- The samples of a channel that fall before now, whoever makes them. -/
def State.catchUpAout (s : State) (n : Nat) : State :=
  match s.aoutSeq n with
  | some q => if s.seqState q < 2 then s.idleTo n s.time.mono else s.playTo q (s.knownTo q ((s.sq q).from_ s.time.mono))
  | none => s.idleTo n s.time.mono

/-- A table load completes (R300): the standby RAM holds it; a PLAY whose boundary has passed switches now, and its wait
counts. -/
def execTableLoadDone (n : Fin 8) (s : State) : Res :=
  match (s.ao n).loading with
  | none => ok s
  | some (d, wait) =>
    let s := s.catchUpAout n
    let v := s.ownerVi .aout n
    let b := match s.validDesc v d with
      | some x => s.loadVi v x.mem x.addr 8192
      | none => []
    let s := match s.validDesc v d with
      | some x => s.readVi v x.mem x.addr 8192
      | none => s
    let s := (s.setAo n { s.ao n with ramB := b, loading := none }).waout n 9 false
    let s := s.wfld (aoutR n + 0x40) 31 16 d
    match wait with
    | some t =>
      if t < s.time.mono then
        let b := ((s.aoutSeq n).map fun q => (s.sq q).at_ ((s.sq q).from_ s.time.mono)).getD s.time.mono
        ok (((s.swapTables n).waout n 8 true).incSat (aoutR n + 0x38) (b - t))
      else ok s
    | none => ok s

/-- PHASE_RESET (R297): the accumulator is loaded at the first output boundary at or after TIME and B. -/
def execPhaseReset (n : Fin 8) (s : State) : Res :=
  let a := s.act (actId 4 n)
  match s.aoutSeq n with
  | some q => match s.phaseAt n q with
    | some j =>
      if a.armed && !a.defer && decide ((s.sq q).at_ j < s.time.mono + s.cycleTu) && (s.sq q).queue.all (fun e => decide (j < e.1)) then
        let s := s.playTo q j
        ok ((s.phaseLoad n q (s.targetAt a.target)).disarm (actId 4 n))
      else ok s
    | none => ok s
  | none => ok s

/-! ### Underruns (R279) -/

/-- The bound outputs of a sequencer under DROP_AND_KEEP_TIME during the gap. -/
def State.underrunPark (s : State) (k : Nat) (p : Bool) : State :=
  s.each (s.aoutsOf k) fun s n => s.waout n 2 (p || (s.ao n).evParked)

/-- An underrun episode begins at the output boundary of this cycle; it comes only where the guarantee does not hold (R214). -/
def execUnderrun (k : Fin 16) (s : State) : Res :=
  if s.seqState k < 2 ∨ (s.sq k).underrun.isSome = true ∨ (s.sq k).loose = false then ok s
  else
    let s := s.catchUp k
    let s := ((s.wseq k 17 true).fireP 176).setSq k { s.sq k with underrun := some s.time.mono }
    if s.bit (seqR k) 1 then ok (s.each (s.banksOf k) (fun s b => s.parkBank b) |>.underrunPark k true) else ok s

/-- The data arrives, `ofs` TU into the cycle: the element due at the first boundary of the gap plays at the first one after the arrival, and HOLD_AND_SLIP
shifts every later boundary by the gap; DROP_AND_KEEP_TIME counts the missing periods. -/
def execUnderrunDataArrives (k : Fin 16) (ofs : Nat) (_ : ofs < 32) (s : State) : Res :=
  match (s.sq k).underrun with
  | none => ok s
  | some t =>
    let s := s.catchUp k
    let x := { s.sq k with underrun := none }
    let a := x.from_ (t + 1)
    let b := x.from_ (s.time.mono + ofs + 1)
    let g := b - a
    if s.bit (seqR k) 1 then ok (((s.setSq k x).incSat (seqR k + 0x3C) g).underrunPark k false)
    else
      let x := { x with began := x.began + g, planAt := x.planAt + g, target := x.target.map (· + g), ecc := x.ecc.map fun e => (e.1 + g, e.2),
                        halt := x.halt.map fun h => (h.1 + g, h.2), pulses := x.pulses.map fun p => (p.1, p.2.1 + g, p.2.2),
                        queue := x.queue.map fun q => (q.1 + g, q.2) }
      ok ((s.setSq k x).incSat (seqR k + 0x38) (x.at_ b - x.at_ a))

end Sys2Proof.Machine
end

