-- ==== Sys2Proof/Machine/Pattern.lean ====
section
/-! DEFINITION. Pattern banks (11): fails and their log, captures, supplies, free-running banks. -/

namespace Sys2Proof.Machine

/-- A vector of the bank was strobed at elapsed time `t`: the bank plays, or `t` lies in the last vector of one that has stopped since. -/
def State.strobed (s : State) (k t : Nat) : Bool :=
  let x := s.pb k
  let (num, den) := s.vecPeriod k
  s.pbState k != 0 || (x.played && decide (x.vecAt ≤ t) && decide ((t - x.vecAt) * den < num))

/-- A failing vector in its fail cycle (R322), which may come after the bank has stopped: `pins` fail before the mask of PBk_CMP_MASK,
`strobe` is B + CS. -/
def execVectorFail (k : Fin 8) (pins : BitVec 16) (cont : Bool) (strobe : Time) (s : State) : Res :=
  let p := pins &&& ~~~((s.rd (pbR k + 0x20)).setWidth 16)
  let s := s.catchUpAll
  let back := (s.now - strobe).toNat
  if !s.strobed k (s.time.mono - back) ∨ p = 0 then ok s
  else
    let x := s.pb k
    let vec := if s.time.mono < x.vecAt + back then s.rd (pbR k + 0x30) - 1 else s.rd (pbR k + 0x30)
    let first := x.firstArmed
    let s := (s.wpb k 2 true).incSat (pbR k + 0x34) 1
    let s := if first then
        ((s.wr (pbR k + 0x38) vec).wr (pbR k + 0x3C) (setBit (p.setWidth 32) 31 true)).setPb k { s.pb k with firstArmed := false }
      else s
    let s := if first || s.bit (pbR k) 8 then s.fireP (114 + k) else s
    let s := s.pendOwner .pb k 22
    if s.bit (pbR k + 0x44) 0 then
      let x := s.pb k
      if x.buf.length < 64 then
        let e : RingEnt := { stamp := strobe, vec := vec, a := p, b := 0, bank := s.relNum .pb k,
                             flags := b2n cont + (if x.loss then 2 else 0), due := s.time.mono + 32, prov := s.time.handoff }
        ok ((s.setPb k { x with buf := x.buf ++ [e], loss := false }).after 32 (.failLogWrite k))
      else ok ((s.setPb k { x with loss := true }).incSat (pbR k + 0x50) 1)
    else ok s

/-- The oldest buffered fail entry goes to its ring (R326), once the handoff has converted its stamp (R20); one the full ring drops marks
the next with LOSS. -/
def execFailLogWrite (k : Fin 8) (s : State) : Res :=
  let x := s.pb k
  match x.buf with
  | [] => ok s
  | e :: t =>
    if e.prov then ok (s.at_ (s.time.nextKeep + 32) (.failLogWrite k)) else
    let s := s.setPb k { x with buf := t }
    if !s.bit (pbR k + 0x44) 0 then ok s
    else
      let (s, stored) := s.ringPut (s.ownerVi .pb k) (pbR k + 0x44) (failBytes e)
      if stored then ok s
      else
        let x := s.pb k
        match x.buf with
        | [] => ok (s.setPb k { x with loss := true })
        | f :: u => ok (s.setPb k { x with buf := { f with flags := f.flags % 2 + 2 } :: u })

/-- A vector-segment boundary of a bank no sequencer plays (R318): its buffered registers apply. -/
def execVectorSegmentBoundary (k : Fin 8) (s : State) : Res :=
  if s.pbState k = 1 then ok s else ok (((s.catchUpFree k).boundary (bankShadow k)).applyTrims 2 k)

/-- An event at a capture unit's consumer (R328): every source bank is sampled at the start of the cycle. `levels` are its
pins' (HIGH, LOW) masks, bank by bank. -/
def execCapSnap (u : Fin 16) (levels : List (BitVec 16 × BitVec 16)) (s : State) : Res :=
  if !(s.bit (capR u) 0 && s.bit (capR u) 3) then ok s
  else
    let s := s.catchUpAll
    let ks := (List.range 8).filter fun k => s.bit (capR u) (24 + k)
    ok (s.each ks.zipIdx fun s x =>
      let (hi, lo) := if s.bit (pbR x.1 + 0xC) 0 && !s.calOn 2 x.1 then (levels[x.2]?).getD (0, 0) else (0, 0)
      s.capture u { stamp := s.now, vec := s.rd (pbR x.1 + 0x30), a := hi, b := lo, bank := s.relNum .pb x.1, flags := 1,
                    due := 0, prov := s.time.handoff } s.time.mono)

/-- A capture whose time has come goes to the unit's ring, in stamp order (R330), once the handoff has converted its stamp (R20); one the full ring
drops marks the next with LOSS. -/
def execCaptureWrite (u : Fin 16) (s : State) : Res :=
  let b := s.capBuf u
  match (b.filter fun e => decide (e.due ≤ s.time.mono)).mergeSort entLe with
  | [] => ok s
  | e :: _ =>
    if e.prov then ok (s.at_ (s.time.nextKeep + 32) (.captureWrite u)) else
    let s := s.setCapBuf u (b.erase e)
    if !s.bit (capR u) 0 then ok s
    else
      let (s, stored) := s.ringPut (s.ownerVi .pb (u / 2)) (capR u) (capBytes e)
      if stored then ok s
      else
        match (s.capBuf u).mergeSort entLe with
        | [] => ok (s.setCapLoss u true)
        | f :: t => ok (s.setCapBuf u ({ f with flags := f.flags % 2 + 2 } :: t))

/-- The band of a measured supply, with 25 mV of hysteresis on either side of each threshold (R310, log entry 26). -/
def bandOf (old mv : Nat) : Nat :=
  (([1500, 2000, 2700].zipIdx).filter fun t => decide (t.1 - (if t.2 < old then 25 else 0) + (if t.2 < old then 0 else 25) ≤ mv)).length

/-- The 1 ms measurement of VCCIOk (R310, R312): band, NO_VCCIO, the supply fault of R310, OVERRATE at a band change. -/
def execVccioMeasure (k : Fin 8) (mv : BitVec 12) (s : State) : Res :=
  if !s.bit (pbR k + 0xC) 0 then ok s
  else
    let old := s.fld (pbR k + 8) 21 20
    let b := bandOf old mv.toNat
    let s := ((s.wr (pbR k + 0x2C) (mv.setWidth 32)).wfld (pbR k + 8) 21 20 b).wpb k 11 (b == 0)
    let s := if b ≠ old ∧ s.pbState k ≠ 0 ∧ s.overRate k = true then s.wpb k 3 true else s
    if s.bit (pbR k) 0 && (decide (mv.toNat < 1700) || decide (3600 < mv.toNat)) then ok (s.after 0 .supplyFault) else ok s

/-! ### Free-running banks -/

/-- A sequencer binds the bank (R331). -/
def State.bankBound (s : State) (k : Nat) : Bool := (List.range 16).any fun q => s.bindsBank q k

/-- The reason a free-running start is refused, in the order of the codes (R331). -/
def State.freeWhy (s : State) (k : Nat) : Option Nat :=
  let d := s.validDesc (s.ownerVi .pb k) (s.fld (pbR k + 0x24) 15 0)
  if s.bankBound k then some 1
  else if !(d.any fun d => d.typ == 3 && d.banks == 0 && !d.mem) then some 2
  else if s.noStart then some 3
  else if s.overRate k then some 4
  else if !s.tsetValid k (s.fld (pbR k + 0x18) 3 0) then some 5
  else if !(s.bit (pbR k) 0 && s.bit (pbR k + 0xC) 0) then some 6
  else none

/-- A free-running start (R331, R332): the first vector leaves at the first boundary at or after acceptance + 1,536 TU. -/
def State.freeStart (s : State) (k : Nat) : State :=
  if s.pbState k ≠ 0 then s
  else
    match s.freeWhy k with
    | some w => (s.wpb k 12 true).wfld (pbR k + 8) 18 16 w
    | none =>
      let (l, j) := s.firstVector k (s.time.mono + 1536)
      let s := s.bankStart k 2
      let s := s.setPb k { s.pb k with desc := s.fld (pbR k + 0x24) 15 0, tl := l.numberFrom j, done := 0 }
      ((s.boundary (bankShadow k)).raiseRun 256).after 0 (.calAbort .start)

def execPbStart (k : Fin 8) (s : State) : Res := ok (s.freeStart k)

/-- A stop of a free-running bank halts it at the first boundary at or after acceptance + 128 TU (R332), which a mute of SYN-C
puts off until the clock restarts. -/
def State.freeStop (s : State) (k : Nat) : State :=
  let x := s.pb k
  if s.pbState k ≠ 2 then s
  else match x.stopAt with
    | some t => if t ≤ s.time.mono ∧ s.synBit 2 1 = false then ((s.catchUpFree k).stopBank k).noteStop else s
    | none =>
      let t := s.cycleOf (x.tl.at_ (x.tl.from_ (s.time.mono + 128)))
      (s.setPb k { x with stopAt := some t }).at_ t (.pbStop (Fin.ofNat 8 k))

def execPbStop (k : Fin 8) (s : State) : Res := ok (s.freeStop k)

/-- An event at consumer 100 + k (R331). -/
def execPbEvent (k : Fin 8) (s : State) : Res :=
  match s.fld (pbR k) 5 4 with
  | 0 => if s.pbState k = 2 then ok (s.freeStop k) else ok (s.freeStart k)
  | 1 => ok (s.freeStart k)
  | 2 => ok (s.freeStop k)
  | _ => ok s

/-- PBk_CMD.FAIL_CLR (R324): in a fail cycle it loses to the fail. -/
def execFailClr (k : Fin 8) (s : State) : Res :=
  if tb (s.cy (pbR k + 8)).raised 2 then ok s else ok ((s.wpb k 2 false).setPb k { s.pb k with firstArmed := true })

/-- PBk_CMD.CNT_CLR: FAILCNT and FLOG_LOST clear. -/
def execPbCntClr (k : Fin 8) (s : State) : Res := ok ((s.clrCnt (pbR k + 0x34)).clrCnt (pbR k + 0x50))

/-- A ring set by the register at `c` lies wholly in the VI's memory, with its length in range (R326, R330). -/
def State.ringOk (s : State) (v c hi : Nat) : Bool :=
  let n := s.fld c 12 8
  decide (10 ≤ n) && decide (n ≤ hi) && s.inSpace v true (s.fld c 23 16 * 0x1000000) (16 * 2 ^ n)

/-- A ring enabled out of range is refused: EN reads 0 and FLOG_ERR sets (R326, R330). -/
def State.checkRing (s : State) (k c hi : Nat) : State :=
  if s.bit c 0 && !s.ringOk (s.ownerVi .pb k) c hi then (s.wbit c 0 false).wpb k 9 true else s

/-- PBk_FLOG_CFG.EN (R326). -/
def execFlogEnable (k : Fin 8) (s : State) : Res :=
  ok ((s.wbit (pbR k + 0x44) 0 true).checkRing k (pbR k + 0x44) 20)

end Sys2Proof.Machine
end

