-- ==== Sys2Proof/Machine/Trigger.lean ====
section
/-! DEFINITION. Trigger outputs (11). Bits of TRGn_STATUS: 0 ARMED, 1 ACTIVE, 2 LATE, 3 DROPPED, 4 MERGED, 5 CUT, 6 REFUSED,
7 NOCLK. -/

namespace Sys2Proof.Machine

def State.wtrg (s : State) (n i : Nat) (b : Bool) : State := s.wbit (trgR n + 8) i b

/-- TRGn_WIDTH in TU (R334). -/
def State.trgWidth (s : State) (n : Nat) : Nat := s.fld (trgR n + 0x14) 4 0 * 2 ^ 32 + (s.rd (trgR n + 0x10)).toNat

/-- A leading edge to come at elapsed time `t`, its trailing edge WIDTH later; the output is busy until then (R335). -/
def State.addPulse (s : State) (n t : Nat) : State :=
  let e := t + s.trgWidth n
  let x := s.trg n
  (s.setTrg n { x with busyTo := max x.busyTo e, leads := x.leads ++ [(t, e)] }).at_ (s.cycleOf t)
    (.trgLeadingEdge (Fin.ofNat 8 n))

/-- The output is busy in this cycle (R335). -/
def State.trgBusy (s : State) (n : Nat) : Bool := decide (s.time.mono < (s.trg n).busyTo)

/-- An event or FIRE (R335, R338): missed while busy or while SYN-C is muted. -/
def State.eventPulse (s : State) (n : Nat) : State :=
  if !(s.bit (trgR n) 2 && s.bit (trgR n) 0) then s
  else if s.synBit 2 1 then (s.incSat (trgR n + 0x28) 1).wtrg n 7 true
  else if s.trgBusy n then s.incSat (trgR n + 0x28) 1
  else s.addPulse n (s.time.mono + 64 + (s.rd (trgR n + 0xC)).toNat)

/-- TRGn_CMD.FIRE. -/
def execFire (n : Fin 8) (s : State) : Res := ok (s.eventPulse n)

/-- An event at consumer 64 + n. -/
def execTrgEvent (n : Fin 8) (s : State) : Res := ok (s.eventPulse n)

/-- TRGn_CMD.ARM (R336): refused in SERVICE and SAFE. -/
def execTrgArm (n : Fin 8) (s : State) : Res :=
  if s.noStart then ok (s.wtrg n 6 true)
  else
    let s := s.arm (actId 5 n) (s.rd64 (trgR n + 0x18) (trgR n + 0x1C)) (s.bit (trgR n) 3) 0
    ok ((s.setTrg n { s.trg n with missed := false }).reviewMode)

/-- TRGn_CMD.DISARM. -/
def execTrgDisarm (n : Fin 8) (s : State) : Res := ok ((s.disarm (actId 5 n)).reviewMode)

/-- When a timed pulse's leading edge falls, in elapsed TU (R336, R43). -/
def State.trgEdgeAt (s : State) (n : Nat) : Nat :=
  let x := s.act (actId 5 n)
  max (s.targetAt x.target) (if x.late then x.earliest else 0)

/-- A timed pulse's target (R336). A target that passes while SYN-C is muted is taken up at the restart as a late action
(R338). -/
def execTrgTimedPulse (n : Fin 8) (s : State) : Res :=
  let a := actId 5 n
  let x := s.act a
  if !x.armed || x.defer || decide (s.time.mono + 32 ≤ s.trgEdgeAt n) then ok s
  else if s.synBit 2 1 then ok (s.setTrg n { s.trg n with missed := true })
  else if (s.trg n).missed then
    let s := (s.setTrg n { s.trg n with missed := false }).judge a x s.now
    if (s.act a).armed then ok (((s.disarm a).addPulse n s.time.mono).reviewMode) else ok s.reviewMode
  else ok (((s.disarm a).addPulse n (s.trgEdgeAt n)).reviewMode)

/-- A leading edge (R335, R337): a pulse in progress is extended with MERGED, otherwise a pulse begins and counts. Edges stand on SYN-C's
taps (R334); one that falls while SYN-C is muted is missed (R338, log entry 122). -/
def execTrgLeadingEdge (n : Fin 8) (s : State) : Res :=
  let x := s.trg n
  match x.leads.find? fun e => decide (e.1 < s.time.mono + 32) with
  | none => ok s
  | some (t, e) =>
    let x := { x with leads := x.leads.erase (t, e) }
    if s.synBit 2 1 then ok (((s.setTrg n x).incSat (trgR n + 0x28) 1).wtrg n 7 true)
    else
      let merge := s.bit (trgR n + 8) 1 && decide (t ≤ x.trail)
      let trail := if merge then max x.trail e else e
      let s := (s.setTrg n { x with trail := trail, trailTap := s.onTap (trail * 2 ^ 40), leadTap := if merge then x.leadTap else s.onTap (t * 2 ^ 40) }).at_ (s.cycleOf trail) (.trgPulseEnd n)
      if merge then ok (s.wtrg n 4 true) else ok ((s.wtrg n 1 true).incWrap (trgR n + 0x24) 1)

/-- A trailing edge. -/
def execTrgPulseEnd (n : Fin 8) (s : State) : Res :=
  if s.bit (trgR n + 8) 1 && decide ((s.trg n).trail < s.time.mono + 32) then ok (s.wtrg n 1 false) else ok s

/-- TRGn_CMD.CNT_CLR: PULSES and MISSED clear. -/
def execTrgCntClr (n : Fin 8) (s : State) : Res := ok ((s.clrCnt (trgR n + 0x24)).clrCnt (trgR n + 0x28))

end Sys2Proof.Machine
end

