-- ==== Sys2Proof/Machine/Inputs.lean ====
section
/-! DEFINITION. Inputs and keys (12): time inputs, comparators, the monitor ADC and the temperature, operator keys. -/

namespace Sys2Proof.Machine

abbrev tinR (n : Nat) : Nat := 0x2A40 + 0x10 * n
abbrev acmpR (n : Nat) : Nat := 0x2B40 + 0x10 * n
abbrev keyR (n : Nat) : Nat := 0x2BB0 + 8 * n

def State.tin (s : State) (n : Nat) : TinSt := Tab.get (fun _ => {}) s.tins n
def State.setTin (s : State) (n : Nat) (x : TinSt) : State := { s with tins := Tab.set (fun _ => {}) s.tins n x }
def State.acmp (s : State) (n : Nat) : AcmpSt := Tab.get (fun _ => {}) s.acmps n
def State.setAcmp (s : State) (n : Nat) (x : AcmpSt) : State := { s with acmps := Tab.set (fun _ => {}) s.acmps n x }
def State.key (s : State) (n : Nat) : KeySt := Tab.get (fun _ => {}) s.keys n
def State.setKeySt (s : State) (n : Nat) (x : KeySt) : State := { s with keys := Tab.set (fun _ => {}) s.keys n x }

/-- TINn_FIFO shows the window's flags and the count (R346, R347). -/
def State.showTin (s : State) (n : Nat) : State :=
  let x := s.tin n
  let w := s.wfld (tinR n + 4) 6 0 x.fifo.length
  match x.win with
  | some e => (((w.wbit (tinR n + 4) 31 true).wbit (tinR n + 4) 30 e.edge).wbit (tinR n + 4) 29 e.loss).wbit (tinR n + 4) 28 e.coarse
  | none => w.wfld (tinR n + 4) 31 28 0

/-- Push a FIFO entry (R346): a full FIFO drops it and counts. `prov`: the stamp is to be converted at the handoff. -/
def State.pushTin (s : State) (n : Nat) (stamp : Time) (edge coarse prov : Bool) : State :=
  let x := s.tin n
  let s := if x.fifo.length < 64 then
      let e : TinEnt := { stamp := stamp, edge := edge, coarse := coarse, loss := x.loss, prov := prov }
      s.setTin n { x with fifo := x.fifo ++ [e], loss := false }
    else (s.setTin n { x with loss := true }).incFld (tinR n + 4) 23 16 1
  (s.showTin n).pendOwner .tin n 26

/-- The edges that count: 0 rising, 1 falling, 2 both. -/
def polCounts (pol : Nat) (rising : Bool) : Bool := pol == 2 || (pol == 0 && rising) || (pol == 1 && !rising)

/-- The event of an edge stamped on the fast grid: lost and counted while a wake edge of the pin is held (R112), held itself for a
wake pin until FAB runs (R111), and in Rennet otherwise. -/
def State.tinEvent (s : State) (n : Nat) (stamp : Time) (prov : Bool) : State :=
  let h : HeldSrc := .tin (Fin.ofNat 4 n)
  if decide (n < 4) && s.fab.heldP.any (fun e => e.1 == h) then s.wakeOvr n
  else s.assertSrc { s.srcOf (64 + n) stamp with prov := prov }

/-- An edge of a wake pin that may wake the device (R109). -/
def State.tinWakes (s : State) (n : Nat) (rising : Bool) : Bool := decide (n < 4) && s.bit 0x42C n && rising != s.bit 0x42C (4 + n)

/-- An edge that counts, in its cycle 0 (R344): it fires, is queued and counted. -/
def State.tinCounts (s : State) (n : Nat) (stamp : Time) (rising prov : Bool) : State :=
  let s := (s.tinEvent n stamp prov).pushTin n stamp rising false prov
  s.setTin n { s.tin n with cnt := (s.tin n).cnt + 1 }

/-- The filtered level of an input takes a new level (R341 to R344): the edge carries the stamp of the last raw edge into it, and counts
with EN = 1 and its polarity chosen. An edge that was not stamped is lost (R186, R348). -/
def State.tinFiltered (s : State) (n : Nat) (rising : Bool) (stamp : Option (Time × Bool)) : State :=
  let s := (s.setTin n { s.tin n with run := 0 }).wbit (tinR n + 4) 7 rising
  match stamp with
  | some (t, prov) =>
    if s.bit (tinR n) 0 && polCounts (s.fld (tinR n) 3 2) rising then s.tinCounts n t rising prov else s
  | none => s

/-- A raw edge while FCLK runs (R342, R343): with FILT = 0 the filtered level follows it in its cycle. -/
def State.tinRaw (s : State) (n : Nat) (rising : Bool) (stamp : Time) : State :=
  let at_ := some (stamp, s.time.handoff)
  let s := s.setTin n { s.tin n with raw := rising, rawAt := at_ }
  if s.fld (tinR n) 13 8 = 0 ∧ rising ≠ s.bit (tinR n + 4) 7 then s.tinFiltered n rising at_ else s

/-- The sample of an input at the start of an FCLK cycle (R342): the F-th in a row that differs from the filtered level changes it. -/
def State.tinSample (s : State) (n : Nat) : State :=
  let x := s.tin n
  if x.raw = s.bit (tinR n + 4) 7 then (if x.run = 0 then s else s.setTin n { x with run := 0 })
  else if s.fld (tinR n) 13 8 ≤ x.run + 1 then s.tinFiltered n x.raw x.rawAt
  else s.setTin n { x with run := x.run + 1 }

/-- A raw edge at a time input (R341 to R345, R348). One of a wake pin during a descent also asks for the wake that follows it
(R115). With FCLK stopped the level changes and no edge is stamped (R186). Of a raw pulse shorter than 2 ns, with FILT = 0, the stamper
gives both edges or neither: a free value says which (R345, log entry 130); the second edge comes in its own cycle. -/
def execTinEdge (n : Fin 16) (rising : Bool) (e : RawEdge) (s : State) : Res :=
  if !s.time.fclk then ok (s.setTin n { s.tin n with raw := rising != e.back.isSome, rawAt := none })
  else
    let s := match s.mode.trans with
      | .descent _ => if s.tinWakes n rising then s.wakeBy (.tin (Fin.ofNat 4 n)) else s
      | _ => s
    match e.back with
    | none => ok (s.tinRaw n rising e.at_)
    | some b =>
      if s.fld (tinR n) 13 8 = 0 ∧ (Config.openWord 11 s.free).toNat % 2 = 0 then ok s.fresh
      else ok ((s.fresh.tinRaw n rising e.at_).after ((b - s.now).toNat / 32 % 4 * s.cycleTu) (.tinEdge n (!rising) ⟨b, none⟩))

/-- A wake-pin edge in SHELF or LISTEN (R109, R111, R348): a pulse shorter than 100 ns is ignored; any other is stamped with the count of
the next keeper edge, with COARSE_WAKE (R30), queued, its event held, and the device wakes. -/
def execTinWakeEdge (n : Fin 4) (e : WakeEdge) (s : State) : Res :=
  if s.awake || s.time.fclk || !s.tinWakes n e.rising || decide (e.lasts < 2560) then ok s
  else
    let s := s.setTin n { s.tin n with raw := e.rising, rawAt := none }
    let s := ((s.pushTin n s.keepNext e.rising true false).holdProd (.tin n) s.keepNext n).wbit 0x504 7 true
    ok (s.wakeBy (.tin n))

/-- TIN_CMD.FIFO_CLR (R347). -/
def execFifoClr (n : Fin 16) (s : State) : Res := ok ((s.setTin n { s.tin n with fifo := [], win := none }).showTin n)

/-- TIN_CMD.CNT_CLR: TINn_CNT and LOST clear. -/
def execTinCntClr (n : Fin 16) (s : State) : Res :=
  ok ((s.setTin n { s.tin n with cnt := 0 }).clrFld (tinR n + 4) 23 16)

/-! ### Comparators -/

/-- The output of a comparator before its filter (R349), with CODE, HYST and the voltages in force: V_TH is CODE · VCCIO_T / 1,024, and
the output moves when the pin leaves V_TH by half the hysteresis. -/
def State.acmpOut (s : State) (n : Nat) : Bool :=
  let x := s.acmp n
  let th := 2 * s.fld (acmpR n) 10 1 * x.vccio
  let h := 1024 * ([0, 10000, 25000, 50000][s.fld (acmpR n) 17 16]?).getD 0
  if th + h < 2048 * x.uv then true else if 2048 * x.uv + h < th then false else x.out

/-- The comparator runs and is settled (R351). -/
def State.acmpLive (s : State) (n : Nat) : Bool :=
  s.awake && s.bit (acmpR n) 0 && (s.acmp n).live.any fun t => decide (t ≤ s.time.mono)

/-- The filtered output of a comparator changes (R350): a crossing of the chosen polarity fires and counts. -/
def State.acmpFiltered (s : State) (n : Nat) (rising : Bool) : State :=
  let s := (s.setAcmp n { s.acmp n with run := 0 }).wbit (acmpR n + 4) 0 rising
  if polCounts (s.fld (acmpR n) 19 18) rising then (s.fireP (80 + n)).incWrap (acmpR n + 8) 1 else s

/-- A comparator at the start of an FCLK cycle (R350, R351): it begins to run and reads 0 for 1 µs; then its output, with what was
written to CODE and HYST in the cycle before, passes the filter of R342. One that may not run reads 0. The first
settled output passes the filter as any other (DESIGN CHOICE, log entry 123). -/
def State.acmpSample (s : State) (n : Nat) : State :=
  let x := s.acmp n
  let low (s : State) : State := if s.bit (acmpR n + 4) 0 then s.wbit (acmpR n + 4) 0 false else s
  if !s.awake || !s.bit (acmpR n) 0 then
    low (s.setAcmp n { x with out := false, run := 0, live := none })
  else if x.live.isNone then low (s.setAcmp n { x with out := false, run := 0, live := some (s.time.mono + us 1) })
  else if !s.acmpLive n then s
  else
    let o := s.acmpOut n
    let s := s.setAcmp n { x with out := o }
    if o = s.bit (acmpR n + 4) 0 then s.setAcmp n { x with out := o, run := 0 }
    else if s.fld (acmpR n) 25 20 ≤ x.run + 1 then s.acmpFiltered n o
    else s.setAcmp n { x with out := o, run := x.run + 1 }

/-- The voltage at a comparator's pin changes (R349, R350): with FILT = 0 the filtered output follows in this cycle. With FCLK stopped its
event is lost (R186; log entry 123). -/
def execAcmpCrossing (n : Fin 4) (v : AcmpVolts) (s : State) : Res :=
  let s := s.setAcmp n { s.acmp n with uv := v.uv, vccio := v.vccio }
  if !s.acmpLive n then ok s
  else
    let o := s.acmpOut n
    let s := s.setAcmp n { s.acmp n with out := o }
    if s.fld (acmpR n) 25 20 ≠ 0 ∨ o = s.bit (acmpR n + 4) 0 then ok s
    else if s.time.fclk then ok (s.acmpFiltered n o)
    else ok (s.wbit (acmpR n + 4) 0 o)

/-- The samples of the pins at the start of an FCLK cycle. -/
def State.samplePins (s : State) : State :=
  (s.each (List.range 16) State.tinSample).each (List.range 4) State.acmpSample

/-! ### Monitor ADC and temperature -/

/-- A user conversion that is still queued completes no more. -/
def State.madcDrop (s : State) : State :=
  { s with agenda := s.agenda.filter fun e => match e.2 with
      | .madcDone _ => false
      | _ => true }

/-- A foreground calibration has taken the monitor ADC (R352, R392). -/
def State.madcTaken (s : State) : Bool := s.cal.run.any fun r => r.2.1 == 1 || r.2.1 == 4

/-- MADC_CMD.GO (R352): refused while a conversion is queued, or for a reserved channel. It completes within 10 µs: at their end with
a free value, where no measured value has come before (log entry 125). -/
def execMadcGo (ch : BitVec 5) (s : State) : Res :=
  if s.bit 0x2B84 30 then ok (s.wbit 0x2B84 29 true)
  else if 27 ≤ ch.toNat then ok (s.wbit 0x2B84 28 true)
  else ok ((((s.fresh.wbit 0x2B84 30 true).wfld 0x2B84 20 16 ch.toNat).madcDrop).after (us 10)
    (.madcDone ((Config.openWord 12 s.free).setWidth 16)))

/-- A user conversion completes (R352); it waits while a foreground calibration has the monitor ADC. -/
def execMadcDone (value : BitVec 16) (s : State) : Res :=
  let s := s.madcDrop
  if s.bit 0x2B84 30 && s.madcTaken then ok (s.after s.cycleTu (.madcDone value))
  else if s.bit 0x2B84 30 then ok (((s.wbit 0x2B84 30 false).wbit 0x2B84 31 true).wfld 0x2B84 15 0 value.toNat) else ok s

/-- The 1 ms temperature update while awake (R353), which also evaluates the THERM cause of R120: 140 °C and 135 °C. -/
def execTempUpdate (temp : BitVec 16) (s : State) : Res :=
  if !s.awake then ok s
  else
    let old := sext 16 (s.fld 0x2B88 15 0)
    let t := temp.toInt
    let s := s.wr 0x2B88 (temp.setWidth 32)
    let s := if s.peakTaken || decide (sext 16 (s.fld 0x2B8C 15 0) < t) then s.wr 0x2B8C (temp.setWidth 32) else s
    let s := { s with peakTaken := false }
    let s := if 2240 ≤ t ∧ old < 2240 then s.after 0 .thermalWarning else s.safeEval
    if t < 2160 ∧ s.bit 0x418 0 = true then ok (s.after 0 (.safeCauseCleared 0)) else ok s

/-! ### Operator keys (R354 to R356) -/

/-- A division whose rounding the spec does not state: down or up, a free value, unless it is exact (log entry 27). -/
def openDiv (a : Int) (b : Nat) (n : Nat) : Int :=
  if a % b = 0 then a / b else a / b + ((Config.openWord 6 n).toNat % 2 : Nat)

def State.wkey (s : State) (n i : Nat) (b : Bool) : State := s.wbit (keyR n + 4) i b

/-- A touch is declared (R356): awake it fires; asleep it wakes the device and is held, or sets TOUCH_SEEN. -/
def State.keyTouch (s : State) (n : Nat) : State :=
  let f : Fin 6 := Fin.ofNat 6 n
  let s := (s.wkey n 0 true).setKeySt n { s.key n with since := s.time.mono }
  let held := s.fab.heldP.any fun e => e.1 == .key f
  if s.time.fclk && (s.awake || held) then
    let s := if held then s.wakeOvr (8 + n) else s.fireP (84 + n)
    let s := s.pendOwner .key n 25
    match s.mode.trans with
    | .descent _ => if s.wakeAllowed .key then s.wakeBy .key else s
    | _ => s
  else if s.wakeAllowed .key then ((s.holdProd (.key f) s.keepNext (8 + n)).wakeBy .key).pendOwner .key n 25
  else s.wkey n 4 true

/-- A touch has lasted longer than MAX_ON seconds (R355). -/
def State.tooLong (s : State) (n : Nat) : Bool := decide ((s.key n).since + s.fld 0x2BA0 28 16 * ms 1000 < s.time.mono)

/-- One key at a scan with raw count `r` (R355). A touch that has lasted too long is declared stuck at the scan, unless the scan finds it
released. -/
def State.scanKey (s : State) (n : Nat) (r : Int) : State :=
  if !s.bit (keyR n) 0 then s
  else
    let x := { s.key n with raw := r }
    if s.bit (keyR n + 4) 1 then
      let l := x.learn ++ [r]
      if l.length < 4 then s.setKeySt n { x with learn := l }
      else (s.fresh.setKeySt n { x with learn := [], base := openDiv l.sum 4 s.free }).wkey n 1 false
    else
      let th : Int := s.fld (keyR n) 31 16
      let ng : Int := s.fld (keyR n) 15 1
      let d := r - x.base
      let s := s.wfld (keyR n + 4) 31 16 (BitVec.ofInt 16 (sat16 d)).toNat
      if s.bit (keyR n + 4) 0 then
        if 2 * d < th then (s.setKeySt n { x with deb := 0 }).wkey n 0 false
        else
          let s := s.setKeySt n x
          if s.tooLong n then s.after 0 (.keyStuck (Fin.ofNat 6 n)) else s
      else if th ≤ d then
        let x := { x with deb := x.deb + 1, neg := none }
        if s.fld 0x2BA0 2 1 + 1 ≤ x.deb then (s.setKeySt n { x with deb := 0 }).keyTouch n else s.setKeySt n x
      else if d ≤ -ng then
        match x.neg with
        | none => s.setKeySt n { x with deb := 0, neg := some s.time.mono }
        | some t =>
          if t + ms 200 ≤ s.time.mono then (s.setKeySt n { x with deb := 0, neg := none, base := r }).wkey n 3 true
          else s.setKeySt n { x with deb := 0 }
      else s.setKeySt n { x with deb := 0, neg := none }

/-- A key scan (R354): every enabled key; in SHELF only with SHELF_KEYS. `raw` are the raw counts of KEY0 to KEY5. -/
def execKeyScan (raw : List Int) (s : State) : Res :=
  if s.mode.eff = .shelf ∧ s.bit 0x410 25 = false then ok s
  else ok (s.each (raw.take 6).zipIdx fun s x => s.scanKey x.2 x.1)

/-- The next drift comes 500 ms after the last, or after the first key was enabled. -/
def State.driftAgain (s : State) : State := (s.cancel .keyBaselineDrift).after (ms 500) .keyBaselineDrift

/-- The drift of released keys' baselines, every 500 ms while a key is enabled (R355). -/
def execKeyBaselineDrift (s : State) : Res :=
  let s := if (List.range 6).any fun n => s.bit (keyR n) 0 then s.driftAgain else s
  ok (s.each (List.range 6) fun s n =>
    let x := s.key n
    let d := x.raw - x.base
    if s.bit (keyR n) 0 && !s.bit (keyR n + 4) 1 && !s.bit (keyR n + 4) 0 &&
        decide (-(s.fld (keyR n) 15 1 : Int) < d) && decide (d < (s.fld (keyR n) 31 16 : Int)) then
      s.fresh.setKeySt n { x with base := x.base + openDiv d 16 s.free }
    else s)

/-- A touch that has lasted longer than MAX_ON (R355): stuck, once; the baseline is re-learned and the key reports
released. -/
def execKeyStuck (n : Fin 6) (s : State) : Res :=
  let x := s.key n
  if s.bit (keyR n + 4) 0 && s.tooLong n then
    let s := (((s.wbit 0x2BA4 n true).wkey n 2 true).wkey n 0 false).setKeySt n { x with base := x.raw, deb := 0, neg := none }
    ok ((s.fireP 174).pendOwner .key n 25)
  else ok s

/-- KEYn_CFG.EN rises: learning starts (R355). -/
def State.keyEnable (s : State) (n : Nat) : State :=
  let s := ((s.setKeySt n {}).wr (keyR n + 4) 0).wkey n 1 true
  if s.agenda.any fun e => e.2 == .keyBaselineDrift then s else s.driftAgain

end Sys2Proof.Machine
end

