-- ==== Sys2Proof/Machine/Scanout.lean ====
section
/-! DEFINITION. Scan-out (13): the timing generator, frame starts, frame buffers and colour conversion, CRCs over
rectangles, register packets, starts and stops. Bits of DISP_STATUS: [1:0] STATE, 9 CFG_BUSY, 10 REFUSED, 11 OVERDRAW, 12
NOCLK, 13 PKT_BUSY, 14 PKT_ERR, 15 RECT_ERR, [19:16] REFUSE_WHY. Bits of DSIx_STATUS: 0 RUNNING, 2 GO_PENDING, 3 UNDERRUN, 4
FB_ERR, 5 QFULL, 6 LATE, 7 DROPPED, [11:8] FB_WHY. -/

namespace Sys2Proof.Machine

/-- DISP_STATUS and DSIx_STATUS. -/
def State.wdisp (s : State) (i : Nat) (b : Bool) : State := s.wbit 0x2C08 i b
def State.wdsi (s : State) (l i : Nat) (b : Bool) : State := s.wbit (dsiR l + 0x14) i b
/-- The VI that owns the scan-out. -/
def State.dispVi (s : State) : Nat := s.ownerVi .misc 0

/-! ### Timing (R359, R368, R369) -/

def State.hact (s : State) : Nat := s.fld 0x2C0C 12 0
def State.htotal (s : State) : Nat := s.fld 0x2C0C 28 16
def State.hstart (s : State) : Nat := s.fld 0x2C10 12 0
def State.vstart (s : State) : Nat := s.fld 0x2C14 23 16
def State.vact (s : State) : Nat := s.fld 0x2C14 12 0
def State.blankMin (s : State) : Nat := s.fld 0x2C18 15 0
def State.blankMax (s : State) : Nat := s.fld 0x2C18 31 16
/-- N_min and N_max. -/
def State.nMin (s : State) : Nat := s.vstart + s.vact + s.blankMin
def State.nMax (s : State) : Nat := s.vstart + s.vact + s.blankMax
def State.bpp (s : State) : Nat := if s.bit 0x2C00 6 then 30 else 24
def State.lanes (s : State) : Nat := s.fld 0x2C00 9 8 + 1

/-- The period of SYN-D's output as a ratio of TU. -/
def State.synD (s : State) : Nat × Nat := s.outPeriod 3
/-- The link pixel time (R359), and a unit interval, as ratios of TU. -/
def State.pixelTu (s : State) : Nat × Nat := (s.bpp * s.synD.1, 2 * s.lanes * s.synD.2)
def State.uiTu (s : State) : Nat × Nat := (s.synD.1, 2 * s.synD.2)
/-- f_bit is above 1.5 Gbit/s: a unit interval is shorter than 1/1.5 ns. -/
def State.skewRate (s : State) : Bool := decide (s.uiTu.1 * 1500000000 < 25600000000 * s.uiTu.2)

/-- The line boundary in this cycle, if there is one. -/
def State.lineNow (s : State) : Option Nat :=
  let j := s.disp.tl.from_ s.time.mono
  if s.disp.tl.at_ j < s.time.mono + s.cycleTu then some j else none

/-- The number of line boundaries up to now: the line in progress is one less. -/
def State.linesBegun (s : State) : Nat := s.disp.tl.from_ (s.time.mono + 1)

/-- The link's frame line at boundary `j` (R369), and whether it is a blanking line: every line of the notional frame is. -/
def LinkSt.line (x : LinkSt) (j : Nat) : Nat := j - x.line0
def State.blankLine (s : State) (l j : Nat) : Bool :=
  let x := s.lk l
  x.notional || decide (s.vstart + s.vact ≤ x.line j)

/-- The link sends an active line now (R369); in command mode a timeout start sends none (R377). -/
def State.linkActive (s : State) (l : Nat) : Bool :=
  let x := s.lk (s.qLink l)
  let i := x.line (s.linesBegun - 1)
  (s.lk l).running && !x.notional && x.sent && !s.synBit 3 1 && decide (0 < s.linesBegun) && decide (s.vstart ≤ i)
    && decide (i < s.vstart + s.vact)

/-! ### Frame buffers (R362 to R364) -/

/-- The fields of a frame-buffer descriptor. -/
structure FbDesc where
  w0 : Nat
  stride : Nat
  a0 : Nat
  a1 : Nat
  a2 : Nat
  res : Bool
  exp : List Nat
  deriving DecidableEq, Repr

def parseFb (b : List Byte) : FbDesc :=
  let u (o : Nat) : Nat := leNat ((b.drop o).take 4)
  { w0 := u 0, stride := u 4, a0 := u 8, a1 := u 12, a2 := u 16,
    res := ((b.drop 24).take 8).any (· != 0) || (b.drop 48).any (· != 0), exp := [u 32, u 36, u 40, u 44] }
def FbDesc.fmt (d : FbDesc) : Nat := d.w0 % 16
def FbDesc.mem (d : FbDesc) : Bool := d.w0 / 16 % 2 == 1
def FbDesc.planes (d : FbDesc) : Nat := d.w0 / 256 % 32

/-- The frame's width and height (R363). -/
def State.frameW (s : State) : Nat := if s.lock2 then 2 * s.hact - s.fld 0x2C00 26 20 else s.hact

/-- The planes of a descriptor: address, bytes of a line, lines (R363). -/
def FbDesc.plane (d : FbDesc) (w h : Nat) : List (Nat × Nat × Nat) :=
  match d.fmt with
  | 0 => [(d.a0, w, h)]
  | 1 => [(d.a0, 2 * w, h)]
  | 2 => [(d.a0, w, h), (d.a1, w, h / 2)]
  | 3 => [(d.a0, w, h), (d.a1, w, h)]
  | 4 => [(d.a0, w, h), (d.a1, w, h), (d.a2, w, h)]
  | 5 => (List.range d.planes).map fun i => (d.a0 + i * d.a1, (w + 31) / 32 * 4, h)
  | _ => []

/-- The code of the first check of R364 a descriptor fails, 0 for none. -/
def State.fbWhy (s : State) (v : Nat) (d : FbDesc) : Nat :=
  let w := s.frameW
  let h := s.vact
  let ps := d.plane w h
  let used1 : Bool := [2, 3, 4, 5].contains d.fmt
  if 5 < d.fmt then 1
  else if d.w0 / 32 % 8 ≠ 0 ∨ d.w0 / 8192 ≠ 0 ∨ d.res = true ∨ (!used1 && d.a1 != 0) = true ∨ (d.fmt ≠ 4 ∧ d.a2 ≠ 0) then 2
  else if d.a0 % 32 ≠ 0 ∨ d.a1 % 32 ≠ 0 ∨ d.a2 % 32 ≠ 0 then 3
  else if ps.any fun p => !s.inSpace v d.mem p.1 (d.stride * p.2.2) then 4
  else if d.stride % 32 ≠ 0 ∨ ps.any (fun p => decide (d.stride < p.2.1)) = true then 5
  else if (if d.fmt = 5 then d.planes = 0 ∨ s.bpp < d.planes else d.planes ≠ 0) then 6
  else if d.fmt = 2 ∧ (w % 2 ≠ 0 ∨ h % 2 ≠ 0) then 7
  else 0

/-! ### Colour conversion (R365 to R367) -/

/-- Coefficient `k` of the matrix in row order, and offset `k` of IOFS Y, Cb, Cr, OOFS R, G, B. -/
def State.cscM (s : State) (k : Nat) : Int := sext 16 (s.fld (0x2C34 + 4 * (k / 2)) (16 * (k % 2) + 15) (16 * (k % 2)))
def State.cscO (s : State) (k : Nat) : Int := sext 11 (s.fld (0x2C48 + 4 * (k / 2)) (16 * (k % 2) + 10) (16 * (k % 2)))

/-- One output component (R365). -/
def State.cscOut (s : State) (i : Nat) (y cb cr : Nat) : Nat :=
  let t (j : Nat) (v : Nat) : Int := s.cscM (3 * i + j) * ((v : Int) + s.cscO j)
  (max 0 (min 1023 ((t 0 y + t 1 cb + t 2 cr + 2048) / 4096 + s.cscO (3 + i)))).toNat

/-- The link pixel of a 10-bit colour (R360, R365). -/
def State.packRgb (s : State) (r g b : Nat) : Nat :=
  if s.bit 0x2C00 6 then r * 2 ^ 20 + g * 2 ^ 10 + b
  else
    let q (c : Nat) : Nat := min 255 ((c + 2) / 4)
    q r * 65536 + q g * 256 + q b

/-- The background pixel (R382). -/
def State.bgPixel (s : State) : Nat := s.packRgb (s.fld 0x2C20 29 20) (s.fld 0x2C20 19 10) (s.fld 0x2C20 9 0)

/-- The link pixel of frame column `x` and line `y` (R363, R365, R367). -/
def State.fbPixel (s : State) (v : Nat) (d : FbDesc) (x y : Nat) : Nat :=
  let at_ (base ln o n : Nat) : Nat := leNat (s.loadVi v d.mem (base + d.stride * ln + o) n)
  let ycc (a b c : Nat) : Nat := s.packRgb (s.cscOut 0 a b c) (s.cscOut 1 a b c) (s.cscOut 2 a b c)
  match d.fmt with
  | 0 => ycc (4 * at_ d.a0 y x 1) 512 512
  | 1 => ycc (at_ d.a0 y (2 * x) 2 % 1024) 512 512
  | 2 => ycc (4 * at_ d.a0 y x 1) (4 * at_ d.a1 (y / 2) (x / 2 * 2) 1) (4 * at_ d.a1 (y / 2) (x / 2 * 2 + 1) 1)
  | 3 => ycc (4 * at_ d.a0 y x 1) (4 * at_ d.a1 y (x / 2 * 2) 1) (4 * at_ d.a1 y (x / 2 * 2 + 1) 1)
  | 4 => ycc (4 * at_ d.a0 y x 1) (4 * at_ d.a1 y x 1) (4 * at_ d.a2 y x 1)
  | _ => bitsNat ((List.range s.bpp).map fun b =>
      if b < d.planes then at_ (d.a0 + b * d.a1) y (x / 32 * 4) 4 / 2 ^ (x % 32) % 2 == 1 else s.bit 0x2C24 b)

/-- The bytes a link pixel contributes to a CRC (R360, R383). -/
def State.pixelBytes (s : State) (p : Nat) : List Byte :=
  if s.bit 0x2C00 6 then natBytes 4 p
  else [BitVec.ofNat 8 (p / 65536 % 256), BitVec.ofNat 8 (p / 256 % 256), BitVec.ofNat 8 (p % 256)]

/-! ### CRCs over rectangles (R383, R384) -/

/-- One byte into a running CRC-32 of R383. -/
def crc32Byte (c : Nat) (b : Byte) : Nat :=
  (List.range 8).foldl (fun c _ => if c % 2 = 1 then (c / 2) ^^^ 0xEDB88320 else c / 2) (c ^^^ b.toNat)

/-- The pixel sent at column `x` of active line `y` of link `l`: background in a frame without a valid buffer, or that SAFE has made
background, and from the column at which the line in progress underran. -/
def State.sentPixel (s : State) (l x y : Nat) (ur : Option Nat) : Nat :=
  let k := s.lk (s.qLink l)
  let missing := match ur with
    | some c => decide (c ≤ x)
    | none => false
  if k.bg || !k.bufOk || missing then s.bgPixel
  else
    let fx := if s.lock2 && l == 1 then x + s.hact - s.fld 0x2C00 26 20 else x
    s.fbPixel s.dispVi (parseFb k.desc) fx y

/-- Take the next line of a rectangle into its CRC. -/
def State.rectLine (s : State) (r : RectRun) : RectRun :=
  let y := r.y + r.done
  let ur := (s.lk r.link).ur
  let c := (List.range r.w).foldl (fun c i => (s.pixelBytes (s.sentPixel r.link (r.x + i) y ur)).foldl crc32Byte c) r.crc
  { r with crc := c, done := r.done + 1 }

/-- The bytes that `n` columns of frame line `y` are made of, from column `x` on: addresses in the buffer's space, and lengths (R363). -/
def FbDesc.lineReads (d : FbDesc) (x y n : Nat) : List (Nat × Nat) :=
  let at_ (base ln o m : Nat) : Nat × Nat := (base + d.stride * ln + o, m)
  let c := x / 2 * 2
  match d.fmt with
  | 0 => [at_ d.a0 y x n]
  | 1 => [at_ d.a0 y (2 * x) (2 * n)]
  | 2 => [at_ d.a0 y x n, at_ d.a1 (y / 2) c (x + n - c)]
  | 3 => [at_ d.a0 y x n, at_ d.a1 y c (x + n - c)]
  | 4 => [at_ d.a0 y x n, at_ d.a1 y x n, at_ d.a2 y x n]
  | _ => (List.range d.planes).map fun i => at_ (d.a0 + i * d.a1) y (x / 32 * 4) ((x + n + 31) / 32 * 4 - x / 32 * 4)

/-- The line of link `l` that ends at boundary `j`, if it was an active one, has been read from its buffer (R193, R364). -/
def State.readLine (s : State) (j l : Nat) : State :=
  let k := s.lk (s.qLink l)
  let i := k.line (j - 1)
  if s.mem.errs.isEmpty || !(s.lk l).running || k.notional || !k.sent || k.bg || !k.bufOk || decide (i < s.vstart) ||
      decide (s.vstart + s.vact ≤ i) then s
  else
    let d := parseFb k.desc
    let x := if s.lock2 && l == 1 then s.hact - s.fld 0x2C00 26 20 else 0
    s.each (d.lineReads x (i - s.vstart) s.hact) fun s r => s.readVi s.dispVi d.mem r.1 r.2

/-- At line boundary `j` the line that ends has been sent in full: rectangles that cover it take it in, and its underrun
is over. In SAFE the lines from here to the frame's end are background (R121, log entry 120). -/
def State.foldLines (s : State) (j : Nat) : State :=
  let s := (s.readLine j 0).readLine j 1
  let rs := s.disp.rects.map fun r =>
    let i := (s.lk (s.qLink r.link)).line (j - 1)
    if r.done < r.h ∧ i = s.vstart + r.y + r.done then s.rectLine r else r
  let s := { s with disp := { s.disp with rects := rs } }
  let safe := s.mode.eff == .safe
  s.each [0, 1] fun s l => s.setLk l { s.lk l with ur := none, bg := (s.lk l).bg || safe }

/-- The elapsed time at which the last pixel of a rectangle has been sent, in the frame that began at boundary `j`. -/
def State.rectEnd (s : State) (j : Nat) (r : RectRun) : Nat :=
  let l := s.disp.tl
  l.at_ (j + s.vstart + r.y + r.h - 1) + (s.hstart + r.x + r.w) * l.num / (l.den * max 1 s.htotal)

/-- Latch the rectangles of a link, or under dual-link lock of both, for a frame (R381, R383). -/
def State.latchRects (s : State) (l : Nat) : State :=
  let mine (k : Nat) : Bool := k == l || s.lock2
  let keep := s.disp.rects.filter fun r => !mine r.link
  let all := ((List.range 4).filter fun n => s.bit (0x2D08 + 0x10 * n) 0).map fun n =>
    let b := 0x2D00 + 0x10 * n
    ({ n := n, link := s.fld (b + 8) 2 2, x := s.fld b 12 0, y := s.fld b 28 16, w := s.fld (b + 4) 12 0,
       h := s.fld (b + 4) 28 16, chk := s.bit (b + 8) 1, crc := 0xFFFFFFFF, done := 0 } : RectRun)
  let all := all.filter fun r => mine r.link
  let bad (r : RectRun) : Bool := decide (s.hact < r.x + r.w) || decide (s.vact < r.y + r.h)
  let s := if all.any bad then s.wdisp 15 true else s
  let good := all.filter fun r => !bad r && decide (0 < r.w) && decide (0 < r.h)
  { s with disp := { s.disp with rects := keep ++ good } }

/-- The last pixel of a rectangle is sent in this cycle, or was before. -/
def State.rectDue (s : State) (r : RectRun) : Bool :=
  decide (r.h ≤ r.done + 1) && decide (s.cycleOf (s.rectEnd (s.lk (s.qLink r.link)).line0 r) ≤ s.time.mono)

/-- The last pixel of an enabled rectangle is sent (R384): the CRC is written, and compared. -/
def execRectCrc (n : Fin 4) (s : State) : Res :=
  match s.disp.rects.find? fun r => r.n == n.val && s.rectDue r with
  | none => ok s
  | some r =>
    let r' := if r.done < r.h then s.rectLine r else r
    let crc := BitVec.ofNat 32 (r'.crc ^^^ 0xFFFFFFFF)
    let s := ({ s with disp := { s.disp with rects := s.disp.rects.filter (· ≠ r) } }).wr (0x2D0C + 0x10 * n) crc
    let k := s.lk (s.qLink r.link)
    let want := ((parseFb k.desc).exp[n.val]?).getD 0
    if r.chk && k.bufOk && !k.bg && s.mode.eff != .safe && crc.toNat != want then
      let s := (s.wbit 0x2D40 n true).wr 0x2D44 (s.rd (dsiR (s.qLink r.link) + 0x18))
      ok (((s.incSat 0x2D48 1).fireP 92).pendOwner .misc 0 21)
    else ok s

/-! ### Overdraw (R379) -/

/-- The memory bytes of an active line of a link, doubled. -/
def State.lineBytes2 (s : State) (l : Nat) : Nat :=
  let k := s.lk (s.qLink l)
  let d := parseFb k.desc
  if !(s.lk l).running || k.buf.isNone || !k.bufOk || !d.mem then 0
  else
    let w := s.hact
    match d.fmt with
    | 0 => 2 * w
    | 1 => 4 * w
    | 2 => 3 * w
    | 3 => 4 * w
    | 4 => 6 * w
    | _ => 2 * d.planes * ((w + 31) / 32 * 4)

/-- OVERDRAW sets when the links' line demands exceed the class by more than 0.5 %. -/
def State.checkDraw (s : State) : State :=
  let b := s.lineBytes2 0 + s.lineBytes2 1
  if decide (classMBps (s.fld 0x2C00 31 28) * 1000000 * 1005 * s.disp.tl.num * 2 < b * 25600000000 * s.disp.tl.den * 1000) then
    s.wdisp 11 true
  else s

/-! ### Frame starts (R371, R372, R374 to R377) -/

/-- The keys of the scan-out's buffered registers. -/
def dispShadow (k : Nat) : Bool := 0x2C00 ≤ k && k < 0x3000

/-- The link whose frame lines DISP_APPLY counts (R381). -/
def State.applyLink (s : State) : Nat := if (s.lk 0).running then 0 else 1

/-- The head of a queue, as far as a frame start may take it: none in SAFE. -/
def State.frameHead (s : State) (l : Nat) : Option QEnt := if s.mode.eff = .safe then none else (s.dsiQ l).head?

/-- The due moment of a timed entry in elapsed TU (R375). -/
def State.entryDue (s : State) (l slot : Nat) : Nat :=
  let x := s.act (qAct l slot)
  max (s.targetAt x.target) (if x.late then x.earliest else 0)

/-- Why a frame starts at boundary `j` at elapsed time `t` (R371): 1 timed, 2 FRAME_GO, 3 timeout, 0 it does not;
4 the repeat that ends a D-PHY deskew (R393). -/
def State.frameWhy (s : State) (l j t : Nat) : Nat :=
  let x := s.lk l
  let i := x.line j
  if !x.running || s.synBit 3 1 || (s.lock2 && l == 1) || s.calOn 3 l || (s.lock2 && s.calOn 3 1) then 0
  else if s.cal.resume.getLsbD l && s.blankLine l j then 4
  else if i < s.nMin then 0
  else
    let timed := match s.frameHead l with
      | some { slot := some k, .. } => !(s.act (qAct l k)).defer && decide (s.entryDue l k ≤ t)
      | _ => false
    let go := match x.go with
      | some a => decide (a + 128 ≤ t)
      | none => false
    if timed then 1 else if go then 2 else if s.nMax ≤ i then 3 else 0

/-- The head is taken: its slot is free, and its descriptor is validated and in force (R364, R372). -/
def State.takeEntry (s : State) (l : Nat) (e : QEnt) : State :=
  let s := s.setDsiQ l ((s.dsiQ l).drop 1)
  let s := match e.slot with
    | some k => (s.disarm (qAct l k)).reviewMode
    | none => s
  let v := s.dispVi
  let s := s.readVi v false (s.fld 0x2C28 24 0 + 64 * e.fb) 64
  let b := s.loadVi v false (s.fld 0x2C28 24 0 + 64 * e.fb) 64
  let why := s.fbWhy v (parseFb b)
  let s := s.setLk l { s.lk l with buf := some e.fb, desc := b, bufOk := why == 0 }
  let s := if why = 0 then s else (s.wdsi l 4 true).wfld (dsiR l + 0x14) 11 8 why
  (s.fireP 97).checkDraw

/-- A frame that starts at boundary `j` applies the shadows: the frame before it has not reached line DISP_APPLY.LINE, or the line is the
start itself (R381, log entry 119). -/
def State.applyEarly (s : State) (l j : Nat) : Bool :=
  s.fld 0x2C1C 15 0 == 0 || decide ((s.lk l).line j ≤ s.fld 0x2C1C 15 0)

/-- A frame starts at boundary `j`, at elapsed time `t`, for a reason of R371. The high word of FS_TIME waits at the
unlisted offset +0x38 until a read of the low word latches it. -/
def State.startFrame (s : State) (l j t why : Nat) : State :=
  let s := if s.applyLink = l && s.applyEarly l j then s.boundary dispShadow else s
  let head := s.frameHead l
  let s := { s.setLk l { s.lk l with go := none } with cal := { s.cal with resume := setBit s.cal.resume l false } }
  let s := match why, head with
    | 1, some e =>
      let tgt := match e.slot with
        | some k => s.targetAt (s.act (qAct l k)).target
        | none => t
      (s.wr (dsiR l + 0x30) (sat32 (t - tgt))).takeEntry l e
    | 2, some e => if e.slot.isNone then s.takeEntry l e else s
    | 3, _ => (s.incSat (dsiR l + 0x24) 1).fireP 93
    | _, _ => s
  let x := s.lk l
  let s := s.setLk l { x with line0 := j, notional := false, blanked := false, bg := x.buf.isNone || s.mode.eff == .safe, urFrame := false,
                              sent := !(s.bit 0x2C00 4 && why == 3) }
  let s := (s.wdsi l 2 false).wr64 (dsiR l + 0x1C) (dsiR l + 0x38) (s.now + BitVec.ofNat 64 (t - s.time.mono))
  let s := ((s.incWrap (dsiR l + 0x18) 1).fireP 90).pendOwner .misc 0 20
  if (s.lk l).sent then s.latchRects l else s

/-- FRAME_START: the frame-start decision at a line boundary of link `l` (R371). -/
def execFrameStart (l : Fin 2) (s : State) : Res :=
  match s.lineNow with
  | none => ok s
  | some j =>
    let t := s.disp.tl.at_ j
    let w := s.frameWhy l j t
    if w = 0 then ok s else ok (s.startFrame l j t w)

/-- The blanking of the link's frame begins at boundary `j`. -/
def State.blanks (s : State) (l j : Nat) : Bool :=
  let x := s.lk l
  x.running && !x.notional && !x.blanked && x.line j == s.vstart + s.vact

/-- The first blanking line of a frame (R369, R385): producer 91, and the periodic skew calibration, postponed to the next
frame when it would not end before line N_min. -/
def execBlankingStart (l : Fin 2) (s : State) : Res :=
  let x := s.lk l
  match s.lineNow with
  | none => ok s
  | some j =>
    if !s.blanks l j then ok s
    else
      let s := s.fireP 91
      let x := { x with blanked := true }
      let per := s.fld 0x2C2C 7 0
      let n := x.frames + 1
      if per = 0 ∨ !s.skewRate ∨ n < per then ok (s.setLk l { x with frames := n })
      else if 1024 * s.uiTu.1 * s.disp.tl.den ≤ s.blankMin * s.disp.tl.num * s.uiTu.2 then
        ok (s.setLk l { x with frames := 0, skews := x.skews + 1 })
      else ok (s.setLk l { x with frames := n })

/-- An event at consumer 88 or 90 (R370, R373): FRAME_GO is pending, one deep. -/
def execFrameGo (l : Fin 2) (s : State) : Res :=
  let x := s.lk l
  if !x.running || x.go.isSome || (s.lock2 && l.val == 1) then ok s
  else ok ((s.setLk l { x with go := some s.time.mono }).wdsi l 2 true)

/-- An event at consumer 89 or 91 (R376): DSIx_EVFB.FB is queued, untimed, and with INC advances from LAST to FIRST. -/
def execDsiEventFlip (l : Fin 2) (s : State) : Res :=
  if (s.lock2 && l.val == 1) || s.dsiFull l then ok s
  else
    let r := dsiR l + 0x10
    let fb := s.fld r 5 0
    let s := s.dsiPush l fb false false 0
    if s.bit r 24 then ok (s.wfld r 5 0 (if fb = s.fld r 21 16 then s.fld r 13 8 else fb + 1)) else ok s

/-- A write of DSIx_QPUSH (R375, R376): an entry with TIME from DSIx_QTIME, or QFULL. -/
def execQpush (l : Fin 2) (v : Word) (s : State) : Res :=
  let q := s.qLink l
  if s.dsiFull l then ok (s.wdsi q 5 true)
  else ok ((s.dsiPush l (bf v 5 0) (tb v 8) (tb v 9) (s.rd64 (dsiR l + 4) (dsiR l + 8))).reviewMode)

/-- A link's queue is emptied; its timed entries are disarmed without a record. -/
def State.flushQ (s : State) (l : Nat) : State :=
  (s.each ((s.dsiQ l).filterMap (·.slot)) fun s i => s.disarm (qAct l i)).setDsiQ l []

/-- DISP_CMD.QFLUSH (R376). -/
def execQflush (l : Fin 2) (s : State) : Res := ok ((s.flushQ l).reviewMode)

/-- A tearing-effect edge (R373), filtered and stamped as a comparator's (R350). -/
def execTeEdge (l : Fin 2) (rising : Bool) (s : State) : Res :=
  if s.awake && s.bit (dsiR l + 0x34) 0 && rising != s.bit (dsiR l + 0x34) 1 then ok (s.fireP (95 + l)) else ok s

/-- The rows of the conversion presets (R366): M00 to M22, IOFS Y, Cb, Cr. -/
def cscTable (code : Nat) : List Int × List Int :=
  if code = 1 then ([4769, 0, 6537, 4769, -1605, -3330, 4769, 8263, 0], [-64, -512, -512])
  else if code = 2 then ([4769, 0, 7343, 4769, -873, -2183, 4769, 8652, 0], [-64, -512, -512])
  else ([4096, 0, 0, 4096, 0, 0, 4096, 0, 0], [0, 0, 0])

/-- A write of DISP_CSC_PRESET (R366). -/
def execCscPreset (code : BitVec 2) (s : State) : Res :=
  if code = 0 then ok (s.wdisp 9 true)
  else
    let (m, o) := cscTable code.toNat
    let h (l : List Int) (w i : Nat) : Nat := (BitVec.ofInt w ((l[i]?).getD 0)).toNat
    let s := s.each (List.range 5) fun s k =>
      s.stageNow (0x2C34 + 4 * k) (BitVec.ofNat 32 (h m 16 (2 * k) + 65536 * h m 16 (2 * k + 1)))
    ok (s.each (List.range 3) fun s k =>
      s.stageNow (0x2C48 + 4 * k) (BitVec.ofNat 32 (h o 11 (2 * k) + 65536 * h o 11 (2 * k + 1))))

/-- A pixel of the line in progress is not in the FIFO when it is due (R382): the line is background from column `col`. -/
def execLineUnderrun (l : Fin 2) (col : Nat) (s : State) : Res :=
  if !s.linkActive l then ok s
  else
    let q := s.qLink l
    let s := s.setLk l { s.lk l with ur := some (min col (((s.lk l).ur).getD col)) }
    let s := (s.wdsi q 3 true).incSat (dsiR q + 0x28) 1
    if (s.lk q).urFrame then ok s else ok ((s.setLk q { s.lk q with urFrame := true }).fireP 94)

/-- The boundary of frame line DISP_APPLY.LINE, or the cycle after a write while stopped (R381): the shadows apply. -/
def execApplyLine (s : State) : Res :=
  if s.dispState = 0 then ok (s.boundary dispShadow)
  else
    match s.lineNow with
    | none => ok s
    | some j =>
      if (s.lk s.applyLink).line j = s.fld 0x2C1C 15 0 then ok (s.boundary dispShadow) else ok s

/-! ### Register packets (R386) -/

/-- Whether a DSI data type is a long packet's: its low four bits lie from 9 to 14. -/
def longType (dt : Nat) : Bool := decide (9 ≤ dt % 16) && decide (dt % 16 ≤ 14)

/-- The payload of the packet a DISP_PKT_CTRL value asks for. -/
def State.pktBytes (s : State) (v : Word) : List Byte :=
  let all := (List.range 16).flatMap fun k => wordBytes (s.rd (0x2C80 + 4 * k))
  if longType (bf v 5 0) then all.take (bf v 15 8) else all.take 2

/-- The waiting packet goes out. -/
def State.sendPkt (s : State) : State :=
  match s.disp.packet with
  | some p => ({ s with disp := { s.disp with packet := none, sent := s.disp.sent ++ [p] } }).wdisp 13 false
  | none => s

/-- DISP_PKT_CTRL.GO: refused with PKT_ERR, sent at once while the link is stopped, or waiting for a blanking line. -/
def execPktGo (v : Word) (s : State) : Res :=
  let s := s.wr 0x2C54 (setBit v 31 false &&& 0x3FF3F)
  if s.bit 0x2C08 13 || [0x04, 0x06, 0x14, 0x24].contains (bf v 5 0) || decide (64 < bf v 15 8) then ok (s.wdisp 14 true)
  else
    let s := ({ s with disp := { s.disp with packet := some (setBit v 31 false, s.pktBytes v) } }).wdisp 13 true
    if (s.lk (bf v 16 16)).running then ok s else ok s.sendPkt

/-- The next blanking line of the packet's link, or the link has stopped: the packet is sent. -/
def execPktSend (s : State) : Res :=
  match s.disp.packet with
  | none => ok s
  | some p =>
    let l := bf p.1 16 16
    if !(s.lk l).running then ok s.sendPkt
    else match s.lineNow with
      | some j => if s.blankLine (s.qLink l) j then ok s.sendPkt else ok s
      | none => ok s

/-! ### Starting and stopping (R378 to R380) -/

/-- The limits of R368 and R369 hold. -/
def State.timingOk (s : State) : Bool :=
  let (n, d) := s.pixelTu
  decide (1 ≤ s.hact) && decide (s.hact ≤ 4096) && decide (8 ≤ s.hstart) && decide (s.hstart + s.hact + 8 ≤ s.htotal)
    && decide (s.htotal ≤ 8191) && (!s.bit 0x2C00 5 || decide (12800 * d ≤ (s.htotal - s.hact) * n))
    && decide (1 ≤ s.vstart) && decide (1 ≤ s.vact) && decide (s.vact ≤ 4096) && decide (1 ≤ s.blankMin)
    && decide (s.blankMin ≤ s.blankMax)

/-- f_bit lies in its range (R359). -/
def State.rateOk (s : State) : Bool :=
  let (n, d) := s.uiTu
  decide (80000000 * n ≤ 25600000000 * d) && decide (25600000000 * d ≤ 2500000000 * n)

/-- The first failing reason of R378, in the order of its codes. -/
def State.dispWhy (s : State) : Option Nat :=
  let c := s.rd 0x2C00
  if !tb c 0 || bf c 17 16 == 0 then some 1
  else if s.dispState ≠ 0 then some 2
  else if s.noStart then some 3
  else if !s.synBit 3 0 then some 4
  else if !s.timingOk then some 5
  else if tb c 12 && (bf c 17 16 != 3 || decide (64 < bf c 26 20)) then some 6
  else if !s.rateOk || (tb c 6 && tb c 4) then some 7
  else if s.fld 0x1820 15 0 < s.fld 0x1824 15 0 + classMBps (bf c 31 28) then some 8
  else if !s.inSpace s.dispVi false (s.fld 0x2C28 24 0) 4096 then some 9
  else none

/-- Domain DISP is on: the initial skew calibration, then the first line boundary at the first pixel boundary at or after
its completion + 2,048 TU. -/
def State.dispReady (s : State) : State :=
  let (n, d) := s.pixelTu
  let cal := if s.skewRate then (32768 * s.uiTu.1 + s.uiTu.2 - 1) / s.uiTu.2 else 0
  let e := (s.sy 3).out.anchor
  let a := tlAt e n d (tlFrom e n d (s.time.mono + cal + 2048))
  { s with disp := { s.disp with waiting := false, tl := Line.startAt 0 a (s.htotal * n, d) } }

/-- DISP_CMD.START (R378, R379). -/
def execDispStart (s : State) : Res :=
  match s.dispWhy with
  | some w =>
    let s := (s.wdisp 10 true).wfld 0x2C08 19 16 w
    if w = 8 then
      let v := s.dispVi
      ok ((((s.wbitv v 0x182C 1 true).wfldv v 0x182C 31 16 (classMBps (s.fld 0x2C00 31 28))).incSatv v 0x1830 1).pendOwner .misc 0 27)
    else ok s
  | none =>
    let need := classMBps (s.fld 0x2C00 31 28)
    let s := (s.wfld 0x2C08 1 0 1).wr 0x1824 (BitVec.ofNat 32 (s.fld 0x1824 15 0 + need))
    let s := { s with disp := { s.disp with waiting := true, demand := need, rects := [] } }
    let s := ((s.raiseRun 256).after 0 (.calAbort .start)).reviewDom 23
    if s.domOn 23 then ok s.dispReady else ok s

/-- The first line boundary of a start has come. -/
def State.firstLine (s : State) : Bool :=
  (s.dispState == 1 || (s.dispState == 3 && !(s.lk 0).running && !(s.lk 1).running)) && !s.disp.waiting &&
    decide (s.cycleOf (s.disp.tl.at_ 0) ≤ s.time.mono)

/-- The first line boundary (R378): line 0 is a blanking line of a notional frame, and the links run. -/
def execScanoutFirstLine (s : State) : Res :=
  if !s.firstLine then ok s
  else
    let s := if s.dispState = 1 then s.wfld 0x2C08 1 0 2 else s
    ok ((s.each ((List.range 2).filter fun l => s.bit 0x2C00 (16 + l) && !(s.lk l).running) fun s l =>
      (s.setLk l { s.lk l with running := true, line0 := 0, notional := true, ur := none, urFrame := false }).wdsi l 0 true).checkDraw)

/-- Link `l` stops: LP-11; with the last link the scan-out is stopped, its demand leaves ADMIT_USED. -/
def State.stopLink (s : State) (l : Nat) : State :=
  let s := (s.setLk l { s.lk l with running := false, stopReq := none, notional := true }).wdsi l 0 false
  let s := { s with disp := { s.disp with rects := s.disp.rects.filter fun r => r.link != l } }
  if (s.lk 0).running || (s.lk 1).running || s.dispState == 0 then s
  else
    let s := (s.wfld 0x2C08 1 0 0).wr 0x1824 (BitVec.ofNat 32 (s.fld 0x1824 15 0 - s.disp.demand))
    let s := { s with disp := { s.disp with waiting := false, demand := 0 } }
    let s := s.noteStop
    if s.pendingShadow dispShadow then s.after 32 .applyLine else s

/-- The scan-out stops at once: a SYN-D mute, a VI reset, a gate. -/
def State.stopDisp (s : State) : State := if s.dispState = 0 then s else (s.stopLink 0).stopLink 1

/-- Ask the links to stop. A start that still waits for its domain or its first line stops there. -/
def State.askStop (s : State) (now : Bool) : State :=
  if s.dispState = 0 then s
  else
    let s := s.wfld 0x2C08 1 0 3
    s.each (List.range 2) fun s l => s.setLk l { s.lk l with stopReq := some (now || ((s.lk l).stopReq).getD false) }

/-- DISP_CMD.STOP (R380): each link stops at the first boundary of a blanking line. -/
def execStop (s : State) : Res := ok (s.askStop false)

/-- DISP_CMD.STOP_NOW (R380): at the next line boundary; at once when SYN-D is muted, which gives no further boundary. -/
def execStopNow (s : State) : Res := if s.synBit 3 1 then ok s.stopDisp else ok (s.askStop true)

/-- A boundary at which link `l` stops (R380): any under STOP_NOW, one of a blanking line under STOP. -/
def State.stopsHere (s : State) (l j : Nat) : Bool :=
  match (s.lk l).stopReq with
  | some now => (s.lk l).running && (now || s.blankLine (s.qLink l) j)
  | none => false

/-- The boundary at which a link stops. -/
def execScanoutStopped (l : Fin 2) (s : State) : Res :=
  match s.lineNow with
  | some j => if s.stopsHere l j then ok (s.stopLink l) else ok s
  | none => ok s

/-- DISP_CMD.CNT_CLR: REPEAT, UR_LINES, SLIP, LATE and CRC_MIS_CNT clear. -/
def execDispCntClr (s : State) : Res :=
  ok ((s.each [0, 1] fun s l => s.each [0x24, 0x28, 0x2C, 0x30] fun s o => s.clrCnt (dsiR l + o)).clrCnt 0x2D48)

end Sys2Proof.Machine
end

