-- ==== Sys2Proof/Machine/Calib.lean ====
section
/-! DEFINITION. Calibration and Affinage (14): foreground calibrations, background updates, plausibility, the history ring and
the temperature sets. Registers of a VI: CAL_STATUS 0x3004, CAL_REJ_CNT 0x3008, CAL_QUAL 0x300C. -/

namespace Sys2Proof.Machine

/-! ### History and reports (R400, R401) -/

/-- A history entry (R401): result 0 accepted, 1 rejected, 2 aborted. -/
def State.calHist (s : State) (kind inst res why fig1 fig2 : Nat) : State :=
  let n := s.fld 0x3180 31 16
  let e := natBytes 8 s.now.toNat ++ (natBytes 1 kind ++ natBytes 1 inst ++ natBytes 1 res ++ natBytes 1 why) ++
    (natBytes 2 fig1 ++ natBytes 2 fig2)
  let s := { s with cal := { s.cal with hist := Tab.set (fun _ => []) s.cal.hist (n % 64) e } }
  (s.wfld 0x3180 31 16 (n + 1)).wfld 0x3180 5 0 (n % 64)

/-- A rejection reported in VI `v` (R400). -/
def State.calReject (s : State) (v kind inst why fig1 fig2 : Nat) : State :=
  (((s.wbitv v 0x3004 2 true).wfldv v 0x3004 31 27 why).incSatv v 0x3008 1).calHist kind inst 1 why fig1 fig2

/-- TEMP, in 1/16 °C. -/
def State.tempNow (s : State) : Int := sext 16 (s.fld 0x2B88 15 0)

/-- An accepted value is the item's new anchor at the current TEMP (R405). -/
def State.setAnchor (s : State) (k : Nat) (v : Int) : State :=
  { s with cal := { s.cal with anchors := Tab.set (fun _ => none) s.cal.anchors k (some { a := v, t := s.tempNow }) } }

/-! ### Foreground calibration (R389 to R394) -/

/-- The physical instance a command names, if its VI owns it (R389, OWNER). -/
def State.calInst (s : State) (v kind inst : Nat) : Option Nat :=
  let own (c : Kind) : Option Nat := (s.phys v c inst).filter (s.owns v c)
  match kind with
  | 1 => own .aout
  | 2 => own .pb
  | 3 => if s.owns v .misc 0 && decide (inst < 2) then some inst else none
  | 4 => if v = 0 then some 0 else none
  | 5 => if v = 0 ∧ inst < 4 then some inst else none
  | _ => some inst

/-- The synthesizer a kind needs; 0 for none. -/
def calSyn (kind : Nat) : Nat := if 1 ≤ kind ∧ kind ≤ 3 then kind else 0

/-- DISABLED of R389. -/
def State.calOff (s : State) (kind p : Nat) : Bool :=
  match kind with
  | 1 => !s.bit (aoutR p) 0
  | 2 => !s.bit (pbR p) 0 || !s.bit (pbR p + 0xC) 0 || s.fld (pbR p + 8) 21 20 == 0
  | 3 => !s.bit 0x2C00 0 || !s.bit 0x2C00 (16 + p)
  | 5 => !s.bit (0x3500 + 0x40 * p) 0
  | _ => false

/-- BUSY of R389. -/
def State.calBusy (s : State) (kind p : Nat) : Bool :=
  match kind with
  | 1 => s.aoutPlaying p
  | 2 => s.pbState p != 0
  | _ => false

/-- The first failing reason of R389. -/
def State.calWhy (s : State) (v kind inst : Nat) : Option Nat :=
  match s.calInst v kind inst with
  | none => some 1
  | some p =>
    if !(s.mode.eff == .primed || s.mode.eff == .run || s.mode.eff == .service) then some 2
    else if s.cal.run.isSome then some 3
    else if s.calOff kind p then some 4
    else if calSyn kind ≠ 0 ∧ s.synBit (calSyn kind) 0 = false then some 5
    else if s.calBusy kind p then some 6
    else if kind = 0 ∨ 5 < kind then some 7
    else none

/-- CAL_CMD.GO (R389, R391): refused, or the calibration runs; a link retrain announces its leave (R392). -/
def State.calGo (s : State) (v kind inst : Nat) : State :=
  let why := s.calWhy v kind inst
  let s := (s.wfldv v 0x3004 15 12 kind).wfldv v 0x3004 19 16 inst
  match why, s.calInst v kind inst with
  | none, some p =>
    let s := ({ s with cal := { s.cal with run := some (v, kind, p) } }).wbitv v 0x3004 0 true
    let s := if kind = 5 then s.after 0 (.portClose (Fin.ofNat 4 p) .retrain) else s
    s.reviewMode
  | w, _ => (s.wbitv v 0x3004 3 true).wfldv v 0x3004 11 8 (w.getD 1)

/-- CAL_CMD with KIND 1: DAC foreground. -/
def execCalDac (v : Fin 32) (inst : Fin 16) (s : State) : Res := ok (s.orWait (.calDac v inst) fun s => s.calGo v 1 inst)
/-- KIND 2: pattern-bank deskew. -/
def execCalBankDeskew (v : Fin 32) (inst : Fin 16) (s : State) : Res := ok (s.orWait (.calBankDeskew v inst) fun s => s.calGo v 2 inst)
/-- KIND 3: D-PHY deskew. -/
def execCalDphyDeskew (v : Fin 32) (inst : Fin 16) (s : State) : Res := ok (s.orWait (.calDphyDeskew v inst) fun s => s.calGo v 3 inst)
/-- KIND 4: monitor-ADC self-calibration. -/
def execCalMadc (v : Fin 32) (s : State) : Res := ok (s.orWait (.calMadc v) fun s => s.calGo v 4 0)
/-- KIND 5: Krairlink equaliser retrain. -/
def execCalKlRetrain (v : Fin 32) (inst : Fin 16) (s : State) : Res := ok (s.orWait (.calKlRetrain v inst) fun s => s.calGo v 5 inst)

/-- The calibration has ended: its resource resumes (R393), source CAL pends, and what waited for it goes on (R391). -/
def State.calEnd (s : State) : State :=
  match s.cal.run with
  | none => s
  | some (v, kind, p) =>
    let l := s.qLink p
    let s := { s with cal := { s.cal with run := none } }
    let s := if kind = 3 ∧ (s.lk l).running = true then
        { s with cal := { s.cal with resume := setBit s.cal.resume l true } } else s
    let s := ((s.wbitv v 0x3004 0 false).pend v 14).reviewMode
    let s := if s.bit 0x3C08 2 then s.after (us 1) .partitionEdit else s
    if s.mode.trans = .leaveService then s.after 0 .serviceExitDone else s

/-- The first limit of R399 a foreground result breaks, 0 for none. -/
def State.calLimit (s : State) (kind : Nat) (r : CalRes) : Nat :=
  let lim (k : Nat) : Nat := s.fld (0x3020 + 4 * k) 15 0
  let f1 := r.fig1.toNat
  let range := if r.trims.all fun t => inRange (itemKey kind t.1.toNat) t.2 then 0 else 3
  match kind with
  | 1 => if lim 0 < f1 then 1 else if r.fig2.toNat < lim 1 then 2 else range
  | 2 => if lim 3 < f1 then 6 else range
  | 3 => if f1 < lim 4 then 7 else range
  | 5 => if f1 < lim 5 then 7 else range
  | _ => range

/-- The quality registers of an accepted result (CAL_PBk, CAL_DPHYl, CAL_KLp, AFF_DACn). -/
def State.calFigures (s : State) (kind p f1 f2 : Nat) : State :=
  match kind with
  | 1 => s.wr (0x3040 + 4 * p) (BitVec.ofNat 32 (f1 + 65536 * f2))
  | 2 => s.wr (0x3080 + 4 * p) (BitVec.ofNat 32 f1)
  | 3 => s.wr (0x30A0 + 4 * p) (BitVec.ofNat 32 (f1 % 256))
  | 5 => s.wr (0x30A8 + 4 * p) (BitVec.ofNat 32 (f1 % 256))
  | _ => s

/-- A foreground calibration ends with its measured result (R398 to R401): accepted or rejected as a whole. -/
def execCalDone (r : CalRes) (s : State) : Res :=
  match s.cal.run with
  | none => ok s
  | some (v, kind, p) =>
    let f1 := r.fig1.toNat
    let f2 := r.fig2.toNat
    let s := s.wrv v 0x300C (BitVec.ofNat 32 (f1 + 65536 * f2))
    let why := s.calLimit kind r
    if why ≠ 0 then ok ((s.calReject v kind p why f1 f2).calEnd)
    else
      let own := r.trims.filter fun t => (itemsOf kind p).contains (itemKey kind t.1.toNat)
      let s := (s.each own fun s t => s.setAnchor (itemKey kind t.1.toNat) t.2).dirtyTrims kind p
      let s := ((s.calFigures kind p f1 f2).wbitv v 0x3004 1 true).calHist kind p 0 0 f1 f2
      ok s.calEnd

/-- The REASON code of an abort (R400). -/
def abortCode : AbortWhy → Nat
  | .sw => 9 | .start => 10 | .safe => 11 | .reset => 12 | .clock => 13

/-- The calibration is aborted (R394): old trims stay. -/
def State.abortCal (s : State) (why : AbortWhy) : State :=
  match s.cal.run with
  | none => s
  | some (v, kind, p) =>
    (((s.wbitv v 0x3004 4 true).wfldv v 0x3004 31 27 (abortCode why)).calHist kind p 2 (abortCode why) 0 0).calEnd

/-- Whether a cause of R394 holds for the calibration that runs. -/
def State.abortHolds (s : State) (why : AbortWhy) : Bool :=
  match s.cal.run, why with
  | none, _ => false
  | some (_, 1, p), .start => s.aoutPlaying p
  | some (_, 2, p), .start => s.pbState p != 0
  | some _, .start => false
  | some _, .safe => s.mode.eff == .safe
  | some (_, k, _), .clock => calSyn k != 0 && !s.synBit (calSyn k) 0
  | some _, .sw => true
  | some (v, _, _), .reset => s.rst.coreBusy || (s.vi v).inReset

/-- CAL_ABORT (R394). -/
def execCalAbort (why : AbortWhy) (s : State) : Res := if s.abortHolds why then ok (s.abortCal why) else ok s

/-! ### Affinage (R395 to R400) -/

/-- Affinage of target `t` (0 TAPS, 1 DTC, 2 DAC, 3 TEMP) runs: enabled, and the device is awake. -/
def State.affOn (s : State) (t : Nat) : Bool := s.awake && s.bit 0x3010 t && !s.rst.coreBusy

/-- A rejected update. -/
def State.affReject (s : State) (t v kind inst why f1 f2 : Nat) : State :=
  ((s.wbit 0x3014 t true).incFld 0x3014 31 16 1).calReject v kind inst why f1 f2

/-- 2^20 hits on the taps of SYN-A or SYN-C (R395, R399): every width within 50 % and 150 % of P/32, the residual DNL
within its limit. -/
def execAffTapUpdate (c : Bool) (hits : List Nat) (period : Nat) (dnl : BitVec 16) (s : State) : Res :=
  let x := b2n c
  if !s.affOn 0 || hits.length != 32 || hits.sum != 1048576 then ok s
  else
    let v := if c then s.ownerVi .misc 2 else 0
    let f2 := min 65535 (hits.foldl min 1048576)
    if hits.any fun h => decide (h * 64 < 1048576) || decide (3 * 1048576 < h * 64) then
      ok (s.affReject 0 v 8 (2 * x) 3 dnl.toNat f2)
    else if s.fld 0x3028 15 0 < dnl.toNat then ok (s.affReject 0 v 8 (2 * x) 5 dnl.toNat f2)
    else
      let s := { s with cal := { s.cal with taps := Tab.set (fun _ => []) s.cal.taps x (period :: hits) } }
      let r := 0x3060 + 4 * x
      ok ((s.wfld r 31 16 (s.fld r 31 16 + 1)).wfld r 15 0 dnl.toNat)

/-- A DTC gain correction (R396, R399), in 0.01 % of nominal: the gain within 10 %, the step within 1 %. -/
def execAffDtcUpdate (x : Fin 4) (gain step : Int) (s : State) : Res :=
  if !s.affOn 1 || !s.synBit x 0 || (s.fld (synR x + 8) 23 0 == 0 && s.effOfs x == 0) then ok s
  else
    let v := if x.val = 0 then 0 else s.ownerVi .misc x
    let f1 := (BitVec.ofInt 16 step).toNat
    if 1000 < gain.natAbs then ok (s.affReject 1 v 10 x 3 f1 0)
    else if 100 < step.natAbs then ok (s.affReject 1 v 10 x 4 f1 0)
    else ok { s with cal := { s.cal with dtc := Tab.set (fun _ => 0) s.cal.dtc x gain } }

/-- The channel is being tracked (R397): playing, not parked, not on the load, and the monitor ADC is free. -/
def State.dacTracked (s : State) (n : Nat) : Bool :=
  s.affOn 2 && s.mode.eff != .safe && s.aoutPlaying n && !s.aoutBit n 2 && !s.onLoad n &&
    !(s.cal.run.any fun r => r.2.1 == 1 || r.2.1 == 4)

/-- A DAC tracking update (R397, R399, R401): a new trim for each cell, or none for a cell with too few samples. -/
def execAffDacUpdate (n : Fin 8) (cells : List (BitVec 10 × Option Int)) (inl sfdr : BitVec 16) (s : State) : Res :=
  if !s.dacTracked n then ok s
  else
    let v := s.ownerVi .aout n
    let f1 := inl.toNat
    let f2 := sfdr.toNat
    let new := cells.filterMap fun c => if c.1.toNat < 67 then c.2.map fun x => (itemKey 1 (n.val * 128 + c.1.toNat), x) else none
    let why := if s.fld 0x3020 15 0 < f1 then 1 else if f2 < s.fld 0x3024 15 0 then 2
      else if new.any (fun c => !inRange c.1 c.2) then 3
      else if new.any (fun c => decide (s.fld 0x3038 15 0 < (c.2 - s.working c.1).natAbs)) then 4 else 0
    if why ≠ 0 then ok (s.affReject 2 v 9 n why f1 f2)
    else
      let quiet := if cells.any fun c => c.2.isNone then 8 else 0
      let s := (s.each new fun s c => s.setAnchor c.1 c.2).dirtyTrims 1 n
      let s := s.calFigures 1 n f1 f2
      let s := if quiet = 0 then s else s.wfldv v 0x3004 31 27 quiet
      if s.cal.tracked.getLsbD n then ok s
      else ok (({ s with cal := { s.cal with tracked := setBit s.cal.tracked n true } }).calHist 9 n 0 quiet f1 f2)

/-! ### Temperature sets (R402 to R406) -/

/-- The set at an index. -/
def State.calSet (s : State) (i : Nat) : Option CalSet := Tab.get (fun _ => none) s.cal.sets i

/-- CALSET_STATUS and CALSET_TEMPn: the sets on either side of the temperature used, and what is loaded (R404). -/
def State.showSets (s : State) : State :=
  let t := s.cal.temp
  let best (p : Int → Bool) (better : Int → Int → Bool) : Option Nat :=
    (s.cal.sets.foldl (fun (m : Option (Nat × Int)) e => match e.2, m with
      | some c, none => if p c.temp then some (e.1, c.temp) else m
      | some c, some q => if p c.temp && better c.temp q.2 then some (e.1, c.temp) else m
      | none, _ => m) none).map (·.1)
  let lo := best (fun x => decide (x ≤ t)) (fun a b => decide (b < a))
  let hi := best (fun x => decide (t < x)) (fun a b => decide (a < b))
  let cl := allItems.any fun k => (baseOf s.cal.sets k t).2
  let w : Word := setFld (setFld (setFld (setFld (0 : Word) 31 16 (BitVec.ofInt 16 t).toNat) 15 15 (b2n cl)) 14 12
    ((hi.orElse fun _ => lo).getD 0)) 10 8 ((lo.orElse fun _ => hi).getD 0)
  let s := s.wr 0x3104 (setFld w 7 0 (bitsNat ((List.range 8).map fun i => (s.calSet i).isSome)))
  s.each (List.range 8) fun s i =>
    s.wr (0x3110 + 4 * i) (match s.calSet i with
      | some c => setFld (setFld (0 : Word) 25 16 c.words.length) 15 0 (BitVec.ofInt 16 c.temp).toNat
      | none => 0)

/-- Every working value may have changed (R405). -/
def State.dirtyAll (s : State) : State := s.each calGroups fun s g => s.dirtyTrims g.1 g.2

/-- The bases are evaluated at the current TEMP. -/
def State.evalTemp (s : State) : State := ({ s with cal := { s.cal with temp := s.tempNow } }).dirtyAll.showSets

/-- Every item is re-anchored at A = B(T_now) (R405). -/
def State.reanchor (s : State) : State :=
  ({ s with cal := { s.cal with refSets := s.cal.sets, refTemp := s.tempNow, anchors := [] } }).evalTemp

/-- The reason a set is rejected for (R403), 0 for none. -/
def State.setBad (s : State) (i : Nat) (c : CalSet) : Nat :=
  let ks := c.words.map wordItem
  if ks.any (fun k => !allItems.contains k) || !decide ks.Nodup then 14
  else if c.words.any fun w => !inRange (wordItem w) (wordVal w) then 3
  else if c.temp < -880 ∨ 2400 < c.temp then 16
  else if (List.range 8).any (fun j => j != i && (s.calSet j).any fun d => decide ((d.temp - c.temp).natAbs ≤ 16)) then 15
  else 0

/-- Put a set at an index. -/
def State.putSet (s : State) (i : Nat) (c : Option CalSet) : State :=
  { s with cal := { s.cal with sets := Tab.set (fun _ => none) s.cal.sets i c } }

/-- Load a set (R403): whole, or rejected with a reason. -/
def State.loadSet (s : State) (i : Nat) (c : CalSet) : State × Bool :=
  let why := s.setBad i c
  if why ≠ 0 then (s.calReject 0 11 i why 0 0, false)
  else (((s.putSet i (some c)).reanchor).calHist 11 i 0 0 0 0, true)

/-- CALSET_CMD.SAVE (R406): the working value of every item with the current TEMP; refused where it would give TEMP_DUP. -/
def State.saveSet (s : State) (i : Fin 8) : State :=
  let c : CalSet := { temp := s.tempNow, words := allItems.map fun k =>
    (BitVec.ofNat 32 (k * 65536 + (BitVec.ofInt 16 (s.working k)).toNat) : Word) }
  if (List.range 8).any (fun j => j != i.val && (s.calSet j).any fun d => decide ((d.temp - c.temp).natAbs ≤ 16)) then
    s.calReject 0 12 i 15 0 0
  else (((s.putSet i (some c)).dirtyAll).showSets).calHist 12 i 0 0 0 0

/-- CALSET_CMD.SAVE (R406); it waits while the supervisor restarts (R132). -/
def execSave (i : Fin 8) (s : State) : Res := ok (s.orWait (.save i) fun s => s.saveSet i)

/-- CALSET_CMD.CLEAR (R405, R406). -/
def execClear (i : Fin 8) (s : State) : Res := ok (s.orWait (.clear i) fun s => (s.putSet i none).reanchor)

/-- The evaluation every 100 ms and at each wake while AFF_CTRL.TEMP = 1 (R405). -/
def execCalsetTempEval (s : State) : Res := if s.affOn 3 then ok s.evalTemp else ok s

end Sys2Proof.Machine
end

