-- ==== Sys2Proof/Machine/Fabric.lean ====
section
/-! DEFINITION. Rennet and the event log (02): the channel stage and the consumer stage, held events, software fires, staged
routing, and the log with its merge stage and spill ring. -/

namespace Sys2Proof.Machine

/-! ### Channels and gates (R47 to R53) -/

/-- EVCn_CFG and the matrix enables of a channel. -/
def State.chCfg (s : State) (ch : Nat) : Word := s.rd (0xA00 + 4 * ch)
def State.chMask (s : State) (ch : Nat) : BitVec 64 := cat64 (s.rd (0x904 + 8 * ch)) (s.rd (0x900 + 8 * ch))

/-- A source drives the input of a channel: a software fire of it, an enabled primary producer, or the mux's producer. -/
def State.drives (s : State) (ch : Nat) (x : Src) : Bool :=
  if x.swf && !x.imp then x.ch == ch
  else if ch < 16 then decide (x.prod < 64) && (s.chMask ch).getLsbD x.prod
  else x.prod == bf (s.chCfg ch) 7 0

/-- The level of each gate list entry (R51), and from 64 on the latch bit of each channel, which entries 37 to 52 name (R53). -/
def State.gateLevels (s : State) : BitVec 128 :=
  BitVec.ofNat 128 (bitsNat ((List.range 128).map fun e =>
    if 64 ≤ e then s.bit (0x814 + 4 * ((e - 64) / 32)) (e % 32)
    else if e = 0 then true
    else if e < 17 then s.bit (tinR (e - 1) + 4) 7
    else if e < 21 then s.bit (acmpR (e - 17) + 4) 0
    else if e < 37 then decide (2 ≤ s.seqState (e - 21))
    else if e < 53 then s.bit 0x814 (e - 37)
    else if e = 53 then s.mode.eff == .run
    else if e = 54 then s.mode.eff == .primed || s.mode.eff == .run
    else if e = 55 then s.mode.eff == .safe
    else if e < 62 then s.bit (keyR (e - 56) + 4) 0
    else if e = 62 then s.bit 0x504 2
    else s.linkActive 0 || s.linkActive 1))

/-- The gate of a channel is open at gate levels `g` (R51, R53). A gate entry that names a channel's latch keeps the
physical channel in the reserved bits [22:17] of the stored word (`gateChan`). -/
def State.gateOpen (s : State) (ch : Nat) (g : BitVec 128) : Bool :=
  let c := s.chCfg ch
  let e := bf c 13 8
  let e := if 37 ≤ e ∧ e ≤ 52 then 64 + gateChan c else e
  if e = 0 then true
  else (g.getLsbD e && !s.fab.deadA.getLsbD ch) != tb c 16

/-- The input of a channel is high with levels `lv`, besides what asserts. -/
def State.chHigh (s : State) (ch : Nat) (lv : BitVec 64) : Bool :=
  if ch < 16 then (lv &&& s.chMask ch) != 0
  else
    let p := bf (s.chCfg ch) 7 0
    decide (p < 64) && lv.getLsbD p

/-- The event condition of R49 in the channel stage, two cycles after cycle 0: `srcs` asserted in cycle 0, `old` in the cycle
before. Both cycles are judged with the configuration now in force, so that a commit which enables or selects a producer that is high
makes no event (DESIGN CHOICE, log entry 100). -/
def State.chFires (s : State) (ch : Nat) (srcs old : List Src) : Bool :=
  let c := s.chCfg ch
  let now := s.gateOpen ch s.fab.g2
  let was := s.gateOpen ch s.fab.g3
  let up := !srcs.isEmpty
  let rises := now && (up || s.chHigh ch s.fab.lv2) && !(was && (!old.isEmpty || s.chHigh ch s.fab.lv3))
  if ch < 16 then (if tb c 24 then up && now else rises) else (if tb c 24 then rises else up && now)

/-- The sources of age `n` that drive a channel. -/
def State.srcsAt (s : State) (ch n : Nat) : List Src :=
  (s.fab.inflight.filter fun e => e.1 == n && s.drives ch e.2).map (·.2)

/-- The order of sources (R31, R58): stamps, then unit and producer, then the firing VI. -/
def srcLe (a b : Src) : Bool :=
  let key (x : Src) : Nat := (x.unit.toNat * 1024 + x.prod) * 32 + x.swvi.val
  a.stamp.toNat < b.stamp.toNat || (a.stamp == b.stamp && decide (key a ≤ key b))

def firstSrc : Src → List Src → Src
  | a, [] => a
  | a, b :: t => firstSrc (if srcLe a b then a else b) t

/-! ### The event log: entries (R64 to R69) -/

/-- An event of a logging channel takes a sequence number and enters the merge stage, unless that is full. -/
def State.logEvent (s : State) (ch : Nat) (x : Src) (multi late : Bool) : State :=
  if !(tb (s.chCfg ch) 31 && s.bit 0x880 0) then s
  else
    let n := s.rd 0x88C
    let s := s.wr 0x88C (n + 1)
    if 256 ≤ s.fab.merge.length then (s.incSat 0x888 1).wbit 0x884 19 true
    else
      let d := lead (x.stamp + 2048) s.now
      let behind := decide (d ≤ -32)
      let due := if behind then s.time.mono + 32 else s.time.mono + roundUp d.toNat 32
      let e : LogEnt :=
        { stamp := x.stamp, seq := n, order := x.unit.toNat * 1024 + x.prod,
          byte12 := if x.swf && !x.imp then BitVec.ofNat 8 x.swvi.val else BitVec.ofNat 8 x.prod, ch := ch, unit := x.unit,
          flags := b2n x.swf + 2 * b2n multi + 8 * b2n x.imp + 16 * b2n late, due := due, behind := behind, prov := x.prov }
      { s with fab := { s.fab with merge := s.fab.merge ++ [e] } }

/-! ### Consumers (R54, R55, R60, R61) -/

/-- The command with which a consumer acts. What the pins read at a snapshot is a free value (log entry 22). -/
def State.conCmd (s : State) (c : Nat) (x : Src) : Instr :=
  if c < 64 then .seqEventInput (Fin.ofNat 16 (c / 4)) (Fin.ofNat 4 (c % 4))
  else if c < 72 then .trgEvent (Fin.ofNat 8 (c - 64))
  else if c < 88 then .capSnap (Fin.ofNat 16 (c - 72)) ((List.range 8).map fun i =>
    let hi := (Config.openWord 2 (s.free + 2 * i)).setWidth 16
    (hi, (Config.openWord 2 (s.free + 2 * i + 1)).setWidth 16 &&& ~~~hi))
  else if c < 92 then (if c % 2 = 0 then .frameGo (Fin.ofNat 2 ((c - 88) / 2)) else .dsiEventFlip (Fin.ofNat 2 ((c - 88) / 2)))
  else if c < 100 then .aoutParkEvent (Fin.ofNat 8 (c - 92))
  else if c < 108 then .pbEvent (Fin.ofNat 8 (c - 100))
  else if c < 140 then .exportEv (Fin.ofNat 32 (c - 108)) x
  else if c < 156 then .almRearmEvent (Fin.ofNat 16 (c - 140)) ⟨x.stamp, x.prov⟩
  else if c < 160 then .ldeStart (Fin.ofNat 4 (c - 156))
  else .ldeStop (Fin.ofNat 4 (c - 160))

/-- The events queued at an export (R492). -/
def State.expQ (s : State) (n : Nat) : List Src := Tab.get (fun _ => []) s.kl.exps n

/-- A consumer is busy (R60), as its own chapter says. -/
def State.conBusy (s : State) (c : Nat) : Bool :=
  if c < 64 then
    let k := c / 4
    if s.seqOn k then s.bit (seqR k + 0x44) (c % 4)
    else s.noStart && s.bit (seqR k) 4 && s.fld (seqR k) 6 5 == c % 4
  else if c < 72 then s.trgBusy (c - 64)
  else if c < 88 then decide (64 ≤ (s.capBuf (c - 72)).length)
  else if c < 92 then
    let l := (c - 88) / 2
    if s.lock2 && l == 1 then false
    else if c % 2 = 0 then (s.lk l).go.isSome || !(s.lk l).running
    else s.dsiFull l
  else if c < 100 then false
  else if c < 108 then
    let k := c - 100
    let a := s.fld (pbR k) 5 4
    (a = 1 && s.pbState k != 0) || (s.noStart && (a = 1 || (a = 0 && s.pbState k != 2)))
  else if c < 140 then decide (4 ≤ (s.expQ (c - 108)).length)
  else if c < 156 then false
  else if c < 160 then (s.lde (c - 156)).busy
  else false

abbrev conCnt (c : Nat) : Nat := 0xD00 + 4 * c

/-- An overrun of a consumer (R60). -/
def State.overrun (s : State) (c : Nat) : State :=
  (s.wbit (0x820 + 4 * (c / 32)) (c % 32) true).incFld (conCnt c) 15 0 1

/-- The consumer's domain is at CLOSING or later, or off (R61). -/
def State.conGated (s : State) (c : Nat) : Bool := !s.domOn (conDom c)

/-- The consumer stage of one event (R60, R61), taken at the end of its cycle: refused as busy, dropped or held at a gated domain, or
delivered, to act at the start of the next cycle. -/
def State.consume (s : State) (c : Nat) (x : Src) : State :=
  if s.conGated c then
    if !s.bit (0x840 + 4 * (c / 32)) (c % 32) then s.incFld (conCnt c) 31 16 1
    else if (Tab.find s.fab.heldC c).isSome then s.overrun c
    else
      let s := { s with fab := { s.fab with heldC := Tab.insert s.fab.heldC c x } }
      (s.wbit (0x860 + 4 * (c / 32)) (c % 32) true).reviewDom (conDom c)
  else if s.conBusy c then s.overrun c
  else (s.after 1 (s.conCmd c x)).fresh

/-- The consumers that select a channel and act on events (R54, R56). -/
def State.consumersOf (s : State) (ch : Nat) : List Nat := (List.range 164).filter fun c => selCh (s.selByte c) == some ch

/-- The VIs and bytes of VI_IRQ_EVC that monitor a channel (R433). -/
def State.monitors (s : State) (ch : Nat) : List (Nat × Nat) :=
  (List.range 32).flatMap fun v => ((List.range 4).filter fun j => selCh (byteOf (s.rdv v 0x188) j) == some ch).map fun j => (v, j)

/-- The event of a channel in its channel stage: count, latch, log entry and monitors; the consumer stage follows in the next cycle
(R57). -/
def State.chEvent (s : State) (ch : Nat) (a : Src) (t : List Src) : State :=
  let x := firstSrc a t
  let x := { x with multi := !t.isEmpty || a.multi }
  let s := (s.incWrap (0xB00 + 4 * ch) 1).wbit (0x814 + 4 * (ch / 32)) (ch % 32) true
  let n := if tb (s.chCfg ch) 31 && s.bit 0x880 0 then some (s.rd 0x88C) else none
  let s := s.logEvent ch x x.multi x.late
  { s with fab := { s.fab with irqs := s.fab.irqs ++ s.monitors ch, stage := s.fab.stage ++ [(ch, x, n)] } }

/-- The consumer stage of an event of channel `ch` (R54, R60, R61): every consumer that selects the channel now takes it. Where one holds
it for its domain, the log entry with sequence number `n` is marked late. -/
def State.conStage (s : State) (ch : Nat) (x : Src) (n : Option Word) : State :=
  let cs := s.consumersOf ch
  let late := cs.any fun c => s.conGated c && s.bit (0x840 + 4 * (c / 32)) (c % 32) && (Tab.find s.fab.heldC c).isNone
  let mark (e : LogEnt) : LogEnt :=
    if late && n == some e.seq && !e.flags.testBit 4 then { e with flags := e.flags + 16 } else e
  let s := { s with fab := { s.fab with merge := s.fab.merge.map mark } }
  s.each cs fun s c => s.consume c x

/-- CHANNEL_EVENT (R49, R50, R57, R64 to R69): the channel stage of channel `ch` with the sources that asserted two cycles before. What
was in flight in a channel of a VI that has been reset since is discarded (R73). -/
def execChannelEvent (ch : Fin 64) (srcs : List Src) (s : State) : Res :=
  match srcs with
  | [] => ok s
  | a :: t =>
    if s.chFires ch srcs (s.srcsAt ch 3) && decide (Tab.get (fun _ => 0) s.fab.quiet ch ≤ s.time.mono) then ok (s.chEvent ch a t)
    else ok s

/-- A producer event held through a wake enters Rennet (R37, R111, R356): its stamp is the one it was held with. -/
def execHeldProducerDeliver (h : HeldSrc) (s : State) : Res :=
  match s.fab.heldP.find? fun e => e.1 == h with
  | none => ok s
  | some (_, t) =>
    if !s.time.fclk then ok s
    else
      let p := match h with
        | .tin n => 64 + n.val
        | .alm n => 98 + n.val
        | .key n => 84 + n.val
      let s := { s with fab := { s.fab with heldP := s.fab.heldP.filter fun e => e.1 != h } }
      ok (s.assertSrc { s.srcOf p t with late := true, prov := false })

/-- An event held for a consumer is delivered once its domain is on (R127), with its lateness. -/
def execConsumerHeldDeliver (c : Fin 192) (s : State) : Res :=
  match Tab.find s.fab.heldC c with
  | none => ok s
  | some x =>
    if s.conGated c || !s.time.fclk then ok s
    else
      let s := { s with fab := { s.fab with heldC := Tab.erase s.fab.heldC c } }
      let s := (s.wbit (0x860 + 4 * (c / 32)) (c % 32) false).reviewDom (conDom c)
      let l := sat32 (lead s.now (x.stamp + 128)).toNat
      let s := s.recordLate (actId 9 c) l false
      ok ((s.after 0 (s.conCmd c x)).fresh)

/-! ### Software fires and staged routing (R58, R59, R62) -/

/-- One bit of FAB_FIRE (R58): the VI's channel `ch`; one it lacks is ignored (R59). -/
def execFabFire (v : Fin 32) (ch : Fin 64) (s : State) : Res :=
  match s.chPhys v ch with
  | some c => ok (s.swFire v c)
  | none => ok s

/-- The fabric's buffered registers: matrix enables, channel configuration, consumer selections (R62). -/
def fabShadow (k : Nat) : Bool :=
  (0x900 ≤ k && k < 0x980) || (0xA00 ≤ k && k < 0xB00) || (0xC00 ≤ k && k < 0xCC0)

/-- The bits of a fabric register in the set of a view (R62). -/
def State.fabSet (s : State) (v k : Nat) : Word :=
  if s.physView v then BitVec.allOnes 32
  else match findRow regTable k with
    | some (r, i) => s.ownedBits r i (· == .vi v)
    | none => 0

/-- The channels in the set of a view. -/
def State.chSet (s : State) (v : Nat) : BitVec 64 :=
  BitVec.ofNat 64 (bitsNat ((List.range 64).map fun ch => s.physView v || s.chOwner ch == .vi v))

/-- The value a register of the fabric takes for the next cycle (R62). -/
def State.cfgNext (s : State) (k : Nat) : Word :=
  match Tab.find s.fab.next k with
  | some (m, x) => (s.getKey k &&& ~~~m) ||| (x &&& m)
  | none => s.getKey k

/-- Put the bits `m` of `x` in force in register `k` from the next cycle, but for those a discard of this cycle keeps (R62, R63). -/
def State.commitReg (s : State) (k : Nat) (m x : Word) : State :=
  let m := m &&& ~~~(Tab.get (fun _ => 0) s.fab.dropped k)
  let (m0, x0) := (Tab.find s.fab.next k).getD (0, 0)
  { s with fab := { s.fab with
      next := Tab.insert (Tab.erase s.fab.next k) k (m0 ||| m, (x0 &&& ~~~m) ||| (x &&& m)) } }

/-- FAB_COMMIT.COMMIT (R62): every staged change of the view's set is in force from the start of the next cycle. -/
def execFabCommit (v : Fin 32) (s : State) : Res :=
  let m := s.chSet v
  let (m0, x0) := s.fab.nextDead
  let s := { s with fab := { s.fab with nextDead := (m0 ||| m, (x0 &&& ~~~m) ||| (s.fab.deadS &&& m)) } }
  ok (s.each (s.shadows.filter fun e => fabShadow e.1) fun s e => s.commitReg e.1 (s.fabSet v e.1) e.2)

/-- The end of a cycle puts what its commits name in force (R62). A value staged after the commit stays staged. -/
def State.applyNext (s : State) : State :=
  let f := s.fab
  let s := s.each f.next fun s e =>
    let x := s.cfgNext e.1
    if x = s.getKey e.1 then s
    else
      let y := s.shadow e.1
      ((s.setKey e.1 x).stage e.1 y).restartWalks e.1 (BitVec.allOnes 32)
  { s with fab := { s.fab with
      next := [], dropped := [], nextDead := (0, 0),
      deadA := (s.fab.deadA &&& ~~~f.nextDead.1) ||| (f.nextDead.2 &&& f.nextDead.1) } }

/-- FAB_COMMIT.DISCARD (R62): the shadows of the view's set return to the active values, which stand over a commit of the same cycle
(R63). -/
def execFabDiscard (v : Fin 32) (s : State) : Res :=
  let m := s.chSet v
  let (m0, x0) := s.fab.nextDead
  let s := { s with fab := { s.fab with
    deadS := (s.fab.deadS &&& ~~~m) ||| (s.fab.deadA &&& m), nextDead := (m0 &&& ~~~m, x0) } }
  ok (s.each (s.shadows.filter fun e => fabShadow e.1) fun s e =>
    let k := s.fabSet v e.1
    let was := Tab.get (fun _ => 0) s.fab.dropped e.1
    let (m0, x0) := (Tab.find s.fab.next e.1).getD (0, 0)
    let s := { s with fab := { s.fab with
      dropped := Tab.insert (Tab.erase s.fab.dropped e.1) e.1 (was ||| k),
      next := Tab.insert (Tab.erase s.fab.next e.1) e.1 (m0 &&& ~~~k, x0) } }
    s.stage e.1 ((e.2 &&& ~~~k) ||| (s.getKey e.1 &&& k)))

/-- FAB_CMD.CNT_CLR: the counts of the VI's channels and consumers clear. -/
def execFabCntClr (v : Fin 32) (s : State) : Res :=
  let s := s.each ((List.range 64).filter fun ch => s.physView v || s.chOwner ch == .vi v) fun s ch => s.clrCnt (0xB00 + 4 * ch)
  ok (s.each ((List.range 192).filter fun c => s.physView v || s.conOwned v c) fun s c => s.clrCnt (conCnt c))

/-! ### The Vat log and the spill ring (R67 to R72) -/

def State.logCount (s : State) : Nat := s.fld 0x884 12 0
def State.setLogCount (s : State) (n : Nat) : State := (s.wfld 0x884 12 0 n).wbit 0x884 16 (n == 4096)

/-- The 16 bytes of an entry (R65). -/
def logBytes (e : LogEnt) : List Byte :=
  natBytes 8 e.stamp.toNat ++ natBytes 4 e.seq.toNat ++ [e.byte12, BitVec.ofNat 8 e.ch, e.unit,
    BitVec.ofNat 8 (e.flags + 4 * b2n e.behind)]

/-- The release order (R67, R68): the boundary, entries behind it last, then R31, then the channel. -/
def logLe (a b : LogEnt) : Bool :=
  if a.due ≠ b.due then decide (a.due < b.due)
  else if a.behind ≠ b.behind then !a.behind
  else if a.stamp ≠ b.stamp then decide (a.stamp.toNat < b.stamp.toNat)
  else if a.order ≠ b.order then decide (a.order < b.order)
  else decide (a.ch ≤ b.ch)

def firstEnt : LogEnt → List LogEnt → LogEnt
  | a, [] => a
  | a, b :: t => firstEnt (if logLe a b then a else b) t

/-- The entries that may leave the merge stage: due, and with a stamp that the handoff has converted (R20). -/
def State.logReady (s : State) : List LogEnt := s.fab.merge.filter fun e => decide (e.due ≤ s.time.mono) && !e.prov

/-- LOG_RELEASE (R67 to R70): the first entry due leaves the merge stage for the Vat log; at most one in 10 ns (R69). With SPILL = 1 and
FULL = 1 a full Vat log discards the new entry, WRAP being the ring's rule then (R71; DESIGN CHOICE, log entry 101). -/
def execLogRelease (s : State) : Res :=
  match s.logReady with
  | [] => ok s
  | a :: t =>
    let e := firstEnt a t
    let s := { s with fab := { s.fab with merge := s.fab.merge.erase e, logAt := s.time.mono + 256 } }
    let full := s.logCount == 4096
    let wrap := s.bit 0x880 1 && !s.bit 0x880 2
    let s := if full then (s.incSat 0x888 1).wbit 0x884 17 true else s
    if full && !wrap then ok s
    else
      let w := s.fld 0x884 31 20
      let s := (s.putBytes true (0x600000 + 16 * w) (logBytes e)).wfld 0x884 31 20 (w + 1)
      if full then ok s else ok (s.setLogCount (s.logCount + 1))

/-- The Vat address of the oldest entry held (R70). -/
def State.logOldest (s : State) : Nat := 0x600000 + 16 * ((s.fld 0x884 31 20 + 4096 - s.logCount) % 4096)

/-- LOG_SPILL_DRAIN (R71): the oldest entry goes to the ring; a full ring keeps it waiting, or under WRAP loses its oldest. -/
def execLogSpillDrain (s : State) : Res :=
  if !s.bit 0x880 2 || s.logCount == 0 then ok s
  else
    let n := 2 ^ s.fld 0x890 12 8
    let wr := s.fld 0x894 25 0 % n
    let rd := s.fld 0x898 25 0 % n
    let nx := (wr + 1) % n
    if nx = rd ∧ !s.bit 0x880 1 then ok s
    else
      let s := if nx = rd then (((s.wfld 0x898 25 0 ((rd + 1) % n)).touch 0x898 (BitVec.allOnes 32)).incSat 0x888 1).wbit 0x884 17 true else s
      let b := s.bytes true s.logOldest 16
      let s := s.store false (s.fld 0x890 7 0 * 0x1000000 + 16 * wr) b
      let s := (s.wfld 0x894 25 0 nx).setLogCount (s.logCount - 1)
      ok { s with fab := { s.fab with spillAt := s.time.mono + 256 } }

/-- LOG_CTRL.CLEAR: the Vat log and the merge stage empty, the ring too; WR_SLOT stays (R70). -/
def execLogClear (s : State) : Res :=
  let s := { s with fab := { s.fab with merge := [] } }
  ok (((s.setLogCount 0).clrCnt 0x888).wfld 0x898 25 0 (s.fld 0x894 25 0))

/-- The spill ring is valid (R72). -/
def State.spillOk (s : State) : Bool :=
  let n := s.fld 0x890 12 8
  let g := s.fld 0x890 7 0
  decide (16 ≤ n) && decide (n ≤ 26) && (List.range (2 ^ (n - 20))).all fun i =>
    decide (g + i < s.fld 0x1800 24 16) && s.owns 0 .mem (g + i)

/-- The check of R72, at SPILL = 1, at every write of LOG_SPILL_CFG and at every partition edit. -/
def State.checkSpill (s : State) : State :=
  if s.bit 0x880 2 && !s.spillOk then (s.wbit 0x880 2 false).wbit 0x884 18 true else s

/-- LOG_CTRL.SPILL written 1 (R72). -/
def execLogSpillEnable (s : State) : Res := ok ((s.wbit 0x880 2 true).checkSpill)

/-- A write of LOG_SPILL_CFG (R72): a valid ring moves, an invalid one ends spilling. -/
def execLogSpillCfgWrite (v : Word) (s : State) : Res :=
  let s := (s.wr 0x890 (v &&& 0x1FFF)).checkSpill
  if s.bit 0x880 2 then ok ((s.wr 0x894 0).wr 0x898 0) else ok s

/-- The oldest entry moves into the read window (LOG_ENTRY0 to 3); nothing is there with SPILL = 1 or an empty log. -/
def State.logPop (s : State) : State :=
  if s.bit 0x880 2 || s.logCount == 0 then s.each (List.range 4) fun s k => s.wr (0x8B0 + 4 * k) 0
  else
    let b := s.bytes true s.logOldest 16
    let s := s.each (List.range 4) fun s k =>
      s.wr (0x8B0 + 4 * k) (BitVec.ofNat 32 (leNat ((b.drop (4 * k)).take 4) + (if k = 3 then 0x80000000 else 0)))
    s.setLogCount (s.logCount - 1)

end Sys2Proof.Machine
end

