-- ==== Sys2Proof/Machine/Krairlink.lean ====
section
/-! DEFINITION. Krairlink (17): ports, packets and virtual channels, the tree, membership, time alignment, exported events and
remote accesses as their originator sees them. Fields of KLp_STATUS: [2:0] STATE (0 OFF, 1 TRAINING, 2 UP, 3 LEAVING, 4 DOWN),
[5:4] ROLE (0 none, 1 upstream, 2 child, 3 blocked), [11:8] BLOCK_WHY, [15:12] DOWN_WHY, [31:24] PEER_ADDR. -/

namespace Sys2Proof.Machine

abbrev klR (p : Nat) : Nat := 0x3500 + 0x40 * p
def State.kp (s : State) (p : Nat) : PortSt := Tab.get (fun _ => {}) s.kl.ports p
def State.setKp (s : State) (p : Nat) (x : PortSt) : State :=
  { s with kl := { s.kl with ports := Tab.set (fun _ => {}) s.kl.ports p x } }
def State.klState (s : State) (p : Nat) : Nat := s.fld (klR p + 4) 2 0
def State.klRole (s : State) (p : Nat) : Nat := s.fld (klR p + 4) 5 4
def State.setRole (s : State) (p r why : Nat) : State := (s.wfld (klR p + 4) 5 4 r).wfld (klR p + 4) 11 8 why

/-- The unit's place in the tree: KL_STATUS. -/
def State.inTree (s : State) : Bool := s.bit 0x3404 0
def State.isRoot (s : State) : Bool := s.bit 0x3404 1
def State.addr (s : State) : Nat := s.fld 0x3404 31 24
def State.depth (s : State) : Nat := s.fld 0x3404 15 12
def State.upPort (s : State) : Option Nat := if s.bit 0x3404 7 then some (s.fld 0x3404 10 8) else none
def State.portsUp (s : State) : List Nat := (List.range 4).filter fun p => s.klState p == 2
def State.children (s : State) : List Nat := s.portsUp.filter fun p => s.klRole p == 2

/-- KL_STATUS.ROOT_DOMAIN (R484). -/
def State.rootDomain (s : State) : Bool := s.isRoot || !s.inTree || s.bit 0x504 2 || s.bit 0x504 3
def State.showDomain (s : State) : State := s.wbit 0x3404 3 s.rootDomain

/-! ### Sending (R485 to R490) -/

/-- A packet goes out on a port. -/
def State.emit (s : State) (p hops : Nat) (k : Pkt) : State := { s with kl := { s.kl with sent := s.kl.sent ++ [(p, hops, k)] } }

/-- The virtual channel of a packet (R486): 1 EVT, 2 RSP, 3 REQ; 0 TIME and the control packets. -/
def vcOf : Pkt → Nat
  | .event .. | .member .. => 1
  | .rdRsp .. | .wrRsp .. | .irqMsg .. | .joinAck .. => 2
  | .rdReq .. | .wrReq .. | .joinReq .. | .depart .. | .resetCmd .. => 3
  | _ => 0

/-- What waits on a credited channel, and the credits held for it. -/
def PortSt.chan (x : PortSt) (vc : Nat) : List OutPkt × Nat :=
  if vc = 1 then (x.evt, x.cEvt) else if vc = 2 then (x.rsp, x.cRsp) else (x.req, x.cReq)
def PortSt.setChan (x : PortSt) (vc : Nat) (c : List OutPkt × Nat) : PortSt :=
  if vc = 1 then { x with evt := c.1, cEvt := c.2 }
  else if vc = 2 then { x with rsp := c.1, cRsp := c.2 }
  else { x with req := c.1, cReq := c.2 }

/-- Send a sequenced packet: the next LSEQ, kept until it is acknowledged (R489). -/
def State.sendSeq (s : State) (p : Nat) (e : OutPkt) : State :=
  let x := s.kp p
  let t := if x.air.isEmpty then s.time.mono else x.timer
  (s.setKp p { x with
    tx := (x.tx + 1) % 4096, timer := t, air := x.air ++ [{ lseq := x.tx, hops := e.hops, pkt := e.pkt, tries := 1 }] }).emit p
      e.hops e.pkt

/-- The channel whose head goes out next: one with a credit, EVT before RSP before REQ, but one that has waited 16 µs first (R488). A
port that leaves sends only responses (R502). -/
def State.nextVc (s : State) (p : Nat) : Option Nat :=
  let x := s.kp p
  let st := s.klState p
  let can := [1, 2, 3].filter fun vc =>
    !(x.chan vc).1.isEmpty && decide (0 < (x.chan vc).2) && (st == 2 || (st == 3 && vc == 2))
  (can.find? fun vc => (x.chan vc).1.head?.any fun e => decide (e.since + us 16 ≤ s.time.mono)) <|> can.head?

/-- One packet of a port, with fewer than 8 unacknowledged (R488, R489); the one behind it is now the head of its channel. -/
def State.pump1 (s : State) (p : Nat) : State :=
  let x := s.kp p
  if 8 ≤ x.air.length then s
  else match s.nextVc p with
    | none => s
    | some vc => match x.chan vc with
      | (e :: t, c) =>
        let t := match t with
          | h :: t => { h with since := s.time.mono } :: t
          | [] => []
        (s.setKp p (x.setChan vc (t, c - 1))).sendSeq p e
      | ([], _) => s

def State.pump (s : State) (p : Nat) : State := s.each (List.range 8) fun s _ => s.pump1 p

/-- Queue a packet on its virtual channel (R486); those of channel TIME and control packets are never queued. -/
def State.queue (s : State) (p hops : Nat) (k : Pkt) : State :=
  if vcOf k = 0 then s.emit p hops k
  else
    let x := s.kp p
    let c := x.chan (vcOf k)
    (s.setKp p (x.setChan (vcOf k) (c.1 ++ [{ hops := hops, since := s.time.mono, pkt := k }], c.2))).pump p

/-- The ports a packet goes out on (R490); `from_` is the port it arrived on, which only a broadcast leaves out (log entry
131). -/
def State.routeOf (s : State) (dst : Nat) (from_ : Option Nat) : List Nat :=
  let ups := match s.upPort with
    | some p => [p]
    | none => []
  if dst = 255 then (ups ++ s.children).filter fun p => some p != from_
  else match s.children.find? fun p => (s.kp p).subtree.contains dst with
    | some p => [p]
    | none => ups

/-- Put a packet on its way (R490). -/
def State.route (s : State) (dst : Nat) (from_ : Option Nat) (hops : Nat) (k : Pkt) : State :=
  s.each (s.routeOf dst from_) fun s p => s.queue p hops k

/-- Forward a packet that arrived on port `p` with `hops`: one hop more, and none past 15 (R485, R490). -/
def State.forward (s : State) (dst : Nat) (a : Via) (k : Pkt) : State :=
  if a.hops = 15 then s else s.route dst (some a.port.val) (a.hops + 1) k

/-- Whether a port takes data packets: UP, and not blocked (R473). -/
def State.hears (s : State) (p : Fin 4) : Bool := s.klState p == 2 && s.klRole p != 3

/-- Whether a port takes responses: also one whose peer has left, which sends the responses it has queued (R502). -/
def State.hearsRsp (s : State) (p : Fin 4) : Bool := s.hears p || (s.klState p == 4 && s.fld (klR p + 4) 15 12 == 1)

/-- A sequenced packet of a channel is accepted (R489): the next LSEQ is expected, this one acknowledged, and its buffer free again
(R488; log entry 63). A port whose peer has left only acknowledges. -/
def State.accept (s : State) (p : Fin 4) (vc : Nat) : State :=
  let x := s.kp p
  let s := (s.setKp p { x with rx := (x.rx + 1) % 4096 }).emit p 0 (.ack (BitVec.ofNat 12 x.rx))
  if s.klState p = 2 then
    s.emit p 0 (if vc = 1 then .credit 1 0 0 else if vc = 2 then .credit 0 1 0 else .credit 0 0 1)
  else s

/-! ### Remote accesses of this unit's VIs (R497, R499) -/

def State.ra (s : State) (v : Nat) : RaSt := Tab.get (fun _ => {}) s.kl.ras v
def State.setRa (s : State) (v : Nat) (x : RaSt) : State := { s with kl := { s.kl with ras := Tab.set (fun _ => {}) s.kl.ras v x } }

def State.inRoster (s : State) (u : Nat) : Bool := s.bit (0x3440 + 4 * (u / 32)) (u % 32)
def State.ros (s : State) (u : Nat) : Option RosEnt := Tab.get (fun _ => none) s.kl.roster u

/-- Whether a remote access can be sent (R497). -/
def State.raGood (s : State) (u : Nat) : Bool := s.inTree && u != 255 && s.inRoster u

/-- The hops to another unit: down its subtree, or by way of the root (log entry 28). -/
def State.hops (s : State) (u : Nat) : Nat :=
  let d := ((s.ros u).map (·.depth)).getD 0
  if s.children.any fun p => (s.kp p).subtree.contains u then max 1 (d - s.depth) else max 1 (s.depth + d)

/-- A read ends (R499): BUSY clears, DONE sets, with the result and the data. -/
def State.raReadEnd (s : State) (v res : Nat) (data : Word) : State :=
  ((((s.wbitv v 0x360C 9 false).wbitv v 0x360C 8 true).wfldv v 0x360C 3 0 res).wrv v 0x3610 data).setRa v { s.ra v with read := none }

/-- A failed write makes its fault record (R419, R499). -/
def State.raFail (s : State) (v : Nat) (w : RaWrite) (reason : Nat) : State :=
  s.pwf v w.ofs w.rid w.port reason (some (w.unit, w.rvi))

/-- Send one write request of VI `v`. -/
def State.raSend (s : State) (v : Nat) (w : RaWrite) (data : Word) : State :=
  let s := s.setRa v { s.ra v with writes := (s.ra v).writes ++ [w] }
  let s := s.after (us 200 * s.hops w.unit) (.remoteTimeout (Fin.ofNat 32 v) false (BitVec.ofNat 16 w.rid))
  let k : Pkt := .wrReq (BitVec.ofNat 8 w.unit) (BitVec.ofNat 8 s.addr) (BitVec.ofNat 16 w.rid) (BitVec.ofNat 8 w.rvi)
    (BitVec.ofNat 8 v) (BitVec.ofNat 16 w.ofs) data
  if (s.routeOf w.unit none).isEmpty then
    (s.setRa v { s.ra v with writes := (s.ra v).writes.filter (· ≠ w) }).raFail v w 4
  else s.route w.unit none 0 k

/-- Where KL_RA_ADDR points, for a request with tag `tag` from `port`. -/
def State.raTarget (s : State) (v tag port : Nat) : RaWrite :=
  let a := s.rdv v 0x3600
  { rid := tag, unit := bf a 31 24, rvi := bf a 20 16, ofs := bf a 15 2 * 4, port := port }

/-- KL_RA_ADDR.INC: the offset advances by 4. -/
def State.raInc (s : State) (v : Nat) : State :=
  if s.bitv v 0x3600 23 then
    (s.wfldv v 0x3600 15 0 ((s.fldv v 0x3600 15 2 * 4 + 4) % 65536)).touch (viKey v 0x3600) 0xFFFF
  else s

/-- A write of KL_RA_WDATA (R497): refused, sent, or waiting for one of 16 slots. -/
def State.raWrite (s : State) (v tag port : Nat) (data : Word) : State :=
  let w := s.raTarget v tag port
  if !s.raGood w.unit then (s.raFail v w 4).raInc v
  else if 16 ≤ (s.ra v).writes.length then s.setRa v { s.ra v with waiting := (s.ra v).waiting ++ [(data, tag, port)] }
  else (s.raSend v w data).raInc v

/-- The writes that wait are accepted while a slot is free. -/
def State.raNext (s : State) (v : Nat) : State :=
  s.each (s.ra v).waiting fun s _ =>
    let x := s.ra v
    match x.waiting with
    | (d, t, p) :: r => if x.writes.length < 16 then (s.setRa v { x with waiting := r }).raWrite v t p d else s
    | [] => s

/-- A write of 1 to KL_RA_CMD.READ (R497). -/
def State.raRead (s : State) (v tag port : Nat) : State :=
  let w := s.raTarget v tag port
  if s.bitv v 0x360C 9 then ((s.wbitv v 0x360C 8 true).wfldv v 0x360C 3 0 7).raInc v
  else if !s.raGood w.unit then (s.raReadEnd v 7 0).raInc v
  else
    let s := (s.wbitv v 0x360C 9 true).setRa v { s.ra v with read := some w }
    let s := s.after (us 200 * s.hops w.unit) (.remoteTimeout (Fin.ofNat 32 v) true (BitVec.ofNat 16 tag))
    let k : Pkt := .rdReq (BitVec.ofNat 8 w.unit) (BitVec.ofNat 8 s.addr) (BitVec.ofNat 16 tag) (BitVec.ofNat 8 w.rvi)
      (BitVec.ofNat 8 v) (BitVec.ofNat 16 w.ofs)
    let s := if (s.routeOf w.unit none).isEmpty then s.raReadEnd v 3 0 else s.route w.unit none 0 k
    s.raInc v

/-- A read response for VI `v` (R499): one that no longer has its request is late. -/
def State.rdAnswer (s : State) (v rid status : Nat) (data : Word) : State :=
  if (s.ra v).read.any fun w => w.rid == rid then s.raReadEnd v status (if status = 0 then data else 0)
  else s.incSatv v 0x3614 1

/-- A write response for VI `v` (R499). -/
def State.wrAnswer (s : State) (v rid status : Nat) : State :=
  match (s.ra v).writes.find? fun w => w.rid == rid with
  | none => s.incSatv v 0x3614 1
  | some w =>
    let s := s.setRa v { s.ra v with writes := (s.ra v).writes.filter (· ≠ w) }
    (if status = 0 then s else s.raFail v w 4).raNext v

/-- RD_RSP received (R490, R499). -/
def execRdRsp (a : Via) (dst src : Byte) (rid : BitVec 16) (status ovi : Byte) (data : Word)
    (s : State) : Res :=
  if !s.hearsRsp a.port then ok s
  else
    let s := s.accept a.port 2
    if dst.toNat = s.addr then ok (s.rdAnswer (ovi.toNat % 32) rid.toNat status.toNat data)
    else ok (s.forward dst.toNat a (.rdRsp dst src rid status ovi data))

/-- WR_RSP received (R490, R499). -/
def execWrRsp (a : Via) (dst src : Byte) (rid : BitVec 16) (status ovi : Byte) (off : BitVec 16) (dvi : Byte) (s : State) : Res :=
  if !s.hearsRsp a.port then ok s
  else
    let s := s.accept a.port 2
    if dst.toNat = s.addr then ok (s.wrAnswer (ovi.toNat % 32) rid.toNat status.toNat)
    else ok (s.forward dst.toNat a (.wrRsp dst src rid status ovi off dvi))

/-- A remote access times out (R499). -/
def execRemoteTimeout (v : Fin 32) (isRead : Bool) (rid : BitVec 16) (s : State) : Res :=
  if isRead then
    (if (s.ra v).read.any fun w => w.rid == rid.toNat then ok (s.raReadEnd v 6 0) else ok s)
  else match (s.ra v).writes.find? fun w => w.rid == rid.toNat with
    | some w => ok (((s.setRa v { s.ra v with writes := (s.ra v).writes.filter (· ≠ w) }).raFail v w 5).raNext v)
    | none => ok s

/-! ### Import lines (R481, R493 to R495, R500) -/

abbrev expR (n : Nat) : Nat := 0x3680 + 4 * n
abbrev impR (n : Nat) : Nat := 0x3700 + 8 * n
def State.impQ (s : State) (n : Nat) : List Deliv := Tab.get (fun _ => []) s.kl.imps n
def State.setImpQ (s : State) (n : Nat) (q : List Deliv) : State :=
  { s with kl := { s.kl with imps := Tab.set (fun _ => []) s.kl.imps n q } }
def impAct (n slot : Nat) : ActId := actId 7 (32 * slot + n)
/-- The VI that owns a line. -/
def State.lineVi (s : State) (n : Nat) : Nat := s.ownerVi .evg (n / 2)

/-- The deliveries that wait: one whose late action was dropped has gone. -/
def State.impWaiting (s : State) (n : Nat) : List Deliv :=
  (s.impQ n).filter fun d => d.due.isSome || (s.act (impAct n d.slot)).armed

/-- The import lines that match a source code, a unit and, for EVENT, an LCH (R481, R493, R500). -/
def State.linesFor (s : State) (src unit : Nat) (lch : Option Nat) : List Nat :=
  (List.range 32).filter fun n =>
    let c := s.rd (impR n)
    tb c 31 && bf c 29 28 == src && (tb c 15 || bf c 23 16 == unit) && (match lch with
      | some l => bf c 7 0 == l
      | none => true)

/-- The first FCLK boundary at or after a time, in elapsed TU. -/
def State.ceilAt (s : State) (t : Time) : Nat := s.time.mono + roundUp (s.targetAt t - s.time.mono) 32

/-- A delivery to a line (R493 to R495), received `delay` TU from now: at deliver-at under the late rule, or in the next cycle for
a foreign one. A line holds 16. -/
def State.deliver (s : State) (n : Nat) (d : Deliv) (at_ : Option Time) (delay : Nat) : State :=
  let q := s.impWaiting n
  let s := s.setImpQ n q
  if 16 ≤ q.length then s.incSatv (s.lineVi n) 0x3620 1
  else match at_ with
    | none =>
      let t := s.time.mono + 32 + delay
      (s.setImpQ n (q ++ [{ d with due := some t }])).at_ t (.importDeliver (Fin.ofNat 32 n))
    | some t =>
      let i := ((List.range 16).find? fun i => !q.any fun e => e.due.isNone && e.slot == i).getD 0
      let a := impAct n i
      let s := s.setImpQ n (q ++ [{ d with slot := i, due := none }])
      let x : Act := { armed := true, target := t, drop := s.bit (impR n) 30, defer := true }
      let s := s.setAct a x
      if !s.actReady a then s
      else
        let s := s.judge a x (s.now + BitVec.ofNat 64 delay)
        let y := s.act a
        if y.late then s.setAct a { y with earliest := y.earliest + delay } else s

/-- When a delivery's line asserts (R493), in elapsed TU; none while it waits for its arming moment. -/
def State.assertAt (s : State) (n : Nat) (d : Deliv) : Option Nat :=
  match d.due with
  | some t => some t
  | none =>
    let x := s.act (impAct n d.slot)
    if !x.armed || x.defer then none
    else some (max (s.ceilAt x.target) (if x.late then x.earliest else 0) - 128)

/-- The deliveries of a line that assert by now. -/
def State.impDue (s : State) (n : Nat) : List Deliv :=
  (s.impWaiting n).filter fun d => (s.assertAt n d).any (· ≤ s.time.mono)

/-- The assertion a delivery makes. -/
def State.impSrc (s : State) (n : Nat) (d : Deliv) : Src :=
  { s.srcOf (122 + n) d.stamp with
    unit := BitVec.ofNat 8 d.unit, imp := true, multi := d.multi, swf := d.swf,
    late := d.due.isNone && (s.act (impAct n d.slot)).late, prov := false }

def firstDeliv : Deliv → List Deliv → Deliv
  | a, [] => a
  | a, b :: t =>
    let le := a.stamp.toNat < b.stamp.toNat || (a.stamp == b.stamp && decide (a.unit * 256 + a.srcp ≤ b.unit * 256 + b.srcp))
    firstDeliv (if le then a else b) t

/-- IMPORT_DELIVER (R493, R495): the deliveries of line `n` due in this cycle make one assertion. -/
def execImportDeliver (n : Fin 32) (s : State) : Res :=
  match s.impDue n with
  | [] => ok s
  | a :: t =>
    if !s.time.fclk then ok s
    else
      let d := firstDeliv a t
      let x := { s.impSrc n d with multi := d.multi || !t.isEmpty }
      let due := a :: t
      let s := s.setImpQ n ((s.impWaiting n).filter fun e => !due.contains e)
      let s := s.each (due.filter fun e => e.due.isNone) fun s e => s.disarm (impAct n e.slot)
      ok (((s.wr (impR n + 4) (BitVec.ofNat 32 d.info)).assertSrc x).reviewMode)

/-- An EVENT at this unit's import lines (R493, R494). -/
def State.eventIn (s : State) (src : Nat) (stamp : Time) (budget lch srcp : Nat) (foreign multi swf : Bool) (delay : Nat) :
    State :=
  s.each (s.linesFor 0 src (some lch)) fun s n =>
    let d : Deliv := { slot := 0, due := none, stamp := stamp, unit := src, srcp := srcp, info := src * 2 ^ 24 + lch * 65536,
                       multi := multi, swf := swf }
    if foreign || !s.rootDomain then (s.deliver n d none delay).incSatv (s.lineVi n) 0x3624 1
    else s.deliver n d (some (stamp + BitVec.ofNat 64 budget)) delay

/-- EVENT received (R490, R493). -/
def execEvent (a : Via) (dst src : Byte) (stamp : Time) (budget : Word) (lch srcp : Byte) (foreign multi swf : Bool) (s : State) : Res :=
  if !s.hears a.port then ok s
  else
    let s := s.accept a.port 1
    let s := if dst.toNat = s.addr ∨ dst.toNat = 255 then
        s.eventIn src.toNat stamp budget.toNat lch.toNat srcp.toNat foreign multi swf 0 else s
    if dst.toNat = s.addr then ok s
    else ok (s.forward dst.toNat a (.event dst src stamp budget lch srcp foreign multi swf))

/-- IRQ_MSG at this unit (R500). -/
def State.irqIn (s : State) (src svi vector dvi : Nat) : State :=
  let l := (s.linesFor 3 src none).filter fun n => s.owns dvi .evg (n / 2)
  if l.isEmpty then s.incSatv dvi 0x3620 1
  else s.each l fun s n =>
    s.deliver n { slot := 0, due := none, stamp := s.now, unit := src, srcp := 0,
                  info := src * 2 ^ 24 + svi * 65536 + vector, multi := false, swf := false } none 0

/-- IRQ_MSG received. -/
def execIrqMsg (a : Via) (dst src svi vector dvi : Byte) (s : State) : Res :=
  if !s.hearsRsp a.port then ok s
  else
    let s := s.accept a.port 2
    if dst.toNat = s.addr then ok (s.irqIn src.toNat (svi.toNat % 32) vector.toNat (dvi.toNat % 32))
    else ok (s.forward dst.toNat a (.irqMsg dst src svi vector dvi))

/-- Interrupt messages that became ready in the cycle leave as IRQ_MSG while the ports' RSP channels have room, or reach this unit's
own lines; those the port cannot take wait (R435, R500). -/
def State.sendIrqs (s : State) : State :=
  s.each s.out fun s e => match e.2 with
    | .irq v u d n =>
      let t := { s with out := s.out.erase e }
      if u = s.addr then t.irqIn u v n d
      else if (s.routeOf u none).all fun p => decide ((s.kp p).rsp.length < 8) then
        t.route u none 0 (.irqMsg (BitVec.ofNat 8 u) (BitVec.ofNat 8 s.addr) (BitVec.ofNat 8 v) (BitVec.ofNat 8 n) (BitVec.ofNat 8 d))
      else s
    | _ => s

/-! ### Export lines (R492) -/

def State.setExpQ (s : State) (n : Nat) (q : List Src) : State :=
  { s with kl := { s.kl with exps := Tab.set (fun _ => []) s.kl.exps n q } }

/-- Queued exports move to the ports' EVT channels while these have room; one for a unit that no port leads to is lost. -/
def State.pumpExports (s : State) : State :=
  s.each (List.range 32) fun s n =>
    match s.expQ n with
    | [] => s
    | x :: t =>
      let c := s.rd (expR n)
      let ps := s.routeOf (bf c 15 8) none
      if ps.isEmpty && bf c 15 8 != 255 then (s.setExpQ n t).incSatv (s.lineVi n) 0x3628 1
      else if ps.all fun p => decide ((s.kp p).evt.length < 8) then
        let sp : Byte := if x.swf && !x.imp then BitVec.ofNat 8 x.swvi.val else BitVec.ofNat 8 x.prod
        (s.setExpQ n t).route (bf c 15 8) none 0
          (.event (BitVec.ofNat 8 (bf c 15 8)) (BitVec.ofNat 8 s.addr) x.stamp (s.rd 0x3420) (BitVec.ofNat 8 (bf c 7 0)) sp
            (!s.rootDomain) x.multi x.swf)
      else s

/-- An event at export consumer `n` (R492), sent from the cycle after on. One whose stamp counts on the fast grid before the handoff waits
for its conversion (R20); one that comes in the cycle in which the last port closes counts in KL_EXP_LOST. -/
def execExportEv (n : Fin 32) (x : Src) (s : State) : Res :=
  let c := s.rd (expR n)
  if !tb c 31 then ok s
  else if x.prov && s.time.handoff then ok (s.after 32 (.exportEv n x))
  else
    let dest := bf c 15 8
    let sp := if x.swf && !x.imp then x.swvi.val else x.prod
    let home (s : State) : State :=
      s.eventIn s.addr x.stamp (s.rd 0x3420).toNat (bf c 7 0) sp (!s.rootDomain) x.multi x.swf 32
    if !s.inTree then
      let lost := s.incSatv (s.lineVi n) 0x3628 1
      (if dest = 255 ∨ dest = 0 then ok (home (if s.kl.lostAt = some s.time.mono then lost else s)) else ok lost)
    else
      let s := if dest = 255 ∨ dest = s.addr then home s else s
      if dest = s.addr then ok s
      else if 4 ≤ (s.expQ n).length then ok s
      else ok (s.setExpQ n (s.expQ n ++ [x]))

/-! ### The tree (R471 to R477) -/

/-- The better of two root candidates (R471). -/
def betterRoot (prio : Nat) (serial : BitVec 64) (prio' : Nat) (serial' : BitVec 64) : Bool :=
  decide (prio' < prio) || (prio == prio' && decide (serial.toNat < serial'.toNat))

/-- Put a member into the roster, or take one out (R480); LINK pends in every VI. -/
def State.setRos (s : State) (u : Nat) (e : Option RosEnt) : State :=
  let s := (s.wbit (0x3440 + 4 * (u / 32)) (u % 32) e.isSome)
  let s := { s with kl := { s.kl with roster := Tab.set (fun _ => none) s.kl.roster u e } }
  (s.wr 0x342C (BitVec.ofNat 32 (s.kl.roster.length))).pendAll 23

/-- The roster is empty. -/
def State.clearRoster (s : State) : State :=
  let s := s.each (List.range 8) fun s k => s.wr (0x3440 + 4 * k) 0
  ({ s with kl := { s.kl with roster := [], resv := [], joins := [], joining := false } }).wr 0x342C 0

/-- The root known: serial and PRIO. -/
def State.setRoot (s : State) (serial : BitVec 64) (prio : Nat) : State :=
  (s.wr64 0x3410 0x3414 serial).wr 0x3418 (BitVec.ofNat 32 prio)

/-- The unit is alone (R471). -/
def State.goAlone (s : State) : State :=
  let w := setFld (s.rd 0x3404) 31 24 0
  let w := setFld (setFld w 15 7 0) 1 0 0
  (((s.wr 0x3404 w).setRoot 0 0).clearRoster).showDomain

/-- The unit is the root of its tree (R472). -/
def State.beRoot (s : State) : State :=
  let w := setFld (setFld (s.rd 0x3404) 31 24 0) 15 7 0
  let s := (((s.wr 0x3404 (setFld w 1 0 3)).clearRoster).setRoot s.kl.serial (s.fld 0x3400 31 24)).showDomain
  ({ s with kl := { s.kl with parent := 0 } }).setRos 0 (some { serial := s.kl.serial, depth := 0, parent := 0 })

/-- The slaved state is lost without a step (R24); what is left of the slew in progress is still made. -/
def State.timeHoldover (s : State) : State :=
  if s.bit 0x504 2 then
    let s := ((s.wbit 0x504 2 false).wbit 0x504 3 true).showDomain
    { s with kl := { s.kl with aligned := false, thetas := [], t1 := none } }
  else s

/-- Send JOIN_REQ by the upstream port (R475). -/
def State.sendJoin (s : State) (p : Nat) : State :=
  let pref := if s.addr ≠ 0 then s.addr else s.fld 0x3400 7 0
  ({ s with kl := { s.kl with joining := true } }).queue p 0
    (.joinReq (BitVec.ofNat 8 s.addr) s.kl.serial (BitVec.ofNat 8 pref))

/-- Adopt port `p` as upstream, with the root its ANNOUNCE names (R472, R475). `reform`: a better root has appeared, and the
epoch increments (R477). -/
def State.adopt (s : State) (p : Nat) (a : Ann) (reform : Bool) : State :=
  let s := match s.upPort with
    | some q => if q = p then s else s.setRole q 0 0
    | none => s
  let s := if reform then (s.clearRoster).wfld 0x3404 23 16 (s.fld 0x3404 23 16 + 1) else s
  let w := setFld (setFld (setFld (setFld (s.rd 0x3404) 15 12 (a.depth + 1)) 10 8 p) 7 7 1) 1 0 1
  let s := ((s.wr 0x3404 w).setRole p 1 0).setRoot a.root a.prio
  let s := { s with kl := { s.kl with parent := a.sender, nextReq := s.time.mono, nextOfs := s.time.mono + ms 1 } }
  s.showDomain.sendJoin p

/-- The root a unit knows: itself while it is alone (R472). -/
def State.rootKnown (s : State) : Nat × BitVec 64 :=
  if s.inTree then (s.fld 0x3418 7 0, s.rd64 0x3410 0x3414) else (s.fld 0x3400 31 24, s.kl.serial)

/-- No trained port admits the unit: each is blocked for its depth, or there is none (R471, R474). -/
def State.noPort (s : State) : Bool := s.portsUp.all fun p => s.klRole p == 3 && s.fld (klR p + 4) 11 8 == 2

/-- A port offers a depth above 8 (R474): it is blocked, and the unit is alone unless another port serves it (log
entry 131). -/
def State.tooDeep (s : State) (p : Nat) : State :=
  let s := s.setRole p 3 2
  if s.inTree && s.upPort.isNone && s.noPort then s.goAlone else s

/-- A unit without an upstream port takes, in this order, a blocked port that hears the same root, the best root it hears,
or itself (R479). -/
def State.upstreamLost (s : State) : State :=
  let s := s.timeHoldover.wbit 0x3404 7 false
  let root := s.rd64 0x3410 0x3414
  let heard := s.portsUp.filterMap fun p => match (s.kp p).ann with
    | some a => if a.depth < 8 ∧ a.parent ≠ s.kl.serial ∧ s.time.mono ≤ a.at_ + us 400 then some (p, a) else none
    | none => none
  match heard.find? fun x => x.2.root == root && s.klRole x.1 == 3 with
  | some (p, a) => s.adopt p a false
  | none =>
    let mine := (s.fld 0x3400 31 24, s.kl.serial)
    let best := heard.foldl (fun (m : Option (Nat × Ann)) x =>
      let b := match m with
        | some y => betterRoot x.2.prio x.2.root y.2.prio y.2.root
        | none => betterRoot x.2.prio x.2.root mine.1 mine.2
      if x.2.root != root && b then some x else m) none
    match best with
    | some (p, a) => s.adopt p a true
    | none => if s.noPort then s.goAlone else s.beRoot.wfld 0x3404 23 16 (s.fld 0x3404 23 16 + 1)

/-- Broadcast a MEMBER of the root (R480), with its own lines. -/
def State.memberLines (s : State) (u kind : Nat) (t : Time) : State :=
  s.each (s.linesFor (if kind = 1 then 1 else 2) u none) fun s n =>
    let d : Deliv := { slot := 0, due := none, stamp := t, unit := 0, srcp := 0, info := u * 2 ^ 24 + kind * 65536,
                       multi := false, swf := false }
    if !s.rootDomain then (s.deliver n d none 0).incSatv (s.lineVi n) 0x3624 1
    else s.deliver n d (some (t + (s.rd 0x3420).setWidth 64)) 0

def State.sendMember (s : State) (u kind : Nat) (e : RosEnt) : State :=
  (s.route 255 none 0 (.member (BitVec.ofNat 8 u) (BitVec.ofNat 8 kind) (BitVec.ofNat 8 e.depth) s.now e.serial)).memberLines u kind s.now

/-- The root removes an address (R476, R480): a lost one stays reserved for 10 ms. -/
def State.removeAddr (s : State) (u kind : Nat) : State :=
  match s.ros u with
  | none => s
  | some e =>
    let s := s.each (List.range 4) fun s p => s.setKp p { s.kp p with subtree := (s.kp p).subtree.filter (· ≠ u) }
    let s := (s.setRos u none).sendMember u kind e
    if kind = 3 then
      let r : Resv := { serial := e.serial, until_ := s.time.mono + ms 10 }
      ({ s with kl := { s.kl with resv := Tab.set (fun _ => none) s.kl.resv u (some r) } }).after (ms 10)
        (.addressReserveExpiry (BitVec.ofNat 8 u))
    else s

/-- The addresses behind a port have gone (R478). -/
def State.departAll (s : State) (l : List Nat) (kind : Nat) : State :=
  if s.isRoot then s.each l fun s u => s.removeAddr u kind
  else match s.upPort with
    | some q => s.each l fun s u => s.queue q 0 (.depart (BitVec.ofNat 8 u) (BitVec.ofNat 8 kind))
    | none => s

/-! ### A port going down (R470, R478, R489, R502) -/

/-- The requests queued for a port that closes (R502): local ones are answered with LINK_DOWN, forwarded ones where a route
back exists. -/
def State.reqDown (s : State) (p : Nat) (k : Pkt) : State :=
  match k with
  | .rdReq _ src rid _ ovi _ =>
    if src.toNat = s.addr then s.rdAnswer (ovi.toNat % 32) rid.toNat 5 0
    else s.each ((s.routeOf src.toNat none).filter (· ≠ p)) fun s q =>
      s.queue q 0 (.rdRsp src (BitVec.ofNat 8 s.addr) rid 5 ovi 0)
  | .wrReq _ src rid dvi ovi off _ =>
    if src.toNat = s.addr then s.wrAnswer (ovi.toNat % 32) rid.toNat 5
    else s.each ((s.routeOf src.toNat none).filter (· ≠ p)) fun s q =>
      s.queue q 0 (.wrRsp src (BitVec.ofNat 8 s.addr) rid 5 ovi off dvi)
  | _ => s

/-- Port `p` is down for a reason (DOWN_WHY); kind 2 an announced leave, 3 a loss. -/
def State.downPort (s : State) (p why kind : Nat) : State :=
  let x := s.kp p
  let role := s.klRole p
  let s := ((s.wfld (klR p + 4) 2 0 4).wfld (klR p + 4) 15 12 why).setRole p 0 0
  let s := (s.wfld (klR p + 4) 31 24 0).incSat (klR p + 0x1C) (x.evt.length + x.rsp.length + x.air.length)
  let s := s.setKp p { rx := x.rx, tx := x.tx }
  let s := s.each x.req fun s k => s.reqDown p k.pkt
  let s := if role = 2 then s.departAll x.subtree kind else if role = 1 then s.upstreamLost else s
  if s.portsUp.isEmpty && s.inTree then
    let s := s.each (List.range 32) fun s n => (s.incSatv (s.lineVi n) 0x3628 (s.expQ n).length).setExpQ n []
    let s := s.timeHoldover.goAlone
    { s with kl := { s.kl with lostAt := some s.time.mono } }
  else s

/-- A port starts training (R469). -/
def State.startTrain (s : State) (p : Nat) : State :=
  let c : Instr := .trainFail (Fin.ofNat 4 p)
  ((s.wfld (klR p + 4) 2 0 1).cancel c).after (ms 10) c

/-- The port has trained (R469, R405): it is UP, with fresh sequence numbers and credits; a unit that was alone is the root of
its tree until it hears a better one. -/
def execPortTrained (p : Fin 4) (peer : BitVec 64) (s : State) : Res :=
  if !s.bit (klR p) 0 || !s.domOn (24 + p) || s.klState p != 1 then ok s
  else
    let s := ((s.wfld (klR p + 4) 2 0 2).setRole p 0 0).cancel (.trainFail p)
    let s := (s.setKp p { peer := peer }).applyTrims 5 p
    let s := if s.inTree then s else s.beRoot
    ok ((s.cancel .announceSend).after 0 .announceSend)

/-- The port has not trained in 10 ms (R469). -/
def execTrainFail (p : Fin 4) (s : State) : Res :=
  if s.klState p = 1 then ok (((s.wfld (klR p + 4) 2 0 4).wfld (klR p + 4) 15 12 5).after (ms 100) (.trainRetry p)) else ok s

/-- Training is tried again every 100 ms, and 10 µs after the peer has left, while EN = 1 (R469; log entry 126). -/
def execTrainRetry (p : Fin 4) (s : State) : Res :=
  if s.bit (klR p) 0 && s.klState p == 4 && s.domOn (24 + p) then ok (s.startTrain p) else ok s

/-- Loss of signal (R470): DOWN with reason LOSS, and the port retrains. -/
def execLossOfSignal (p : Fin 4) (s : State) : Res :=
  if s.klState p = 2 ∨ s.klState p = 3 then
    let s := (s.incSat (klR p + 0x20) 1).downPort p 2 3
    if s.bit (klR p) 0 then ok (s.startTrain p) else ok s
  else ok s

/-- ANNOUNCE sent on every trained port of a unit in a tree (R472), every 100 µs. -/
def execAnnounceSend (s : State) : Res :=
  if s.portsUp.isEmpty then ok s
  else
    let k : Pkt := .announce (BitVec.ofNat 8 s.addr) (s.rd64 0x3410 0x3414) (BitVec.ofNat 8 (s.fld 0x3418 7 0)) (BitVec.ofNat 8 s.depth)
      (BitVec.ofNat 8 (s.fld 0x3404 23 16)) s.kl.serial s.kl.parent
    let t := if s.inTree then s.each s.portsUp fun s p => s.emit p 0 k else s
    ok ((t.cancel .announceSend).after (us 100) .announceSend)

/-- An ANNOUNCE received (R472 to R474, R477): a better root is adopted; otherwise the port takes its role. A unit that was alone is the
root where the root it hears is no better than itself. Its SRC is the peer's address (log entry 131). -/
def execAnnounce (h : Near) (rootSerial : BitVec 64) (prio depth epoch : Byte) (sender parent : BitVec 64) (s : State) :
    Res :=
  if s.klState h.port ≠ 2 then ok s
  else
    let a : Ann := { root := rootSerial, prio := prio.toNat, depth := depth.toNat, epoch := epoch.toNat, sender := sender,
                     parent := parent, at_ := s.time.mono }
    let s := (s.setKp h.port { s.kp h.port with ann := some a }).wfld (klR h.port + 4) 31 24 h.src.toNat
    let up := s.upPort == some h.port.val
    let s := if up then s.after (us 400) .announceTimeout else s
    let known := s.rootKnown
    let better := betterRoot a.prio a.root known.1 known.2
    let s := if s.inTree || better then s else s.beRoot
    if better && a.parent != s.kl.serial then
      (if 8 ≤ a.depth then ok (if up then (s.setRole h.port 3 2).upstreamLost else s.tooDeep h.port)
       else ok ((s.adopt h.port a true).after (us 400) .announceTimeout))
    else if a.root != known.2 then
      (if up then ok (s.setRole h.port 0 0).upstreamLost else ok (s.setRole h.port 0 0))
    else if up then
      (if 8 ≤ a.depth then ok ((s.setRole h.port 3 2).upstreamLost)
       else ok (({ s with kl := { s.kl with parent := sender } }).wfld 0x3404 15 12 (a.depth + 1)))
    else if a.parent = s.kl.serial then ok (s.setRole h.port 2 0)
    else if !s.isRoot && s.upPort.isNone then
      (if 8 ≤ a.depth then ok (s.tooDeep h.port) else ok ((s.adopt h.port a false).after (us 400) .announceTimeout))
    else ok (s.setRole h.port 3 1)

/-- 400 µs without an ANNOUNCE on the upstream port (R478): a loss. -/
def execAnnounceTimeout (s : State) : Res :=
  match s.upPort with
  | none => ok s
  | some p =>
    if (s.kp p).ann.any fun a => decide (a.at_ + us 400 ≤ s.time.mono) then
      let s := (s.incSat (klR p + 0x20) 1).downPort p 2 3
      if s.bit (klR p) 0 then ok (s.startTrain p) else ok s
    else ok s

/-! ### Membership (R475, R476, R478, R480) -/

/-- The address the root grants (R475, R476); none when all are in use. -/
def State.grant (s : State) (serial : BitVec 64) (pref : Nat) : Option Nat :=
  let free (u : Nat) : Bool :=
    (match s.ros u with
      | some e => e.serial == serial
      | none => true) && (match Tab.get (fun _ => none) s.kl.resv u with
      | some r => r.serial == serial
      | none => true)
  if 1 ≤ pref ∧ pref ≤ 254 ∧ free pref = true then some pref else ((List.range 254).map (· + 1)).find? free

/-- JOIN_REQ received (R475): the root answers, another unit forwards it. The hops it has travelled give the joining unit's depth (log
entry 63). -/
def execJoinReq (p : Fin 4) (src : Byte) (serial : BitVec 64) (pref : Byte) (hops : Fin 16) (s : State) : Res :=
  if !s.hears p then ok s
  else
    let s := s.accept p 3
    let dst : Byte := if src = 0 then 255 else src
    if s.isRoot then
      let ep := BitVec.ofNat 8 (s.fld 0x3404 23 16)
      match s.grant serial pref.toNat with
      | none => ok (s.queue p 0 (.joinAck dst serial 0 1 ep))
      | some u =>
        let par := if hops = 0 then 0 else (Config.openWord 8 s.free).toNat % 256
        let s := { s.fresh with kl := { s.kl with resv := Tab.set (fun _ => none) s.kl.resv u none } }
        let s := s.setKp p { s.kp p with subtree := (s.kp p).subtree.filter (· ≠ u) ++ [u] }
        let e : RosEnt := { serial := serial, depth := hops + 1, parent := par }
        let s := (s.setRos u (some e)).queue p 0 (.joinAck dst serial (BitVec.ofNat 8 u) 0 ep)
        ok (s.sendMember u 1 e)
    else match s.upPort with
      | some q =>
        if hops = 15 then ok s
        else
          let joins := (s.kl.joins.filter fun (j : BitVec 64 × Nat) => j.1 != serial) ++ [(serial, p.val)]
          ok (({ s with kl := { s.kl with joins := joins } }).queue q (hops + 1) (.joinReq src serial pref))
      | none => ok s

/-- JOIN_ACK received (R475, R22, R24): the unit's own takes its address, and the root stands in the roster at address 0 (log entry
127); another's is forwarded and recorded. -/
def execJoinAck (a : AckVia) (serial : BitVec 64) (addr status epoch : Byte) (s : State) : Res :=
  if !s.hearsRsp a.port then ok s
  else
    let s := s.accept a.port 2
    if serial = s.kl.serial then
      if !s.kl.joining then ok s
      else if status = 0 then
        let s := (s.wfld 0x3404 31 24 addr.toNat).wfld 0x3404 23 16 epoch.toNat
        let s := { s with kl := { s.kl with joining := false } }
        let s := s.setRos 0 (some { serial := s.rd64 0x3410 0x3414, depth := 0, parent := 0 })
        let s := if s.bit 0x500 0 then
            { (s.wbit 0x504 2 true).wbit 0x504 3 false with kl := { s.kl with aligned := false, thetas := [] } }
          else s
        ok s.showDomain
      else ok ((s.setRole a.port 3 3).after (ms 10) .joinRetry)
    else match s.kl.joins.find? fun j => j.1 == serial with
      | some (_, q) =>
        let s := { s with kl := { s.kl with joins := s.kl.joins.filter fun j => j.1 != serial } }
        let s := if status = 0 then
            s.setKp q { s.kp q with subtree := (s.kp q).subtree.filter (· ≠ addr.toNat) ++ [addr.toNat] }
          else s
        ok (if a.hops = 15 then s else s.queue q (a.hops + 1) (.joinAck a.dst serial addr status epoch))
      | none => ok s

/-- The unit retries its join every 10 ms (R475). -/
def execJoinRetry (s : State) : Res :=
  match s.upPort with
  | some p => if s.kl.joining then ok ((s.setRole p 1 0).sendJoin p) else ok s
  | none => ok s

/-- A reserved address is free again (R476). -/
def execAddressReserveExpiry (u : Byte) (s : State) : Res :=
  match Tab.get (fun _ => none) s.kl.resv u.toNat with
  | some r => if r.until_ ≤ s.time.mono then
      ok { s with kl := { s.kl with resv := Tab.set (fun _ => none) s.kl.resv u.toNat none } } else ok s
  | none => ok s

/-- LEAVE received (R478, R502): the port is down with reason LEAVE_RX, and trains again 10 µs later while EN = 1 (log entry 126). -/
def execLeave (p : Fin 4) (_reason : Byte) (s : State) : Res :=
  if s.klState p = 2 then
    let s := s.downPort p 1 2
    ok (if s.bit (klR p) 0 then s.after (us 10) (.trainRetry p) else s)
  else ok s

/-- DEPART received (R478, R480). -/
def execDepart (a : Via) (addr kind : Byte) (s : State) : Res :=
  if !s.hears a.port then ok s
  else
    let s := s.accept a.port 3
    if s.isRoot then ok (s.removeAddr addr.toNat kind.toNat)
    else
      let s := s.setKp a.port { s.kp a.port with subtree := (s.kp a.port).subtree.filter (· ≠ addr.toNat) }
      match s.upPort with
      | some q => ok (if a.hops = 15 then s else s.queue q (a.hops + 1) (.depart addr kind))
      | none => ok s

/-- MEMBER received (R480, R481): the roster, source LINK, the import lines; it is forwarded to the subtree. -/
def execMember (a : Via) (addr kind depth : Byte) (time : Time) (serial : BitVec 64) (s : State) : Res :=
  if !s.hears a.port then ok s
  else
    let s := s.accept a.port 1
    let s := s.setRos addr.toNat (if kind = 1 then
        some { serial := serial, depth := depth.toNat, parent := (Config.openWord 8 s.free).toNat % 256 } else none)
    let s := (s.fresh).memberLines addr.toNat kind.toNat time
    ok (s.forward 255 a (.member addr kind depth time serial))

/-! ### Time alignment (R22, R23, R482) -/

/-- TIME_REQ leaves on the upstream port at `t1`. -/
def execTimeReqSend (t1 : Time) (s : State) : Res :=
  match s.upPort with
  | some p => ok (({ s with kl := { s.kl with t1 := some t1, nextReq := s.time.mono + us 125 } }).emit p 0 .timeReq)
  | none => ok s

/-- TIME_REQ received: TIME_RSP carries its arrival and the departure of the answer. -/
def execTimeReq (p : Fin 4) (t2 t3 : Time) (s : State) : Res :=
  if s.hears p then ok (s.emit p 0 (.timeRsp t2 t3)) else ok s

/-- TIME_RSP received: θ and the delay; how a half is rounded is not stated (log entry 27). -/
def execTimeRsp (t2 t3 t4 : Time) (s : State) : Res :=
  match s.upPort, s.kl.t1 with
  | some p, some t1 =>
    let th := openDiv ((t2 - t1).toInt - (t4 - t3).toInt - sext 16 (s.fld (klR p + 8) 15 0)) 2 s.free
    let dl := openDiv ((t4 - t1).toInt - (t3 - t2).toInt) 2 (s.free + 1)
    let s := s.fresh.fresh.wr (klR p + 0xC) (wordOfInt dl)
    let l := s.kl.thetas ++ [th]
    ok { s with kl := { s.kl with t1 := none, thetas := l.drop (l.length - 8) } }
  | _, _ => ok s

/-- A step of the running time by the signed size `d` (R23): FCLK is shifted so that the stepped time's next cycle starts on a multiple
of 32 TU (R11). Armed actions not judged late are judged again (R28). -/
def State.stepTime (s : State) (d : Time) : State :=
  let v := s.time.fast + d
  let t := (v + 31) &&& ~~~31#64
  let s := { s with time := { s.time with fast := t, mono := s.time.mono + (t - v).toNat } }
  (s.recordStep d).reexamine 0 t fun _ => true

/-- Every 1 ms the mean of the last 8 values of θ (R482): KLp_OFFSET, and for a slaved unit a slew below 2,048 TU, or one step
(R23). In holdover the last slew is made again in each 1 ms, so that the time goes on at the last corrected rate (R24; DEDUCED, log
entry 102). -/
def execOffsetApply (s : State) : Res :=
  let s := { s with kl := { s.kl with nextOfs := s.time.mono + ms 1 } }
  let s := if s.bit 0x504 3 then { s with time := { s.time with slew := s.time.rate } } else s
  match s.upPort with
  | none => ok s
  | some p =>
    if s.kl.thetas.length < 8 then ok s
    else
      let m := openDiv s.kl.thetas.sum 8 s.free
      let s := s.fresh.wr (klR p + 0x10) (wordOfInt m)
      if !s.bit 0x504 2 || !s.time.fclk || s.time.handoff then ok s
      else if s.kl.aligned ∧ m.natAbs < 2048 then ok { s with time := { s.time with slew := m, rate := m } }
      else
        ok ({ s with time := { s.time with slew := 0 }, kl := { s.kl with aligned := true, thetas := [] } }.stepTime
          (BitVec.ofInt 64 m))

/-- 1 TU added or omitted in 256 FCLK cycles until the offset is removed (R23): the cycle in progress is 1 TU shorter or longer, so
that the time of record never decreases (R27). -/
def execTimeSlew (s : State) : Res :=
  let d := s.time.slew
  if !(s.bit 0x504 2 || s.bit 0x504 3) || d == 0 || !s.time.fclk then ok s
  else if 0 < d then ok { s with time := { s.time with shift := -1, slew := d - 1 } }
  else ok { s with time := { s.time with shift := 1, slew := d + 1 } }

/-! ### Acknowledgements and replay (R487 to R489) -/

/-- Every LSEQ up to `l` is acknowledged; the 20 µs of R489 count anew. -/
def State.ackTo (s : State) (p l : Nat) : State :=
  let x := s.kp p
  s.setKp p { x with air := x.air.filter (fun a => 8 < (l + 4096 - a.lseq) % 4096), timer := s.time.mono }

/-- Resend from the oldest unacknowledged packet; after 8 sends the port goes down with reason RETRY. -/
def State.replay (s : State) (p : Nat) : State :=
  let x := s.kp p
  if x.air.isEmpty then s
  else if x.air.any fun a => decide (8 ≤ a.tries) then
    let s := (s.incSat (klR p + 0x20) 1).downPort p 3 3
    if s.bit (klR p) 0 then s.startTrain p else s
  else
    let air := x.air.map fun a => { a with tries := a.tries + 1 }
    let s := (s.setKp p { x with air := air, timer := s.time.mono }).incSat (klR p + 0x18) 1
    s.each x.air fun s a => s.emit p a.hops a.pkt

/-- A port that is up, or that still sends its responses (R502). -/
def State.sends (s : State) (p : Nat) : Bool := s.klState p == 2 || s.klState p == 3

def execAck (p : Fin 4) (l : BitVec 12) (s : State) : Res :=
  if s.sends p then ok ((s.ackTo p l.toNat).pump p) else ok s

/-- NAK: resend from the LSEQ expected next. -/
def execNak (p : Fin 4) (l : BitVec 12) (s : State) : Res :=
  if s.sends p then ok ((s.ackTo p ((l.toNat + 4095) % 4096)).replay p) else ok s

def execCredit (p : Fin 4) (evt rsp req : Fin 4) (s : State) : Res :=
  if !s.sends p then ok s
  else
    let x := s.kp p
    ok ((s.setKp p { x with cEvt := min 8 (x.cEvt + evt), cRsp := min 8 (x.cRsp + rsp), cReq := min 8 (x.cReq + req) }).pump p)

/-- Whether packets have gone 20 µs without an ACK (R489). -/
def State.ackLate (s : State) (p : Nat) : Bool :=
  s.sends p && !(s.kp p).air.isEmpty && decide ((s.kp p).timer + us 20 ≤ s.time.mono)

/-- 20 µs without an ACK. -/
def execReplayTimeout (p : Fin 4) (s : State) : Res := if s.ackLate p then ok (s.replay p) else ok s

/-- A packet with a bad CRC gets a NAK and counts, one of bad form is discarded and counts (R485; log entry 128); one out of sequence
gets a NAK, unless it is a duplicate, which is acknowledged (R489). -/
def execKlBadPacket (p : Fin 4) (what : BadPkt) (s : State) : Res :=
  if s.klState p ≠ 2 then ok s
  else
    let x := (s.kp p).rx
    match what with
    | .crc => ok ((s.incSat (klR p + 0x14) 1).emit p 0 (.nak (BitVec.ofNat 12 x)))
    | .form => ok (s.incSat (klR p + 0x14) 1)
    | .lseq g =>
      let d := (x + 4096 - g.toNat) % 4096
      if 1 ≤ d ∧ d ≤ 8 then ok (s.emit p 0 (.ack (BitVec.ofNat 12 ((x + 4095) % 4096)))) else ok (s.emit p 0 (.nak (BitVec.ofNat 12 x)))

/-! ### Reset command and closing (R501, R502) -/

/-- KL_RST_CMD (R501). -/
def execKlRstCmd (v : Word) (s : State) : Res :=
  let l := bf v 25 24
  if !s.inTree || !(l == 1 || l == 2) then ok s
  else ok (s.route (bf v 7 0) none 0 (.resetCmd (BitVec.ofNat 8 (bf v 7 0)) (BitVec.ofNat 8 l)))

/-- RESET_CMD received (R501): forwarded, and acted on when it came from upstream for this unit and RST_EN allows it. -/
def execResetCmd (a : Via) (dst level : Byte) (s : State) : Res :=
  if !s.hears a.port then ok s
  else
    let s := s.accept a.port 3
    let mine := dst.toNat = s.addr ∨ dst.toNat = 255
    let act := s.upPort = some a.port.val ∧ mine ∧ s.bit 0x3400 16 = true
    let s := if dst.toNat = s.addr then s else s.forward dst.toNat a (.resetCmd dst level)
    if act ∧ (level = 1 ∨ level = 2) then ok (s.requestReset 8 level.toNat) else ok s

/-- The reason code of LEAVE (R502). -/
def leaveCode : LeaveWhy → Byte
  | .domainOff => 1 | .reset => 2 | .retrain => 3 | .disabled => 4

/-- A leave ends (R502): the port is DOWN with reason LOCAL; it trains again, or is off. -/
def State.closeEnd (s : State) (p : Fin 4) (why : LeaveWhy) : State :=
  let s := if s.sends p then s.downPort p 4 2 else s
  let s := if s.klState p = 1 then (s.wfld (klR p + 4) 2 0 4).wfld (klR p + 4) 15 12 4 else s
  match why with
  | .retrain => s.startTrain p
  | .reset => s
  | _ => (s.wfld (klR p + 4) 2 0 0).cancel (.trainFail p)

/-- A port closes for an announced leave (R502): LEAVE goes out three times; the port is LEAVING while it sends the responses it has
queued, for up to 2 µs, and then DOWN. -/
def execPortClose (p : Fin 4) (why : LeaveWhy) (s : State) : Res :=
  if s.klState p = 2 ∧ (s.kp p).rsp ≠ [] then
    let t := s.time.mono + us 2
    let s := (s.setKp p { s.kp p with closeAt := t }).wfld (klR p + 4) 2 0 3
    let s := s.each (List.range 3) fun s _ => s.emit p 0 (.leave (leaveCode why))
    ok ((s.pump p).at_ t (.portClose p why))
  else if s.klState p = 2 then ok ((s.each (List.range 3) fun s _ => s.emit p 0 (.leave (leaveCode why))).closeEnd p why)
  else if s.klState p = 3 ∧ s.time.mono < (s.kp p).closeAt then ok (s.at_ (s.kp p).closeAt (.portClose p why))
  else ok (s.closeEnd p why)

end Sys2Proof.Machine
end

