-- ==== Sys2Proof/Machine/Refs.lean ====
section
/-! DEFINITION. Register fields that name another resource by VI number (R414): held as physical numbers, translated on each
access (R553), and cleared by a partition edit that gives the resource to another VI. -/

namespace Sys2Proof.Machine

/-! ### Single fields -/

/-- A selection byte ([7] EN, [6] SHARED, [5:0] CH) as written by VI `v`, as it is held: with the physical channel; 0 where
the VI has no such channel (R56, R553). A byte with EN = 0 names nothing and is held as written (log entry 30). -/
def State.selIn (s : State) (v b : Nat) : Nat :=
  if b < 128 then b
  else if b / 64 % 2 = 1 then
    match s.sharedChs[b % 64]? with
    | some p => 192 + p
    | none => 0
  else match s.chPhys v (b % 64) with
    | some p => 128 + p
    | none => 0

/-- A held selection byte as VI `v` reads it. -/
def State.selOut (s : State) (v b : Nat) : Nat :=
  if b < 128 then b
  else if b / 64 % 2 = 1 then s.sharedOut b
  else match s.chVirt v (b % 64) with
    | some n => 128 + n
    | none => 0

/-- A producer number as written and as read: a number of no VI resource is the same in every view (R46). -/
def State.srcIn (s : State) (v p : Nat) : Nat := if (blockOf prodMap p).isSome then (s.toPhys v prodMap p).getD 0 else p
def State.srcOut (s : State) (v p : Nat) : Nat := if (blockOf prodMap p).isSome then (s.toVirt v prodMap p).getD 0 else p

/-- The low bits of a mask of numbers, each translated by `f`; numbers without a translation drop out. -/
def mapMask (n : Nat) (f : Nat → Option Nat) (m : Nat) : Nat :=
  ((List.range n).filterMap fun j => if m.testBit j then f j else none).foldl (fun a p => a ||| (1 <<< p)) 0

/-- A gate entry as written (R53): the entry held, the channel of a latch entry, and whether it is a constant 0 level. -/
def State.gateIn (s : State) (v e : Nat) : Nat × Nat × Bool :=
  if 37 ≤ e ∧ e ≤ 52 then
    match s.chPhys v (e - 37) with
    | some p => (if p < 16 then 37 + p else 52, p, false)
    | none => (e, 0, true)
  else if (blockOf gateMap e).isSome then
    match s.toPhys v gateMap e with
    | some p => (p, 0, false)
    | none => (e, 0, true)
  else (e, 0, false)

/-- A held gate entry as read: one that is a constant 0 reads as it was written. -/
def State.gateOut (s : State) (v : Nat) (c : Word) (dead : Bool) : Nat :=
  let e := bf c 13 8
  if dead then e
  else if 37 ≤ e ∧ e ≤ 52 then
    match s.chVirt v (gateChan c) with
    | some n => if n < 16 then 37 + n else e
    | none => e
  else if (blockOf gateMap e).isSome then (s.toVirt v gateMap e).getD e
  else e

/-- The last entry of the class of a gate entry (R53). -/
def lastOfClass (e : Nat) : Nat := if e < 17 then 16 else if e < 21 then 20 else if e < 37 then 36 else if e < 53 then 52 else 61

/-! ### Whole registers -/

/-- The registers whose fields R414 holds as physical numbers, by the offset of their row. -/
inductive RefReg where
  | none | sel | evc (ch : Nat) | alarm | bind | cap
  deriving DecidableEq, Repr

/-- Which of them instance `i` of row `off` is. The matrix enables, a pair of registers, are treated apart. -/
def refReg (off i : Nat) : RefReg :=
  if off = 0x188 ∨ off = 0xC00 then .sel
  else if off = 0xA00 then .evc i
  else if off = 0x1A00 then .alarm
  else if off = 0x100C then .bind
  else if off = 0x2060 ∨ off = 0x2070 then .cap
  else .none

/-- A register value as VI `v` writes it, as it is held (R553). -/
def State.refIn (s : State) (v : Nat) (r : RefReg) (x : Word) : Word :=
  match r with
  | .none => x
  | .sel => mapBytes (s.selIn v) x
  | .evc ch =>
    let g := s.gateIn v (bf x 13 8)
    setFld (setFld (setFld x 13 8 g.1) 22 17 g.2.1) 7 0 (if ch < 16 then 0 else s.srcIn v (bf x 7 0))
  | .alarm =>
    match s.phys v .evg (bf x 11 8) with
    | some p => setFld x 11 8 p
    | none => setBit (setFld x 11 8 0) 4 false
  | .bind =>
    setFld (setFld x 7 0 (mapMask 8 (s.phys v .aout) (bf x 7 0))) 15 8 (mapMask 8 (s.phys v .pb) (bf x 15 8))
  | .cap => setFld x 31 24 (mapMask 8 (s.phys v .pb) (bf x 31 24))

/-- A held register value as VI `v` reads it. -/
def State.refOut (s : State) (v : Nat) (r : RefReg) (dead : Bool) (x : Word) : Word :=
  match r with
  | .none => x
  | .sel => mapBytes (s.selOut v) x
  | .evc _ => setFld (setFld (setFld x 22 17 0) 13 8 (s.gateOut v x dead)) 7 0 (s.srcOut v (bf x 7 0))
  | .alarm => setFld x 11 8 ((s.virt v .evg (bf x 11 8)).getD 0)
  | .bind =>
    setFld (setFld x 7 0 (mapMask 8 (s.virt v .aout) (bf x 7 0))) 15 8 (mapMask 8 (s.virt v .pb) (bf x 15 8))
  | .cap => setFld x 31 24 (mapMask 8 (s.virt v .pb) (bf x 31 24))

/-! ### A partition edit (R414) -/

/-- A field of a resource whose owner was `f0` and is `f1` still names a resource whose owner was `r0` and is `r1`: both are
the same VI's now, or neither has changed (log entry 31). -/
def keepsRef (f0 f1 r0 r1 : Owner) : Bool := r1 == f1 || (r1 == r0 && f1 == f0)

/-- A held selection byte after an edit from `old` to `s`. -/
def State.selEdit (s old : State) (f0 f1 : Owner) (b : Nat) : Nat :=
  if b < 128 then b
  else if b / 64 % 2 = 1 then (if s.chOwner (b % 64) = .shared then b else 0)
  else if keepsRef f0 f1 (old.chOwner (b % 64)) (s.chOwner (b % 64)) then b else 0

/-- The resource a gate entry in force names. -/
def gateRes (c : Word) : Option (Kind × Nat) :=
  let e := bf c 13 8
  if 37 ≤ e ∧ e ≤ 52 then some (.evg, gateChan c / 4) else resOf gateMap e

/-- A channel's gate entry loses its resource at the edit (R53). -/
def State.gateLost (s old : State) (ch : Nat) (c : Word) : Bool :=
  match gateRes c with
  | some (k, i) => !keepsRef (old.chOwner ch) (s.chOwner ch) (old.owner k i) (s.owner k i)
  | none => false

/-- A held EVCn_CFG after an edit. `dead`: its gate entry already was a constant 0. -/
def State.evcEdit (s old : State) (ch : Nat) (dead : Bool) (c : Word) : Word :=
  let c := match resOf prodMap (bf c 7 0) with
    | some (k, i) => if keepsRef (old.chOwner ch) (s.chOwner ch) (old.owner k i) (s.owner k i) then c else setFld c 7 0 0
    | none => c
  if !dead && s.gateLost old ch c then setFld (setFld c 22 17 0) 13 8 (lastOfClass (bf c 13 8)) else c

/-- A mask of resources of class `k` in a held field after an edit. -/
def State.maskEdit (s old : State) (f0 f1 : Owner) (k : Kind) (n m : Nat) : Nat :=
  mapMask n (fun j => if keepsRef f0 f1 (old.owner k j) (s.owner k j) then some j else none) m

/-- The held value of the register with key `k` after an edit from `old` to `s`. `dead` says which gates are constant. -/
def State.refEdit (s old : State) (dead : BitVec 64) (k : Nat) (x : Word) : Word :=
  let o := k % 0x4000
  if k ≥ 0x4000 then
    if o = 0x188 then mapBytes (s.selEdit old (.vi (k / 0x4000 - 1)) (.vi (k / 0x4000 - 1))) x else x
  else if 0xC00 ≤ o ∧ o < 0xCC0 then
    let f (j : Nat) (b : Nat) : Nat := s.selEdit old (old.conOwner (o - 0xC00 + j)) (s.conOwner (o - 0xC00 + j)) b
    setFld (setFld (setFld (setFld x 7 0 (f 0 (byteOf x 0))) 15 8 (f 1 (byteOf x 1))) 23 16 (f 2 (byteOf x 2))) 31 24
      (f 3 (byteOf x 3))
  else if 0xA00 ≤ o ∧ o < 0xB00 then
    let ch := (o - 0xA00) / 4
    s.evcEdit old ch (dead.getLsbD ch) x
  else if 0x900 ≤ o ∧ o < 0x980 then
    let ch := (o - 0x900) / 8
    let b := 8 * ((o - 0x900) / 4 % 2)
    maskOf fun j => tb x j && keepsRef (old.chOwner ch) (s.chOwner ch) (old.owner .seq (b + j / 4)) (s.owner .seq (b + j / 4))
  else match findRow regTable o with
    | none => x
    | some (r, i) =>
      let f0 := old.clsOwner r.cls i
      let f1 := s.clsOwner r.cls i
      match refReg r.off i with
      | .alarm =>
        if !tb x 4 && bf x 11 8 = 0 || keepsRef f0 f1 (old.owner .evg (bf x 11 8)) (s.owner .evg (bf x 11 8)) then x
        else setBit (setFld x 11 8 0) 4 false
      | .bind => setFld (setFld x 7 0 (s.maskEdit old f0 f1 .aout 8 (bf x 7 0))) 15 8 (s.maskEdit old f0 f1 .pb 8 (bf x 15 8))
      | .cap => setFld x 31 24 (s.maskEdit old f0 f1 .pb 8 (bf x 31 24))
      | _ => x

/-- The channels whose gate entries, as `get` gives their words, become constant 0 levels. -/
def State.deadEdit (s old : State) (dead : BitVec 64) (get : Nat → Word) : BitVec 64 :=
  dead ||| BitVec.ofNat 64 (bitsNat ((List.range 64).map fun ch => s.gateLost old ch (get ch)))

/-- Every field that names a resource now assigned elsewhere takes its reset value, with its enable; REFS_CLEARED says so
(R414). -/
def State.clearRefs (s old : State) : State :=
  let dA := s.deadEdit old s.fab.deadA fun ch => s.getKey (0xA00 + 4 * ch)
  let dS := s.deadEdit old s.fab.deadS fun ch => s.shadow (0xA00 + 4 * ch)
  let regs := s.regs.map fun e => (e.1, s.refEdit old s.fab.deadA e.1 e.2)
  let shs := s.shadows.map fun e => (e.1, s.refEdit old s.fab.deadS e.1 e.2)
  if regs = s.regs ∧ shs = s.shadows ∧ dA = s.fab.deadA ∧ dS = s.fab.deadS then s
  else
    let s := { s with fab := { s.fab with deadA := dA, deadS := dS } }
    let s := s.each (regs.filter fun e => s.getKey e.1 != e.2) fun s e => s.setKey e.1 e.2
    let s := s.each shs fun s e => s.stage e.1 e.2
    s.wbit 0x3C08 6 true

end Sys2Proof.Machine
end

