-- ==== Sys2Proof/Machine/Ports.lean ====
section
/-! DEFINITION. What the host ports make of an access once it has been performed (R434, R435, R441, R451 to R455, R498): the
response on the port it came from. -/

namespace Sys2Proof.Machine

/-- One bit, and one byte, of the CRC-8 of R452, polynomial 0x07. -/
def crc8Bit (c : Nat) : Nat := if 128 ≤ c then (2 * c % 256) ^^^ 7 else 2 * c
def crc8Byte (c : Nat) (b : Byte) : Nat :=
  crc8Bit (crc8Bit (crc8Bit (crc8Bit (crc8Bit (crc8Bit (crc8Bit (crc8Bit (c ^^^ b.toNat))))))))
/-- The CRC-8 of a byte string, from 0x00, without a final XOR. -/
def crc8 (bs : List Byte) : Byte := BitVec.ofNat 8 (bs.foldl crc8Byte 0)

/-- The bytes of a number, most significant first. -/
def beBytes (n v : Nat) : List Byte := (natBytes n v).reverse

/-- IRQ_N is low (R434): a VI bound to the SPI target port has a pending and enabled source. -/
def State.irqLow (s : State) : Bool :=
  (List.range 32).any fun v => s.bindOf v == 2 && s.rdv v 0x180 &&& s.rdv v 0x184 != 0

/-- A final status byte (R453). -/
def State.spiStatus (s : State) (code : Nat) : Byte := BitVec.ofNat 8 (128 + 16 * b2n s.irqLow + code)

/-- The response to one word of an SPI frame (R451, R452): the final status, for a read four data bytes, 0 unless the code is
OK, and the CRC. -/
def State.spiWord (s : State) (write crc : Bool) (code : Nat) (w : Word) : List Byte :=
  let d := if write then [] else beBytes 4 (if code = 0 then w.toNat else 0)
  let b := s.spiStatus code :: d
  if crc then b ++ [crc8 b] else b

/-- The access of the SPI frame in progress has ended with a code (R453): the master clocks out the response. -/
def State.spiEnd (s : State) (code : Nat) (w : Word) : State :=
  match s.host.spi with
  | some f =>
    if !f.wait then s
    else { s with host := { s.host with spi := some { f with wait := false, resp := f.resp ++ s.spiWord f.write f.crc code w } } }
  | none => s

/-- An access of VI `v` that came by a port has been performed; `rdata` holds the data of a read. The debug access and the
Starter look at the state themselves. -/
def State.finishAcc (s : State) (p : Port) (v off : Nat) (write : Bool) : State :=
  let w : Word := (s.rdata.map (·.1)).getD 0
  match p with
  | .internal => s
  | .pcie => if write then s else s.makeReady [.response v w]
  | .spi =>
    let a : LostAcc := { vi := v, off := off, write := write }
    if s.host.lost.contains a then { s with host := { s.host with lost := s.host.lost.erase a } }
    else s.spiEnd (if s.host.refused then 6 else 0) w
  | .link =>
    match s.kl.served.find? fun a => a.vi == v && a.off % 0x4000 == off % 0x4000 && a.write == write with
    | none => s
    | some a =>
      let s := { s with kl := { s.kl with served := s.kl.served.erase a } }
      let st : Byte := if s.host.refused then 2 else 0
      let me : Byte := BitVec.ofNat 8 s.addr
      if write then s.route a.src.toNat none 0 (.wrRsp a.src me a.rid st a.ovi (BitVec.ofNat 16 a.off) (BitVec.ofNat 8 v))
      else s.route a.src.toNat none 0 (.rdRsp a.src me a.rid st a.ovi (if s.host.refused then 0 else w))

end Sys2Proof.Machine
end

