-- ==== Sys2Proof/Machine/Vi.lean ====
section
/-! DEFINITION. Virtual interfaces (15): bindings, the partition, write tags and fences, mailboxes, semaphores, the VI reset and
what a VI's port drops. -/

namespace Sys2Proof.Machine

/-! ### Bindings (R408 to R410) -/

/-- Every vector of VI `v` whose enabled pending sources are not all clear fires through the VI's port (R410). -/
def State.refire (s : State) (v : Nat) : State :=
  s.makeReady (((List.range 16).filter fun n =>
      vectorOn (s.rdv v 0x180) (s.rdv v 0x184) (s.irqMap v) n).flatMap (s.vectorMsg v))

/-- Field `i` of VI_BINDj may take the code (R409). -/
def State.bindOk (s : State) (j i code : Nat) : Bool :=
  if j = 0 ∧ i = 0 then code != 0 else code == 0 || s.inForce

/-- A write of VI_BINDj (R409): each field that may not change sets BIND_ERR; the others take effect, for requests from the next cycle on
(R410). -/
def State.bindWrite (s : State) (j : Nat) (w : Word) : State :=
  let o := 0x3C10 + 4 * j
  let s := if s.host.bound.isSome then s else { s with host := { s.host with bound := some (s.rd 0x3C10, s.rd 0x3C14) } }
  let s := s.each (List.range 16) fun s i =>
    let c := bf w (2 * i + 1) (2 * i)
    if !s.bindOk j i c then s.wbit 0x3C08 5 true
    else if c = s.fld o (2 * i + 1) (2 * i) then s
    else (s.wfld o (2 * i + 1) (2 * i) c).refire (16 * j + i)
  (s.restartWalks o (BitVec.allOnes 32)).reviewDom 28

/-- A write of VI_BIND by VI0, refused with LOCKED where it would change a locked field (R89, R409). -/
def execViBind (j : Fin 2) (w : Word) (s : State) : Res :=
  let o := 0x3C10 + 4 * j.val
  if s.bit 0x3C00 16 && w != s.rd o then ok (s.refuseWrite 0 5 o (s.bindOf 0))
  else ok (s.bindWrite j w)

/-! ### The partition (R411 to R414) -/

/-- The classes with their byte count, and every owner byte staged, as (class, resource, byte). -/
def partKinds : List Kind := [.seq, .aout, .pb, .trg, .tin, .acmp, .key, .lde, .evg, .misc, .vat, .mem]
def State.partBytes (s : State) : List (Kind × Nat × Nat) :=
  partKinds.flatMap fun c => (List.range c.count).map fun i =>
    (c, i, if c = .vat ∧ i = 24 then 128 else byteOf (s.shadow (c.base + 4 * (i / 4))) (i % 4))

/-- The memory granules that exist (R192); while the Starter works, by the image's FLAGS. -/
def State.granules (s : State) : Nat := if s.rst.phase = 3 then (if s.rst.ecc then 224 else 256) else s.fld 0x1800 24 16

/-- An owner byte breaks the rules of its class (R411): SHARED outside a group, a shared byte that names a VI, bit 5. -/
def badByte (c : Kind) (b : Nat) : Bool :=
  b / 32 % 2 == 1 || (b / 64 % 2 == 1 && (c != .evg || b / 128 == 1 || b % 32 != 0))

/-- The first reason of R412 for which the staged table is refused: 2 GRANULE, 3 ENTRY. -/
def State.partWhy (s : State) : Option Nat :=
  if s.partBytes.any fun x => x.1 == .mem && decide (s.granules ≤ x.2.1) && decide (128 ≤ x.2.2) then some 2
  else if s.partBytes.any (fun x => badByte x.1 x.2.2) || bf (s.shadow 0x3C80) 31 16 != 0 then some 3
  else none

/-- An edit is refused (R412). -/
def State.partRefuse (s : State) (why : Nat) : State := (s.wbit 0x3C08 4 true).wfld 0x3C08 11 8 why

/-- PART_CMD.APPLY (R412, R413): refused, or accepted, to apply 1 µs later, after any calibration that runs (R391). -/
def State.partApply (s : State) (starter : Bool) : State :=
  if s.bit 0x3C08 2 then s.partRefuse 4
  else if !starter && s.mode.eff != .service then s.partRefuse 1
  else match s.partWhy with
    | some w => s.partRefuse w
    | none =>
      let s := s.wbit 0x3C08 2 true
      if s.cal.run.isSome then s else s.after (us 1) .partitionEdit

def execApply (s : State) : Res := ok (s.orWait .apply fun s => s.partApply (s.rst.phase == 3))

/-- PART_CMD.DISCARD (R412). -/
def execDiscard (s : State) : Res := ok (s.dropShadows partShadow)

/-- What an edit stops where a resource's owner changes (R283 and the edges of chapters 07, 10, 11, 12): `moved c i`. -/
def State.editStops (s : State) (moved : Kind → Nat → Bool) : State :=
  let s := s.each ((List.range 16).filter (moved .seq)) fun s k => s.haltSeq k 8
  let s := s.each ((List.range 4).filter (moved .lde)) fun s e => s.stopLde e
  let s := s.each ((List.range 8).filter (moved .pb)) fun s k =>
    let s := if s.pbState k = 2 then s.stopBank k else s
    ((s.wbit (pbR k + 0x44) 0 false).wbit (pbR k + 0x60) 0 false).wbit (pbR k + 0x70) 0 false
  let s := s.each ((List.range 8).filter (moved .trg)) fun s n => s.disarm (actId 5 n)
  s.each ((List.range 16).filter (moved .tin)) fun s n =>
    { s with tins := Tab.set (fun _ => {}) s.tins n { s.tin n with fifo := [], win := none } }

/-- An accepted edit applies (R413, R414): the whole table in one cycle, IN_FORCE, references to resources that moved cleared,
the stops of each block, a commit of every Rind region. The scan-out stops under every edit (13, Partition edit). -/
def State.applyEdit (s : State) : State :=
  let old := s
  let s := (s.boundary partShadow).setKey 0x3D18 (setFld (s.shadow 0x3D18) 7 0 128)
  let s := (s.wbit 0x3C08 0 true).wbit 0x3C08 2 false
  let moved (c : Kind) (i : Nat) : Bool := old.owner c i != s.owner c i
  let s := s.editStops moved
  let s := if s.dispState = 0 then s else s.askStop true
  let s := s.each [0, 1] fun s l => (s.flushQ l).setLk l { (s.flushQ l).lk l with go := none }
  let s := (s.clearRefs old).checkSpill
  let s := s.each (List.range 16) fun s k => s.dropCache k
  let s := s.each (List.range 33) fun s g => s.startCommit g
  let s := s.reviewDoms.reviewMode
  if s.mode.trans = .leaveService then s.after 0 .serviceExitDone else s

/-- The accepted edit applies once no calibration runs (R391, R413). -/
def execPartitionEdit (s : State) : Res :=
  if s.bit 0x3C08 2 && s.cal.run.isNone then ok s.applyEdit else ok s

/-! ### Fences (R418) -/

/-- The tags of the VI's remote writes in flight or waiting for a slot. -/
def State.raTags (s : State) (v : Nat) : List Nat := (s.ra v).writes.map (·.rid) ++ (s.ra v).waiting.map (·.2.1)

/-- How many of the writes a fence waits for are outstanding. -/
def State.fenceLeft (s : State) (v : Nat) (f : Fence) : Nat :=
  (f.tags.filter (s.raTags v).contains).length + (f.held.filter s.mode.heldAcc.contains).length +
    (f.aper.filter s.mem.heldAper.contains).length

/-- A read of VI_FENCE is accepted (R418): held until the VI's earlier writes complete, at most 1 ms. Local writes complete as
they are accepted, but for the held ones (R508). -/
def State.fenceStart (s : State) (v : Nat) (p : Port) : State :=
  let f : Fence := {
    tag := s.fldv v 0x118 15 0, at_ := s.time.mono, reset := (s.vi v).inReset, tags := s.raTags v, port := p,
    held := s.mode.heldAcc.filter fun a => a.write && a.vi.val == v,
    aper := s.mem.heldAper.filter fun a => a.write && a.vi.val == v }
  let s := s.setVi v { s.vi v with fences := (s.vi v).fences ++ [f] }
  s.after (if s.fenceLeft v f = 0 then 0 else ms 1) (.viFenceComplete (Fin.ofNat 32 v))

/-- The oldest fence of the VI that may complete. -/
def State.fenceDone (s : State) (v : Nat) : Option Fence :=
  if (s.vi v).inReset then none
  else (s.vi v).fences.find? fun f => s.fenceLeft v f == 0 || decide (f.at_ + ms 1 ≤ s.time.mono)

/-- A held fence completes and returns its word (R418). -/
def execViFenceComplete (v : Fin 32) (s : State) : Res :=
  match s.fenceDone v with
  | none => ok s
  | some f =>
    let n := s.fenceLeft v f
    let w : Word := setFld (setFld (0 : Word) 31 16 f.tag) 15 8 (min n 255)
    let w := setBit (setBit (setBit w 2 f.reset) 1 (s.vi v).faulted) 0 (n != 0)
    let s := s.setVi v { s.vi v with fences := (s.vi v).fences.erase f, faulted := false }
    ok (({ s.answer w with host := { s.host with refused := false } }).finishAcc f.port v 0x114 false)

/-! ### Mailboxes (R421 to R427) -/

/-- MB_TX_SEND.GO (R423): the payload of MB_TX goes to queue [17:16] of VI [4:0]. -/
def State.mbSend (s : State) (v : Nat) (w : Word) : State :=
  if !tb w 31 then s
  else
    let sq := (s.vi v).mbSeq
    let (s, r) := s.post v none (bf w 4 0) (bf w 17 16) (cat64 (s.rdv v 0x284) (s.rdv v 0x280))
    let s := s.wfldv v 0x28C 1 0 r
    if r = 0 then s.wfldv v 0x28C 31 16 sq else s

def execMbPost (v : Fin 32) (w : Word) (s : State) : Res := ok (s.mbSend v w)

/-- The 16 bytes of a message (R421). -/
def msgBytes (m : Msg) : List Byte :=
  natBytes 1 (m.vi + (if m.seqr.isSome then 32 else 0)) ++ natBytes 1 (m.seqr.getD 0) ++ natBytes 2 m.epoch ++
    natBytes 2 m.seq ++ natBytes 2 m.q ++ natBytes 8 m.payload.toNat

/-- A queue's read window: its four words, VALID and STALE of MBQ_STATUS. -/
def State.setWindow (s : State) (v q : Nat) (b : List Byte) (valid stale : Bool) : State :=
  let s := s.each (List.range 4) fun s w =>
    s.wrv v (0x2C0 + 0x10 * q + 4 * w) (BitVec.ofNat 32 (leNat ((b.drop (4 * w)).take 4)))
  (s.wbitv v 0x29C (8 * q + 6) valid).wbitv v 0x29C (8 * q + 7) stale

/-- A read of MBQq_W0 (R425, R426): the oldest message moves into the window. -/
def State.mbqPop (s : State) (v q : Nat) : State :=
  let x := s.vi v
  match x.queue q with
  | [] => (s.setWindow v q [] false false).answer 0
  | m :: r =>
    let s := (s.setVi v (x.setQueue q r)).setWindow v q (msgBytes m) true (m.epoch != (s.vi m.vi).epoch)
    s.answer (s.rdv v (0x2C0 + 0x10 * q))

/-- The VI's queues and windows empty (R427): each message counts as discarded in its sender's VI. -/
def State.mbEmpty (s : State) (v : Nat) : State :=
  let x := s.vi v
  let l := x.q0 ++ x.q1 ++ x.q2 ++ x.q3
  let s := s.setVi v { x with q0 := [], q1 := [], q2 := [], q3 := [] }
  let s := s.each (List.range 4) fun s q => s.setWindow v q [] false false
  s.each l fun s m => (s.incSatv m.vi 0x294 1).pend m.vi 6

/-- VI_CMD.MB_FLUSH. -/
def execMbFlush (v : Fin 32) (s : State) : Res := ok (s.mbEmpty v)

/-- VI_CMD.CNT_CLR. -/
def execViCntClr (v : Fin 32) (s : State) : Res :=
  ok ((((s.clrCnt (viKey v 0x294)).clrCnt (viKey v 0x298)).clrCnt (viKey v 0x120)).clrFld (viKey v 0x124) 31 16)

/-- VI_PWF_CLR bit `r` frees fault record `r` (R420). -/
def execViPwfClr (v : Fin 32) (r : Fin 8) (s : State) : Res := ok (s.wbitv v 0x124 r false)

/-! ### Semaphores (R428 to R430) -/

/-- SEMn as a read returns it, for an owner and a result code. -/
def State.semWord (s : State) (m : SemSt) (res : Nat) : Word :=
  match m.owner with
  | none => BitVec.ofNat 32 res
  | some (o, q) =>
    let w : Word := setFld (setFld (setFld (0 : Word) 31 16 m.epoch) 8 4 o) 1 0 res
    match q with
    | some k => setFld (setBit w 11 true) 15 12 (((s.owned o .seq).findIdx? (· = k)).getD k)
    | none => w

/-- A read of SEMn by VI `v` (R428). -/
def State.semRead (s : State) (v n : Nat) : State :=
  let m := s.sem n
  let mine : SemSt := { owner := some (v, none), epoch := (s.vi v).epoch }
  match m.owner with
  | none => (s.setSem n mine).answer (s.semWord mine (if m.abandoned then 2 else 0))
  | some o => if o = (v, none) then (s.setSem n mine).answer (s.semWord mine 0) else s.answer (s.semWord m 1)

/-- What a debug read of SEMn returns (R83, R428). -/
def State.semPeek (s : State) (n : Nat) : Word := s.semWord (s.sem n) (if (s.sem n).owner.isSome then 1 else 3)

/-- SEM_REL bit `n` (R429). -/
def State.semFree (s : State) (v n : Nat) : State :=
  if (s.sem n).owner.any fun o => o.1 == v then s.setSem n {} else s.wbitv v 0x2AC 0 true

def execSemRel (v : Fin 32) (n : Fin 64) (s : State) : Res := ok (s.semFree v n)

/-- The sequencer halts in this cycle. -/
def State.haltsNow (s : State) (k : Nat) : Bool :=
  (s.haltDue k).any fun h => decide ((s.sq k).at_ h.1 < s.time.mono + s.cycleTu)

/-- SEM_GIVE with GO (R429): refused unless the VI owns the semaphore and its sequencer is staged or running, and does not halt in this
cycle (Give and halt together). -/
def State.semHand (s : State) (v : Nat) (w : Word) : State :=
  if !tb w 31 then s
  else
    let n := bf w 5 0
    match s.phys v .seq (bf w 11 8) with
    | some k =>
      if (s.sem n).owner = some (v, none) ∧ s.seqOn k = true ∧ s.haltsNow k = false then
        s.setSem n { owner := some (v, some k), epoch := (s.vi v).epoch }
      else s.wbitv v 0x2AC 1 true
    | none => s.wbitv v 0x2AC 1 true

def execSemGive (v : Fin 32) (w : Word) (s : State) : Res := ok (s.semHand v w)

/-! ### The VI reset (R431, R432) -/

/-- A scheduled action belongs to VI `v`. -/
def State.actOf (s : State) (v kind i : Nat) : Bool :=
  if kind = 1 then s.owns v .evg i
  else if kind = 2 ∨ kind = 3 then s.owns v .seq i
  else if kind = 4 then s.owns v .aout i
  else if kind = 5 then s.owns v .trg i
  else if kind = 6 then s.owns v .misc 0
  else if kind = 7 then s.owns v .evg (i % 32 / 2)
  else if kind = 8 then i == v
  else s.conOwned v i

/-- The bits of a register a VI reset of `v` returns to their reset values (R100): its own registers and those of its
resources, but for LOCK fields; calibration results stay (R407). -/
def State.viMask (s : State) (v k : Nat) : Word :=
  match findRow regTable (k % 0x4000) with
  | none => 0
  | some (r, i) =>
    let free : Word := ~~~(BitVec.ofNat 32 r.lock)
    if k ≥ 0x4000 then (if k / 0x4000 = v + 1 then free else 0)
    else if r.own ∨ (0x3000 ≤ r.off ∧ r.off < 0x3400) then 0
    else s.ownedBits r i (· == .vi v) &&& free

/-- The registers of the VI and its resources take their reset values, shadow and active value both (R87, R432). -/
def State.viRegs (s : State) (v : Nat) : State :=
  let mix (k : Nat) (x : Word) : Word := let m := s.viMask v k; (x &&& ~~~m) ||| (regReset k &&& m)
  let regs := s.regs.filter fun e => mix e.1 e.2 != e.2
  let shs := s.shadows.map fun e => (e.1, mix e.1 e.2)
  let s := s.each regs fun s e => s.setKey e.1 (mix e.1 e.2)
  let m := s.chSet v
  let s := { s with fab := { s.fab with deadA := s.fab.deadA &&& ~~~m, deadS := s.fab.deadS &&& ~~~m } }
  s.each shs fun s e => s.stage e.1 e.2

/-- What runs in the VI stops (R432): sequencers halt, outputs park, armed actions are disarmed, engines stop, semaphores are
released, queues flushed, responses to come forgotten. -/
def State.viStop (s : State) (v : Nat) : State :=
  let s := s.each (s.owned v .seq) fun s k => s.haltSeq k 0
  let s := s.each (s.owned v .aout) fun s n => (s.endLists n).parkAout n
  let s := s.each (s.owned v .pb) fun s k => s.stopBank k
  let s := s.each (s.owned v .trg) fun s n => s.cutTrg n
  let s := s.each (s.acts.filter fun e => e.2.armed && s.actOf v (e.1 / 512) (e.1 % 512)) fun s e =>
    s.disarm (actId (e.1 / 512) (e.1 % 512))
  let s := if s.owns v .misc 0 then
      let s := s.stopDisp
      s.each [0, 1] fun s l => (s.flushQ l).setLk l { (s.flushQ l).lk l with go := none }
    else s
  let s := s.each (s.owned v .lde) fun s e => s.stopLde e
  let s := s.releaseSems (fun m => m.owner.any fun o => o.1 == v) true
  let s := (s.mbEmpty v).setRa v {}
  let s := s.each ((List.range 32).filter fun n => s.owns v .evg (n / 2)) fun s n => (s.setExpQ n []).setImpQ n []
  s.noteStop.after 0 (.calAbort .reset)

/-- A VI reset begins (R431, R432): absorbed by one in progress; during Starter it is promoted to a system reset (R152),
whose SRC the spec does not state: a free value (log entry 129). The epoch increments, accesses to the VI are held, and it ends within
20 µs. -/
def State.viResetGo (s : State) (v : Nat) : State :=
  if s.rst.phase = 3 ∨ s.rst.phase = 4 then
    let s' := s.requestReset 6 3
    match s'.rst.req with
    | some r =>
      if s'.rst.req = s.rst.req then s'
      else { s' with rst := { s'.rst with req := some { r with src := (Config.openWord 9 s.free).toNat % 256 } }, free := s'.free + 1 }
    | none => s'
  else if (s.vi v).inReset then s
  else
    let x := s.vi v
    let s := s.setVi v { x with epoch := (x.epoch + 1) % 65536, inReset := true,
                                fences := x.fences.map fun f => { f with reset := true } }
    (s.viStop v).after (us 20) (.viResetDone (Fin.ofNat 32 v))

def execViReset (v : Fin 32) (s : State) : Res := ok (s.viResetGo v)

/-- The consumer a command acts at, if it is what an event does there. -/
def actsAt : Instr → Option Nat
  | .seqEventInput k i => some (4 * k.val + i.val)
  | .trgEvent n => some (64 + n.val)
  | .capSnap u _ => some (72 + u.val)
  | .frameGo l => some (88 + 2 * l.val)
  | .dsiEventFlip l => some (89 + 2 * l.val)
  | .aoutParkEvent n => some (92 + n.val)
  | .pbEvent k => some (100 + k.val)
  | .exportEv n _ => some (108 + n.val)
  | .almRearmEvent n _ => some (140 + n.val)
  | .ldeStart e => some (156 + e.val)
  | .ldeStop e => some (160 + e.val)
  | _ => none

/-- A producer whose event is held through a wake belongs to VI `v`. -/
def State.heldOf (s : State) (v : Nat) : HeldSrc → Bool
  | .tin n => s.owns v .tin n
  | .alm n => s.owns v .evg n
  | .key n => s.owns v .key n

/-- The events of the VI's producers and channels on their way are discarded (R45, R73): those that asserted up to this cycle at the
channel stage of the VI's channels, those past it, and those about to act at its consumers. -/
def State.dropEvents (s : State) (v : Nat) : State :=
  let mine (ch : Nat) : Bool := s.chOwner ch == .vi v
  let f := s.fab
  let quiet := ((List.range 64).filter mine).foldl (fun q ch => Tab.set (fun _ => 0) q ch (s.time.mono + 96)) f.quiet
  { s with
    agenda := s.agenda.filter fun e => !((actsAt e.2).any fun c => s.conOwned v c)
    fab := { f with
      heldC := Tab.keep (fun c => !s.conOwned v c) f.heldC
      heldP := f.heldP.filter fun e => !s.heldOf v e.1
      inflight := f.inflight.filter fun e => !(e.2.swf && mine e.2.ch)
      stage := f.stage.filter fun e => !mine e.1
      staged := f.staged.filter fun e => !mine e.1
      quiet := quiet } }

/-- The time inputs satisfying `p` return to reset; the levels of their pins stand. -/
def Tab.pinsOnly (t : Tab TinSt) (p : Nat → Bool) : Tab TinSt :=
  (t.map fun e => if p e.1 then (e.1, ({ raw := e.2.raw } : TinSt)) else e).filter fun e => e.2 ≠ {}

/-- The state of the VI's resources that no register shows returns to reset (each chapter's VI-reset column). -/
def State.viBlocks (s : State) (v : Nat) : State :=
  let s := { s with seqs := Tab.keep (fun k => !s.owns v .seq k) s.seqs,
                    tins := s.tins.pinsOnly fun n => s.owns v .tin n,
                    keys := Tab.keep (fun n => !s.owns v .key n) s.keys }
  let s := s.each (s.owned v .aout) fun s n => (s.resetLive (6 + n)).parkAout n
  let s := s.each (s.owned v .pb) fun s k => s.resetLive (14 + k)
  let s := s.each (s.owned v .trg) fun s n => s.setTrg n { locked := (s.trg n).locked }
  let s := s.each ((s.owned v .misc).filter (0 < ·)) fun s x => s.setSy x {}
  let s := if s.owns v .misc 0 then { s with disp := {} } else s
  let s := (s.each (s.owned v .seq) fun s k => (s.setScan k .idle).cancel (.admitScanDone (Fin.ofNat 16 k))).releaseAper
  let s := s.each (s.owned v .vat) fun s g => { s with mem := { s.mem with notLoaded := setBit s.mem.notLoaded g false } }
  let s := s.cancel (.dirValDone (Fin.ofNat 32 v))
  let s := { s with mem := { s.mem with
    dir := Tab.keep (fun e => !s.owns v .vat ((0x400000 + 32 * e) / 0x40000)) s.mem.dir,
    dirVal := Tab.set (fun _ => none) s.mem.dirVal v none } }
  let s := s.dropEvents v
  if v = 0 then
    let s := s.resetRegs fun k => 0x880 ≤ k && k < 0x8C0 && k != 0x88C
    { s with fab := { s.fab with merge := [] } }
  else s

/-- The VI reset ends (R432): registers at their reset values, the region committed (R95), IN_RESET clear, held accesses
proceed; VI0's request of 1 is an exit request from SERVICE (R119, R130). -/
def execViResetDone (v : Fin 32) (s : State) : Res :=
  if !(s.vi v).inReset then ok s
  else
    let s := s.each ((s.owned v .misc).filter (0 < ·)) fun s x => s.synOff x
    let s := (s.viRegs v).viBlocks v
    let x := s.vi v
    let s := (s.setVi v { epoch := x.epoch, fences := x.fences }).startCommit v
    let s := s.reviewDoms
    let s := if v.val = 0 ∧ s.inService = true then s.leaveService 1 else s.reviewMode
    let s := s.each x.fences fun s _ => s.after 0 (.viFenceComplete v)
    ok (s.releaseAcc fun a => a.vi == v)

/-! ### What a port drops (R435) -/

/-- The VI a waiting message belongs to. -/
def OutMsg.vi : OutMsg → Nat
  | .msix v _ => v
  | .irq v _ _ _ => v
  | .response v _ => v

/-- A message of VI `v` has waited VI_RSP_TMO ms at its port. -/
def State.rspLate (s : State) (v : Nat) (m : Nat × OutMsg) : Bool :=
  m.2.vi == v && decide (m.1 + ms (s.fldv v 0x11C 9 0) ≤ s.time.mono)

/-- The oldest message of VI `v` that its port has not taken within VI_RSP_TMO is discarded (R435). -/
def execRspTimeout (v : Fin 32) (s : State) : Res :=
  match s.out.find? (s.rspLate v) with
  | none => ok s
  | some m => ok ((({ s with out := s.out.erase m }).incSatv v 0x120 1).pend v 28)

end Sys2Proof.Machine
end

