-- ==== Sys2Proof/Machine/Nvm.lean ====
section
/-! DEFINITION. Erasing the NVM (16). NVM_STATUS 0x382C: 0 BUSY, 1 DONE, 2 ERR, [31:28] REASON. -/

namespace Sys2Proof.Machine

/-- The device erases or programs (R460, R461). -/
def State.nvmBusy (s : State) : Bool :=
  s.bit 0x382C 0 || (List.range 4).any fun e => (s.lde e).busy && bf (s.lde e).ctrl 6 4 == 3

/-- The reason an erase of `n` bytes from `a` is refused (R461): 1 MODE, 2 RANGE, 3 BUSY. -/
def State.eraseWhy (s : State) (a n : Nat) : Option Nat :=
  if s.mode.eff ≠ .service then some 1
  else if a % 2 ^ s.fld 0x3820 23 16 ≠ 0 ∨ s.nvmSize < a + n then some 2
  else if s.nvmBusy then some 3
  else none

/-- NVM_ERASE_CMD.GO (R461): COUNT units from NVM_ERASE_ADDR. -/
def execNvmErase (count : BitVec 16) (s : State) : Res :=
  let a := (s.rd 0x3824).toNat
  let n := count.toNat * 2 ^ s.fld 0x3820 23 16
  match s.eraseWhy a n with
  | some w => ok ((s.wbit 0x382C 2 true).wfld 0x382C 31 28 w)
  | none =>
    let s := (s.wbit 0x382C 0 true).wfld 0x382C 31 28 0
    ok { s with host := { s.host with erase := some (a, a + n) } }

/-- An erase is over; an exit from SERVICE that waited for it goes on (R119). -/
def State.eraseOver (s : State) : State :=
  let s := { s.wbit 0x382C 0 false with host := { s.host with erase := none } }.nvmNext 4
  if s.mode.trans = .leaveService then s.after 0 .serviceExitDone else s

/-- The device has erased the units, or failed (R461); what a failed erase leaves in them is not stated. -/
def execNvmEraseDone (how : NvmEnd) (s : State) : Res :=
  match s.host.erase with
  | none => ok s
  | some (lo, hi) =>
    match how with
    | .ok => ok (((s.wipeNvm lo hi true).wbit 0x382C 1 true).eraseOver)
    | .device => ok ((((s.wipeNvm lo hi false).wbit 0x382C 2 true).wfld 0x382C 31 28 4).eraseOver)
    | .timeout => ok ((((s.wipeNvm lo hi false).wbit 0x382C 2 true).wfld 0x382C 31 28 5).eraseOver)

/-- A core or deeper reset aborts a write of the NVM (R462): what it was writing is undefined. -/
def State.abortNvm (s : State) : State :=
  match s.host.erase with
  | none => s
  | some (lo, hi) => (s.wipeNvm lo hi false).eraseOver

end Sys2Proof.Machine
end

