-- ==== Sys2Proof/Machine/Slot.lean ====
section
/-! DEFINITION. What stands at an offset of a VI's window (R3, R4, R5, R550, R551), the value a VI sees there, and the parts
of it that the VI may write (R76, R80, R81, R88, R89). -/

namespace Sys2Proof.Machine

/-- What an offset of the normal region is to a VI: not listed (R551), the register of a VI0-only block in another VI, a
slot above the VI's count (R3), or instance `i` (physical) of a register, held under key `k`. -/
inductive Slot where
  | unlisted
  | hidden
  | unassigned
  | reg (r : RegRow) (i k : Nat)
  deriving DecidableEq, Repr

/-- The physical consumer a VI's number names; VI0's physical view reaches the reserved ones too (R55). -/
def State.conPhys (s : State) (v c : Nat) : Option Nat :=
  if s.physView v then (if c < 192 then some c else none) else s.toPhys v conMap c

/-- The physical instance behind slot `j` of a register class (R4, R5, R491). -/
def State.instPhys (s : State) (v : Nat) (c : RCls) (j : Nat) : Option Nat :=
  match c with
  | .seq => s.phys v .seq j
  | .aout => s.phys v .aout j
  | .pb => s.phys v .pb j
  | .trg => s.phys v .trg j
  | .tin => s.phys v .tin j
  | .acmp => s.phys v .acmp j
  | .key => s.phys v .key j
  | .lde => s.phys v .lde j
  | .evg => s.phys v .evg j
  | .evg4 => s.chPhys v j
  | .evg2 => (s.phys v .evg (j / 2)).map fun g => 2 * g + j % 2
  | .disp => if s.owns v .misc 0 || s.physView v then some j else none
  | .syn => if j = 0 || s.owns v .misc j || s.physView v then some j else none
  | .con => s.conPhys v j
  | _ => some j

/-- Where bit `j` of slot `i` of a bit or byte register stands: offset and bit, if the bit names a resource of the VI. -/
def State.bitAt (s : State) (v : Nat) (r : RegRow) (i j : Nat) : Option (Nat × Nat) :=
  match r.cls with
  | .chanBits =>
    let h := (r.off - 0x80C) / 4 % 2
    (s.chPhys v (32 * h + j)).map fun p => (r.off - 4 * h + 4 * (p / 32), p % 32)
  | .conBits => (s.conPhys v (32 * i + j)).map fun p => (r.off + 4 * (p / 32), p % 32)
  | .conBytes => (s.conPhys v (4 * i + j / 8)).map fun p => (r.off + 4 * (p / 4), 8 * (p % 4) + j % 8)
  | .trgBits => if j < 8 then (s.phys v .trg j).map fun p => (r.off, p) else none
  | .tinBits => (s.phys v .tin (j % 16)).map fun p => (r.off, p + 16 * (j / 16))
  | .keyBits => if j < 6 then (s.phys v .key j).map fun p => (r.off, p) else none
  | _ => none

/-- The registers, by key, and their bits that a write of the bits `t` of a slot reaches. -/
def State.places (s : State) (v : Nat) (r : RegRow) (i k : Nat) (t : Word) : List (Nat × Word) :=
  if r.cls.perBit then
    (List.range 32).filterMap fun j => if tb t j then (s.bitAt v r i j).map fun p => (p.1, 1 <<< p.2) else none
  else [(k, t)]

/-- The bits of such a register that name resources of the VI. -/
def State.seenBits (s : State) (v : Nat) (r : RegRow) (i : Nat) : Word := maskOf fun j => (s.bitAt v r i j).isSome

/-- What stands at normal offset `o` for VI `v`. -/
def State.slot (s : State) (v o : Nat) : Slot :=
  match findRow regTable o with
  | none => .unlisted
  | some (r, j) =>
    if r.hide && v != 0 then .hidden
    else if r.own then .reg r j (viKey v o)
    else if r.cls.perBit then (if s.seenBits v r j = 0 then .unassigned else .reg r j (devKey o))
    else match s.instPhys v r.cls j with
      | some i => if i < r.cnt then .reg r i (devKey (r.off + r.stride * i)) else .unassigned
      | none => .unassigned

/-- The power domain a slot's live state is in; always-on (0) for configuration and for blocks that stay on when awake
(R125). -/
def slotDom (r : RegRow) (i : Nat) : Nat :=
  if r.rind ≠ 0 ∨ r.rwb ≠ 0 then 0
  else match r.cls with
    | .seq => if r.off < 0x1800 then 3 else 0
    | .aout => if r.off < 0x2000 then 6 + i else 0
    | .pb => if r.off < 0x2800 then 14 + i else 0
    | .trg => 22
    | .disp => if r.off < 0x3000 then 23 else 0
    | _ => 0

/-- The slot is live state of a domain that is not on (R125). -/
def State.slotGated (s : State) (r : RegRow) (i : Nat) : Bool := slotDom r i != 0 && !s.domOn (slotDom r i)

/-! ### Values -/

/-- The value of a register: the active one, or with its buffered fields from the shadow (R80). Only buffered fields have one. -/
def State.stored (s : State) (r : RegRow) (active : Bool) (k : Nat) : Word :=
  if active || r.rwb == 0 then s.getKey k
  else if r.rw = 0 then s.shadow k
  else
    let b := BitVec.ofNat 32 r.rwb
    (s.getKey k &&& ~~~b) ||| (s.shadow k &&& b)

/-- The writable registers that the block updates too (R78), by row offset: KEEP_TRIM, FAB_LATCH_LO and _HI, LOG_SPILL_RD,
SEQk_FLAGS, SEQk_CNTn, MEM_BUDGET, PBk_FLOG_RD, CAPu_RD, KL_RA_ADDR. -/
def hwUpdated (o : Nat) : Bool :=
  [0x524, 0x814, 0x818, 0x898, 0x1044, 0x1070, 0x1074, 0x1078, 0x107C, 0x1820, 0x204C, 0x2068, 0x2078, 0x3600].contains o

/-- Put a value: buffered fields into the shadow, the others at once, but for the bits the block updated in this cycle (R78). -/
def State.putReg (s : State) (r : RegRow) (k : Nat) (x : Word) : State :=
  if r.rwb = 0 then
    let m := (s.cy k).raised
    s.setKey k (if hwUpdated r.off then (x &&& ~~~m) ||| (s.getKey k &&& m) else x)
  else if r.rw = 0 then s.stageNow k x
  else
    let b := BitVec.ofNat 32 r.rwb
    (s.setKey k ((s.getKey k &&& b) ||| (x &&& ~~~b))).stageNow k x

/-- The channel's gate entry, active or staged, is a constant 0 level (R53). -/
def State.gateDead (s : State) (active : Bool) (ch : Nat) : Bool :=
  (if active then s.fab.deadA else s.fab.deadS).getLsbD ch

/-- Half `h` of a channel's matrix enables in the VI's numbering of markers (R49, R414). -/
def State.mtxView (s : State) (v : Nat) (r : RegRow) (active : Bool) (ch h : Nat) : Word :=
  maskOf fun j => match s.toPhys v prodMap (32 * h + j) with
    | some p => tb (s.stored r active (0x900 + 8 * ch + 4 * (p / 32))) (p % 32)
    | none => false

/-- The register as the VI sees it before what is computed at the read: the fields it holds, other VIs' bits 0, references in
the VI's numbering (R414, R550). -/
def State.viewVal (s : State) (v : Nat) (r : RegRow) (i k : Nat) (active : Bool) : Word :=
  let x :=
    if r.cls = .conBytes then
      mapBytes (s.selOut v) (maskOf fun j => match s.bitAt v r i j with
        | some (o, b) => tb (s.stored r active o) b
        | none => false)
    else if r.cls.perBit then
      maskOf fun j => match s.bitAt v r i j with
        | some (o, b) => tb (s.stored r active o) b
        | none => false
    else if r.off = 0x900 then s.mtxView v r active i 0
    else if r.off = 0x904 then s.mtxView v r active i 1
    else s.refOut v (refReg r.off i) (s.gateDead active i) (s.stored r active k)
  x &&& ~~~(BitVec.ofNat 32 r.act)

/-! ### What may be written -/

/-- The reserved bits of the owner bytes, which read 0 (R7, R411). A normal write puts them into the shadow, where an edit finds them
set (R412; DEDUCED, log entry 104). -/
def reserved (o : Nat) : Word :=
  if o = 0x3C80 then 0xFFFF2020 else if 0x3C40 ≤ o ∧ o < 0x4000 then 0x20202020 else 0

/-- The fields VI `v` may write through an alias and a normal write: RW, RWL and RWB fields, with those that are VI0's alone
left out in other VIs, and all of SYN-A (R76, R81). -/
def canAlter (v : Nat) (r : RegRow) (i : Nat) : Word :=
  let all := BitVec.ofNat 32 (r.rw ||| r.rwl ||| r.rwb ||| r.lock)
  if v = 0 then all else if r.cls = .syn ∧ i = 0 then 0 else all &&& ~~~(BitVec.ofNat 32 r.vi0)
/-- The W1F and WO fields VI `v` may write. -/
def canFire (v : Nat) (r : RegRow) : Word :=
  let all := BitVec.ofNat 32 r.act
  if v = 0 then all else all &&& ~~~(BitVec.ofNat 32 r.vi0)

/-- The RO fields of the registers that also hold writable ones. -/
def roFields (o : Nat) : Nat := if o = 0xA00 then 0x800000 else if o = 0x1B08 then 0x10000 else if o = 0x1044 then 0xF00 else 0

/-- Every field of a register, whatever its code; reserved bits are none (R76). -/
def State.fields (s : State) (v : Nat) (r : RegRow) (i : Nat) : Word :=
  let all := BitVec.ofNat 32 (r.rw ||| r.rwl ||| r.rwb ||| r.lock ||| r.rc ||| r.act ||| roFields r.off)
  if r.cls.perBit then all &&& (s.seenBits v r i ||| BitVec.ofNat 32 r.lock) else all

/-- The locked fields (R88, R89): those coded RWL, while their block's LOCK is 1; each trigger has its own. -/
def State.lockedFields (s : State) (v : Nat) (r : RegRow) (i : Nat) : Word :=
  let all := BitVec.ofNat 32 r.rwl
  let on (b : Bool) : Word := if b then all else 0
  if r.rwl = 0 then 0
  else if r.cls = .syn then on (s.bit (synR i) 16)
  else if r.off = 0x1B04 ∨ r.off = 0x1B08 then on (s.bit (synR 0) 16)
  else if r.cls = .pb then on (s.bit (pbR i + 0xC) 16)
  else if r.cls = .trgBits then all &&& maskOf fun j => match s.phys v .trg j with
    | some p => j < 8 && (s.trg p).locked
    | none => false
  else if r.off = 0x490 then on (s.bit 0x490 8)
  else if r.off = 0x714 then on (s.bit 0x714 8)
  else on (s.bit 0x3C00 16)

/-- The lockable block whose LOCK field the register holds, if it holds one. -/
def lockBlock (r : RegRow) (i : Nat) : Option LockBlk :=
  if r.lock = 0 then none
  else if r.cls = .syn then some (.syn (Fin.ofNat 4 i))
  else if r.cls = .pb then some (.elec (Fin.ofNat 8 i))
  else if r.cls = .trgBits then some .trg
  else if r.off = 0x490 then some .rst
  else if r.off = 0x714 then some .rind
  else some .part

/-! ### Putting a value back -/

/-- The fields of a register that name another resource: the bits of the view, and the bits held (R414). -/
def refFields : RefReg → List (Word × Word)
  | .none => []
  | .sel => [(0xFF, 0xFF), (0xFF00, 0xFF00), (0xFF0000, 0xFF0000), (0xFF000000, 0xFF000000)]
  | .evc _ => [(0x3F00, 0x7E3F00), (0xFF, 0xFF)]
  | .alarm => [(0xF10, 0xF10)]
  | .bind => [(0xFFFF, 0xFFFF)]
  | .cap => [(0xFF000000, 0xFF000000)]

/-- Put the value `x` that VI `v` writes, of which it touches the bits `t`, where the register stands: references as
physical numbers (R414, R553), a reference the write does not touch as it was held. -/
def State.viewPut (s : State) (v : Nat) (r : RegRow) (i k : Nat) (x t : Word) : State :=
  if r.cls = .conBytes then
    s.each (List.range 4) fun s j =>
      if byteOf t j = 0 then s
      else match s.bitAt v r i (8 * j) with
        | some (o, b) => s.putReg r o (setFld (s.stored r false o) (b + 7) b (s.selIn v (byteOf x j)))
        | none => s
  else if r.cls.perBit then
    s.each (List.range 32) fun s j =>
      match s.bitAt v r i j with
      | some (o, b) => if tb t j then s.putReg r o (setBit (s.stored r false o) b (tb x j)) else s
      | none => s
  else if r.off = 0x900 ∨ r.off = 0x904 then
    let h := if r.off = 0x900 then 0 else 1
    s.each (List.range 32) fun s j =>
      match s.toPhys v prodMap (32 * h + j) with
      | some p =>
        let o := 0x900 + 8 * i + 4 * (p / 32)
        if tb t j then s.putReg r o (setBit (s.stored r false o) (p % 32) (tb x j)) else s
      | none => s
  else
    let f := refReg r.off i
    let old := s.stored r false k
    let y := (refFields f).foldl (fun y m => if t &&& m.1 = 0 then (y &&& ~~~m.2) ||| (old &&& m.2) else y) (s.refIn v f x)
    let s := s.putReg r k y
    if r.off = 0xA00 ∧ t &&& 0x3F00 ≠ 0 then
      { s with fab := { s.fab with deadS := setBit s.fab.deadS i (s.gateIn v (bf x 13 8)).2.2 } }
    else s

end Sys2Proof.Machine
end

