-- ==== Sys2Proof/Machine/AccRead.lean ====
section
/-! DEFINITION. What a register read returns (R29, R75, R80, R82, R125) and does: the fields computed at the read, by chapter,
and the side effects of a read. Reads through the debug access have none (R83). -/

namespace Sys2Proof.Machine

/-- How many resources of a class the VI owns. -/
def State.count (s : State) (v : Nat) (c : Kind) : Nat := (s.owned v c).length
def State.ownsBit (s : State) (v i : Nat) : Nat := b2n (s.owns v .misc i)

/-- A word from its fields: (place of the lowest bit, value). -/
def pack (l : List (Nat × Nat)) : Word := BitVec.ofNat 32 ((l.map fun e => e.2 <<< e.1).sum)

/-- ID and capability (00): what the VI owns, and what the member has. -/
def State.capRead (s : State) (v o : Nat) : Word :=
  let n := s.count v
  if o = 0 then 0x0D960B01
  else if o = 0x10 then pack [(24, n .tin), (16, n .trg), (8, n .aout), (0, n .seq)]
  else if o = 0x14 then
    pack [(24, if v = 0 then 4 else 0), (20, s.ownsBit v 0), (16, 2 * s.ownsBit v 0), (0, 16 * n .pb)]
  else if o = 0x18 then pack [(16, n .vat), (0, n .mem)]
  else if o = 0x1C then
    pack [(25, n .key), (22, n .acmp), (19, n .lde), (18, s.ownsBit v 3), (17, s.ownsBit v 2), (16, s.ownsBit v 1),
      (8, 4 * n .evg), (0, v)]
  else if o = 0x20 then 0x10080810
  else if o = 0x24 then 0x04120080
  else if o = 0x28 then 0x00800100
  else 0x00644020

/-- VI status, mailbox and semaphore status (15). -/
def State.viRead (s : State) (v o i : Nat) (w : Word) : Word :=
  let x := s.vi v
  if o = 0x108 then pack [(16, x.epoch), (8, b2n x.inReset), (0, s.bindOf v)]
  else if o = 0x29C then
    (w &&& 0xC0C0C0C0) ||| pack ((List.range 4).map fun q => (8 * q, (x.queue q).length))
  else if o = 0x2B0 ∨ o = 0x2B4 then maskOf fun j => (s.sem (8 * (o - 0x2B0) + j)).owner.isSome
  else if o = 0x300 then s.semPeek i
  else w

/-- An action armed and past its wake point, or its raise, holds the mode up (MODE_STATUS.SCHED). -/
def State.schedRaise (s : State) : Bool := s.acts.any fun e => decide (2 ≤ e.2.calls (e.1 / 512))

/-- Mode, domain and start-up status (04, 05). -/
def State.modeRead (s : State) (v o i : Nat) (w : Word) : Word :=
  if o = 0x404 then
    (w &&& 0x30000) ||| pack [(12, b2n s.anyRunning), (11, b2n s.schedRaise), (10, b2n (decide (s.time.mono < s.mode.holdUntil))),
      (9, b2n s.ready), (8, b2n (s.mode.trans != .none)), (4, s.fldv v 0x400 2 0), (0, s.mode.eff.code)]
  else if o = 0x450 then
    pack ((List.range 8).map fun j => (4 * j, if 8 * i + j < 29 then s.dom (8 * i + j) else 0))
  else if o = 0x4A0 then setFld w 11 8 s.rst.phase
  else w

/-- Time and alarm status (01). -/
def State.timeRead (s : State) (o i : Nat) (w : Word) : Word :=
  if o = 0x508 then lo32 s.now
  else if o = 0x60C then
    setBit w 4 (s.fab.heldP.any fun e => match e.1 with
      | .alm n => n.val == i
      | _ => false)
  else w

/-- Rind status and references (03). -/
def State.rindRead (s : State) (v o i : Nat) (w : Word) : Word :=
  let own := s.rg v
  let phys := s.rg 32
  let isOpen (x : RindSt) : Bool := x.opened || x.wait
  if o = 0x708 then pack [(1, b2n (v == 0 && isOpen phys)), (0, b2n (isOpen own))]
  else if o = 0x710 then (setBit (setBit w 2 own.armed) 3 own.wait)
  else if o = 0x718 then own.ref
  else if o = 0x71C then own.crc
  else if o = 0x734 then (setBit (setBit w 2 phys.armed) 1 (isOpen phys))
  else if o = 0x738 then maskOf fun n => isOpen (s.rg n)
  else if o = 0x73C then phys.ref
  else if o = 0x780 then (s.rg i).ref
  else w

/-- A staged change of the VI's set of the fabric awaits FAB_COMMIT. -/
def State.fabPending (s : State) (v : Nat) : Bool :=
  s.shadows.any fun e => fabShadow e.1 && (e.2 ^^^ s.getKey e.1) &&& s.fabSet v e.1 != 0

/-- Fabric status (02). -/
def State.fabRead (s : State) (v o i : Nat) (w : Word) : Word :=
  if o = 0x800 then
    let mtx := (List.range 4).filter fun g => s.physView v || s.owns v .evg g
    pack [(16, 4 * mtx.length), (8, s.sharedChs.length), (0, b2n (s.fabPending v))]
  else if o = 0xA00 then setBit (if i < 16 then setFld w 7 0 0 else w) 23 (decide (i < 16))
  else w

/-- Sequencer status (09). -/
def State.seqRead (s : State) (o i : Nat) (w : Word) : Word :=
  if o = 0x1008 then setBit w 20 (s.pendingShadow fun k => k == seqR i)
  else if o = 0x1028 then (s.sq i).periods.setWidth 32
  else if o = 0x1030 then (s.sq i).whey.setWidth 32
  else w

/-- The VI's Vat granule `j`, in its view. -/
def State.vatGran (s : State) (v j : Nat) : Option Nat :=
  if v = 0 then (if j < 128 then some j else none) else (s.owned v .vat)[j]?

/-- Segment memory (07). -/
def State.memRead (s : State) (v o i : Nat) (w : Word) : Word :=
  if o = 0x1800 then setBit w 2 (s.dom 5 == 6)
  else if o = 0x1818 then
    pack [(16, (s.dataG v).length), (8, (s.dirG v).length), (0, (s.stepG v).length)]
  else if o = 0x181C then pack [(0, ((s.owned v .mem).filter (· < s.granules)).length)]
  else if o = 0x1894 then
    match s.dirEntry v (s.fldv v 0x1890 15 0) with
    | some p => BitVec.ofNat 32 (s.dirState p)
    | none => 0
  else if o = 0x18A4 then pack [(0, s.count v .lde)]
  else if o = 0x18B0 then maskOf fun j => match s.vatGran v (32 * i + j) with
    | some g => s.mem.notLoaded.getLsbD g
    | none => false
  else w

/-- Synthesizers (06). EFF is the ratio in force to the nearest 2^-24. -/
def State.synRead (s : State) (o i : Nat) (w : Word) : Word :=
  if o = 0x1A1C then setBit w 16 (s.pendingShadow (synShadow i))
  else if o = 0x1A28 then BitVec.ofNat 32 ((s.synRatio i + 500000000) / 1000000000)
  else w

/-- Analog channels (10). -/
def State.aoutRead (s : State) (o i : Nat) (w : Word) : Word :=
  let x := s.ao i
  if o = 0x1C2C then
    setBit (setBit (setBit w 11 (s.pendingShadow (aoutShadow i))) 1 (s.onLoad i)) 0 (s.aoutPlaying i)
  else if o = 0x1C3C then BitVec.ofNat 32 (aoutLatency (s.interp i) * (s.outPeriod 1).1 / (s.outPeriod 1).2)
  else if o = 0x1C44 then x.freq.setWidth 32
  else if o = 0x1C4C then pack [(16, x.phase.toNat), (0, x.ampl.toNat)]
  else w

/-- Pattern banks and triggers (11). -/
def State.pbRead (s : State) (v o i : Nat) (w : Word) : Word :=
  if o = 0x2008 then setBit w 10 (s.pendingShadow (bankShadow i))
  else if o = 0x2028 then BitVec.ofNat 32 ((s.vecPeriod i).1 * 256 / (s.vecPeriod i).2)
  else if o = 0x2040 then maskOf fun j => decide (j < 16) && s.tsetValid i j
  else if o = 0x2800 then setBit w 16 (s.trgLocked fun x => s.physView v || x == .vi v)
  else w

/-- Inputs (12): the window's stamp. -/
def State.tinRead (s : State) (o i : Nat) (w : Word) : Word :=
  let st : Time := ((s.tin i).win.map (·.stamp)).getD 0
  if o = 0x2A48 then lo32 st else if o = 0x2A4C then hi32 st else w

/-- Scan-out (13). -/
def State.dispRead (s : State) (o i : Nat) (w : Word) : Word :=
  if o = 0x2C08 then setBit (setBit w 8 (s.pendingShadow dispShadow)) 2 (s.linkActive 0 || s.linkActive 1)
  else if o = 0x2E0C then
    let q := s.dsiQ i
    let n := (s.lk i).buf
    pack [(31, b2n n.isSome), (24, n.getD 0), (16, b2n (q.head?.any (·.slot.isSome))), (8, (q.head?.map (·.fb)).getD 0),
      (0, q.length)]
  else if o = 0x2E14 then setBit w 1 (s.linkActive i)
  else w

/-- Calibration (14): the selected item, set word and history entry. -/
def State.calRead (s : State) (o i : Nat) (w : Word) : Word :=
  if o = 0x30C4 then
    let k := itemKey (s.fld 0x30C0 31 26) (s.fld 0x30C0 25 16)
    pack [(16, (BitVec.ofInt 16 (s.base k s.cal.temp)).toNat), (0, (BitVec.ofInt 16 (s.working k)).toNat)]
  else if o = 0x3144 then
    ((s.calSet (s.fld 0x3140 2 0)).bind fun c => c.words[s.fld 0x3140 25 16]?).getD 0
  else if o = 0x3190 then
    BitVec.ofNat 32 (leNat (((Tab.get (fun _ => []) s.cal.hist (s.fld 0x3184 5 0)).drop (4 * i)).take 4))
  else w

/-- Krairlink (17). A port whose domain is off shows OFF, no role and no peer. -/
def State.klRead (s : State) (o i : Nat) (w : Word) : Word :=
  let u := s.fld 0x3460 7 0
  let e := if s.inRoster u then s.ros u else none
  let ser : BitVec 64 := (e.map (·.serial)).getD 0
  if o = 0x3408 then lo32 s.kl.serial
  else if o = 0x340C then hi32 s.kl.serial
  else if o = 0x3464 then
    match e with
    | some x => pack [(31, 1), (8, x.depth), (0, x.parent)]
    | none => 0
  else if o = 0x3468 then lo32 ser
  else if o = 0x346C then hi32 ser
  else if o = 0x3504 ∧ s.dom (24 + i) = 0 then w &&& 0x0000FF00
  else w

/-- Host ports and the partition (15, 16). -/
def State.hostPortRead (s : State) (v o : Nat) (w : Word) : Word :=
  if o = 0x3800 then setFld (setFld w 20 16 s.host.vfs) 13 12 (if s.host.d3hot.getLsbD v then 3 else 0)
  else if o = 0x3C08 then setBit w 3 (s.pendingShadow partShadow)
  else w &&& ~~~(reserved o)

/-- The value of a register with the fields computed at the read; `w` is what the VI sees held there. -/
def State.computed (s : State) (v : Nat) (r : RegRow) (i : Nat) (w : Word) : Word :=
  let o := r.off
  if o < 0x100 then s.capRead v o
  else if o < 0x400 then s.viRead v o i w
  else if o < 0x500 then s.modeRead v o i w
  else if o < 0x700 then s.timeRead o i w
  else if o < 0x800 then s.rindRead v o i w
  else if o < 0x1000 then s.fabRead v o i w
  else if o < 0x1800 then s.seqRead o i w
  else if o < 0x1A00 then s.memRead v o i w
  else if o < 0x1C00 then s.synRead o i w
  else if o < 0x2000 then s.aoutRead o i w
  else if o < 0x2A40 then s.pbRead v o i w
  else if o < 0x2C00 then s.tinRead o i w
  else if o < 0x3000 then s.dispRead o i w
  else if o < 0x3400 then s.calRead o i w
  else if o < 0x3800 then s.klRead o i w
  else s.hostPortRead v o w

/-- The value VI `v` reads from a register, under its REG_CTRL.VIEW_ACTIVE (R80). -/
def State.regValue (s : State) (v : Nat) (r : RegRow) (i k : Nat) : Word :=
  s.computed v r i (s.viewVal v r i k (s.bitv v 0x700 0))

/-! ### Side effects of a read -/

/-- A read clears the RC bits it returned as 1, and no others; a bit the block set in this cycle stays (R82). -/
def State.clearRc (s : State) (v : Nat) (r : RegRow) (i k : Nat) (w : Word) : State :=
  let m := w &&& BitVec.ofNat 32 r.rc
  if m = 0 then s
  else if r.cls.perBit then
    s.each (List.range 32) fun s j =>
      match s.bitAt v r i j with
      | some (o, b) => if tb m j && !tb (s.cy o).raised b then s.wr o (setBit (s.rd o) b false) else s
      | none => s
  else
    let s := s.setKey k (s.getKey k &&& ~~~(m &&& ~~~(s.cy k).raised))
    if r.off = 0x2B8C then { s with peakTaken := true } else s

/-- TINn_STAMP_LO: the oldest entry moves into the window (R347). -/
def State.tinPop (s : State) (n : Nat) : State :=
  let x := s.tin n
  match x.fifo with
  | e :: t => (s.setTin n { x with fifo := t, win := some e }).showTin n
  | [] => (s.setTin n { x with win := none }).showTin n

/-- What reading the low half of a counter does: the high half is latched (R29, Registers of 09, 10, 13). -/
def State.latchHi (s : State) (v : Nat) (r : RegRow) (i : Nat) : State :=
  if r.off = 0x508 then s.wrv v 0x50C (hi32 s.now)
  else if r.off = 0x1028 then s.wr (seqR i + 0x2C) (((s.sq i).periods >>> 32).setWidth 32)
  else if r.off = 0x1030 then s.wr (seqR i + 0x34) (((s.sq i).whey >>> 32).setWidth 32)
  else if r.off = 0x1C44 then s.wr (aoutR i + 0x48) (((s.ao i).freq >>> 32).setWidth 32)
  else if r.off = 0x2E1C then s.wr (dsiR i + 0x20) (s.rd (dsiR i + 0x38))
  else s

/-- The registers whose read moves the next entry into a window before it returns. -/
def State.popFor (s : State) (r : RegRow) (i : Nat) : State :=
  if r.off = 0x8B0 ∧ i = 0 then s.logPop
  else if r.off = 0x2A48 then s.tinPop i
  else s

/-- A read of a register that is there and powered: its value, then its side effects. -/
def State.readReg (s : State) (v : Nat) (r : RegRow) (i k : Nat) : State :=
  if 0x2C0 ≤ r.off ∧ r.off < 0x300 ∧ r.off % 0x10 = 0 then s.mbqPop v ((r.off - 0x2C0) / 0x10)
  else if r.off = 0x300 then s.semRead v i
  else
    let s := s.popFor r i
    let w := s.regValue v r i k
    (((s.clearRc v r i k w).latchHi v r i).answer w)

/-- Register windows shared with the sequencers' own progress: counters and working values are brought up to date first. -/
def State.upToDate (s : State) (o : Nat) : State :=
  if 0x1000 ≤ o ∧ o < 0x2800 then s.catchUpAll else s

/-- An access waits (R110, R186, R432, R508). -/
def State.holdAcc (s : State) (a : HostAcc) : State := { s with mode := { s.mode with heldAcc := s.mode.heldAcc ++ [a] } }

/-- An access of any port but the debug access and the Starter meets a stopped FCLK, or a VI in reset, or an earlier access of
its port and VI, or BAR2 request of its function (R443), that waits (R79), or reads TIME_NOW_LO before the handoff (R20): answered, or held. -/
def State.gateAcc (s : State) (a : HostAcc) : Option State :=
  if a.port = .internal then none
  else if s.rst.phase = 5 ∧ (s.mode.eff = .listen ∨ s.mode.eff = .shelf) then
      let n := s.mode.heldAcc.length
      let s := s.sleepAccess a
      some (if s.mode.eff = .listen ∧ s.mode.heldAcc.length = n then
        s.finishAcc a.port a.vi a.off.toNat a.write else s)
  else if !s.time.fclk then some (s.holdAcc a)
  else if (s.vi a.vi).inReset || s.mode.heldAcc.any fun b => b.vi == a.vi && b.port == a.port then some (s.holdAcc a)
  else if s.time.handoff && !a.write && a.off.toNat % 0x4000 == 0x508 then some (s.holdAcc a)
  else if a.port = .pcie ∧ s.mem.heldAper.any (fun b => b.vi == a.vi) then some (s.holdAcc a)
  else none

/-- A read accepted at offset `o` of the window: alias offsets read as the normal one (R75); an offset that is no multiple
of 4, or byte enables that are not all set, is NARROW (R74). -/
def State.readNow (s : State) (v o port : Nat) (be : BitVec 4) : State :=
  if be ≠ 0xF ∨ o % 4 ≠ 0 then s.refuseRead v 0 o port
  else
    let s := s.upToDate (o % 0x4000)
    match s.slot v (o % 0x4000) with
    | .unlisted => s.answer 0
    | .hidden => s.answer 0
    | .unassigned => s.refuseRead v 4 o port
    | .reg r i k => if s.slotGated r i then s.refuseRead v 3 o port else s.readReg v r i k

/-- The value and the refusal (a VI_ACC_ERR field) of a read without side effects, as the debug access performs it (R83). -/
def State.peek (s : State) (v o : Nat) : Word × Option Nat :=
  if o % 4 ≠ 0 then (0, some 0)
  else
    let s := s.upToDate (o % 0x4000)
    match s.slot v (o % 0x4000) with
    | .unlisted => (0, none)
    | .hidden => (0, none)
    | .unassigned => (0, some 4)
    | .reg r i k => if s.slotGated r i then (0, some 3) else (s.regValue v r i k, none)

/-- A register read of VI `v` (R74 to R83): held, refused, or answered on its port. A read of VI_FENCE is held until it
completes (R418), across a reset of its VI as well (R432). -/
def State.hostRead (s : State) (v : Nat) (p : Port) (off : BitVec 16) (be : BitVec 4) : State :=
  let a : HostAcc := { vi := Fin.ofNat 32 v, port := p, off := off, data := 0, write := false, be := be }
  let fence := decide (p ≠ .internal) && off.toNat % 0x4000 == 0x114 && be == 0xF
  if fence && s.awake && (s.vi v).inReset then s.fenceStart v p
  else match s.gateAcc a with
  | some s => s
  | none =>
    if p = .internal then
      let (w, why) := s.peek v off.toNat
      { s with rdata := some (w, why.isSome) }
    else if fence then s.fenceStart v p
    else
      let s := { s with host := { s.host with refused := false } }
      (s.readNow v off.toNat (portCode p) be).finishAcc p v off.toNat false

end Sys2Proof.Machine
end

