-- ==== Sys2Proof/Machine/AccWrite.lean ====
section
/-! DEFINITION. What a write of a register does: the value its writable fields take, with the corrections the chapters state
(values clamped, writes ignored while a block runs), and the actions of its W1F and WO fields. -/

namespace Sys2Proof.Machine

/-- The state after a command that completes. -/
def State.run (s : State) (f : State → Res) : State :=
  match f s with
  | .next t => t
  | _ => s

/-- Field [hi:lo] of a value held between two bounds. -/
def clampFld (x : Word) (hi lo a b : Nat) : Word := setFld x hi lo (max a (min b (bf x hi lo)))
/-- Field [hi:lo] with the value `a` read back as `b`. -/
def swapFld (x : Word) (hi lo a b : Nat) : Word := if bf x hi lo = a then setFld x hi lo b else x

/-! ### Values with a rule of their own -/

/-- The built-in limits of CAL_LIM0 to CAL_LIM6 (R399); CAL_LIM1, 4 and 5 are lower bounds. -/
def calLimits : List Nat := [32, 660, 150, 20, 154, 128, 8]
def tightLimit (i n : Nat) : Nat :=
  let b := (calLimits[i]?).getD 0
  if i = 1 ∨ i = 4 ∨ i = 5 then max n b else min n b

/-- The value that reads back after a write of `x` (the register tables of each chapter). `j` is the instance. -/
def State.readsBack (s : State) (o j : Nat) (x : Word) : Word :=
  if o = 0x11C then clampFld x 9 0 1 1000
  else if o = 0x410 then setFld x 15 0 (max 22 (bf x 15 0))
  else if o = 0x608 ∧ 4 ≤ j then setBit (setBit x 5 false) 4 true
  else if o = 0x1820 then clampFld x 15 0 0 s.budgetMax
  else if o = 0x1A04 ∧ j ≠ 3 then setFld x 14 12 0
  else if o = 0x1A08 then setFld x 31 24 (max 2 (bf x 31 24))
  else if o = 0x1A0C then clampFld (swapFld x 11 8 0 1) 4 0 8 16
  else if o = 0x1A14 then swapFld x 7 0 0 1
  else if o = 0x1C08 then clampFld x 10 0 0 1024
  else if o = 0x2014 then clampFld x 11 0 2 2048
  else if o = 0x2A40 then swapFld (clampFld x 13 8 0 60) 7 6 3 0
  else if o = 0x2B40 then clampFld x 25 20 0 60
  else if o = 0x2BA0 then swapFld x 28 16 0 1
  else if o = 0x3020 then setFld x 15 0 (tightLimit j (bf x 15 0))
  else if o = 0x3420 then (if x.toNat < 2048 then 2048 else x)
  else if o = 0x3D00 ∧ j = 6 then setFld x 7 0 128
  else x

/-- Where a write of a register is ignored while its block runs: the register and the bit that says so (R257, R259, R311,
R366). -/
def State.busyFlag (s : State) (o i : Nat) : Option (Nat × Nat) :=
  if (o = 0x100C ∨ o = 0x1010 ∨ o = 0x1014 ∨ o = 0x1018) ∧ s.seqOn i = true then some (seqR i + 8, 16)
  else if o = 0x2014 ∧ s.pbState i ≠ 0 then some (pbR i + 8, 8)
  else if [0x2C00, 0x2C0C, 0x2C10, 0x2C14, 0x2C18, 0x2C28].contains o ∧ s.dispState ≠ 0 then some (0x2C08, 9)
  else none

/-- The value a write of `x` over `cur` would leave: none of a write that is ignored as a whole changes a field (R89). -/
def State.takes (s : State) (o i : Nat) (cur x : Word) : Word :=
  if (o = 0x1A18 ∧ x = 0) ∨ (o = 0x2010 ∧ bf x 15 8 < bf x 7 0) ∨ (s.busyFlag o i).isSome = true then cur else s.readsBack o i x

/-- A write of SEQk_BIND (R257): an output bound to another sequencer, or a bank that runs freely (R332), is not bound, and
BIND_CONFLICT sets. -/
def State.bindSeq (s : State) (k : Nat) (old : Word) : State :=
  let others := ((List.range 16).filter (· ≠ k)).foldl (fun m j => m ||| s.rd (seqR j + 0xC)) 0
  let y := s.rd (seqR k + 0xC)
  let free := maskOf fun j => 8 ≤ j && s.pbState (j - 8) == 2
  let bad := y &&& (others ||| free) &&& ~~~old
  if bad = 0 then s else (s.wr (seqR k + 0xC) (y &&& ~~~bad)).wseq k 15 true

/-- TIME_CTRL.SLAVE_EN (R22): a member of a tree that is not its root follows the root's time from now on, or stops. -/
def State.slaveEnable (s : State) (on : Bool) : State :=
  if on then
    if s.inTree && !s.isRoot && !s.kl.joining then
      ({ (s.wbit 0x504 2 true).wbit 0x504 3 false with kl := { s.kl with aligned := false, thetas := [] } }).showDomain
    else s
  else if s.bit 0x504 2 then
    ({ s.wbit 0x504 2 false with time := { s.time with slew := 0, rate := 0 }, kl := { s.kl with aligned := false } }).showDomain
  else s

/-- RIND_CTRL.EN (Rind disabled): 0 disarms every region and stops the walker, but for a commit; 1 starts a fresh walk and re-arms the
regions with a reference, but for those a mismatch has disarmed until their next commit (R98; DEDUCED, log entry 103). -/
def State.rindEnable (s : State) (on : Bool) : State :=
  let s := s.each (List.range 33) fun s g =>
    let x := s.rg g; s.setRg g { x with armed := on && x.hasRef && !x.failed }
  if s.walk.on && s.walk.out then { s with walk := { s.walk with turn := 32 } } else s.freshWalk

/-- RIND_OPEN written (R96, R97): a flag written 1 opens its region, one written 0 starts the commit of an open region; 0
written during a commit changes nothing. -/
def State.rindOpenBit (s : State) (v : Nat) (phys on : Bool) : State :=
  match rindTarget v phys with
  | none => s
  | some g =>
    if on then s.run (execRindOpen (Fin.ofNat 32 v) phys)
    else if (s.rg g).opened then s.run (execRindCommit (Fin.ofNat 32 v) phys)
    else s

/-- A ring, or the fail log, whose enable was written is checked (R326, R330). -/
def State.ringWritten (s : State) (o i : Nat) : State :=
  if o = 0x2044 then s.checkRing i (pbR i + 0x44) 20
  else if o = 0x2060 then s.checkRing i (pbR i + 0x60) 24
  else s.checkRing i (pbR i + 0x70) 24

/-- SYN_HFXO_CFG.EN (R171): the output is stable 2 ms after it was enabled. -/
def State.hfxoEnable (s : State) (was : Bool) : State :=
  let on := s.bit 0x1B08 0
  if on && !was then s.after (ms 2) .hfxoReady else if was && !on then (s.wbit 0x1B08 16 false).refStops 1 else s

/-- What follows when a register has taken the value `x` over `cur`. -/
def State.afterStore (s : State) (v : Nat) (r : RegRow) (i : Nat) (cur x old : Word) : State :=
  let o := r.off
  if o = 0x500 then (if tb x 0 = tb cur 0 then s else s.slaveEnable (tb x 0))
  else if o = 0x414 then s.safeEval
  else if o = 0x714 then (if tb x 0 = tb cur 0 then s else s.rindEnable (tb x 0))
  else if o = 0x100C then s.bindSeq i old
  else if o = 0x1010 ∨ o = 0x1014 ∨ o = 0x1018 then s.dropCache i
  else if o = 0x1A14 then s.slewWritten i (bf cur 7 0)
  else if o = 0x1B04 then (if tb x 2 = tb cur 2 then s else if tb x 2 then s.refStarts 0 else s.refStops 0)
  else if o = 0x1B08 then s.hfxoEnable (tb cur 0)
  else if o = 0x2044 ∨ o = 0x2060 ∨ o = 0x2070 then s.ringWritten o i
  else if o = 0x2850 ∨ o = 0x2854 then (if s.trgWidth i < 64 then s.wr (trgR i + 0x10) 64 else s)
  else if o = 0x2BB0 then (if tb x 0 && !tb cur 0 then s.keyEnable i else s)
  else if o = 0x3500 then (if tb cur 0 && !tb x 0 then s.after 0 (.portClose (Fin.ofNat 4 i) .disabled) else s).reviewDoms
  else if o = 0x1000 ∨ o = 0x1C00 ∨ o = 0x2000 ∨ o = 0x2840 ∨ o = 0x2C00 then s.reviewDoms
  else if o = 0x880 ∧ v = 0 then (if tb x 2 && !tb cur 2 then s.run execLogSpillEnable else s)
  else s

/-- A write of the writable fields: `cur` is what the VI sees there, `x` what it writes, `t` the bits it touches. -/
def State.storeReg (s : State) (v : Nat) (r : RegRow) (i k : Nat) (cur x t : Word) : State :=
  let o := r.off
  if t = 0 then s
  else if o = 0x400 then (if tb (s.cy k).raised 0 then s else s.run (execModeReq (Fin.ofNat 32 v) (x.setWidth 3)))
  else if o = 0x708 then
    let s := if tb t 0 then s.rindOpenBit v false (tb x 0) else s
    if tb t 1 then s.rindOpenBit v true (tb x 1) else s
  else if o = 0x890 then s.run (execLogSpillCfgWrite x)
  else if o = 0x1A00 then
    (s.viewPut v r i k (setBit x 0 (tb cur 0)) t).run (execSynEn (Fin.ofNat 4 i) (tb x 0))
  else if o = 0x1A10 then s.run (execSynGlide (Fin.ofNat 4 i) (x.setWidth 24))
  else if o = 0x1A18 ∧ x = 0 then s
  else if o = 0x1C04 then s.run (execAoutModeWrite (Fin.ofNat 8 i) x)
  else if o = 0x2010 ∧ bf x 15 8 < bf x 7 0 then s.wpb i 7 true
  else if o = 0x3C10 ∨ o = 0x3C14 then s.bindWrite ((o - 0x3C10) / 4) x
  else match s.busyFlag o i with
    | some (a, b) => s.wbit a b true
    | none =>
      let old := s.stored r false k
      let y := s.readsBack o i x
      let p0 := s.rdv v 0x180
      let e0 := s.rdv v 0x184
      let m0 := s.irqMap v
      let s := s.viewPut v r i k y t
      if o = 0x184 ∨ o = 0x190 then s.vectors v p0 e0 m0 else s.afterStore v r i cur y old

/-! ### W1F and WO fields -/

/-- Run a command for each bit of `d` that is set and names a resource of a bit register. -/
def State.eachBit (s : State) (v : Nat) (r : RegRow) (i : Nat) (d : Word) (f : State → Nat → Nat → State) : State :=
  s.each (List.range 32) fun s j =>
    if !tb d j then s
    else match s.bitAt v r i j with
      | some (o, b) => f s o b
      | none => s

/-- MODE_CMD (R555): SAFE_ENTER, SAFE_EXIT, SHELF in this order; beside an accepted entry, which during a descent is latched (R120),
an exit is refused with CAUSE and SHELF with SAFE. -/
def State.modeCmd (s : State) (d : Word) : State :=
  let s := if tb d 1 then s.run execSafeEnter else s
  let s :=
    if !tb d 2 then s
    else if tb d 1 then (s.refuseMode 0 4).wbitv 0 0x404 17 true
    else s.run execSafeExit
  if !tb d 0 then s else if tb d 1 then s.refuseMode 0 8 else s.run execShelf

/-- RST_REQ (R134): LEVEL 0 core, 1 system, 2 warm; 3 is refused with the reason for a bad request. -/
def State.askReset (s : State) (level : Nat) : State :=
  if level = 3 then s.refuseMode 0 6
  else s.requestReset 6 (if level = 0 then 3 else level)

/-- VI_CMD, mailbox and semaphore commands (15). -/
def State.fireVi (s : State) (v o : Nat) (d : Word) : State :=
  let w := Fin.ofNat 32 v
  let bits (s : State) (f : State → Nat → State) : State := s.each ((List.range 32).filter (tb d)) f
  if o = 0x104 then
    let s := if tb d 2 then s.run (execMbFlush w) else s
    let s := if tb d 1 then s.run (execViCntClr w) else s
    if tb d 0 then s.viResetGo v else s
  else if o = 0x128 then bits s fun s r => s.run (execViPwfClr w (Fin.ofNat 8 r))
  else if o = 0x288 then s.mbSend v d
  else if o = 0x2A0 then bits s fun s n => s.semFree v n
  else if o = 0x2A4 then bits s fun s n => s.semFree v (32 + n)
  else if o = 0x2A8 then s.semHand v d
  else s

/-- Mode, reset, time, alarm and Rind commands (01, 03, 04, 05). A write that sets ARM and DISARM leaves the action disarmed
(R554). -/
def State.fireTime (s : State) (v o i : Nat) (d : Word) : State :=
  let w := Fin.ofNat 32 v
  let n := Fin.ofNat 16 i
  if o = 0x408 then s.modeCmd d
  else if o = 0x43C then
    if tb d 9 then s.run (execModeTmcDisarm w) else if tb d 8 then s.run (execModeTmcArm w) else s
  else if o = 0x48C then (if tb d 8 then s.askReset (bf d 1 0) else s)
  else if o = 0x518 then
    let s := if tb d 0 then s.run execTimeSet else s
    if tb d 1 then s.run (execLateClr w) else s
  else if o = 0x608 then
    if tb d 1 then s.run (execAlmDisarm n) else if tb d 0 then s.run (execAlmArm n) else s
  else if o = 0x70C then
    let s := if tb d 0 then s.run (execRindCommit w false) else s
    if tb d 1 then s.run (execRindCommit w true) else s
  else s

/-- Fabric and log commands (02): DISCARD wins over COMMIT. -/
def State.fireFab (s : State) (v : Nat) (r : RegRow) (i : Nat) (d : Word) : State :=
  let w := Fin.ofNat 32 v
  if r.off = 0x804 then
    if tb d 1 then s.run (execFabDiscard w) else if tb d 0 then s.run (execFabCommit w) else s
  else if r.off = 0x808 then (if tb d 0 then s.run (execFabCntClr w) else s)
  else if r.off = 0x880 then (if tb d 8 then s.run execLogClear else s)
  else s.eachBit v r i d fun s o b => s.swFire v (32 * ((o - 0x80C) / 4) + b)

/-- Sequencer commands (09). -/
def State.fireSeq (s : State) (i : Nat) (d : Word) : State :=
  let k := Fin.ofNat 16 i
  let s := if tb d 0 then s.run (execSeqStart k) else s
  let s := if tb d 1 then s.run (execSeqStop k) else s
  let s := if tb d 2 then s.run (execSeqStopStep k) else s
  let s := if tb d 4 then s.run (execSeqDisarm k) else if tb d 3 then s.run (execSeqArm k) else s
  if tb d 5 then s.run (execSeqCntClr k) else s

/-- Segment memory and synthesizer commands (06, 07). -/
def State.fireMem (s : State) (v o i : Nat) (d : Word) : State :=
  if o = 0x1828 then
    s.each ((List.range 16).filter (tb d)) fun s j => match s.phys v .seq j with
      | some k => s.run (execPrecheck (Fin.ofNat 16 k))
      | none => s
  else if o = 0x1884 then (if tb d 31 then s.run (execDirValGo (Fin.ofNat 32 v) (d.setWidth 17)) else s)
  else if o = 0x1914 then
    if tb d 9 then s.run (execLdeStop (Fin.ofNat 4 i)) else if tb d 8 then s.run (execLdeStart (Fin.ofNat 4 i)) else s
  else s.each ((List.range 4).filter (tb d)) fun s x =>
    if (x = 0 ∧ v = 0) ∨ (x ≠ 0 ∧ (s.owns v .misc x || s.physView v) = true) then s.run (execSynUpdate (Fin.ofNat 4 x)) else s

/-- Analog channel, pattern bank and trigger commands (10, 11). A STOP wins over a START of a free-running bank (Start and stop
together). -/
def State.fireOut (s : State) (o i : Nat) (d : Word) : State :=
  let n := Fin.ofNat 8 i
  let on (s : State) (j : Nat) (f : State → Res) : State := if tb d j then s.run f else s
  if o = 0x1C24 then on (on (on (on s 0 (execPark n)) 1 (execUnpark n)) 2 (execPreload n)) 3 (execAoutCntClr n)
  else if o = 0x2004 then
    let s := if tb d 1 then s.run (execPbStop n) else on s 0 (execPbStart n)
    on (on s 2 (execFailClr n)) 3 (execPbCntClr n)
  else
    let s := on s 0 (execFire n)
    let s := if tb d 2 then s.run (execTrgDisarm n) else on s 1 (execTrgArm n)
    on s 3 (execTrgCntClr n)

/-- Input and scan-out commands (12, 13). -/
def State.fireDisp (s : State) (v : Nat) (r : RegRow) (i : Nat) (d : Word) : State :=
  let o := r.off
  let on (s : State) (j : Nat) (f : State → Res) : State := if tb d j then s.run f else s
  if o = 0x2B80 then on s 8 (execMadcGo (d.setWidth 5))
  else if o = 0x2B90 then
    s.eachBit v r i d fun s _ b =>
      if b < 16 then s.run (execFifoClr (Fin.ofNat 16 b)) else s.run (execTinCntClr (Fin.ofNat 16 (b - 16)))
  else if o = 0x2C04 then
    let s := on (on (on s 0 execDispStart) 1 execStop) 2 execStopNow
    on (on (on s 3 execDispCntClr) 4 (execQflush 0)) 5 (execQflush 1)
  else if o = 0x2C30 then s.run (execCscPreset (d.setWidth 2))
  else if o = 0x2C54 then (if tb d 31 then s.run (execPktGo (s.rd 0x2C54)) else s)
  else s.run (execQpush (Fin.ofNat 2 i) d)

/-- CAL_CMD (R389, R394): ABORT by the VI that started the calibration, then GO. -/
def State.calCmd (s : State) (v : Nat) (d : Word) : State :=
  let w := Fin.ofNat 32 v
  let n := Fin.ofNat 16 (bf d 11 8)
  let s := if tb d 30 && s.cal.run.any (fun c => c.1 == v) then s.run (execCalAbort .sw) else s
  if !tb d 31 then s
  else match bf d 3 0 with
    | 1 => s.run (execCalDac w n)
    | 2 => s.run (execCalBankDeskew w n)
    | 3 => s.run (execCalDphyDeskew w n)
    | 4 => s.run (execCalMadc w)
    | 5 => s.run (execCalKlRetrain w n)
    | kind => s.calGo v kind n

/-- Calibration, link, host and partition commands (14 to 17). -/
def State.fireSys (s : State) (v port o : Nat) (d : Word) : State :=
  let tag := s.fldv v 0x118 15 0
  if o = 0x3000 then s.calCmd v d
  else if o = 0x3100 then
    let i := Fin.ofNat 8 (bf d 2 0)
    let s := if tb d 30 then s.run (execClear i) else s
    if tb d 31 then s.run (execSave i) else s
  else if o = 0x3428 then (if tb d 31 then s.run (execKlRstCmd d) else s)
  else if o = 0x3604 then s.raWrite v tag port d
  else if o = 0x3608 then (if tb d 0 then s.raRead v tag port else s)
  else if o = 0x3828 then (if tb d 31 then s.run (execNvmErase (d.setWidth 16)) else s)
  else if o = 0x3C04 then
    let s := if tb d 0 then s.run execApply else s
    if tb d 1 then s.run execDiscard else s
  else s.each ((List.range 32).filter fun j => tb d j && decide (1 ≤ j)) fun s j => s.viResetGo j

/-- The W1F and WO fields of a normal write act, each in the cycle the write is accepted (R80). -/
def State.fireFields (s : State) (v port : Nat) (r : RegRow) (i : Nat) (d : Word) : State :=
  let o := r.off
  if o < 0x400 then s.fireVi v o d
  else if o < 0x800 then s.fireTime v o i d
  else if o < 0x1000 then s.fireFab v r i d
  else if o < 0x1800 then s.fireSeq i d
  else if o < 0x1C00 then s.fireMem v o i d
  else if o < 0x2A40 then s.fireOut o i d
  else if o < 0x3000 then s.fireDisp v r i d
  else s.fireSys v port o d

end Sys2Proof.Machine
end

