-- ==== Sys2Proof/Machine/Access.lean ====
section
/-! DEFINITION. Register accesses (03, 15): normal and alias writes, reads, and the rows for the reads with an effect of their
own. A row of another chapter that a register write causes (ALM_ARM, FAB_COMMIT and so on) is that effect alone; the access
that causes it, with its write tag and its checks, is REGISTER_WRITE or ALIAS_WRITE (log entry 32). -/

namespace Sys2Proof.Machine

/-- What the VI sees at a register a write is about to change. -/
def State.currentVal (s : State) (v : Nat) (r : RegRow) (i k : Nat) : Word :=
  let x := s.viewVal v r i k false
  if r.off = 0x708 then s.computed v r i x
  else if r.cls = .trgBits then setBit x 16 (s.trgLocked fun w => s.physView v || w == .vi v)
  else x

/-- The value a write with data `d` gives fields `a` that now hold `cur`: normal, SET, CLR or TGL (The register window). -/
def aliasValue (op : Nat) (cur a d : Word) : Word :=
  if op = 0 then (cur &&& ~~~a) ||| (d &&& a)
  else if op = 1 then cur ||| (d &&& a)
  else if op = 2 then cur &&& ~~~(d &&& a)
  else cur ^^^ (d &&& a)

/-- The calibration that runs on the channel or bank whose register is written is aborted (R394). -/
def State.abortOnWrite (s : State) (o i : Nat) : State :=
  if ((o = 0x1C00 ∨ o = 0x1C04 ∨ o = 0x1C08) ∧ s.calOn 1 i = true) ∨
     ((o = 0x200C ∨ o = 0x2010 ∨ o = 0x2014) ∧ s.calOn 2 i = true) then s.run (execCalAbort .sw) else s

/-- The bits a write with operation `op` and data `d` touches (R76, R80): those the VI may write, of an alias write those with a 1. -/
def touches (v : Nat) (r : RegRow) (i op : Nat) (d : Word) : Word :=
  if op = 0 then canAlter v r i else d &&& canAlter v r i &&& ~~~(reserved r.off)

/-- A write of a register with at least one field the VI may write (R76 to R81, R86, R88 to R90): `o` is the offset accessed. -/
def State.writeReg (s : State) (v o port : Nat) (d : Word) (r : RegRow) (i k : Nat) : State :=
  let op := o / 0x4000
  let a := canAlter v r i
  let s := if op ≠ 0 ∧ d &&& s.fields v r i &&& ~~~a ≠ 0 then s.accErr v 1 o port true else s
  let cur := s.currentVal v r i k
  let x := aliasValue op cur (if op = 0 then a else a &&& ~~~(reserved r.off)) d
  let t := touches v r i op d
  let locked := s.lockedFields v r i
  let hit := decide ((s.takes r.off i cur x ^^^ cur) &&& locked ≠ 0)
  let s := if hit then s.refuseWrite v 5 o port else s
  let lockBit := BitVec.ofNat 32 r.lock
  let sets := x &&& lockBit &&& ~~~cur ≠ 0
  let keep := locked ||| lockBit
  let s := if hit && r.off == 0x1A10 then s else s.storeReg v r i k cur ((x &&& ~~~keep) ||| (cur &&& keep)) t
  let s := if r.rind ≠ 0 ∧ t ≠ 0 then
      (s.places v r i k t).foldl (fun s p => s.restartWalks p.1 p.2) (s.abortOnWrite r.off i)
    else s
  let s := match lockBlock r i with
    | some b => if sets then s.run (execLockSet (Fin.ofNat 32 v) b) else s
    | none => s
  if op = 0 ∧ canFire v r ≠ 0 then s.fireFields v port r i (d &&& canFire v r) else s

/-- A write at offset `o` of the window: it takes the VI's next tag (R417), then acts or is refused (R74, R76, R81, R84,
R125, R551). -/
def State.writeNow (s : State) (v o port : Nat) (be : BitVec 4) (d : Word) : State :=
  let s := s.nextTag v
  let noField : State := s.accErr v (if o < 0x4000 then 2 else 1) o port true
  if be ≠ 0xF ∨ o % 4 ≠ 0 then s.accErr v 0 o port true
  else match s.slot v (o % 0x4000) with
    | .unlisted => noField
    | .hidden => noField
    | .unassigned => s.refuseWrite v 4 o port
    | .reg r i k =>
      if s.slotGated r i then s.refuseWrite v 3 o port
      else if canAlter v r i ||| canFire v r = 0 then noField
      else s.writeReg v o port d r i k

/-- The write waits for a commit walk that has restarted 8 times (R508). -/
def State.walkBlocks (s : State) (a : HostAcc) : Bool :=
  match s.slot a.vi (a.off.toNat % 0x4000) with
  | .reg r i k => a.port != .internal && r.rind != 0 &&
      (s.places a.vi r i k (touches a.vi r i (a.off.toNat / 0x4000) a.data)).any fun p => s.walkHolds p.1 p.2
  | _ => false

/-- A register write of VI `v`: held, refused, or performed, and answered on its port. -/
def State.hostWrite (s : State) (v : Nat) (p : Port) (off : BitVec 16) (d : Word) (be : BitVec 4) : State :=
  let a : HostAcc := { vi := Fin.ofNat 32 v, port := p, off := off, data := d, write := true, be := be }
  match s.gateAcc a with
  | some s => s
  | none =>
    if s.walkBlocks a then s.holdAcc a
    else
      let s := { s with host := { s.host with refused := false } }
      (s.writeNow v off.toNat (portCode p) be d).finishAcc p v off.toNat true

/-! ### The rows -/

/-- REGISTER_WRITE (R80, R81): a normal write. -/
def execRegisterWrite (v : Fin 32) (p : Port) (off : BitVec 16) (d : Word) (be : BitVec 4) (s : State) : Res :=
  ok (s.hostWrite v p off d be)

/-- ALIAS_WRITE (R76, R77): a SET, CLR or TGL write, indivisible. -/
def execAliasWrite (v : Fin 32) (p : Port) (off : BitVec 16) (d : Word) (be : BitVec 4) (s : State) : Res :=
  ok (s.hostWrite v p off d be)

/-- RC_READ (R82): a read of a register; RC bits it returns as 1 clear. -/
def execRcRead (v : Fin 32) (p : Port) (off : BitVec 16) (be : BitVec 4) (s : State) : Res := ok (s.hostRead v p off be)

/-- TIME_NOW_READ (R29). -/
def execTimeNowRead (v : Fin 32) (p : Port) (s : State) : Res := ok (s.hostRead v p 0x508 0xF)

/-- COUNTER_LO_READ: a read of the low half of a counter latches the high half. -/
def execCounterLoRead (v : Fin 32) (p : Port) (off : BitVec 16) (s : State) : Res := ok (s.hostRead v p off 0xF)

/-- LOG_ENTRY_READ: LOG_ENTRY0 moves the oldest entry into the window. -/
def execLogEntryRead (v : Fin 32) (p : Port) (s : State) : Res := ok (s.hostRead v p 0x8B0 0xF)

/-- TIN_STAMP_READ (R347): TINn_STAMP_LO of physical input `n`, where the VI has it. -/
def execTinStampRead (v : Fin 32) (p : Port) (n : Fin 16) (s : State) : Res :=
  ok (s.hostRead v p (BitVec.ofNat 16 (0x2A48 + 0x10 * (s.virt v .tin n).getD 15)) 0xF)

/-- MBQ_READ (R425, R426). -/
def execMbqRead (v : Fin 32) (p : Port) (q : Fin 4) (s : State) : Res :=
  ok (s.hostRead v p (BitVec.ofNat 16 (0x2C0 + 0x10 * q.val)) 0xF)

/-- SEM_ACQUIRE (R428). -/
def execSemAcquire (v : Fin 32) (p : Port) (n : Fin 64) (s : State) : Res :=
  ok (s.hostRead v p (BitVec.ofNat 16 (0x300 + 4 * n.val)) 0xF)

/-- VI_FENCE (R418): the read is held until the VI's earlier writes complete. -/
def execViFence (v : Fin 32) (p : Port) (s : State) : Res := ok (s.hostRead v p 0x114 0xF)

/-- KL_RA_WDATA (R497): a write of the register, with the write's own tag (R417). -/
def execKlRaWdata (v : Fin 32) (d : Word) (s : State) : Res :=
  let s := s.nextTag v
  ok (s.raWrite v (s.fldv v 0x118 15 0) 0 d)

/-- KL_RA_READ (R497): KL_RA_CMD.READ written 1, with the write's own tag. -/
def execKlRaRead (v : Fin 32) (s : State) : Res :=
  let s := s.nextTag v
  ok (s.raRead v (s.fldv v 0x118 15 0) 0)

end Sys2Proof.Machine
end

