-- ==== Sys2Proof/Machine/Resets.lean ====
section
/-! DEFINITION. Reset levels and start-up up to P3 (05): the sources, what each level clears and spares, core reset, P0 to P2. Levels
are coded as RST_CAUSE.LEVEL codes them: 0 POR, 1 system, 2 warm, 3 core. -/

namespace Sys2Proof.Machine

/-! ### What a reset spares -/

/-- The registers a system or warm reset leaves alone (R131, R45, R130, R167, R220, R466): RST_CAUSE and its time, RST_STATUS,
RST_WDT_CNT, the keeper's trim and history, the PCIe link's status unless PERST_N caused the reset, and under warm reset SAFE_CNT
and MEM_STATUS. -/
def sparedReg (level src k : Nat) : Bool :=
  (0x480 ≤ k && k ≤ 0x488) || k == 0x494 || k == 0x498 || k == 0x524 || k == 0x528 || (0x540 ≤ k && k < 0x580) ||
    (k == 0x3800 && src != 7) || (level == 2 && (k == 0x41C || k == 0x1800))

/-- The registers the fallback of R149 leaves alone beside those of a system reset: the start-up's own, and the memory's
training. -/
def fallbackReg (k : Nat) : Bool := sparedReg 1 0 k || (0x4A0 ≤ k && k < 0x4B8) || k == 0x3820 || k == 0x1800

/-- The time of record through a system or warm reset (R45): it is kept, and advances from the keeper. -/
def TimeSt.spare (t : TimeSt) : TimeSt :=
  { t with fclk := false, handoff := false, setAtEdge := none, setNext := none, slew := 0, shift := 0, acc := 0, rate := 0, keepEdges := 0 }

/-- The host ports through a reset: debug access spared (R131); the PCIe functions' configuration kept with the link, but for
PERST_N (R466); a frame in progress ends with BUSY, and a held access is discarded. -/
def State.spareHost (s : State) (src : Nat) : HostSt :=
  let h := (s.spiEnd 1 0).host
  let n : HostSt := { spi := h.spi, dbgData := h.dbgData, dbgDone := h.dbgDone, dbgErr := h.dbgErr }
  if src = 7 then n else { n with status := h.status, vfs := h.vfs, d3hot := h.d3hot, busMaster := h.busMaster }

/-- The stores through a reset (R131, R200, R206, R220): the attached flash always; the memory and the Vat under warm reset;
otherwise their contents are lost. Every granule is LOADED and every entry UNCHECKED. -/
def State.spareMem (s : State) (keep : Bool) : MemSt :=
  let m := s.mem
  if keep then { vat := m.vat, mem := m.mem, nvm := m.nvm, nvmRanges := m.nvmRanges, lost := m.lost, errs := m.errs,
                 scrubAt := s.time.mono + ms 2000 }
  else { nvm := m.nvm, nvmRanges := m.nvmRanges, lost := s.free + 1, scrubAt := s.time.mono + ms 2000 }

/-- The state with every register outside `keep` at its reset value and every block as at reset; reset and Starter state are
`r`. -/
def State.cleared (s : State) (keep : Nat → Bool) (r : RstSt) (time : TimeSt) (mem : MemSt) (host : HostSt) : State :=
  { regs := Tab.keep keep s.regs, time := time, rst := r, mem := mem, host := host, kl := { serial := s.kl.serial },
    tins := Tab.pinsOnly s.tins fun _ => true, acmps := s.acmps.map fun e => (e.1, { uv := e.2.uv, vccio := e.2.vccio }),
    refinHz := s.refinHz, hfxoHz := s.hfxoHz, free := s.free + 1, rdata := s.rdata, pending := s.pending }

/-- RST_CAUSE and RST_CAUSE_TIME (R138). -/
def State.recordReset (s : State) (r : ResetReq) : State :=
  (s.wr 0x480 (pack [(13, b2n r.promoted), (12, b2n (r.src == 5)), (8, r.level), (0, r.src)])).wr64 0x484 0x488 r.time

/-- A Starter restart counts in TRIES; where it would make 8 the start-up is to be bare (R153). -/
def State.countTry (s : State) (restart : Bool) : State :=
  if !restart then s
  else if 7 ≤ s.fld 0x494 23 20 then { s with rst := { s.rst with bare := true } }
  else s.incFld 0x494 23 20 1

/-- A system or warm reset takes effect (R131, R152): the device clears, and waits in P0 for its release. -/
def State.deviceReset (s : State) (r : ResetReq) : State :=
  let s := s.abortNvm
  let rst : RstSt := { holdLow := s.rst.holdLow, holdHot := s.rst.holdHot, holdVin := s.rst.holdVin, lastWdt := s.rst.lastWdt,
                       warmKept := r.level == 2, ecc := r.level == 2 && s.bit 0x1800 1 }
  let t := s.cleared (sparedReg r.level r.src) rst s.time.spare (s.spareMem (r.level == 2)) (s.spareHost r.src)
  (t.fitBudget.recordReset r).countTry r.restart

/-- Power-on reset (R131, R138): everything clears; what a POR finds outside the device stays (the attached NVM, the board's
clocks, the serial number). -/
def State.powerOn (s : State) : State :=
  let time : TimeSt := { mono := s.time.mono, nextKeep := s.time.nextKeep }
  s.cleared (fun _ => false) {} time (s.abortNvm.spareMem false) {}

/-- A load engine that programs the NVM stops, and the page in flight is undefined (R462). -/
def State.abortProgram (s : State) (e : Nat) : State :=
  let x := s.lde e
  if !(x.busy && bf x.ctrl 6 4 == 3) then s
  else
    let s := s.stopLde e
    let p := 2 ^ s.fld 0x3820 15 8
    let a := (x.dst.toNat + (s.rd (ldeR e + 0x1C)).toNat) / p * p
    s.wipeNvm a (a + p) false

/-- The sequencers' live state clears (R130, R256, R284): program state, counters, faults and counts, with HALT_WHY CORE. An armed
start stays armed, with the demand cached for it; `was` are the sequencers that halted, whose caches clear (R220), and a start whose
admission was under way is abandoned. -/
def State.coreSeqs (s : State) (was : List Nat) : State :=
  let armed := (List.range 16).filter fun k => s.bit (seqR k + 8) 2
  let s := s.resetLive 3
  let s := s.each (List.range 16) fun s k => s.wfld (seqR k + 8) 27 24 7
  let s := s.each was fun s k => s.dropCache k
  let s := s.each ((List.range 16).filter fun k => s.scanOf k == .start) fun s k => s.setScan k .precheck
  let s := s.each ((List.range 16).filter fun k => s.scanOf k == .entering) fun s k =>
    (s.setScan k .idle).cancel (.admitScanDone (Fin.ofNat 16 k))
  s.each armed fun s k => s.wbit (seqR k + 8) 2 true

/-- Core reset (R132): sequencers halt and outputs park; semaphores of sequencers are released ABANDONED; a calibration and a
write of the NVM are aborted; every Vat granule is LOADED (R200); the supervisor restarts, at most 40 µs. -/
def State.coreReset (s : State) (r : ResetReq) : State :=
  let was := (List.range 16).filter fun k => s.seqOn k
  let s := (s.recordReset r).parkAll 7
  let s := { s with mem := { s.mem with notLoaded := 0 } }
  let s := s.each ((List.range 33).filter fun g => (s.rg g).wait) fun s g => s.setRg g { s.rg g with wait := false }
  let s := if s.walk.out then (if s.rindOn then s.walkFrom s.walk.turn false else { s with walk := {} }) else s
  let s := s.each (List.range 8) fun s n => s.endLists n
  let s := s.coreSeqs was
  let s := s.releaseSems (fun m => m.owner.any fun o => o.2.isSome) true
  let s := { s with rst := { s.rst with coreBusy := true } }
  let s := (s.abortCal .reset).abortNvm
  (s.each (List.range 4) fun s e => s.abortProgram e).after (us 40) .coreResetDone

/-- RESET_TAKE_EFFECT (R136, R152). -/
def execResetTakeEffect (s : State) : Res :=
  match s.rst.req with
  | none => ok s
  | some r =>
    if s.time.mono < r.due then ok s
    else
      let s := { s with rst := { s.rst with req := none } }
      if r.level = 3 then ok (s.coreReset r) else ok (s.deviceReset r)

/-- The supervisor restart completes (R132): the commands that waited proceed, in their order. -/
def execCoreResetDone (s : State) : Res :=
  if !s.rst.coreBusy then ok s
  else
    let w := s.rst.coreWait
    let s := { s with rst := { s.rst with coreBusy := false, coreWait := [] } }
    let s := s.each w fun s c => s.after 0 c
    let s := if s.mode.trans = .leaveService then s.after 0 .serviceExitDone else s
    ok s.reviewMode

/-! ### Sources (R134) -/

/-- The source has made the request, alone or with others of its level in one cycle, so that it may hold the reset (R137). -/
def State.took (s : State) (src level : Nat) : Bool :=
  s.rst.req.any fun r => r.src == src || (r.at_ == s.time.mono && r.level == s.levelFor level)

/-- VAO power-on or brown-out. -/
def execPor (s : State) : Res := if s.resetLevel = some 0 then ok s else ok s.powerOn

/-- VIN below its falling threshold (R518): held until P0_RELEASE finds it in range. -/
def execVinBrownout (s : State) : Res :=
  let s := s.requestReset 2 1
  if s.took 2 1 then ok { s with rst := { s.rst with holdVin := true } } else ok s

/-- RESET_N (R134, R152): low asserts a system reset, or a warm one with PIN_WARM, and holds it; high releases the hold. -/
def execResetN (low : Bool) (s : State) : Res :=
  if low then
    let l := if s.bit 0x490 0 then 2 else 1
    let s := s.requestReset 3 l
    if s.took 3 l then ok { s with rst := { s.rst with holdLow := true } } else ok s
  else ok { s with rst := { s.rst with holdLow := false } }

/-- A supervisor watchdog expiry (R134, R135), timed on the keeper: core, or system within 1 s of the expiry before. -/
def execWatchdogExpiry (s : State) : Res :=
  let k := s.time.keep.toNat
  let soon := s.rst.lastWdt.any fun t => decide (k - t ≤ 25600000000)
  let s := s.incFld 0x498 15 0 1
  let s := { s with rst := { s.rst with lastWdt := some k } }
  if soon then ok (s.requestReset 5 1) else ok (s.requestReset 4 3)

/-- VI0's RST_REQ with GO (R139). -/
def execRstReq (level : BitVec 2) (s : State) : Res := ok (s.askReset level.toNat)

/-- PERST_N low, or a PCIe hot reset (R449): warm, or system with PERST_SYSTEM. -/
def execPerst (s : State) : Res := ok (s.requestReset 7 (if s.bit 0x490 1 then 1 else 2))

/-- The junction reaches 160 °C: a system reset, held with outputs off. -/
def execThermalShutdown (s : State) : Res :=
  let s := s.requestReset 9 1
  if s.took 9 1 then ok { s with rst := { s.rst with holdHot := true } } else ok s

/-- The junction is below 130 °C: the hold ends, and P0 follows. -/
def execThermalRelease (s : State) : Res := ok { s with rst := { s.rst with holdHot := false } }

/-! ### P0 to P2 (R140, R143) -/

/-- P2: SYN-A starts from the internal RC oscillator (R190, R146), and what every awake mode needs is powered. -/
def State.startP2 (s : State) : State :=
  let s := { s with rst := { s.rst with phase := 2 } }
  let s := s.each [1, 2, 4, 5] fun s d => s.setDom d 2
  (s.wbit 0x504 4 true).startLoop 0

/-- P0_RELEASE (R140, R143): both supplies are in range and nothing holds the reset; the straps are sampled, VI0 is bound as
STRAP2 selects (R408), and P1 follows after POR, P2 otherwise. XO32 has 500 ms to qualify. -/
def execP0Release (straps : BitVec 3) (s : State) : Res :=
  if s.rst.phase ≠ 0 ∨ s.rst.req ≠ none ∨ s.rst.holdLow = true ∨ s.rst.holdHot = true then ok s
  else
    let s := s.wfld 0x494 2 0 straps.toNat
    let s := s.wfld 0x3C10 1 0 (if straps.getLsbD 2 then 2 else 1)
    let s := { s with rst := { s.rst with holdVin := false } }
    if s.fld 0x480 11 8 = 0 then ok ({ s with rst := { s.rst with phase := 1 } }.after (ms 500) .xo32Fail)
    else ok s.startP2

/-- P1 ends: the time of record counts from 0, on the keeper (R10, R140). -/
def State.endP1 (s : State) (fail : Bool) : State :=
  let s := { s with time := { s.time with keep := 0, fast := 0, frac := 0, nextKeep := s.time.mono + 781250 } }
  ((s.wbit 0x494 3 fail).cancel .xo32Fail).startP2

/-- XO32 is qualified over 1,024 cycles (R140). -/
def execXo32Qualified (s : State) : Res := if s.rst.phase = 1 then ok (s.endP1 false) else ok s

/-- XO32 has not qualified within 500 ms (R140): the keeper runs from the internal RC oscillator. -/
def execXo32Fail (s : State) : Res := if s.rst.phase = 1 then ok (s.endP1 true) else ok s

/-- XO32 qualifies later (R141): the keeper changes to it, and XO32_FAIL clears, at the next keeper edge. -/
def execXo32LateQualify (s : State) : Res :=
  if s.bit 0x494 3 then ok { s with time := { s.time with xoPending := true } } else ok s

/-- At a keeper edge XO32 takes over if it has qualified (R141); a measurement window begins anew. -/
def State.xoEdge (s : State) : State :=
  if s.time.xoPending then { (s.wbit 0x494 3 false) with time := { s.time with xoPending := false, keepEdges := 0 } } else s

/-- The keeper counts (R140): not before the end of P1 after a POR. -/
def State.keeperOn (s : State) : Bool := !(s.rst.phase < 2 && s.fld 0x480 11 8 == 0)

end Sys2Proof.Machine
end

