-- ==== Sys2Proof/Machine/Image.lean ====
section
/-! DEFINITION. The Lerx image (05): headers, records and their validation, with the failure reasons of R167's table: 1 NVM,
2 MAGIC, 3 VERSION, 4 HDR_CRC, 5 LENGTH, 6 REC_CRC, 7 IMG_CRC, 8 TYPE, 9 FIELD, 10 REC_LEN, 11 ORDER, 12 NO_END, 13 COND_RANGE,
14 SRC_RANGE, 15 DST_RANGE. Where more than one applies the order is the model's (log entry 34). -/

namespace Sys2Proof.Machine

/-- Bytes of the attached NVM. -/
def State.nvmBytes (s : State) (a n : Nat) : List Byte := (List.range n).map fun i => s.nvmB (a + i)
/-- A little-endian number of `n` bytes at NVM offset `a`. -/
def State.nvmNat (s : State) (a n : Nat) : Nat := leNat (s.nvmBytes a n)
/-- The number in bytes `i` to `i + n - 1` of a payload. -/
def payNat (p : List Byte) (i n : Nat) : Nat := leNat ((p.drop i).take n)

/-! ### Headers (R155) -/

/-- The header at NVM offset `b` has MAGIC and a good CRC. -/
def State.hdrMagic (s : State) (b : Nat) : Bool := s.nvmNat b 4 == 0x3149584C
def State.hdrCrc (s : State) (b : Nat) : Bool := crc32c (s.nvmBytes b 0x3C) == s.nvmNat (b + 0x3C) 4

abbrev State.imgLen (s : State) (b : Nat) : Nat := s.nvmNat (b + 8) 4
abbrev State.cfgLen (s : State) (b : Nat) : Nat := s.nvmNat (b + 0xC) 4
abbrev State.imgFlags (s : State) (b : Nat) : Nat := s.nvmNat (b + 0x18) 4

/-- Where slot B starts (R151). -/
def State.slotB (s : State) : Nat :=
  let o := s.nvmNat 0x14 4
  if s.hdrCrc 0 && o != 0 then o else 0x1000000

/-- A length of the header breaks its rule (R155). -/
def State.hdrLenBad (s : State) (b : Nat) (isA : Bool) : Bool :=
  let img := s.imgLen b
  let cfg := s.cfgLen b
  s.nvmNat (b + 6) 2 != 0x40 || img % 4 != 0 || decide (0x8000000 < img) || decide (s.nvmSize < b + img) ||
    cfg % 4 != 0 || decide (cfg < 0x48) || decide (img < cfg + 4) ||
    (isA && s.nvmNat (b + 0x14) 4 == 0 && decide (0x1000000 < img))

/-- A field of the header breaks its rule (R155). -/
def State.hdrFieldBad (s : State) (b : Nat) (isA : Bool) : Bool :=
  let o := s.nvmNat (b + 0x14) 4
  let f := s.imgFlags b
  (isA && o != 0 && (o % 0x10000 != 0 || decide (o < s.imgLen b))) || decide (256 ≤ f) || decide (6 ≤ f / 16 % 16) ||
    (s.nvmBytes (b + 0x20) 28).any (· != 0)

/-- The header check: 0, or its failure reason. -/
def State.hdrWhy (s : State) (b : Nat) (isA : Bool) : Nat :=
  if !s.hdrMagic b then 2
  else if !s.hdrCrc b then 4
  else if s.nvmNat (b + 4) 2 != 1 then 3
  else if s.hdrLenBad b isA then 5
  else if s.hdrFieldBad b isA then 9
  else 0

/-! ### Records (R158 to R164) -/

/-- LEN suits the type (R162). -/
def lenOk (typ n : Nat) : Bool :=
  n % 4 == 0 && match typ with
  | 1 => n % 8 == 0 && decide (8 ≤ n)
  | 2 => n == 16
  | 3 => n == 20
  | 4 => n % 8 == 0 && decide (8 ≤ n)
  | 5 => decide (4 ≤ n)
  | 6 => n == 4
  | 7 => n == 8
  | 8 => n == 12
  | 9 => n == 4
  | _ => n == 0

/-- An ADDR word is in order (R161); its offset and VI. -/
def addrOk (a : Nat) : Bool := a % 4 == 0 && decide (a < 2 ^ 21)
abbrev addrOff (a : Nat) : Nat := a % 0x10000
abbrev addrVi (a : Nat) : Nat := a / 0x10000 % 32

/-- The ADDR, VALUE pairs of a payload. -/
def Rec.pairs (r : Rec) : List (Nat × Nat) :=
  (List.range (r.pay.length / 8)).map fun i => (payNat r.pay (8 * i) 4, payNat r.pay (8 * i + 4) 4)

/-- The register a REG_FILL ends at. -/
def Rec.fillLast (r : Rec) : Nat := addrOff (payNat r.pay 0 4) + (payNat r.pay 4 4 - 1) * payNat r.pay 8 4

/-- The bits COND's MASK may use (R163). -/
def condBits : Nat := 0x1FF07

/-- A reserved bit or a field of a record is out of range (FIELD). -/
def Rec.fieldBad (r : Rec) : Bool :=
  let p := r.pay
  decide (2 ≤ r.flags) || match r.typ with
  | 1 => r.pairs.any fun x => !addrOk x.1
  | 2 =>
    let n := payNat p 4 4
    let st := payNat p 8 4
    !addrOk (payNat p 0 4) || n == 0 || decide (4096 < n) || st % 4 != 0 || decide (st < 4) || decide (0x3FFC < st) ||
      r.fillLast / 0x4000 != addrOff (payNat p 0 4) / 0x4000
  | 3 => decide (1 < payNat p 12 1) || payNat p 13 3 != 0
  | 4 => r.pairs.any fun x => !addrOk x.1 || addrVi x.1 != 0 || decide (addrOff x.1 < 0x3C00) || decide (0x3FFC < addrOff x.1)
  | 5 => decide (7 < payNat p 0 1) || payNat p 1 1 != 0
  | 6 => decide (31 < payNat p 0 1) || decide (3 < payNat p 1 1) || payNat p 2 2 != 0 || (payNat p 0 1 == 0 && payNat p 1 1 == 0)
  | 7 => decide (2 < payNat p 0 1) || decide (15 < payNat p 1 1) || payNat p 2 2 != 0 || payNat p 4 4 == 0 ||
      decide (1000000 < payNat p 4 4)
  | 8 =>
    let m := payNat p 0 4
    let v := payNat p 4 4
    v &&& m != v || m &&& condBits != m || payNat p 8 2 == 0 || payNat p 10 2 != 0
  | 9 => decide (3 < payNat p 0 1) || payNat p 1 3 != 0
  | _ => false

/-- A record stands out of order (ORDER); `part`: a PARTITION has been seen. -/
def Rec.orderBad (r : Rec) (part : Bool) : Bool :=
  let alone (vi : Nat) : Bool := vi != 0 && !part
  match r.typ with
  | 1 => r.pairs.any fun x => alone (addrVi x.1) || decide (0x3C00 ≤ addrOff x.1 % 0x4000)
  | 2 => alone (addrVi (payNat r.pay 0 4)) || decide (0x3C00 ≤ r.fillLast % 0x4000)
  | 4 => part
  | 6 => alone (payNat r.pay 0 1)
  | 0x0F => r.flags % 2 == 1
  | _ => false

/-- The ranges of a SEG_LOAD (R164): the reason, or 0. -/
def Rec.segWhy (r : Rec) (cfg img : Nat) (ecc : Bool) : Nat :=
  let src := payNat r.pay 0 4
  let n := payNat r.pay 4 4
  let dst := payNat r.pay 8 4
  let mem := payNat r.pay 12 1 == 1
  let space := if mem then (if ecc then 0xE0000000 else 0x100000000) else 0x2000000
  if src % 4 ≠ 0 ∨ src < cfg + 4 ∨ img < src + n then 14
  else if n = 0 ∨ n % 32 ≠ 0 ∨ dst % 32 ≠ 0 ∨ space < dst + n ∨ (mem = false ∧ dst < 0x610000 ∧ 0x600000 < dst + n) then 15
  else 0

/-- A record is rejected by itself (R159, R164): the reason, or 0. -/
def Rec.why (r : Rec) (cfg img : Nat) (ecc part : Bool) : Nat :=
  if r.fieldBad then 9 else if r.orderBad part then 11 else if r.typ = 3 then r.segWhy cfg img ecc else 0

/-- What a scan of the records finds: the records in order, or the failing record's index and offset with the reason. -/
inductive Scan where
  | good (l : List Rec)
  | bad (idx ofs why : Nat)
  deriving DecidableEq, Repr

/-- The types of the record table. -/
def recTypes : List Nat := [1, 2, 3, 4, 5, 6, 7, 8, 9, 15]

/-- The record at offset `o` of the slot at `b`. -/
def State.recAt (s : State) (b o idx : Nat) : Rec :=
  { idx := idx, ofs := o, typ := s.nvmNat (b + o) 1, flags := s.nvmNat (b + o + 1) 1,
    pay := s.nvmBytes (b + o + 4) (s.nvmNat (b + o + 2) 2) }

/-- The CRC that closes a record. -/
def State.recCrc (s : State) (b : Nat) (r : Rec) : Bool :=
  crc32c (s.nvmBytes (b + r.ofs) (4 + r.pay.length)) == s.nvmNat (b + r.ofs + 4 + r.pay.length) 4

/-- Read and check the records of the slot at `b` from offset `o` on (R157 to R159), newest first in `l`. -/
def State.scanRecs (s : State) (b cfg img : Nat) (ecc : Bool) : Nat → Nat → Bool → List Rec → Scan
  | 0, o, _, l => .bad l.length o 5
  | n + 1, o, part, l =>
    let idx := l.length
    if o = cfg then .bad (idx - 1) ((l.head?.map (·.ofs)).getD 0x40) 12
    else if cfg < o + 4 ∨ cfg < o + 8 + s.nvmNat (b + o + 2) 2 then .bad idx o 5
    else
      let r := s.recAt b o idx
      let next := o + 8 + r.pay.length
      if !s.recCrc b r then .bad idx o 6
      else if !recTypes.contains r.typ then .bad idx o 8
      else if !lenOk r.typ r.pay.length then .bad idx o 10
      else if r.why cfg img ecc part ≠ 0 then .bad idx o (r.why cfg img ecc part)
      else if r.typ = 15 then (if next = cfg then .good (l.reverse ++ [r]) else .bad idx o 12)
      else s.scanRecs b cfg img ecc n next (part || r.typ == 4) (r :: l)

/-- A COND that reaches or passes END (R163). -/
def condPast (l : List Rec) : Option Rec :=
  l.find? fun r => r.typ == 8 && decide (l.length ≤ r.idx + payNat r.pay 8 2 + 1)

/-- Validation of the slot at `b`, whose header is good (R146 step 3, R157): nothing is applied. -/
def State.checkSlot (s : State) (b : Nat) : Scan :=
  let cfg := s.cfgLen b
  match s.scanRecs b cfg (s.imgLen b) ((s.imgFlags b).testBit 2) cfg 0x40 false [] with
  | .bad i o w => .bad i o w
  | .good l =>
    match condPast l with
    | some r => .bad r.idx r.ofs 13
    | none => if crc32c (s.nvmBytes b cfg) == s.nvmNat (b + cfg) 4 then .good l else .bad 0xFFFF 0 7

/-- The slots to try, in order, as (number, offset) (R151). -/
def State.candidates (s : State) : List (Nat × Nat) :=
  let b := s.slotB
  let l := (if s.hdrWhy 0 true = 0 then [(0, 0)] else []) ++ (if s.hdrWhy b false = 0 then [(1, b)] else [])
  let d := (s.nvmNat (b + 0x10) 4 + 2 ^ 32 - s.nvmNat 0x10 4) % 2 ^ 32
  let newer := s.bit 0x494 1 || (decide (1 ≤ d) && decide (d ≤ 0x7FFFFFFF))
  if newer then l.reverse else l

end Sys2Proof.Machine
end

