-- ==== Sys2Proof/Machine/Starter.lean ====
section
/-! DEFINITION. The Starter (05): P3 to P5, one command per record of the image, the fallback and the bare start-up, and the replay
on leaving SHELF. Failure reasons of this part: 1 NVM, 16 REG_REFUSED, 17 SEG_CRC, 18 WAIT_TMO, 19 BIND, 20 PARTITION,
21 RESTARTS. -/

namespace Sys2Proof.Machine

/-! ### Slots -/

/-- A_WHY or B_WHY of IMG_REASON. -/
def State.slotWhy (s : State) (slot why : Nat) : State :=
  if slot = 0 then s.wfld 0x4A4 7 0 why else s.wfld 0x4A4 15 8 why

/-- A slot has failed: its reason, the failing record, and no further try in this start-up (R149). -/
def State.slotFailed (s : State) (slot idx ofs why : Nat) : State :=
  let s := ((s.slotWhy slot why).wfld 0x4A4 31 16 idx).wr 0x4B0 (BitVec.ofNat 32 ofs)
  if slot = 0 then { s with rst := { s.rst with failedA := true } } else { s with rst := { s.rst with failedB := true } }

/-- Memory training starts, unless the memory is trained with this ECC setting (R146 step 5, R156); contents a warm reset kept
are lost with it. -/
def State.startTraining (s : State) (ecc : Bool) : State :=
  if s.bit 0x1800 0 && s.bit 0x1800 1 == ecc then s
  else if s.mem.training && s.rst.ecc == ecc then s
  else
    let s := if s.rst.warmKept then
        { (s.wbit 0x4A0 5 true).loseStores with rst := { s.rst with warmKept := false } }
      else s
    let s := { (s.wbit 0x1800 0 false) with mem := { s.mem with training := true } }
    (s.cancel .memoryTrainingDone).after (ms 13) .memoryTrainingDone

/-- The command of a record type. -/
def recCmd : Nat → Instr
  | 1 => .regWrite
  | 2 => .regFill
  | 3 => .segLoad
  | 4 => .partition
  | 5 => .calSet
  | 6 => .bind
  | 7 => .wait
  | 8 => .cond
  | 9 => .modeRecord
  | _ => .endRecord

/-- How many records are passed over before the next one applies, with `k` to be skipped by a COND (R163) and those marked
WARM_SKIP when a warm reset kept the memory (R160); and the SEG_LOADs among the latter, which a replay takes (R165). -/
def passOver (kept : Bool) : List Rec → Nat → Nat × List Rec
  | [], _ => (0, [])
  | r :: t, k =>
    if 0 < k then
      let (n, l) := passOver kept t (k - 1)
      (n + 1, l)
    else if kept && r.flags % 2 == 1 then
      let (n, l) := passOver kept t 0
      (n + 1, if r.typ = 3 then r :: l else l)
    else (0, [])

/-- Go on with the record at `idx`, or the first after it that applies. -/
def State.nextRec (s : State) : State :=
  let (n, l) := passOver s.rst.warmKept (s.rst.recs.drop s.rst.idx) s.rst.skip
  let s := { s with rst := { s.rst with idx := s.rst.idx + n, skip := 0, segs := s.rst.segs ++ l } }
  match s.rst.recs[s.rst.idx]? with
  | some r => s.after 0 (recCmd r.typ)
  | none => s

/-- The record is applied; the next one follows. -/
def State.recDone (s : State) : State := { s with rst := { s.rst with idx := s.rst.idx + 1 } }.nextRec

/-- NVM_INFO's clock: the lowest of the image's, SFDP's and the mode's (R155, R458). -/
def nvmClock (bus flags maxClk : Nat) : Nat := min (min (flags / 16 % 16) maxClk) (if bus = 2 then 5 else 3)

/-- Apply a slot that passed validation (R146 steps 4 to 6): the header FLAGS, then memory training, then the records. -/
def State.applySlot (s : State) (slot b : Nat) (l : List Rec) : State :=
  let f := s.imgFlags b
  let bus := if s.bit 0x494 0 then 2 else if f.testBit 3 then 1 else 0
  let s := ((s.wfld 0x490 1 0 (f % 4)).wfld 0x3820 7 4 bus).wfld 0x3820 3 0 (nvmClock bus f s.rst.maxClk)
  let s := (s.wr 0x4A8 (BitVec.ofNat 32 (s.nvmNat (b + 0x10) 4))).wr 0x4AC (BitVec.ofNat 32 (s.nvmNat (b + 0x1C) 4))
  let s := ((s.wfld 0x4A0 1 0 slot).slotWhy slot 0).startTraining (f.testBit 2)
  { s with rst := { s.rst with slot := slot, base := b, ecc := f.testBit 2, recs := l, idx := 0, skip := 0 } }.nextRec

/-- Apply the shadows of the synthesizers (R146 step 8, R186): SYN-A changes from the internal RC to the image's reference as
in SERVICE. -/
def State.starterSyn (s : State) : State :=
  s.settle.each ((List.range 4).filter fun x => s.pendingShadow (synShadow x)) fun s x =>
    if synSrcOk x (bf (s.shadow (synR x + 4)) 2 0) then s.applySyn x else s.wsyn x 10 true

/-- Every enabled synthesizer has locked. -/
def State.synsLocked (s : State) : Bool := (List.range 4).all fun x => !s.bit (synR x) 0 || s.synBit x 0

/-- Steps 7 and 8 of R146: once training and every SEG_LOAD are complete, the wait of up to 10 ms for lock begins. -/
def State.starterGo (s : State) : State :=
  if s.rst.phase = 3 ∧ s.rst.ended = true ∧ s.rst.lockWait = false ∧ s.rst.ready = false ∧ s.mem.training = false ∧
      s.rst.segCur = none ∧ s.rst.segWait = [] then
    let t := s.time.mono + ms 10
    let s := { s with rst := { s.rst with lockWait := true, waitEnd := t } }
    (s.starterSyn.cancel .starterLockWaitEnd).at_ t .starterLockWaitEnd
  else s

/-- The start-up is bare (R150). -/
def State.goBare (s : State) : State :=
  let s := ((s.wbit 0x4A0 2 true).wfld 0x4A0 1 0 3).startTraining s.rst.ecc
  { s with rst := { s.rst with slot := 3, recs := [], idx := 0, startMode := 1, ended := true } }.starterGo

/-- Validate the slots in turn until one passes, and apply it; with none left the start-up is bare (R149 to R151). -/
def State.trySlots : State → List (Nat × Nat) → State
  | s, [] => s.goBare
  | s, (k, b) :: t =>
    match s.checkSlot b with
    | .good l => s.applySlot k b l
    | .bad i o w => (s.slotFailed k i o w).trySlots t

/-- The candidates that have not failed in this start-up. -/
def State.slotsLeft (s : State) : List (Nat × Nat) :=
  s.candidates.filter fun c => if c.1 = 0 then !s.rst.failedA else !s.rst.failedB

/-- A record failed (R149): its slot is given up, the device clears as under a system reset, with RST_CAUSE, TRIES, the memory's
training and what start-up has found kept, and the other slot is tried. -/
def State.giveUp (s : State) (r : Rec) (why : Nat) : State :=
  let s := s.slotFailed s.rst.slot r.idx r.ofs why
  let o := s.rst
  let rst : RstSt := { phase := 3, req := o.req, holdLow := o.holdLow, holdHot := o.holdHot, holdVin := o.holdVin,
                       lastWdt := o.lastWdt, failedA := o.failedA, failedB := o.failedB, ecc := o.ecc,
                       startMono := o.startMono, maxClk := o.maxClk }
  let mem := { s.spareMem false with training := s.mem.training }
  let keep := s.agenda.filter fun e => e.2 == .resetTakeEffect || e.2 == .memoryTrainingDone
  let t := { (s.cleared fallbackReg rst s.time.spare mem (s.spareHost 0)).fitBudget with agenda := keep }
  let t := ((t.wr 0x4A8 0).wr 0x4AC 0).wfld 0x4A0 1 0 3
  let t := (t.wfld 0x4A0 7 6 0).wfld 0x3C10 1 0 (if t.bit 0x494 2 then 2 else 1)
  let t := t.startP2
  let t := { t with rst := { t.rst with phase := 3 } }.reviewDoms
  t.trySlots t.slotsLeft

/-! ### P3 begins -/

/-- STARTER (R144, R146 steps 1 to 5): P3 begins. BOARD_ID is sampled where VCCIO0 is in range; with SFDP read, the slots'
headers are checked and the first candidate that passes validation is applied; without, and after too many restarts (R153), the
start-up is bare. -/
def execStarter (boardPins : BitVec 8) (vccio0Ok : Bool) (sfdp : Option NvmInfo) (s : State) : Res :=
  if s.rst.phase ≠ 2 then ok s
  else
    let s := { s with rst := { s.rst with phase := 3, startMono := s.time.mono } }.reviewDoms
    let s := (s.wfld 0x494 15 8 (if vccio0Ok then boardPins.toNat else 0)).wbit 0x494 16 vccio0Ok
    let s := s.wbit 0x4A0 3 (s.bit 0x494 1)
    if s.rst.bare then ok (((s.slotWhy 0 21).slotWhy 1 21).goBare)
    else match sfdp with
      | none => ok (((s.slotWhy 0 1).slotWhy 1 1).goBare)
      | some i =>
        let s := s.wr 0x3820 (pack [(24, i.density), (16, i.erase), (8, i.page), (4, if s.bit 0x494 0 then 2 else 0)])
        let s := { s with rst := { s.rst with maxClk := i.maxClk } }
        let a := s.hdrWhy 0 true
        let b := s.hdrWhy s.slotB false
        let s := if a = 0 then s else s.slotWhy 0 a
        let s := if b = 0 then s else s.slotWhy 1 b
        ok (s.trySlots s.slotsLeft)

/-! ### Records (R162) -/

/-- The record to apply now, if it has type `typ`. -/
def State.record (s : State) (typ : Nat) : Option Rec :=
  if s.rst.phase = 3 ∧ s.rst.waiting = none ∧ s.rst.ended = false then
    match s.rst.recs[s.rst.idx]? with
    | some r => if r.typ = typ then some r else none
    | none => none
  else none

/-- Write registers as Starter does, in order, up to the first that sets a VI_ACC_ERR field (R147); the flag says that none
did. -/
def State.starterWrites : State → List (Nat × Nat) → State × Bool
  | s, [] => (s, true)
  | s, (a, v) :: t =>
    let s := s.hostWrite (addrVi a) .internal (BitVec.ofNat 16 (addrOff a)) (BitVec.ofNat 32 v) 0xF
    if s.host.refused then (s, false) else s.starterWrites t

/-- The record's outcome: the next record, or the slot fails with a reason. -/
def State.recEnd (r : Rec) (why : Nat) (x : State × Bool) : State := if x.2 then x.1.recDone else x.1.giveUp r why

/-- REG_WRITE. -/
def execRegWrite (s : State) : Res :=
  match s.record 1 with
  | none => ok s
  | some r => ok (State.recEnd r 16 (s.starterWrites r.pairs))

/-- The registers and the value of a REG_FILL. -/
def Rec.fills (r : Rec) : List (Nat × Nat) :=
  (List.range (payNat r.pay 4 4)).map fun i => (payNat r.pay 0 4 + i * payNat r.pay 8 4, payNat r.pay 12 4)

/-- REG_FILL. -/
def execRegFill (s : State) : Res :=
  match s.record 2 with
  | none => ok s
  | some r => ok (State.recEnd r 16 (s.starterWrites r.fills))

/-- A SEG_LOAD names the memory; its length. -/
def Rec.segMem (r : Rec) : Bool := payNat r.pay 12 1 == 1
def Rec.segLen (r : Rec) : Nat := payNat r.pay 4 4
/-- The data a SEG_LOAD names, in a slot at `b`. -/
def State.segData (s : State) (b : Nat) (r : Rec) : List Byte := s.nvmBytes (b + payNat r.pay 0 4) r.segLen
/-- Copy it to its physical destination (R164). -/
def State.segCopy (s : State) (b : Nat) (r : Rec) : State := s.store (!r.segMem) (payNat r.pay 8 4) (s.segData b r)

/-- The next SEG_LOAD starts to copy, 64 TU a byte (R140); one to memory waits for training (R148). -/
def State.startSeg (s : State) : State :=
  if s.rst.segCur ≠ none then s
  else match s.rst.segWait.find? fun r => !r.segMem || !s.mem.training with
    | none => s
    | some r =>
      { s with rst := { s.rst with segCur := some r, segWait := s.rst.segWait.erase r } }.after (64 * r.segLen) .segLoadDone

/-- SEG_LOAD: the copy starts, and the records after it go on (R148). -/
def execSegLoad (s : State) : Res :=
  match s.record 3 with
  | none => ok s
  | some r =>
    let s := { s with rst := { s.rst with segWait := s.rst.segWait ++ [r], segs := s.rst.segs ++ [r] } }
    ok s.startSeg.recDone

/-- The copy of a SEG_LOAD is complete, and checked against DATA_CRC. -/
def execSegLoadDone (s : State) : Res :=
  match s.rst.segCur with
  | none => ok s
  | some r =>
    let d := s.segData s.rst.base r
    let s := s.segCopy s.rst.base r
    let s := { s with rst := { s.rst with segCur := none } }
    if crc32c d = payNat r.pay 16 4 then ok s.startSeg.starterGo else ok (s.giveUp r 17)

/-- PARTITION (R147, R412): the pairs are written and applied as one edit; pairs that write PART_CTRL act after it, and one that
names PART_CMD asks for no edit of its own. -/
def execPartition (s : State) : Res :=
  match s.record 4 with
  | none => ok s
  | some r =>
    let at_ (o : Nat) (x : Nat × Nat) : Bool := addrOff x.1 == o
    let (s, good) := s.starterWrites (r.pairs.filter fun x => !at_ 0x3C00 x && !at_ 0x3C04 x)
    if !good then ok (s.giveUp r 20)
    else match s.partWhy with
      | some w => ok ((s.partRefuse w).giveUp r 20)
      | none => ok (State.recEnd r 20 (s.applyEdit.starterWrites (r.pairs.filter (at_ 0x3C00))))

/-- CAL_SET (R403): loaded whole, or rejected whole with CAL_REJ; no failure of the slot. -/
def execCalSet (s : State) : Res :=
  match s.record 5 with
  | none => ok s
  | some r =>
    let p := r.pay
    let c : CalSet := { temp := sext 16 (payNat p 2 2),
                        words := (List.range ((p.length - 4) / 4)).map fun i => BitVec.ofNat 32 (payNat p (4 + 4 * i) 4) }
    let (s, good) := s.loadSet (payNat p 0 1) c
    if good then ok s.recDone else ok (s.wbit 0x4A0 7 true).recDone

/-- BIND (R409): one field of VI_BIND. -/
def execBind (s : State) : Res :=
  match s.record 6 with
  | none => ok s
  | some r =>
    let vi := payNat r.pay 0 1
    let code := payNat r.pay 1 1
    let j := vi / 16
    let i := vi % 16
    let w := setFld (s.rd (0x3C10 + 4 * j)) (2 * i + 1) (2 * i) code
    if !s.bindOk j i code then ok ((s.wbit 0x3C08 5 true).giveUp r 19)
    else if s.bit 0x3C00 16 ∧ w ≠ s.rd (0x3C10 + 4 * j) then ok (s.giveUp r 19)
    else ok (s.bindWrite j w).recDone

/-- WAIT: a delay, or a wait for lock or for the memory. The shadows of the synthesizers apply before a wait for their lock. -/
def execWait (s : State) : Res :=
  match s.record 7 with
  | none => ok s
  | some r =>
    let s := if payNat r.pay 0 1 = 1 then s.starterSyn else s
    let t := s.time.mono + us (payNat r.pay 4 4)
    ok ({ s with rst := { s.rst with waiting := some r, waitEnd := t } }.at_ t .waitDone)

/-- What a WAIT waits for has come. -/
def State.waitMet (s : State) (r : Rec) : Bool :=
  match payNat r.pay 0 1 with
  | 0 => decide (s.rst.waitEnd ≤ s.time.mono)
  | 1 => (List.range 4).all fun x => !(payNat r.pay 1 1).testBit x || s.synBit x 0
  | _ => s.bit 0x1800 0

/-- WAIT_DONE: the wait ends, or fails the slot at its expiry. -/
def execWaitDone (s : State) : Res :=
  match s.rst.waiting with
  | none => ok s
  | some r =>
    if s.waitMet r then ok ({ s with rst := { s.rst with waiting := none } }.recDone)
    else if s.rst.waitEnd ≤ s.time.mono then ok ({ s with rst := { s.rst with waiting := none } }.giveUp r 18)
    else ok s

/-- The COND input word (R163). -/
def State.condWord (s : State) : Word := setBit (s.rd 0x494 &&& 0xFF07) 16 s.rst.warmKept

/-- COND (R163). -/
def execCond (s : State) : Res :=
  match s.record 8 with
  | none => ok s
  | some r =>
    let m : Word := BitVec.ofNat 32 (payNat r.pay 0 4)
    let hit := s.condWord &&& m == BitVec.ofNat 32 (payNat r.pay 4 4)
    ok ({ s with rst := { s.rst with skip := if hit then 0 else payNat r.pay 8 2 } }.recDone)

/-- MODE: the last one applied wins. -/
def execModeRecord (s : State) : Res :=
  match s.record 9 with
  | none => ok s
  | some r => ok ({ s with rst := { s.rst with startMode := payNat r.pay 0 1 } }.recDone)

/-- END. -/
def execEndRecord (s : State) : Res :=
  match s.record 15 with
  | none => ok s
  | some _ => ok ({ s with rst := { s.rst with ended := true } }.starterGo)

/-! ### The end of P3, P4 and P5 -/

/-- MEMORY_TRAINING_DONE (R191, R192, R148): the memory is usable, with the granules the ECC setting leaves and the
budget lowered to its limit (R214). -/
def execMemoryTrainingDone (s : State) : Res :=
  if !s.mem.training then ok s
  else
    let s := if s.rst.phase = 3 then
        let s := (s.wbit 0x1800 1 s.rst.ecc).wfld 0x1800 24 16 (if s.rst.ecc then 224 else 256)
        s.fitBudget
      else s
    ok ({ (s.wbit 0x1800 0 true) with mem := { s.mem with training := false } }.startSeg.starterGo)

/-- STARTER_LOCK_WAIT_END (R146 step 8). -/
def execStarterLockWaitEnd (s : State) : Res :=
  if s.rst.phase = 3 ∧ s.rst.lockWait = true ∧ (s.synsLocked = true ∨ s.rst.waitEnd ≤ s.time.mono) then
    let s := if s.synsLocked then s else s.wbit 0x4A0 6 true
    ok ({ s with rst := { s.rst with lockWait := false, ready := true } }.after 0 .p4)
  else ok s

/-- Every pending shadow applies (R147), staged fabric routing with it, and so do the trims that wait. -/
def State.applyAll (s : State) : State :=
  let s := { s.settle with fab := { s.fab with deadA := s.fab.deadS } }
  let s := s.starterSyn
  let s := s.each (List.range 8) fun s n => s.applySetPoints n
  let s := s.applyShadows fun k => !(List.range 4).any (synShadow · k)
  s.each calGroups fun s g => s.applyTrims g.1 g.2

/-- Every region is committed over the values in force (R95, R147). -/
def State.commitAll (s : State) : State :=
  s.each (List.range 33) fun s g =>
    let c := s.regionCrc g
    s.setRg g { hasRef := true, armed := s.rindOn, ref := c, crc := c }

/-- P4 (R147): at most 10 µs. -/
def execP4 (s : State) : Res :=
  if s.rst.phase = 3 ∧ s.rst.ready = true then
    let s := { s with rst := { s.rst with phase := 4 } }.applyAll
    ok (s.commitAll.freshWalk.after (us 10) .p5)
  else ok s

/-- The image's mode (R140, R162): PRIMED and RUN stand as VI0's request from then on; SHELF and LISTEN follow from PRIMED. -/
def State.enterMode (s : State) : State :=
  let s := { s with mode := { s.mode with eff := .primed, safeN := true } }
  if s.rst.startMode = 0 ∧ s.mayDescend = true then s.startDescent true
  else if s.rst.startMode ≤ 1 then s.reviewMode
  else (s.wfldv 0 0x400 2 0 s.rst.startMode).reviewMode

/-- P5 (R140, R120, R153): the image's mode, or SAFE with SAFE_N low where an enabled cause was latched. -/
def execP5 (s : State) : Res :=
  if s.rst.phase ≠ 4 then ok s
  else
    let on := s.latchedOn
    let s := s.wr 0x4B4 (sat32 ((s.time.mono - s.rst.startMono) / 25600))
    let s := (s.wbit 0x4A0 4 s.rst.warmKept).wfld 0x494 23 20 0
    let s := { s with rst := { s.rst with phase := 5, recs := [], ended := false, ready := false, bare := false },
                      mode := { s.mode with latched := 0 } }.reviewDoms
    if on then ok ({ s with mode := { s.mode with eff := .primed } }.safePosture) else ok s.enterMode

/-! ### Leaving SHELF -/

/-- SHELF_RELOAD (R102, R165): every SEG_LOAD of the start-up is replayed from its slot, in image order. -/
def execShelfReload (s : State) : Res :=
  if s.mode.trans = .shelfExit then
    let l := s.rst.segs
    let s := s.each l fun s r => s.segCopy s.rst.base r
    ok (s.after (64 * (l.map Rec.segLen).sum) .primedReached)
  else ok s

end Sys2Proof.Machine
end

