-- ==== Sys2Proof/Machine/HostCmd.lean ====
section
/-! DEFINITION. What arrives at the host ports (16): PCIe requests, SPI frames, debug accesses, and the PCIe link. The status of a
PCIe request: 0 Successful Completion, 1 Unsupported Request, 2 Configuration Request Retry Status. -/

namespace Sys2Proof.Machine

def State.pcieStatus (s : State) (n : Nat) : State := { s with host := { s.host with status := n } }

/-- A memory request to a function is Unsupported (R439, R441, R444): not enabled, not bound to PCIe, in D3hot, or longer than
16 DW. -/
def State.pcieBad (s : State) (fn n : Nat) : Bool :=
  !s.fnEnabled fn || s.portOf fn != 1 || s.host.d3hot.getLsbD fn || n == 0 || decide (16 < n)

/-- One access per DW, at ascending offsets (R441). -/
def State.bar0Words (s : State) (fn : Nat) (write : Bool) : BitVec 16 → List (Word × BitVec 4) → State
  | _, [] => s
  | o, (d, be) :: t =>
    (if write then s.hostWrite fn .pcie o d be else s.hostRead fn .pcie o be).bar0Words fn write (o + 4) t

/-- A BAR0 request (R441, R444); none is accepted before P5 (R142), and there is no response in SHELF (R110). -/
def execBar0Request (fn : Fin 32) (off : BitVec 16) (write : Bool) (dws : List (Word × BitVec 4)) (s : State) : Res :=
  if s.starting || s.mode.eff == .shelf then ok s
  else if s.pcieBad fn dws.length then ok (s.pcieStatus 1)
  else ok ((s.bar0Words fn write off dws).pcieStatus 0)

/-! ### The host aperture -/

/-- The space and the VI address of byte `o` of BAR2 (R440). -/
def State.aper (s : State) (v o : Nat) : Bool × Nat :=
  (!s.bitv v 0x18A0 0, s.fldv v 0x18A0 12 4 * 0x1000000 + o)

/-- Whether a VI address exists in the VI's space. -/
def State.inView (s : State) (v : Nat) (mem : Bool) (a : Nat) : Bool :=
  (if mem then s.memAddr v a else s.vatAddr v a).isSome

/-- A BAR2 read (R440, R442): the bytes it returns stand in `burst`, the first four of them also as the answer's word; bytes
beyond the VI's space read 0, an uncorrectable error poisons the completion (R193). -/
def State.aperRead (s : State) (v : Fin 32) (ofs len : Nat) (e : Ecc) : State :=
  let (mem, a) := s.aper v ofs
  let s := s.spoils (!mem) e
  let bad := (s.firstBad v mem a len).isSome
  let s := s.readVi v mem a len
  let b := s.loadVi v mem a len
  { s with rdata := some (BitVec.ofNat 32 (leNat (b.take 4)), bad), burst := b }

/-- The 64-bit words that a write of `n` bytes covers only in part (R193, R194). -/
def partWords (a n : Nat) : List Nat :=
  if n = 0 then []
  else ([a / 8 * 8, (a + n - 1) / 8 * 8].eraseDups).filter fun w => !(decide (a ≤ w) && decide (w + 8 ≤ a + n))

/-- A BAR2 write (R442): bytes outside the VI's space are dropped with one fault record, and so are writes to the log area
of granule 24 (R197); a write that covers in part a word with an uncorrectable error is dropped with reason ECC (R193). -/
def State.aperWrite (s : State) (v : Fin 32) (ofs : Nat) (b : List Byte) (e : Ecc) : State :=
  let (mem, a) := s.aper v ofs
  let s := s.spoils (!mem) e
  let tag := s.fldv v 0x118 15 0
  let part := partWords a b.length
  let bad := part.any fun w => (s.firstBad v mem w 8).isSome
  let s := s.each part fun s w => s.readVi v mem w 8
  if bad then s.pwf v (ofs % 65536) tag 1 6 none
  else
    let okB (i : Nat) : Bool := s.inView v mem (a + i) && (mem || match s.vatAddr v (a + i) with
      | some p => !(0x600000 ≤ p && p < 0x610000)
      | none => false)
    let dropped := (List.range b.length).any fun i => !okB i
    let s := if !dropped then s.storeVi v mem a b
      else s.each (b.zipIdx) fun s x => if okB x.2 then s.storeVi v mem (a + x.2) [x.1] else s
    if dropped then s.pwf v (ofs % 65536) tag 1 2 none else s

/-- A BAR2 request waits. -/
def State.holdAper (s : State) (a : Aper) : State := { s with mem := { s.mem with heldAper := s.mem.heldAper ++ [a] } }

/-- A BAR2 request in LISTEN (R110, R446): held, and it wakes the device, with WAKE_CFG.HOST = 1; refused as GATED without it, as a
register access is (log entry 124). -/
def State.sleepAper (s : State) (a : Aper) : State :=
  if s.bit 0x42C 10 then (s.holdAper a).wakeBy .host
  else if a.write then s.refuseWrite a.vi 3 (a.ofs % 65536) 1
  else { s.refuseRead a.vi 3 (a.ofs % 65536) 1 with burst := List.replicate a.len 0 }

/-- A BAR2 request: none is accepted before P5 (R142) or in SHELF, where the link is down; one to a function that is not enabled,
not bound to PCIe or in D3hot is Unsupported (R444); one behind a held one of its function, or while FCLK is stopped, waits (R186, R443,
R508). -/
def State.aperReq (s : State) (a : Aper) (wait : Bool) (go : State → State) : Res :=
  if s.starting || s.mode.eff == .shelf then ok s
  else if s.pcieBad a.vi 1 then ok (s.pcieStatus 1)
  else if s.mode.eff = .listen then ok (s.sleepAper a)
  else if wait || !s.time.fclk || s.mem.heldAper.any (fun b => b.vi == a.vi) then ok (s.holdAper a)
  else ok ((go s).pcieStatus 0)

/-- APERTURE_READ (R440, R442). -/
def execApertureRead (v : Fin 32) (ofs len : Nat) (e : Ecc) (s : State) : Res :=
  s.aperReq { vi := v, ofs := ofs, len := len, bytes := [], write := false, ecc := e } false fun s => s.aperRead v ofs len e

/-- APERTURE_WRITE (R442): held where it would restart a scan for the ninth time (R508). -/
def execApertureWrite (v : Fin 32) (ofs : Nat) (b : List Byte) (e : Ecc) (s : State) : Res :=
  s.aperReq { vi := v, ofs := ofs, len := b.length, bytes := b, write := true, ecc := e }
    (!(s.aper v ofs).1 && s.scanHolds v (s.aper v ofs).2 b.length) fun s => s.aperWrite v ofs b e

/-! ### Configuration requests -/

/-- What a configuration read returns (R438), at the standard places of the common header; every other word is a free value
(log entry 33). -/
def State.cfgWord (s : State) (fn off : Nat) : Word :=
  if off / 4 = 0 then (if fn = 0 then 0xD9601F9A else 0xD9611F9A)
  else if off / 4 = 2 then 0x118000B1
  else if off / 4 = 11 then 0x09601F9A
  else Config.openWord 10 s.free

/-- What a debug access returns at Capture-DR (R465): the data of the last read, DONE and ERR. -/
def State.dbgCapture (s : State) : BitVec 64 := BitVec.ofNat 64 (s.host.dbgData.toNat + 2 ^ 32 * b2n s.host.dbgDone + 2 ^ 33 * b2n s.host.dbgErr)

/-- A function-level reset (R431, R449): a VI reset of the function, whose configuration resets; that of the PF disables the
VFs. -/
def State.flReset (s : State) (fn : Nat) : State :=
  let h := s.host
  let h := { h with d3hot := setBit h.d3hot fn false, busMaster := setBit h.busMaster fn false,
                    vfs := if fn = 0 then 0 else h.vfs }
  { s with host := h }.viResetGo fn

/-- A configuration request of an enabled function (R444, R448). -/
def State.cfgDo (s : State) (fn : Nat) : CfgReq → State
  | .read off => (s.fresh).answer (s.cfgWord fn off.toNat)
  | .powerState d3 => { s with host := { s.host with d3hot := setBit s.host.d3hot fn d3 } }
  | .vfs on n => if fn = 0 then { s with host := { s.host with vfs := if on then n.val else 0 } } else s
  | .busMaster on => { s with host := { s.host with busMaster := setBit s.host.busMaster fn on } }
  | .flr => s.flReset fn
  | .turnOff => { s with host := { s.host with pmeOff := true } }
  | .other _ _ => s

/-- A configuration request (R142, R444): retry status during start-up. -/
def execConfigRequest (fn : Fin 32) (req : CfgReq) (s : State) : Res :=
  if s.starting then ok (s.pcieStatus 2)
  else if !s.fnEnabled fn then ok (s.pcieStatus 1)
  else ok ((s.cfgDo fn req).pcieStatus 0)

/-! ### The SPI target port -/

/-- The fields of a request are in order (R451, R452). -/
def State.spiCmdBad (s : State) (cmd : Byte) (addr : BitVec 24) : Bool :=
  decide (2 ≤ cmd.toNat / 64) || cmd.toNat % 16 != 0 || decide (2 ^ 21 ≤ addr.toNat) || addr.toNat % 4 != 0 ||
    (s.bit 0x3810 0 && !cmd.getLsbD 5)

/-- A wrong CRC (R452): CRC_ERR and its count. -/
def State.spiCrcErr (s : State) : State := (s.wbit 0x3814 1 true).incFld 0x3814 31 16 1

/-- A word of the frame ends at once with a code. -/
def State.spiNow (s : State) (f : SpiSt) (code : Nat) : State :=
  { s with host := { s.host with spi := some { f with wait := true } } }.spiEnd code 0

/-- The access of one word of the frame (R454): within 2 ms, or abandoned. -/
def State.spiAccess (s : State) (f : SpiSt) (d : Word) : State :=
  let f := { f with wait := true, at_ := s.time.mono }
  let s := { s with host := { s.host with spi := some f } }
  let s := (s.cancel .spiWaitTimeout).after (ms 2) .spiWaitTimeout
  if f.write then s.hostWrite f.vi .spi (BitVec.ofNat 16 f.off) d 0xF else s.hostRead f.vi .spi (BitVec.ofNat 16 f.off) 0xF

/-- A word of a frame whose request is in order: start-up (R142), the binding (R410), then the access. -/
def State.spiGo (s : State) (f : SpiSt) (d : Word) : State :=
  if s.starting then s.spiNow f 1
  else if s.portOf f.vi ≠ 2 then s.spiNow f 4
  else s.spiAccess f d

/-- The bytes the CRC of a request covers. -/
def spiBytes (cmd : Byte) (addr : BitVec 24) (d : Word) (write : Bool) : List Byte :=
  beBytes 1 cmd.toNat ++ beBytes 3 addr.toNat ++ (if write then beBytes 4 d.toNat else [])

/-- SPI_FRAME (R450 to R456): a request is complete. In SHELF the front end is unpowered. Where more than one code would
apply, the lowest is sent (log entry 35). -/
def execSpiFrame (mode3 : Bool) (cmd : Byte) (addr : BitVec 24) (data : Word) (crc : Byte) (s : State) : Res :=
  if s.rst.phase = 5 ∧ s.mode.eff = .shelf then ok s
  else
    let write := cmd.getLsbD 6
    let s := s.wbit 0x3814 2 mode3
    let f : SpiSt := { vi := addr.toNat / 65536 % 32, off := addr.toNat % 65536, write := write, crc := cmd.getLsbD 5,
                       inc := cmd.getLsbD 4, wait := false, at_ := 0, resp := [] }
    if s.starting then ok (s.spiNow f 1)
    else if cmd.getLsbD 5 && crc8 (spiBytes cmd addr data write) != crc then ok (s.spiCrcErr.spiNow { f with inc := false } 2)
    else if s.spiCmdBad cmd addr then ok (s.spiNow { f with inc := false } 3)
    else ok (s.spiGo f data)

/-- SPI_BURST_WORD (R455): the next word of a frame with INC set, at the next offset; past 0xFFFC it ends with END. -/
def execSpiBurstWord (data : Word) (crc : Byte) (s : State) : Res :=
  match s.host.spi with
  | none => ok s
  | some f =>
    if f.wait || !f.inc then ok s
    else
      let f := { f with off := f.off + 4 }
      if s.starting then ok (s.spiNow f 1)
      else if f.write && f.crc && crc8 (beBytes 4 data.toNat) != crc then ok (s.spiCrcErr.spiNow f 2)
      else if 0xFFFC < f.off then ok (s.spiNow f 7)
      else ok (s.spiGo f data)

/-- SPI_CS_ABORT (R456): STG_CS_N rises. Before the request is complete nothing is performed, and the abort is counted; after it, an
access that still waits is performed, and its data lost. -/
def execSpiCsAbort (incomplete : Bool) (s : State) : Res :=
  let s := match s.host.spi with
    | some f =>
      let l : List LostAcc := if f.wait then [{ vi := f.vi, off := f.off, write := f.write }] else []
      { s with host := { s.host with spi := none, lost := s.host.lost ++ l } }
    | none => s
  if incomplete then ok ((s.wbit 0x3814 0 true).incFld 0x3814 15 8 1) else ok s

/-- The waiting access or fence of the frame is never performed (R454). -/
def State.spiForget (s : State) (f : SpiSt) : State :=
  let s := { s with mode := { s.mode with heldAcc := s.mode.heldAcc.filter fun a => !(a.port == Port.spi && a.vi.val == f.vi) } }
  let x := s.vi f.vi
  s.setVi f.vi { x with fences := x.fences.filter fun g => g.port != Port.spi }

/-- SPI_WAIT_TIMEOUT (R454): 2 ms of WAIT. -/
def execSpiWaitTimeout (s : State) : Res :=
  match s.host.spi with
  | none => ok s
  | some f => if f.wait && decide (f.at_ + ms 2 ≤ s.time.mono) then ok ((s.spiForget f).spiEnd 5 0) else ok s

/-! ### Debug access -/

/-- A debug access waits: FCLK is stopped while the device is awake (R186). -/
def State.dbgWaits (s : State) : Bool := s.rst.phase == 5 && s.awake && !s.time.fclk

/-- DBG_ACC at Update-DR (R83, R465): bit 63 GO, 62 WRITE, [60:56] VI, [47:32] offset, [31:0] data. -/
def execDbgAcc (dr : BitVec 64) (s : State) : Res :=
  if !dr.getLsbD 63 then ok s
  else if s.dbgWaits then ok { s with host := { s.host with dbgHeld := some dr, dbgDone := false } }
  else
    let s := { s with host := { s.host with dbgHeld := none } }
    let v := bf dr 60 56
    let off : BitVec 16 := BitVec.ofNat 16 (bf dr 47 32)
    let done (s : State) (w : Word) (err : Bool) : State :=
      { s with host := { s.host with dbgData := w, dbgDone := true, dbgErr := err } }
    if s.rst.phase = 5 ∧ (s.mode.eff = .listen ∨ s.mode.eff = .shelf) then ok (done s s.host.dbgData true)
    else if dr.getLsbD 62 then
      if v ≠ 0 then ok (done s s.host.dbgData true)
      else
        let s := s.hostWrite 0 .internal off (BitVec.ofNat 32 (bf dr 31 0)) 0xF
        ok (done s s.host.dbgData s.host.refused)
    else
      let (w, why) := s.peek v off.toNat
      ok (done s w why.isSome)

/-- DBG_RESET (R463). -/
def execDbgReset (s : State) : Res := ok (s.requestReset 0x0B 1)

/-- Leaving EXTEST, HIGHZ or CLAMP (R464). -/
def execBoundaryTestExit (s : State) : Res := ok (s.requestReset 0x0B 1)

/-! ### The PCIe link -/

/-- PCIE_LINK_UP (R447): L0 after training. The width and the rate are the most HOST_PCIE_CFG allows (log entry 36); WAKE_N is
released. -/
def execPcieLinkUp (s : State) : Res :=
  let w := setFld (setFld (setBit (setFld (s.rd 0x3800) 10 8 0) 31 true) 7 4 (s.fld 0x3804 7 4)) 2 0 (s.fld 0x3804 2 0)
  ok { (s.wr 0x3800 w) with host := { s.host with wakeAt := 0, pmeOff := false } }

/-- PCIE_LINK_DOWN (R449): the link goes down, or enters recovery; nothing in the device resets. -/
def execPcieLinkDown (recovery : Bool) (s : State) : Res :=
  if recovery then ok (s.incFld 0x3808 15 0 1)
  else ok (((s.wbit 0x3800 31 false).wfld 0x3800 10 0 0).incFld 0x3808 31 16 1)

/-! ### Remote accesses performed for another unit (R498) -/

/-- Take an access of another unit in, and perform it: the answer follows when it has been performed. -/
def State.serve (s : State) (v off : Nat) (write : Bool) (src : Byte) (rid : BitVec 16) (ovi : Byte) : State :=
  let a : Served := { vi := v, off := off, write := write, src := src, rid := rid, ovi := ovi }
  { s with kl := { s.kl with served := s.kl.served ++ [a] } }

/-- The status that refuses an access of another unit: 4 BUSY in start-up, 1 UNBOUND, 0 where it is performed. -/
def State.serveWhy (s : State) (v : Nat) : Byte := if s.rst.phase ≠ 5 then 4 else if s.portOf v ≠ 3 then 1 else 0

/-- RD_REQ (R490, R498). -/
def execRdReq (a : Via) (dst src : Byte) (rid : BitVec 16) (dvi : Fin 32) (ovi : Byte) (off : BitVec 16)
    (s : State) : Res :=
  if !s.hears a.port then ok s
  else
    let s := s.accept a.port 3
    let rsp (st : Byte) : Pkt := .rdRsp src (BitVec.ofNat 8 s.addr) rid st ovi 0
    if dst.toNat ≠ s.addr then
      if (s.routeOf dst.toNat (some a.port)).isEmpty then ok (s.route src.toNat none 0 (rsp 3))
      else ok (s.forward dst.toNat a (.rdReq dst src rid (BitVec.ofNat 8 dvi) ovi off))
    else if s.serveWhy dvi ≠ 0 then ok (s.route src.toNat none 0 (rsp (s.serveWhy dvi)))
    else ok ((s.serve dvi off.toNat false src rid ovi).hostRead dvi .link off 0xF)

/-- WR_REQ (R490, R498). -/
def execWrReq (a : Via) (dst src : Byte) (rid : BitVec 16) (dvi : Fin 32) (ovi : Byte) (off : BitVec 16) (data : Word) (s : State) : Res :=
  if !s.hears a.port then ok s
  else
    let s := s.accept a.port 3
    let rsp (st : Byte) : Pkt := .wrRsp src (BitVec.ofNat 8 s.addr) rid st ovi off (BitVec.ofNat 8 dvi)
    if dst.toNat ≠ s.addr then
      if (s.routeOf dst.toNat (some a.port)).isEmpty then ok (s.route src.toNat none 0 (rsp 3))
      else ok (s.forward dst.toNat a (.wrReq dst src rid (BitVec.ofNat 8 dvi) ovi off data))
    else if s.serveWhy dvi ≠ 0 then ok (s.route src.toNat none 0 (rsp (s.serveWhy dvi)))
    else ok ((s.serve dvi off.toNat true src rid ovi).hostWrite dvi .link off data 0xF)

end Sys2Proof.Machine
end

