-- ==== Sys2Proof/Machine/Tick.lean ====
section
/-! DEFINITION. The block's own clock (log entry 2): what `step` does on an empty queue. In each FCLK cycle, or at each keeper edge
and follow-up while FCLK is stopped, it puts the rows that are due into the queue, on the agenda's word or because a rule's
condition holds; when none is due the cycle ends and time advances. Every row checks its own condition again. -/

namespace Sys2Proof.Machine

/-- Something at elapsed time `t` falls in this cycle, or fell before. -/
def State.reached (s : State) (t : Nat) : Bool := decide (t < s.time.mono + s.cycleTu)

/-- `c` when `p` holds. -/
def dueIf (p : Bool) (c : Instr) : List Instr := if p then [c] else []

/-! ### Sequencers (09) -/

/-- The row that commits the word `w`; a word of an undefined opcode goes with PLAY (R231). -/
def stepRow (k : Fin 16) (w : BitVec 128) : Instr :=
  match opOf w with
  | 0x02 => .playloop k
  | 0x03 => .hold k
  | 0x04 => .waitEvent k
  | 0x05 => .waitTime k
  | 0x06 => .branch k
  | 0x07 => .loopBegin k
  | 0x08 => .loopEnd k
  | 0x09 => .call k
  | 0x0A => .ret k
  | 0x0B => .setFreq k
  | 0x0C => .setPhase k
  | 0x0D => .setAmpl k
  | 0x0E => .marker k
  | 0x0F => .sync k
  | 0x10 => if bf w 119 118 = 1 then .signalFire k else .signalPost k
  | 0x11 => .count k
  | 0x12 => .flip k
  | 0x13 => .timing k
  | 0x1F => .endStep k
  | _ => .play k

/-- A run that is to commit for boundary `b` commits now (R265); past 64 executions it goes on one a cycle (R267). -/
def State.commitsNow (s : State) (x : SeqSt) (b : Nat) : Bool :=
  decide (s.commitCycle x b ≤ s.time.mono) && (decide (x.runLen < 64) || decide (x.runAt + 32 * x.runLen ≤ s.time.mono))

/-- What ends the holding step, or tests the loop, that a sequencer's plan stands at (R235, R237, R238, R248, R252, R268 to
R270). -/
def State.planRows (s : State) (k : Fin 16) (x : SeqSt) : List Instr :=
  match x.plan with
  | .hold n => dueIf (decide (s.commitCycle x (x.planAt + n) ≤ s.time.mono)) (.holdEnd k)
  | .loop _ _ _ _ (some _) head sect _ n =>
    dueIf (decide (s.cycleOf (x.at_ (x.planAt + head + n * sect) - 2048) ≤ s.time.mono)) (.playloopExitTest k)
  | .waitEvent i _ tmo =>
    if s.ef k i && (s.candidate x).isSome then [.waitEventEnd k]
    else dueIf (tmo != 0 && decide (s.commitCycle x (x.planAt + tmo) ≤ s.time.mono)) (.waitEventTimeout k)
  | .waitTime _ =>
    let a := s.act (actId 2 k)
    dueIf (!a.armed || (!a.defer && decide (s.commitCycle x (s.waitTimeAt k) ≤ s.time.mono))) (.waitTimeEnd k)
  | .flipStall l _ _ _ _ =>
    dueIf ((match x.cur with
      | .flipStall _ _ _ _ _ => true
      | _ => false) && x.planAt == x.began && !s.flipFull l) (.flip k)
  | _ => []

/-- A barrier whose members all wait releases them; a member's TMO expires (R248, R278). FCLK counts, whatever the members' own clocks
do. -/
def State.syncRows (s : State) (k : Fin 16) : List Instr :=
  let x := s.sq k
  match x.cur, x.arrived with
  | .sync _ _ _ tmo, some t => match s.barrier k with
    | some (m :: _) => dueIf (m == k.val) (.syncRelease k)
    | _ => dueIf (tmo != 0 && decide (t + 32 * tmo ≤ s.time.mono)) (.syncTimeout k)
  | _, _ => []

/-- The rows of sequencer `k` that are due: pulses that return, the next boundary or the halt, then what commits. None while its
clock is muted (R280); while an underrun holds its timeline only the halt of a STOP (R279). -/
def State.seqRows (s : State) (k : Fin 16) : List Instr :=
  let x := s.sq k
  let h := s.haltDue k
  let halt := dueIf (h.any fun h => s.reached (x.at_ h.1)) (.seqHalt k)
  if !s.seqOn k || s.bit (seqR k + 8) 18 then []
  else if s.gapHolds k then halt
  else
    let before (b : Nat) : Bool := !h.any fun h => decide (h.1 ≤ b)
    let pulses := (x.pulses.filter fun p => s.reached (x.at_ p.2.1)).map fun p => Instr.markerPulseReturn k (Fin.ofNat 4 p.1)
    let next := match (x.queue.head?.map (·.1)) <|> x.stalls with
      | some b => if before b then dueIf (s.reached (x.at_ b)) (.stepBoundary k) else halt
      | none => halt
    let commit := match x.target with
      | some b => dueIf (before b && s.commitsNow x b) (stepRow k (s.stepWord (s.ownerVi .seq k) x.pc))
      | none => if h.isSome then [] else s.planRows k x
    pulses ++ next ++ commit

/-! ### Scheduled actions (01, 04, 09, 10, 11, 17) -/

/-- The row of an armed scheduled action whose moment has come; kinds 2, 3 and 6 stand with the sequencers and the scan-out. None acts
before the handoff, which is its arming moment or judges it again (R40, R186). -/
def State.actRows (s : State) (a : ActId) (x : Act) : List Instr :=
  let i := a.inst.val
  if !x.armed || x.defer || !s.time.fclk || s.time.handoff then []
  else match a.kind.val with
    | 1 => dueIf (s.actDue x) (.almFire (Fin.ofNat 16 i))
    | 4 => match s.aoutSeq i with
      | some q =>
        dueIf ((s.phaseAt i q).any fun j => s.reached ((s.sq q).at_ j) && (s.sq q).queue.all fun e => decide (j < e.1))
          (.phaseReset (Fin.ofNat 8 i))
      | none => []
    | 5 => dueIf (s.reached (s.trgEdgeAt i) && !(s.synBit 2 1 && (s.trg i).missed)) (.trgTimedPulse (Fin.ofNat 8 i))
    | 8 => dueIf (s.actDue x) (.modeTmcFire (Fin.ofNat 32 i))
    | _ => []

/-- The wake point of an armed action, and the raise to RUN before a timed start, pulse or frame start (R104, R113). -/
def State.raiseRows (s : State) (k : Nat) (x : Act) : List Instr :=
  let a := actId (k / 512) (k % 512)
  dueIf (s.primes k x && !x.primed && decide (s.wakePoint x.target ≤ s.time.mono)) (.primeWakePoint a) ++
  dueIf (s.time.fclk && !s.time.handoff && x.armed && !x.defer && !x.raised && (k / 512 == 3 || k / 512 == 5 || k / 512 == 6) &&
    decide (lead x.target s.now ≤ 256)) (.timedRunRaise a)

/-- The source number by which an action takes its place among those bound to one time (R31, R32): an alarm's producer, and after every
producer for an action that has none. -/
def actSrc (kind inst : Nat) : Nat := if kind = 1 then 98 + inst else 256 + 512 * kind + inst

/-- Put a group of rows, with its time ahead of now and its source number, into its place. -/
def placeRows (x : Int × Nat × List Instr) : List (Int × Nat × List Instr) → List (Int × Nat × List Instr)
  | [] => [x]
  | y :: t => if x.1 < y.1 ∨ (x.1 = y.1 ∧ x.2.1 ≤ y.2.1) then x :: y :: t else y :: placeRows x t

/-- The rows of groups in the order of their times, and of their source numbers at one time. -/
def inOrder (l : List (Int × Nat × List Instr)) : List Instr := (l.foldr placeRows []).flatMap fun x => x.2.2

/-! ### Rennet, the log, scan-out, banks -/

/-- The event condition of channel `ch` holds in its channel stage (R49, R57): the sources that asserted two cycles ago, or, as
a gate opens on a level that is high, the producers whose level it is, stamped with the cycle of the gate's change (DESIGN CHOICE, log
entry 56). -/
def State.channelRows (s : State) (ch : Fin 64) : List Instr :=
  let old := s.srcsAt ch 3
  match s.srcsAt ch 2 with
  | [] =>
    let high := ((List.range 64).filter fun p => s.fab.lv2.getLsbD p).map fun p => s.srcOf p (s.now - 64)
    let l := high.filter (s.drives ch)
    dueIf (!l.isEmpty && s.chHigh ch s.fab.lv2 && s.chFires ch [] old) (.channelEvent ch l)
  | l => dueIf (s.chFires ch l old) (.channelEvent ch l)

/-- An entry can go to the spill ring (R71). -/
def State.spillDue (s : State) : Bool :=
  let n := 2 ^ s.fld 0x890 12 8
  s.bit 0x880 2 && s.logCount != 0 && decide (s.fab.spillAt ≤ s.time.mono) &&
    (s.bit 0x880 1 || (s.fld 0x894 25 0 % n + 1) % n != s.fld 0x898 25 0 % n)

/-- The rows of the scan-out at a line boundary `j` (R371, R380, R381, R386). -/
def State.lineRows (s : State) (j : Nat) : List Instr :=
  let t := s.disp.tl.at_ j
  let ls : List (Fin 2) := [0, 1]
  (ls.flatMap fun (l : Fin 2) => dueIf (s.stopsHere l j) (.scanoutStopped l)) ++
  dueIf (s.pendingStaged dispShadow && (s.lk s.applyLink).line j == s.fld 0x2C1C 15 0) .applyLine ++
  (ls.flatMap fun (l : Fin 2) => dueIf (s.blanks l j) (.blankingStart l)) ++
  (ls.flatMap fun (l : Fin 2) => dueIf (s.frameWhy l j t != 0) (.frameStart l)) ++
  dueIf (s.disp.packet.any fun p => s.blankLine (s.qLink (bf p.1 16 16)) j) .pktSend

/-- A vector-segment boundary of a bank that no sequencer plays, with something to apply (R318, R405). -/
def State.bankRows (s : State) (k : Fin 8) : List Instr :=
  let x := s.pb k
  let j := x.tl.from_ s.time.mono
  let here := s.pbState k == 0 || (s.pbState k == 2 && !s.synBit 2 1 && s.reached (x.tl.at_ j) && s.passAt k j)
  dueIf (s.segmentWaits k && here) (.vectorSegmentBoundary k)

/-! ### What is due -/

/-- The conditions that stand until their row has acted. -/
def State.ruleRows (s : State) : List Instr :=
  let fclk := s.time.fclk
  let running := s.dispState != 0 && !s.disp.waiting && !s.synBit 3 1
  let waitOver := s.rst.phase == 3 && s.rst.waiting.any s.waitMet
  (s.acts.flatMap fun e => s.raiseRows e.1 e.2) ++
  inOrder ((s.acts.map fun e =>
      (lead e.2.target s.now, actSrc (e.1 / 512) (e.1 % 512), s.actRows (actId (e.1 / 512) (e.1 % 512)) e.2)) ++
    (match if fclk && running then s.lineNow else none with
      | some j => [((s.disp.tl.at_ j : Int) - s.time.mono, 90, s.lineRows j)]
      | none => [])) ++
  ((List.finRange 16).flatMap s.syncRows) ++ ((List.finRange 16).flatMap s.seqRows) ++
  dueIf (s.disp.packet.any fun p => !(s.lk (bf p.1 16 16)).running) .pktSend ++
  dueIf (fclk && s.firstLine) .scanoutFirstLine ++
  (if fclk then (s.disp.rects.filter s.rectDue).map fun r => .rectCrc (Fin.ofNat 4 r.n) else []) ++
  (if fclk then (List.finRange 8).flatMap s.bankRows else []) ++
  ((List.finRange 32).flatMap fun (n : Fin 32) => dueIf (fclk && !(s.impDue n).isEmpty) (.importDeliver n)) ++
  dueIf (fclk && decide (s.fab.logAt ≤ s.time.mono) && !s.logReady.isEmpty) .logRelease ++
  dueIf (fclk && s.spillDue) .logSpillDrain ++
  dueIf (s.walk.on && s.walk.done) (if s.walk.out then .rindCommitDone (Fin.ofNat 33 s.walk.cur) else .rindRegionEnd (Fin.ofNat 33 s.walk.cur)) ++
  dueIf (s.mode.trans == .leaveService && !s.serviceBusy) .serviceExitDone ++
  dueIf (fclk && s.upPort.isSome && decide (s.kl.nextReq ≤ s.time.mono)) (.timeReqSend s.now) ++
  dueIf ((s.upPort.isSome || (s.bit 0x504 3 && s.time.rate != 0)) && decide (s.kl.nextOfs ≤ s.time.mono)) .offsetApply ++
  ((List.finRange 32).flatMap fun (v : Fin 32) =>
    dueIf (fclk && (s.vi v).fences.any fun f => s.fenceLeft v f == 0 && !(s.vi v).inReset) (.viFenceComplete v)) ++
  dueIf waitOver .waitDone ++
  ((List.finRange 4).flatMap fun (e : Fin 4) =>
    let x := s.lde e
    dueIf (fclk && x.busy && x.local_ && !x.suspended && x.done == x.len) (.ldeDone e (.ok []))) ++
  dueIf (s.awake && decide (s.mem.scrubAt ≤ s.time.mono)) (.vatScrub [] []) ++
  dueIf (s.rst.phase == 3 && s.rst.lockWait && s.synsLocked) .starterLockWaitEnd ++
  ((List.finRange 4).flatMap fun (p : Fin 4) => dueIf (s.ackLate p) (.replayTimeout p)) ++
  (match s.host.dbgHeld with
    | some dr => dueIf (!s.dbgWaits) (.dbgAcc dr)
    | none => [])

/-- What happens once in a cycle: channel stages, the slew of R23, the evaluation of R405. -/
def State.onceRows (s : State) : List Instr :=
  if !s.time.fclk then []
  else
    (List.finRange 64).flatMap s.channelRows ++
    dueIf (s.time.slew != 0 && (s.bit 0x504 2 || s.bit 0x504 3) && decide (s.time.fast.toNat / 32 % 256 = 0)) .timeSlew ++
    dueIf (s.affOn 3 && decide (s.cal.nextEval ≤ s.time.mono)) .calsetTempEval

/-- The rows of a keeper edge `ofs` TU into the cycle (R12, R17, R19, R25, R37, R40): always-on alarms act on the keeper before a
handoff at the edge. -/
def State.edgeRows (s : State) (ofs : Nat) : List Instr :=
  if s.time.fclk && !s.time.handoff then [.keeperReload (Fin.ofNat 32 ofs)]
  else
    let ao := (List.finRange 4).filter fun n => s.aoAlarm (actId 1 n.val) && (s.act (actId 1 n.val)).armed
    dueIf (s.time.setAtEdge.isSome && !s.time.fclk) .timeSetKeeper ++
    (ao.flatMap fun n => dueIf (s.act (actId 1 n.val)).defer (.deferredArming (actId 1 n.val))) ++
    (ao.map fun n => .almFireSleep n) ++
    dueIf s.time.fclk (.handoff (s.time.fast + BitVec.ofNat 64 ofs))

/-- A keeper edge in this cycle: the keeper adds its period, unless a reload follows; XO32 may take over (R12, R141). -/
def State.keeperEdge (s : State) : State × List Instr :=
  let t := s.time
  if !s.reached t.nextKeep || (!t.fclk && decide (s.time.mono < t.nextKeep)) then (s, [])
  else
    let s := { s with time := { t with nextKeep := t.nextKeep + 781250 } }
    if !s.keeperOn then (s, [])
    else
      let (k, f) := keeperStep t.keep t.frac s.keepTrim
      let s := if t.fclk && !t.handoff then s else { s with time := { s.time with keep := k, frac := f } }
      let s := if t.fclk then s else { s with time := { s.time with fast := s.now } }
      ((if t.fclk then s.xoEdge else s.xoEdge.walkTake), s.edgeRows (t.nextKeep - t.mono))

/-- Admissions of one cycle, of register starts and of staged ones, go in ascending sequencer order (R213). -/
def State.admissions (s : State) (l : List Instr) : List Instr :=
  (List.finRange 16).flatMap fun k =>
    dueIf (l.contains (.admitScanDone k)) (.admitScanDone k) ++
    dueIf (s.time.fclk && !s.time.handoff && s.stageDue k) (.seqStage k)

/-- A follow-up that an admission is. -/
def isAdmission : Instr → Bool
  | .admitScanDone _ => true
  | _ => false

/-- The rows due now, with the agenda's entries taken off it. What the agenda and the clock bring goes first; the conditions that stand
are looked at once that has acted, so that what acts at the start of a cycle governs its decisions (R265, R269, R271). -/
def State.dueRows (s : State) : State × List Instr :=
  let (s, edge) := s.keeperEdge
  let s := if s.time.fclk && decide (s.walk.next ≤ s.time.mono) then s.walkTake else s
  let due := (s.agenda.filter fun e => decide (e.1 ≤ s.time.mono)).map (·.2)
  let s := { s with agenda := s.agenda.filter fun e => !decide (e.1 ≤ s.time.mono) }
  let first := edge ++ s.admissions due ++ due.filter (!isAdmission ·) ++ (if s.time.rounds = 0 then s.onceRows else [])
  (s, if first.isEmpty then s.ruleRows else first)

/-! ### The end of a cycle -/

/-- The consumer stage of the events that passed the channel stage in the cycle before (R57, R60, R61). Those of this cycle wait in
`stage` for the next one. -/
def State.consumers (s : State) : State :=
  s.each s.fab.staged fun s e => s.conStage e.1 e.2.1 e.2.2

/-- Rennet's pipeline moves on by one cycle (R53, R57); monitored events pend their interrupts (R433). -/
def State.shiftFabric (s : State) : State :=
  let s := s.each s.fab.irqs fun s m => s.pend m.1 (16 + m.2)
  let s := s.consumers
  let f := s.fab
  { s with fab := { f with
      irqs := [], staged := f.stage, stage := [], lv1 := f.lv0, lv2 := f.lv1, lv3 := f.lv2, g1 := s.gateLevels, g2 := f.g1, g3 := f.g2,
      inflight := (f.inflight.map fun e => (e.1 + 1, e.2)).filter fun e => decide (e.1 < 4) } }

/-- What runs makes its outputs up to now, and the channels no sequencer plays the samples of the cycle (R285). -/
def State.outputs (s : State) : State :=
  let t := s.time.mono + (if s.time.fclk then s.cycleTu else 1)
  s.catchUpAll.each (List.range 8) fun s n => s.idleTo n t

/-- Working values apply (R405), and set-points of channels no sequencer plays (R294). -/
def State.applyIdle (s : State) : State :=
  let blank (l : Nat) : Bool := !(s.lk l).running || (s.lineNow.any fun j => s.blankLine (s.qLink l) j)
  let s := s.each ((List.range 8).filter fun n => !s.aoutPlaying n) fun s n =>
    (if s.pendingShadow (aoutShadow n) then s.applySetPoints n else s).applyTrims 1 n
  let s := s.each ((List.range 2).filter blank) fun s l => s.applyTrims 3 l
  if s.bit 0x2B84 30 then s else s.applyTrims 4 0

/-- The rates in force from the end of this cycle on reach the edges of the synthesizers and the timelines that count them (R182, R258,
log entry 25); a timeline of FCLK cycles follows them (R23, R174). -/
def State.retime (s : State) : State :=
  let t := s.time.mono + s.cycleTu
  let s := s.each ([1, 2, 3].filter fun x => (s.sy x).running && !s.synBit x 1) fun s x =>
    let l := (s.sy x).out.retime (s.outPeriod x) t
    if l = (s.sy x).out then s else s.setSy x { s.sy x with out := l }
  let s := s.each ((List.range 16).filter fun k => s.seqOn k && !s.bit (seqR k + 8) 18) fun s k =>
    let x := s.sq k
    let dom := s.fld (seqR k + 8) 23 22
    let j := x.from_ (s.time.mono + 1)
    let l := if dom ≠ 0 then x.tl.retime (s.seqPeriodIn k dom) t
      else if x.at_ j = t then x.tl else Line.startAt j t (s.seqPeriodIn k 0)
    if l = x.tl then s else s.setSq k { x with tl := l }
  let s := s.each ((List.range 8).filter fun k => s.pbState k == 2 && !s.synBit 2 1) fun s k =>
    let l := (s.pb k).tl.retime (s.vecPeriod k) t
    if l = (s.pb k).tl then s else s.setPb k { s.pb k with tl := l }
  if s.dispState != 0 && !s.disp.waiting && !s.synBit 3 1 then
    { s with disp := { s.disp with tl := s.disp.tl.retime (s.htotal * (s.pixelTu).1, (s.pixelTu).2) t } }
  else s

/-- What the end of a cycle does: CLOSING becomes DRAINING (R124), load engines write their blocks (R218), exports and interrupt messages
reach the link's channels (R492, R500), and a scan-out that waited for its domain goes on. -/
def State.endCycle (s : State) : State :=
  let s := s.each ((List.range 29).filter fun d => s.dom d == 3) fun s d => s.setDom d 4
  let s := s.outputs
  let s := if s.time.fclk then (s.shiftFabric.applyIdle.each (List.range 4) State.ldeBlock).retime else s
  let s := if s.affOn 3 && decide (s.cal.nextEval ≤ s.time.mono) then
    { s with cal := { s.cal with nextEval := s.time.mono + ms 100 } } else s
  let s := s.applyNext.startWalks.pumpExports.sendIrqs
  if s.disp.waiting && s.domOn 23 then s.dispReady else s

/-- How far time advances: one FCLK cycle; with FCLK stopped, to the next keeper edge or follow-up. -/
def State.stride (s : State) : Nat :=
  if s.time.fclk then s.cycleTu
  else max 1 ((s.agenda.map (·.1)).foldl min s.time.nextKeep - s.time.mono)

/-- Time advances by 32 TU of the time of record a cycle (R11), or to the value set (R25). A line that ends at a boundary of the new
cycle has been sent in full. -/
def State.advance (s : State) : State :=
  let d := s.stride
  let t := s.time
  let acc := if t.fclk then ((s.cycleFrac).1 + t.acc) % (s.cycleFrac).2 else 0
  let s := { s with cyc := [], host := { s.host with bound := none }, time := { t with
    mono := t.mono + d, fast := if t.fclk then t.fast + 32 else t.fast, rounds := 0, shift := 0, acc := acc } }
  let s := if s.time.fclk then s.takeSet.samplePins else s
  if s.time.fclk && s.dispState != 0 && !s.disp.waiting && !s.synBit 3 1 then
    match s.lineNow with
    | some j => s.foldLines j
    | none => s
  else s

/-- The step of an empty queue: the rows due now enter the queue, or, when none is due or 256 rounds have passed in this cycle,
the cycle ends. -/
def State.tick (s : State) : State :=
  if 256 ≤ s.time.rounds then s.endCycle.advance
  else
    let (s, l) := s.dueRows
    if l.isEmpty then s.endCycle.advance
    else { s with pending := l, time := { s.time with rounds := s.time.rounds + 1 } }

end Sys2Proof.Machine
end

