-- ==== Sys2Proof/Machine/Dispatch.lean ====
section
/-! DEFINITION. The dispatch: one arm per command, each one call of that command's meaning. -/

namespace Sys2Proof.Machine

/-- The effect of a command. -/
def exec (i : Instr) (s : State) : Host.Outcome State Fault Refusal :=
  match i with
  | .registerWrite vi port off data be => Sys2Proof.Machine.execRegisterWrite vi port off data be s
  | .aliasWrite vi port off data be => Sys2Proof.Machine.execAliasWrite vi port off data be s
  | .rcRead vi port off be => Sys2Proof.Machine.execRcRead vi port off be s
  | .timeNowRead vi port => Sys2Proof.Machine.execTimeNowRead vi port s
  | .counterLoRead vi port off => Sys2Proof.Machine.execCounterLoRead vi port off s
  | .logEntryRead vi port => Sys2Proof.Machine.execLogEntryRead vi port s
  | .tinStampRead vi port n => Sys2Proof.Machine.execTinStampRead vi port n s
  | .mbqRead vi port q => Sys2Proof.Machine.execMbqRead vi port q s
  | .semAcquire vi port n => Sys2Proof.Machine.execSemAcquire vi port n s
  | .viFence vi port => Sys2Proof.Machine.execViFence vi port s
  | .viFenceComplete vi => Sys2Proof.Machine.execViFenceComplete vi s
  | .keeperReload ofs => Sys2Proof.Machine.execKeeperReload ofs s
  | .keepTrimWindow measured => Sys2Proof.Machine.execKeepTrimWindow measured s
  | .handoff gridE => Sys2Proof.Machine.execHandoff gridE s
  | .lateClr vi => Sys2Proof.Machine.execLateClr vi s
  | .deferredArming a => Sys2Proof.Machine.execDeferredArming a s
  | .almArm n => Sys2Proof.Machine.execAlmArm n s
  | .almDisarm n => Sys2Proof.Machine.execAlmDisarm n s
  | .almFire n => Sys2Proof.Machine.execAlmFire n s
  | .almFireSleep n => Sys2Proof.Machine.execAlmFireSleep n s
  | .almRearmEvent n stamp => Sys2Proof.Machine.execAlmRearmEvent n stamp s
  | .heldProducerDeliver h => Sys2Proof.Machine.execHeldProducerDeliver h s
  | .channelEvent ch srcs => Sys2Proof.Machine.execChannelEvent ch srcs s
  | .consumerHeldDeliver c => Sys2Proof.Machine.execConsumerHeldDeliver c s
  | .fabFire vi ch => Sys2Proof.Machine.execFabFire vi ch s
  | .fabCommit vi => Sys2Proof.Machine.execFabCommit vi s
  | .fabDiscard vi => Sys2Proof.Machine.execFabDiscard vi s
  | .fabCntClr vi => Sys2Proof.Machine.execFabCntClr vi s
  | .logSpillCfgWrite v => Sys2Proof.Machine.execLogSpillCfgWrite v s
  | .lockSet vi blk => Sys2Proof.Machine.execLockSet vi blk s
  | .rindRegionEnd r => Sys2Proof.Machine.execRindRegionEnd r s
  | .rindOpen vi phys => Sys2Proof.Machine.execRindOpen vi phys s
  | .rindCommit vi phys => Sys2Proof.Machine.execRindCommit vi phys s
  | .rindCommitDone r => Sys2Proof.Machine.execRindCommitDone r s
  | .modeReq vi req => Sys2Proof.Machine.execModeReq vi req s
  | .serviceExit req => Sys2Proof.Machine.execServiceExit req s
  | .modeTmcArm vi => Sys2Proof.Machine.execModeTmcArm vi s
  | .modeTmcDisarm vi => Sys2Proof.Machine.execModeTmcDisarm vi s
  | .modeTmcFire vi => Sys2Proof.Machine.execModeTmcFire vi s
  | .safeCauseCleared cause => Sys2Proof.Machine.execSafeCauseCleared cause s
  | .wake src => Sys2Proof.Machine.execWake src s
  | .hostAccessWake acc => Sys2Proof.Machine.execHostAccessWake acc s
  | .primeWakePoint a => Sys2Proof.Machine.execPrimeWakePoint a s
  | .domainGateStart d => Sys2Proof.Machine.execDomainGateStart d s
  | .domainDrainEnd d => Sys2Proof.Machine.execDomainDrainEnd d s
  | .domainIsolatedCheck d => Sys2Proof.Machine.execDomainIsolatedCheck d s
  | .domainPowerUpDone d => Sys2Proof.Machine.execDomainPowerUpDone d s
  | .resetN low => Sys2Proof.Machine.execResetN low s
  | .rstReq level => Sys2Proof.Machine.execRstReq level s
  | .p0Release straps => Sys2Proof.Machine.execP0Release straps s
  | .starter boardPins vccio0Ok sfdp => Sys2Proof.Machine.execStarter boardPins vccio0Ok sfdp s
  | .synUpdate x => Sys2Proof.Machine.execSynUpdate x s
  | .synLockWindow x count rangeOk => Sys2Proof.Machine.execSynLockWindow x count rangeOk s
  | .refLoss x => Sys2Proof.Machine.execRefLoss x s
  | .wakeWindow x err => Sys2Proof.Machine.execWakeWindow x err s
  | .synGlide x ofs => Sys2Proof.Machine.execSynGlide x ofs s
  | .glideDone x => Sys2Proof.Machine.execGlideDone x s
  | .synEn x en => Sys2Proof.Machine.execSynEn x en s
  | .ldeStart e => Sys2Proof.Machine.execLdeStart e s
  | .ldeStop e => Sys2Proof.Machine.execLdeStop e s
  | .ldeDone e how => Sys2Proof.Machine.execLdeDone e how s
  | .dirValGo vi count => Sys2Proof.Machine.execDirValGo vi count s
  | .dirValDone vi => Sys2Proof.Machine.execDirValDone vi s
  | .precheck k => Sys2Proof.Machine.execPrecheck k s
  | .admitScanDone k => Sys2Proof.Machine.execAdmitScanDone k s
  | .apertureRead vi ofs len ecc => Sys2Proof.Machine.execApertureRead vi ofs len ecc s
  | .apertureWrite vi ofs bytes ecc => Sys2Proof.Machine.execApertureWrite vi ofs bytes ecc s
  | .vatScrub corrected uncorrectable => Sys2Proof.Machine.execVatScrub corrected uncorrectable s
  | .play k => Sys2Proof.Machine.execPlay k s
  | .playloop k => Sys2Proof.Machine.execPlayloop k s
  | .playloopExitTest k => Sys2Proof.Machine.execPlayloopExitTest k s
  | .hold k => Sys2Proof.Machine.execHold k s
  | .holdEnd k => Sys2Proof.Machine.execHoldEnd k s
  | .waitEvent k => Sys2Proof.Machine.execWaitEvent k s
  | .waitEventEnd k => Sys2Proof.Machine.execWaitEventEnd k s
  | .waitEventTimeout k => Sys2Proof.Machine.execWaitEventTimeout k s
  | .waitTime k => Sys2Proof.Machine.execWaitTime k s
  | .waitTimeEnd k => Sys2Proof.Machine.execWaitTimeEnd k s
  | .branch k => Sys2Proof.Machine.execBranch k s
  | .loopBegin k => Sys2Proof.Machine.execLoopBegin k s
  | .loopEnd k => Sys2Proof.Machine.execLoopEnd k s
  | .call k => Sys2Proof.Machine.execCall k s
  | .ret k => Sys2Proof.Machine.execRet k s
  | .setFreq k => Sys2Proof.Machine.execSetFreq k s
  | .phaseReset n => Sys2Proof.Machine.execPhaseReset n s
  | .setPhase k => Sys2Proof.Machine.execSetPhase k s
  | .setAmpl k => Sys2Proof.Machine.execSetAmpl k s
  | .paramListAdvance n => Sys2Proof.Machine.execParamListAdvance n s
  | .marker k => Sys2Proof.Machine.execMarker k s
  | .markerPulseReturn k m => Sys2Proof.Machine.execMarkerPulseReturn k m s
  | .sync k => Sys2Proof.Machine.execSync k s
  | .syncRelease k => Sys2Proof.Machine.execSyncRelease k s
  | .syncTimeout k => Sys2Proof.Machine.execSyncTimeout k s
  | .signalPost k => Sys2Proof.Machine.execSignalPost k s
  | .signalFire k => Sys2Proof.Machine.execSignalFire k s
  | .count k => Sys2Proof.Machine.execCount k s
  | .flip k => Sys2Proof.Machine.execFlip k s
  | .timing k => Sys2Proof.Machine.execTiming k s
  | .endStep k => Sys2Proof.Machine.execEndStep k s
  | .stepBoundary k => Sys2Proof.Machine.execStepBoundary k s
  | .seqStart k => Sys2Proof.Machine.execSeqStart k s
  | .seqEvstart k => Sys2Proof.Machine.execSeqEvstart k s
  | .seqArm k => Sys2Proof.Machine.execSeqArm k s
  | .seqDisarm k => Sys2Proof.Machine.execSeqDisarm k s
  | .seqStage k => Sys2Proof.Machine.execSeqStage k s
  | .seqEventInput k inp => Sys2Proof.Machine.execSeqEventInput k inp s
  | .seqStop k => Sys2Proof.Machine.execSeqStop k s
  | .seqStopStep k => Sys2Proof.Machine.execSeqStopStep k s
  | .seqEvstop k => Sys2Proof.Machine.execSeqEvstop k s
  | .seqHalt k => Sys2Proof.Machine.execSeqHalt k s
  | .seqCntClr k => Sys2Proof.Machine.execSeqCntClr k s
  | .underrun k => Sys2Proof.Machine.execUnderrun k s
  | .aoutModeWrite n v => Sys2Proof.Machine.execAoutModeWrite n v s
  | .park n => Sys2Proof.Machine.execPark n s
  | .unpark n => Sys2Proof.Machine.execUnpark n s
  | .aoutParkEvent n => Sys2Proof.Machine.execAoutParkEvent n s
  | .preload n => Sys2Proof.Machine.execPreload n s
  | .tableLoadDone n => Sys2Proof.Machine.execTableLoadDone n s
  | .aoutCntClr n => Sys2Proof.Machine.execAoutCntClr n s
  | .vectorFail k pins cont strobe => Sys2Proof.Machine.execVectorFail k pins cont strobe s
  | .failLogWrite k => Sys2Proof.Machine.execFailLogWrite k s
  | .vectorSegmentBoundary k => Sys2Proof.Machine.execVectorSegmentBoundary k s
  | .capSnap u levels => Sys2Proof.Machine.execCapSnap u levels s
  | .captureWrite u => Sys2Proof.Machine.execCaptureWrite u s
  | .vccioMeasure k mv => Sys2Proof.Machine.execVccioMeasure k mv s
  | .pbStart k => Sys2Proof.Machine.execPbStart k s
  | .pbStop k => Sys2Proof.Machine.execPbStop k s
  | .pbEvent k => Sys2Proof.Machine.execPbEvent k s
  | .failClr k => Sys2Proof.Machine.execFailClr k s
  | .pbCntClr k => Sys2Proof.Machine.execPbCntClr k s
  | .flogEnable k => Sys2Proof.Machine.execFlogEnable k s
  | .fire n => Sys2Proof.Machine.execFire n s
  | .trgEvent n => Sys2Proof.Machine.execTrgEvent n s
  | .trgArm n => Sys2Proof.Machine.execTrgArm n s
  | .trgDisarm n => Sys2Proof.Machine.execTrgDisarm n s
  | .trgTimedPulse n => Sys2Proof.Machine.execTrgTimedPulse n s
  | .trgPulseEnd n => Sys2Proof.Machine.execTrgPulseEnd n s
  | .trgCntClr n => Sys2Proof.Machine.execTrgCntClr n s
  | .tinEdge n rising stamp => Sys2Proof.Machine.execTinEdge n rising stamp s
  | .tinWakeEdge n edge => Sys2Proof.Machine.execTinWakeEdge n edge s
  | .fifoClr n => Sys2Proof.Machine.execFifoClr n s
  | .tinCntClr n => Sys2Proof.Machine.execTinCntClr n s
  | .acmpCrossing n volts => Sys2Proof.Machine.execAcmpCrossing n volts s
  | .madcGo ch => Sys2Proof.Machine.execMadcGo ch s
  | .madcDone value => Sys2Proof.Machine.execMadcDone value s
  | .tempUpdate temp => Sys2Proof.Machine.execTempUpdate temp s
  | .keyScan raw => Sys2Proof.Machine.execKeyScan raw s
  | .keyStuck n => Sys2Proof.Machine.execKeyStuck n s
  | .scanoutStopped l => Sys2Proof.Machine.execScanoutStopped l s
  | .qflush l => Sys2Proof.Machine.execQflush l s
  | .frameStart l => Sys2Proof.Machine.execFrameStart l s
  | .blankingStart l => Sys2Proof.Machine.execBlankingStart l s
  | .frameGo l => Sys2Proof.Machine.execFrameGo l s
  | .dsiEventFlip l => Sys2Proof.Machine.execDsiEventFlip l s
  | .qpush l v => Sys2Proof.Machine.execQpush l v s
  | .teEdge l rising => Sys2Proof.Machine.execTeEdge l rising s
  | .cscPreset code => Sys2Proof.Machine.execCscPreset code s
  | .lineUnderrun l col => Sys2Proof.Machine.execLineUnderrun l col s
  | .rectCrc n => Sys2Proof.Machine.execRectCrc n s
  | .pktGo v => Sys2Proof.Machine.execPktGo v s
  | .calDac vi inst => Sys2Proof.Machine.execCalDac vi inst s
  | .calBankDeskew vi inst => Sys2Proof.Machine.execCalBankDeskew vi inst s
  | .calDphyDeskew vi inst => Sys2Proof.Machine.execCalDphyDeskew vi inst s
  | .calMadc vi => Sys2Proof.Machine.execCalMadc vi s
  | .calKlRetrain vi inst => Sys2Proof.Machine.execCalKlRetrain vi inst s
  | .calDone res => Sys2Proof.Machine.execCalDone res s
  | .calAbort why => Sys2Proof.Machine.execCalAbort why s
  | .affTapUpdate c hits period dnl => Sys2Proof.Machine.execAffTapUpdate c hits period dnl s
  | .affDtcUpdate x gain step => Sys2Proof.Machine.execAffDtcUpdate x gain step s
  | .affDacUpdate n cells inl sfdr => Sys2Proof.Machine.execAffDacUpdate n cells inl sfdr s
  | .save idx => Sys2Proof.Machine.execSave idx s
  | .clear idx => Sys2Proof.Machine.execClear idx s
  | .viBind j v => Sys2Proof.Machine.execViBind j v s
  | .viReset vi => Sys2Proof.Machine.execViReset vi s
  | .viResetDone vi => Sys2Proof.Machine.execViResetDone vi s
  | .mbPost vi v => Sys2Proof.Machine.execMbPost vi v s
  | .mbFlush vi => Sys2Proof.Machine.execMbFlush vi s
  | .viCntClr vi => Sys2Proof.Machine.execViCntClr vi s
  | .viPwfClr vi r => Sys2Proof.Machine.execViPwfClr vi r s
  | .semRel vi n => Sys2Proof.Machine.execSemRel vi n s
  | .semGive vi v => Sys2Proof.Machine.execSemGive vi v s
  | .rspTimeout vi => Sys2Proof.Machine.execRspTimeout vi s
  | .bar0Request fn off write dws => Sys2Proof.Machine.execBar0Request fn off write dws s
  | .configRequest fn req => Sys2Proof.Machine.execConfigRequest fn req s
  | .spiFrame mode3 cmd addr data crc => Sys2Proof.Machine.execSpiFrame mode3 cmd addr data crc s
  | .spiBurstWord data crc => Sys2Proof.Machine.execSpiBurstWord data crc s
  | .spiCsAbort incomplete => Sys2Proof.Machine.execSpiCsAbort incomplete s
  | .nvmErase count => Sys2Proof.Machine.execNvmErase count s
  | .nvmEraseDone how => Sys2Proof.Machine.execNvmEraseDone how s
  | .dbgAcc dr => Sys2Proof.Machine.execDbgAcc dr s
  | .portTrained p peer => Sys2Proof.Machine.execPortTrained p peer s
  | .trainFail p => Sys2Proof.Machine.execTrainFail p s
  | .trainRetry p => Sys2Proof.Machine.execTrainRetry p s
  | .lossOfSignal p => Sys2Proof.Machine.execLossOfSignal p s
  | .announce p rootSerial prio depth epoch sender parent => Sys2Proof.Machine.execAnnounce p rootSerial prio depth epoch sender parent s
  | .joinReq p src serial pref depth => Sys2Proof.Machine.execJoinReq p src serial pref depth s
  | .joinAck p serial addr status epoch => Sys2Proof.Machine.execJoinAck p serial addr status epoch s
  | .addressReserveExpiry addr => Sys2Proof.Machine.execAddressReserveExpiry addr s
  | .leave p reason => Sys2Proof.Machine.execLeave p reason s
  | .depart p addr kind => Sys2Proof.Machine.execDepart p addr kind s
  | .member p addr kind depth time serial => Sys2Proof.Machine.execMember p addr kind depth time serial s
  | .timeReqSend t1 => Sys2Proof.Machine.execTimeReqSend t1 s
  | .timeReq p t2 t3 => Sys2Proof.Machine.execTimeReq p t2 t3 s
  | .timeRsp t2 t3 t4 => Sys2Proof.Machine.execTimeRsp t2 t3 t4 s
  | .exportEv n src => Sys2Proof.Machine.execExportEv n src s
  | .event p dst src stamp budget lch srcp foreign multi swf => Sys2Proof.Machine.execEvent p dst src stamp budget lch srcp foreign multi swf s
  | .importDeliver n => Sys2Proof.Machine.execImportDeliver n s
  | .klRaWdata vi data => Sys2Proof.Machine.execKlRaWdata vi data s
  | .klRaRead vi => Sys2Proof.Machine.execKlRaRead vi s
  | .rdReq p dst src rid dvi ovi off => Sys2Proof.Machine.execRdReq p dst src rid dvi ovi off s
  | .wrReq p dst src rid dvi ovi off data => Sys2Proof.Machine.execWrReq p dst src rid dvi ovi off data s
  | .rdRsp p dst src rid status ovi data => Sys2Proof.Machine.execRdRsp p dst src rid status ovi data s
  | .wrRsp p dst src rid status ovi off dvi => Sys2Proof.Machine.execWrRsp p dst src rid status ovi off dvi s
  | .remoteTimeout vi isRead rid => Sys2Proof.Machine.execRemoteTimeout vi isRead rid s
  | .irqMsg p dst src svi vector dvi => Sys2Proof.Machine.execIrqMsg p dst src svi vector dvi s
  | .klRstCmd v => Sys2Proof.Machine.execKlRstCmd v s
  | .resetCmd p dst level => Sys2Proof.Machine.execResetCmd p dst level s
  | .ack p lseq => Sys2Proof.Machine.execAck p lseq s
  | .nak p lseq => Sys2Proof.Machine.execNak p lseq s
  | .credit p evt rsp req => Sys2Proof.Machine.execCredit p evt rsp req s
  | .replayTimeout p => Sys2Proof.Machine.execReplayTimeout p s
  | .portClose p why => Sys2Proof.Machine.execPortClose p why s
  | .timedRunRaise a => Sys2Proof.Machine.execTimedRunRaise a s
  | .trgLeadingEdge n => Sys2Proof.Machine.execTrgLeadingEdge n s
  | .underrunDataArrives k ofs inCycle => Sys2Proof.Machine.execUnderrunDataArrives k ofs inCycle s
  | .pcieLinkDown recovery => Sys2Proof.Machine.execPcieLinkDown recovery s
  | .klBadPacket p what => Sys2Proof.Machine.execKlBadPacket p what s
  | .timeSet => Sys2Proof.Machine.execTimeSet s
  | .timeSetKeeper => Sys2Proof.Machine.execTimeSetKeeper s
  | .logRelease => Sys2Proof.Machine.execLogRelease s
  | .logSpillDrain => Sys2Proof.Machine.execLogSpillDrain s
  | .logClear => Sys2Proof.Machine.execLogClear s
  | .logSpillEnable => Sys2Proof.Machine.execLogSpillEnable s
  | .serviceRequest => Sys2Proof.Machine.execServiceRequest s
  | .serviceExitDone => Sys2Proof.Machine.execServiceExitDone s
  | .shelf => Sys2Proof.Machine.execShelf s
  | .safeEnter => Sys2Proof.Machine.execSafeEnter s
  | .safeExit => Sys2Proof.Machine.execSafeExit s
  | .thermalWarning => Sys2Proof.Machine.execThermalWarning s
  | .supplyFault => Sys2Proof.Machine.execSupplyFault s
  | .descentStart => Sys2Proof.Machine.execDescentStart s
  | .listenReached => Sys2Proof.Machine.execListenReached s
  | .shelfReached => Sys2Proof.Machine.execShelfReached s
  | .kl0Activity => Sys2Proof.Machine.execKl0Activity s
  | .primedReached => Sys2Proof.Machine.execPrimedReached s
  | .shelfExit => Sys2Proof.Machine.execShelfExit s
  | .shelfReload => Sys2Proof.Machine.execShelfReload s
  | .runFall => Sys2Proof.Machine.execRunFall s
  | .por => Sys2Proof.Machine.execPor s
  | .vinBrownout => Sys2Proof.Machine.execVinBrownout s
  | .watchdogExpiry => Sys2Proof.Machine.execWatchdogExpiry s
  | .perst => Sys2Proof.Machine.execPerst s
  | .thermalShutdown => Sys2Proof.Machine.execThermalShutdown s
  | .thermalRelease => Sys2Proof.Machine.execThermalRelease s
  | .resetTakeEffect => Sys2Proof.Machine.execResetTakeEffect s
  | .coreResetDone => Sys2Proof.Machine.execCoreResetDone s
  | .xo32Qualified => Sys2Proof.Machine.execXo32Qualified s
  | .xo32Fail => Sys2Proof.Machine.execXo32Fail s
  | .xo32LateQualify => Sys2Proof.Machine.execXo32LateQualify s
  | .regWrite => Sys2Proof.Machine.execRegWrite s
  | .regFill => Sys2Proof.Machine.execRegFill s
  | .segLoad => Sys2Proof.Machine.execSegLoad s
  | .segLoadDone => Sys2Proof.Machine.execSegLoadDone s
  | .partition => Sys2Proof.Machine.execPartition s
  | .calSet => Sys2Proof.Machine.execCalSet s
  | .bind => Sys2Proof.Machine.execBind s
  | .wait => Sys2Proof.Machine.execWait s
  | .waitDone => Sys2Proof.Machine.execWaitDone s
  | .cond => Sys2Proof.Machine.execCond s
  | .modeRecord => Sys2Proof.Machine.execModeRecord s
  | .endRecord => Sys2Proof.Machine.execEndRecord s
  | .memoryTrainingDone => Sys2Proof.Machine.execMemoryTrainingDone s
  | .starterLockWaitEnd => Sys2Proof.Machine.execStarterLockWaitEnd s
  | .p4 => Sys2Proof.Machine.execP4 s
  | .p5 => Sys2Proof.Machine.execP5 s
  | .synApplyTimeout => Sys2Proof.Machine.execSynApplyTimeout s
  | .wakeSlow => Sys2Proof.Machine.execWakeSlow s
  | .hfxoReady => Sys2Proof.Machine.execHfxoReady s
  | .keyBaselineDrift => Sys2Proof.Machine.execKeyBaselineDrift s
  | .dispStart => Sys2Proof.Machine.execDispStart s
  | .scanoutFirstLine => Sys2Proof.Machine.execScanoutFirstLine s
  | .stop => Sys2Proof.Machine.execStop s
  | .stopNow => Sys2Proof.Machine.execStopNow s
  | .dispCntClr => Sys2Proof.Machine.execDispCntClr s
  | .applyLine => Sys2Proof.Machine.execApplyLine s
  | .pktSend => Sys2Proof.Machine.execPktSend s
  | .calsetTempEval => Sys2Proof.Machine.execCalsetTempEval s
  | .apply => Sys2Proof.Machine.execApply s
  | .discard => Sys2Proof.Machine.execDiscard s
  | .partitionEdit => Sys2Proof.Machine.execPartitionEdit s
  | .spiWaitTimeout => Sys2Proof.Machine.execSpiWaitTimeout s
  | .dbgReset => Sys2Proof.Machine.execDbgReset s
  | .boundaryTestExit => Sys2Proof.Machine.execBoundaryTestExit s
  | .announceSend => Sys2Proof.Machine.execAnnounceSend s
  | .announceTimeout => Sys2Proof.Machine.execAnnounceTimeout s
  | .joinRetry => Sys2Proof.Machine.execJoinRetry s
  | .offsetApply => Sys2Proof.Machine.execOffsetApply s
  | .timeSlew => Sys2Proof.Machine.execTimeSlew s
  | .holdExpiry => Sys2Proof.Machine.execHoldExpiry s
  | .serviceReached => Sys2Proof.Machine.execServiceReached s
  | .pcieLinkUp => Sys2Proof.Machine.execPcieLinkUp s

end Sys2Proof.Machine
end

