-- ==== Sys2Proof/Safety.lean ====
section
/-! DEFINITION. The terms the claims use: a command that completes with an effect, what a command leaves unchanged, and the canonical
form of what the state keeps by address. -/

namespace Sys2Proof.Machine

/-- The command completes: it answers a next state, and that state satisfies `P`. -/
def Does (c : Instr) (s : State) (P : State → Prop) : Prop := ∃ t, exec c s = .next t ∧ P t

/-- Every register, physical or a VI's own, reads as before but for the ones named by key. -/
def SameRegs (l : List Nat) (s t : State) : Prop := ∀ k, k ∉ l → t.getKey k = s.getKey k

/-- Every byte of the Vat, of the on-package memory and of the NVM reads as before. -/
def SameStores (s t : State) : Prop :=
  (∀ a, t.vatB a = s.vatB a) ∧ (∀ a, t.memB a = s.memB a) ∧ (∀ a, t.nvmB a = s.nvmB a)

/-- The registers and the three stores stand in their canonical form: keys strictly rising, and no entry that an unlisted key
would give. -/
def State.Canonical (s : State) : Prop := Tab.wf regReset s.regs = true ∧ Memory.wf s.mem = true

/-- Accesses of VI `v` that come now are served at once: FCLK runs past its handoff, the device is awake, and nothing waits
(R20, R79, R110, R432). -/
def State.Serves (s : State) (v : Nat) : Prop :=
  s.time.fclk = true ∧ s.time.handoff = false ∧ s.awake = true ∧ (s.vi v).inReset = false ∧ s.mode.heldAcc = [] ∧
    s.mem.heldAper = []

/-- A register whose write only stores (R80): its fields are RW, in force at once, with no lock, no action, no reference to another
resource and no rule of their own. -/
def storesOnly (r : RegRow) (i : Nat) : Bool :=
  r.rwb == 0 && r.rwl == 0 && r.lock == 0 && r.act == 0 && !r.cls.perBit && refReg r.off i == .none && !hwUpdated r.off &&
    !([0x11C, 0x184, 0x190, 0x400, 0x410, 0x414, 0x500, 0x608, 0x708, 0x714, 0x880, 0x890, 0x900, 0x904, 0x1000, 0x100C, 0x1010,
       0x1014, 0x1018].contains r.off) &&
    !([0x1A00, 0x1A04, 0x1A08, 0x1A0C, 0x1A10, 0x1A14, 0x1A18, 0x1B04, 0x1B08, 0x1C00, 0x1C04, 0x1C08, 0x2000, 0x200C, 0x2010,
       0x2014, 0x2044, 0x2060, 0x2070, 0x2840, 0x2850, 0x2854].contains r.off) &&
    !([0x2A40, 0x2B40, 0x2BA0, 0x2BB0, 0x2C00, 0x2C0C, 0x2C10, 0x2C14, 0x2C18, 0x2C28, 0x3020, 0x3420, 0x3500, 0x3C10, 0x3C14,
       0x3D00].contains r.off)

/-- The producer number of a held source (R46). -/
def heldNo : HeldSrc → Nat
  | .tin n => 64 + n.val
  | .alm n => 98 + n.val
  | .key n => 84 + n.val

/-- An action is due in this cycle, with FCLK running. -/
def State.Due (s : State) (a : ActId) : Prop := s.time.fclk = true ∧ s.actDue (s.act a) = true

/-- Sequencer `k` runs and is to commit, for boundary `b`, the step word `w` of opcode `op`, which no uncorrectable error hides
(R227, R265). -/
def State.Commits (s : State) (k op b : Nat) (w : BitVec 128) : Prop :=
  s.seqOn k = true ∧ (s.sq k).target = some b ∧ ((s.sq k).stopStep = 0 ∨ (s.sq k).runLen ≠ 0) ∧
    s.stepWord (s.ownerVi .seq k) (s.sq k).pc = w ∧ opOf w = op ∧
    ∀ p, s.stepAddr (s.ownerVi .seq k) (s.sq k).pc = some p → s.badStep p = false

/-- The state a step's fields are judged in: SEQk_PC shows the step, and the descriptor it names has been validated (R206). -/
def State.fetched (s : State) (k : Nat) (w : BitVec 128) : State :=
  let f := s.wr (seqR k + 0x40) (BitVec.ofNat 32 (s.sq k).pc)
  match (namedDesc w).bind (f.dirEntry (s.ownerVi .seq k)) with
  | some p => f.validateNew (s.ownerVi .seq k) p
  | none => f

/-- A control step of sequencer `k` has committed: the run goes on at `next`, with `e` to take effect at its boundary. -/
def State.Advances (s t : State) (k next : Nat) (e : List Eff) : Prop :=
  (t.sq k).pc = next ∧ (t.sq k).eff = (s.sq k).eff ++ e ∧ (t.sq k).runLen = (s.sq k).runLen + 1 ∧
    (t.sq k).target = (s.sq k).target ∧ t.rd (seqR k + 0x40) = BitVec.ofNat 32 (s.sq k).pc ∧ SameStores s t

/-- The run of sequencer `k` for boundary `b` has committed with step `c`: its effects wait with it for the boundary, which a long
run or a first segment in memory moves. -/
def State.Plans (s t : State) (k b next : Nat) (c : Cur) : Prop :=
  (t.sq k).pc = next ∧ (t.sq k).plan = c ∧ (t.sq k).eff = [] ∧ (t.sq k).runLen = 0 ∧ (t.sq k).lastC = s.time.mono ∧
    ((t.sq k).planAt, (s.sq k).pc, (s.sq k).eff, c) ∈ (t.sq k).queue ∧
    ((s.sq k).memB0 = none → (s.sq k).runLen ≤ 64 → (t.sq k).planAt = b) ∧
    t.rd (seqR k + 0x40) = BitVec.ofNat 32 (s.sq k).pc ∧ SameStores s t

/-- The packet `k` has left by port `p` with `hops` travelled, or waits on its virtual channel (R486, R488). -/
def State.Goes (t : State) (p hops : Nat) (k : Pkt) : Prop :=
  (p, hops, k) ∈ t.kl.sent ∨ ∃ e ∈ ((t.kp p).chan (vcOf k)).1, e.hops = hops ∧ e.pkt = k

/-- The packets that port `p` has put out since `s`. -/
def State.putOut (s t : State) (p : Nat) : List Pkt :=
  ((t.kl.sent.drop s.kl.sent.length).filter fun e => e.1 == p).map (·.2.2)

/-- The sequenced packet that came by port `p` is accepted: it is acknowledged and the next is expected (R489). -/
def State.Accepts (s t : State) (p : Nat) : Prop :=
  Pkt.ack (BitVec.ofNat 12 (s.kp p).rx) ∈ s.putOut t p ∧ (t.kp p).rx = ((s.kp p).rx + 1) % 4096

/-- A posted write of VI `v` has failed (R419, R420): a free slot takes its record and source PWF pends, or the failures without one
count; nothing while the VI is in reset. -/
def State.Faulted (s t : State) (v : Nat) : Prop :=
  let free := (List.range 8).find? fun r => !s.bitv v 0x124 r
  (s.vi v).inReset = false → (t.vi v).faulted = true ∧
    (∀ r, free = some r → t.bitv v 0x124 r = true ∧ t.bitv v 0x180 0 = true) ∧
    (free = none → t.fldv v 0x124 31 16 = min 0xFFFF (s.fldv v 0x124 31 16 + 1))

/-! ### Which commands may change what -/

/-- The commands that may change a byte of the Vat, of the on-package memory or of the NVM. -/
def storing : Instr → Bool
  | .registerWrite .. | .aliasWrite .. | .starter .. | .ldeStop .. | .ldeDone .. | .apertureRead .. | .apertureWrite ..
  | .vatScrub ..
  | .failLogWrite .. | .captureWrite .. | .viReset .. | .bar0Request .. | .configRequest .. | .spiFrame ..
  | .spiBurstWord .. | .nvmEraseDone .. | .dbgAcc .. | .wrReq .. | .logRelease .. | .logSpillDrain ..
  | .shelfReached .. | .shelfReload .. | .por .. | .resetTakeEffect .. | .regWrite .. | .regFill .. | .segLoadDone ..
  | .partition .. | .bind .. | .waitDone .. | .partitionEdit .. => true
  | _ => false

/-- The commands that may change a semaphore: reads of SEMn, releases and gifts, and what halts a sequencer or resets a VI. -/
def movesSems : Instr → Bool
  | .registerWrite .. | .aliasWrite .. | .rcRead .. | .timeNowRead .. | .counterLoRead .. | .logEntryRead ..
  | .tinStampRead .. | .mbqRead .. | .semAcquire .. | .viFence .. | .rindRegionEnd .. | .synLockWindow ..
  | .refLoss .. | .stepBoundary .. | .seqHalt .. | .viReset .. | .semRel .. | .semGive .. | .bar0Request ..
  | .configRequest .. | .spiFrame .. | .spiBurstWord .. | .dbgAcc .. | .rdReq .. | .wrReq .. | .safeEnter ..
  | .thermalWarning .. | .supplyFault .. | .primedReached .. | .por .. | .resetTakeEffect .. | .regWrite ..
  | .regFill .. | .segLoadDone .. | .partition .. | .bind .. | .waitDone .. | .p5 .. | .partitionEdit .. => true
  | _ => false

/-- The commands that may change the FIFO, the window or the count of a time input. -/
def movesTins : Instr → Bool
  | .registerWrite .. | .aliasWrite .. | .rcRead .. | .timeNowRead .. | .counterLoRead .. | .logEntryRead ..
  | .tinStampRead .. | .mbqRead .. | .semAcquire .. | .viFence .. | .handoff .. | .tinEdge .. | .tinWakeEdge ..
  | .fifoClr .. | .tinCntClr .. | .viResetDone .. | .bar0Request .. | .spiFrame .. | .spiBurstWord .. | .dbgAcc ..
  | .rdReq .. | .wrReq .. | .por .. | .resetTakeEffect .. | .regWrite .. | .regFill .. | .segLoadDone ..
  | .partition .. | .bind .. | .waitDone .. | .partitionEdit .. => true
  | _ => false

/-- The commands that may change the state of an operator key. -/
def movesKeys : Instr → Bool
  | .registerWrite .. | .aliasWrite .. | .keyScan .. | .keyStuck .. | .viResetDone .. | .bar0Request .. | .spiFrame ..
  | .spiBurstWord .. | .dbgAcc .. | .wrReq .. | .por .. | .resetTakeEffect .. | .regWrite .. | .regFill ..
  | .segLoadDone .. | .partition .. | .bind .. | .waitDone .. | .keyBaselineDrift .. => true
  | _ => false

/-- The commands that may change the state of a Rind region. -/
def movesRind : Instr → Bool
  | .registerWrite .. | .aliasWrite .. | .fabCommit .. | .lockSet .. | .rindRegionEnd .. | .rindOpen ..
  | .rindCommit .. | .rindCommitDone .. | .viBind .. | .viResetDone .. | .bar0Request .. | .spiFrame ..
  | .spiBurstWord .. | .dbgAcc .. | .wrReq .. | .por .. | .resetTakeEffect .. | .regWrite .. | .regFill ..
  | .segLoadDone .. | .partition .. | .bind .. | .waitDone .. | .p4 .. | .partitionEdit .. => true
  | _ => false

/-- The commands that may change the scan-out, its queues, its packet or its rectangles. -/
def movesDisp : Instr → Bool
  | .registerWrite .. | .aliasWrite .. | .flip .. | .stepBoundary .. | .scanoutStopped .. | .qflush ..
  | .frameStart .. | .blankingStart .. | .frameGo .. | .dsiEventFlip .. | .qpush .. | .lineUnderrun .. | .rectCrc ..
  | .pktGo .. | .viReset .. | .viResetDone .. | .bar0Request .. | .configRequest .. | .spiFrame .. | .spiBurstWord ..
  | .dbgAcc .. | .wrReq .. | .por .. | .resetTakeEffect .. | .regWrite .. | .regFill .. | .segLoadDone ..
  | .partition .. | .bind .. | .waitDone .. | .dispStart .. | .scanoutFirstLine .. | .stop .. | .stopNow ..
  | .pktSend .. | .partitionEdit .. => true
  | _ => false

/-- The commands that leave every register alone in every case. -/
def keepsRegs : Instr → Bool
  | .viFenceComplete .. | .keeperReload .. | .heldProducerDeliver .. | .fabFire .. | .fabDiscard .. | .rindOpen ..
  | .rindCommit .. | .domainDrainEnd .. | .resetN .. | .holdEnd .. | .waitEventTimeout .. | .syncRelease ..
  | .syncTimeout .. | .seqStop .. | .seqStopStep .. | .seqEvstop .. | .blankingStart .. | .teEdge ..
  | .addressReserveExpiry .. | .timeReqSend .. | .timeReq .. | .klRstCmd .. | .resetCmd .. | .ack .. | .credit ..
  | .descentStart .. | .vinBrownout .. | .perst .. | .thermalShutdown .. | .thermalRelease .. | .xo32LateQualify ..
  | .segLoad .. | .cond .. | .modeRecord .. | .keyBaselineDrift .. | .discard .. | .spiWaitTimeout .. | .dbgReset ..
  | .boundaryTestExit .. | .announceSend .. | .timeSlew .. => true
  | _ => false

end Sys2Proof.Machine
end

