-- ==== Sys2Proof/WellFormed.lean ====
section
/-! DEFINITION. Well-formed commands. The operand types already bound instance numbers and fields; these are the bounds that no
type says. The machine gives an ill-formed command a meaning too; no bus, pin or engine of the spec produces one. -/

namespace Sys2Proof

/-- A scheduled action names a kind of the late rule (the KIND codes before R40) and an instance that kind has. -/
def ActId.wf (a : ActId) : Bool :=
  match a.kind.val with
  | 1 | 2 | 3 => decide (a.inst.val < 16)
  | 4 | 5 => decide (a.inst.val < 8)
  | 6 => decide (a.inst.val < 128)
  | 7 => true
  | 8 => decide (a.inst.val < 32)
  | 9 => decide (a.inst.val < 192)
  | _ => false

/-- Masks of pins sampled HIGH and LOW never share a pin (R329). -/
def levelsWf (l : List (BitVec 16 × BitVec 16)) : Bool := decide (l.length ≤ 8) && l.all fun x => x.1 &&& x.2 == 0

/-- The bounds on the operands of a command. -/
def Instr.wf : Instr → Bool
  | .deferredArming a | .primeWakePoint a | .timedRunRaise a => a.wf
  | .channelEvent _ srcs => !srcs.isEmpty && srcs.all fun x => decide (x.prod ≤ 256)
  | .synLockWindow _ n _ => decide (n < 2 ^ 32)
  | .ldeDone _ (.err r _) => decide (r.val ≠ 0)
  | .apertureRead _ ofs len _ => decide (0 < len) && decide (ofs + len ≤ 0x80000000)
  | .apertureWrite _ ofs l _ => !l.isEmpty && decide (ofs + l.length ≤ 0x80000000)
  | .vatScrub c u => (c ++ u).all fun b => decide (b < 0x2000000)
  | .capSnap _ l => levelsWf l
  | .tinEdge _ _ ⟨t, some b⟩ => decide ((b - t).toNat < 52)
  | .acmpCrossing _ ⟨uv, v⟩ => decide (uv ≤ v) && decide (v ≤ 3600000)
  | .keyScan raw => raw.length == 6 && raw.all fun r => decide (0 ≤ r) && decide (r < 65536)
  | .lineUnderrun _ col => decide (col < 4096)
  | .calDone r => decide ((r.trims.map (·.1)).Nodup)
  | .affDacUpdate _ cells _ _ => decide ((cells.map (·.1)).Nodup) && cells.all fun c => decide (c.1.toNat < 67)
  | .bar0Request _ off _ dws => !dws.isEmpty && decide (off.toNat + 4 * dws.length ≤ 65536)
  | _ => true

end Sys2Proof
end

