-- ==== Sys2Proof/Certificates/Slice0/Obligations.lean ====
section
/-! DEFINITION. The statements for the provers. Each says what a command or the block does by the rules its entry in OBLIGATIONS.json
names; a clause with hypotheses says where the command completes with its own effect. -/

open Sys2Proof Sys2Proof.Machine

/-- The queue: a step takes the command at the front and runs it with the queue's rest. -/
def Obligations.StepRunsTheFrontCommand : Prop :=
  ∀ (c : Instr) (rest : List Instr) (s : State), s.pending = c :: rest → step s = exec c { s with pending := rest }

/-- Every command of the table completes in every state, and leaves the queue alone. -/
def Obligations.EveryCommandCompletesAndKeepsTheQueue : Prop :=
  ∀ (c : Instr) (s : State), Does c s fun t => t.pending = s.pending

/-- The state after power-on reset: every register at its table's value, in SHELF with every domain but AO off, nothing
running, nothing waiting. The reset state stands in canonical form. -/
def Obligations.ResetLeavesTheTablesValues : Prop :=
  ((∀ k, State.reset.getKey k = regReset k) ∧ State.reset.mode.eff = .shelf ∧ State.reset.dom 0 = 2 ∧
     (∀ d, d ≠ 0 → State.reset.dom d = 0) ∧ State.reset.time.fclk = false ∧ State.reset.now = 0 ∧
     (∀ a, State.reset.act a = {}) ∧ (∀ k, State.reset.sq k = {}) ∧ State.reset.shadows = [] ∧ State.reset.pending = []) ∧
  (State.reset.Canonical)

/-- Every step keeps the canonical form of the registers and of the stores. -/
def Obligations.EveryStepKeepsTheCanonicalForm : Prop :=
  ∀ s t : State, s.Canonical → step s = .next t → t.Canonical

/-! ### What commands leave alone -/

/-- Only the commands that store change a byte of the Vat, of the memory or of the NVM. -/
def Obligations.OnlyStoringCommandsChangeTheStores : Prop :=
  ∀ (c : Instr) (s t : State), storing c = false → exec c s = .next t → SameStores s t

/-- Semaphores, time inputs, keys, Rind regions and the scan-out change only by the commands that act on them. -/
def Obligations.EachUnitChangesOnlyByItsCommands : Prop :=
  ∀ (c : Instr) (s t : State), exec c s = .next t →
    (movesSems c = false → t.sems = s.sems) ∧ (movesTins c = false → t.tins = s.tins) ∧
    (movesKeys c = false → t.keys = s.keys) ∧ (movesRind c = false → t.rind = s.rind) ∧
    (movesDisp c = false → t.disp = s.disp)

/-- The commands that act on no register leave every register, physical or a VI's own, as it is. -/
def Obligations.CommandsThatKeepEveryRegister : Prop :=
  ∀ (c : Instr) (s t : State), keepsRegs c = true → exec c s = .next t → t.regs = s.regs

/-! ### Register accesses (03, 15) -/

/-- A write takes effect at once. A normal write of a register that only stores gives its writable fields the data; through the SET,
CLR and TGL aliases they are set, cleared and toggled by the ones of the data; every other register but the VI's write tag, which counts
the write (R417), and every store keeps its value. A write that is narrow or unaligned changes only its tag and the VI's error records:
NARROW with the offset, the port and the direction, and the interrupt it raises. A write at an offset that holds nothing but read-only
fields changes only its tag and the VI's error records, shown on DEV_ID: RO_WRITE. -/
def Obligations.WritesReachTheirRegister : Prop :=
  (∀ (s : State) (v : Fin 32) (p : Port) (off : BitVec 16) (d : Word) (r : RegRow) (i k : Nat),
     p = .internal ∨ (s.Serves v ∧
       s.walkBlocks { vi := v, port := p, off := off, data := d, write := true, be := 0xF } = false) →
     off.toNat % 4 = 0 → s.slot v (off.toNat % 0x4000) = .reg r i k → s.slotGated r i = false → storesOnly r i = true →
     canAlter v r i ≠ 0 →
     let a := canAlter v r i
     let stored (x : Word) (t : State) : Prop := t.getKey k = x ∧
       t.rdv v 0x118 = BitVec.ofNat 32 ((s.fldv v 0x118 15 0 + 1) % 65536) ∧
       (p ≠ .link → SameRegs [k, viKey v 0x118] s t) ∧ SameStores s t
     (off.toNat < 0x4000 → Does (.registerWrite v p off d 0xF) s (stored ((s.getKey k &&& ~~~a) ||| (d &&& a)))) ∧
     (0x4000 ≤ off.toNat → d &&& s.fields v r i &&& ~~~a = 0 → Does (.aliasWrite v p off d 0xF) s (stored
       (if off.toNat / 0x4000 = 1 then s.getKey k ||| (d &&& a)
        else if off.toNat / 0x4000 = 2 then s.getKey k &&& ~~~(d &&& a) else s.getKey k ^^^ (d &&& a))))) ∧
  (∀ (s : State) (v : Fin 32) (off : BitVec 16) (d : Word) (be : BitVec 4), be ≠ 0xF ∨ off.toNat % 4 ≠ 0 →
     let refused (t : State) : Prop := t.bitv v 0x10C 0 = true ∧ t.fldv v 0x110 15 0 = off.toNat ∧ t.bitv v 0x110 31 = true ∧
       t.bitv v 0x180 1 = true ∧
       SameRegs [viKey v 0x118, viKey v 0x10C, viKey v 0x110, viKey v 0x180] s t ∧ SameStores s t
     Does (.registerWrite v .internal off d be) s refused ∧ Does (.aliasWrite v .internal off d be) s refused) ∧
  (∀ (s : State) (v : Fin 32) (d : Word), Does (.registerWrite v .internal 0x0000 d 0xF) s fun t =>
     t.bitv v 0x10C 2 = true ∧ SameRegs [viKey v 0x118, viKey v 0x10C, viKey v 0x110, viKey v 0x180] s t ∧ SameStores s t)

/-- Reads through a host port answer what the register holds, and do what the register's read does: an RC bit returned as
1 clears unless the block set it in this cycle, TIME_NOW_LO and a counter's low half latch the high half, LOG_ENTRY0,
TINn_STAMP_LO and MBQq_W0 take the oldest entry, and SEMn acquires a free semaphore. A semaphore another VI or sequencer
owns stays as it is, and the read names the owner. A read of VI_FENCE is held with the tag of the VI's last write; it
completes with that tag, and with whether a reset fell since, a write had failed, or writes are still outstanding. -/
def Obligations.ReadsAnswerAndActOnWhatTheyRead : Prop :=
  (∀ (s : State) (v : Fin 32) (p : Port), s.Serves v → p ≠ .internal →
     Does (.rcRead v p 0x10C 0xF) s (fun t => t.rdata = some (s.rdv v 0x10C, false) ∧
       t.rdv v 0x10C = s.rdv v 0x10C &&& ~~~(s.rdv v 0x10C &&& 0x3F &&& ~~~(s.cy (viKey v 0x10C)).raised)) ∧
     Does (.timeNowRead v p) s (fun t => t.rdata = some (lo32 s.now, false) ∧ t.rdv v 0x50C = hi32 s.now) ∧
     (∀ l : Fin 2, (s.owns v .misc 0 = true ∨ s.physView v = true) → s.domOn 23 = true →
       Does (.counterLoRead v p (BitVec.ofNat 16 (0x2E1C + 0x80 * l.val))) s fun t =>
         t.rdata = some (s.rd (0x2E1C + 0x80 * l.val), false) ∧
         t.rd (0x2E20 + 0x80 * l.val) = s.rd (0x2E38 + 0x80 * l.val)) ∧
     (∀ (j : Fin 16) (k : Nat), s.phys v .seq j = some k → k < 16 → s.domOn 3 = true →
       let x := s.catchUpAll.sq k
       Does (.counterLoRead v p (BitVec.ofNat 16 (0x1028 + 0x80 * j.val))) s (fun t =>
         t.rdata = some (x.periods.setWidth 32, false) ∧ t.rd (seqR k + 0x2C) = (x.periods >>> 32).setWidth 32) ∧
       Does (.counterLoRead v p (BitVec.ofNat 16 (0x1030 + 0x80 * j.val))) s fun t =>
         t.rdata = some (x.whey.setWidth 32, false) ∧ t.rd (seqR k + 0x34) = (x.whey >>> 32).setWidth 32) ∧
     (v = 0 → s.bit 0x880 2 = false → 0 < s.logCount → Does (.logEntryRead v p) s fun t =>
       t.rdata = some (BitVec.ofNat 32 (leNat (s.bytes true s.logOldest 4)), false) ∧ t.logCount = s.logCount - 1) ∧
     (∀ (n : Fin 16) (j : Nat) (e : TinEnt) (rest : List TinEnt), s.virt v .tin n = some j → s.phys v .tin j = some n.val →
       (s.tin n).fifo = e :: rest → Does (.tinStampRead v p n) s fun t =>
         t.rdata = some (lo32 e.stamp, false) ∧ (t.tin n).fifo = rest ∧ (t.tin n).win = some e) ∧
     (∀ (q : Fin 4) (m : Msg) (rest : List Msg), (s.vi v).queue q = m :: rest → Does (.mbqRead v p q) s fun t =>
       t.rdata = some (BitVec.ofNat 32 (leNat ((msgBytes m).take 4)), false) ∧ (t.vi v).queue q = rest) ∧
     (∀ n : Fin 64, (s.sem n).owner = none → Does (.semAcquire v p n) s fun t =>
       (t.sem n).owner = some (v.val, none) ∧ (t.sem n).abandoned = false ∧
       t.rdata = some (s.semWord (t.sem n) (if (s.sem n).abandoned then 2 else 0), false))) ∧
  (∀ (s : State) (v : Fin 32) (p : Port) (n : Fin 64) (o : Nat × Option Nat), s.Serves v → p ≠ .internal →
     (s.sem n).owner = some o → o ≠ (v.val, none) → Does (.semAcquire v p n) s fun t =>
       t.sem n = s.sem n ∧ t.rdata = some (s.semWord (s.sem n) 1, false)) ∧
  ((∀ (s : State) (v : Fin 32) (p : Port), s.Serves v → p ≠ .internal → Does (.viFence v p) s fun t =>
     ∃ f, (t.vi v).fences = (s.vi v).fences ++ [f] ∧ f.tag = s.fldv v 0x118 15 0 ∧ f.at_ = s.time.mono ∧ f.reset = false) ∧
   (∀ (s : State) (v : Fin 32) (f : Fence), s.fenceDone v = some f → Does (.viFenceComplete v) s fun t =>
     (t.vi v).fences = (s.vi v).fences.erase f ∧ (t.vi v).faulted = false ∧
     ∃ w, t.rdata = some (w, false) ∧ bf w 31 16 = f.tag % 65536 ∧ tb w 2 = f.reset ∧ tb w 1 = (s.vi v).faulted ∧
       tb w 0 = (s.fenceLeft v f != 0)))

/-! ### Time of record and alarms (01) -/

/-- A keeper edge reloads the keeper while FCLK runs: the time of record at the edge, and no fraction (R17). A measurement
window of the keeper is recorded, moves TRIM an eighth of the way with AUTO, or, out of range, only sets RANGE. The
handoff: the time of record becomes the keeper's count at the edge, on the 32 TU grid, never less than it was, or the value set for
the edge; no handoff is pending any more. Setting the time: with FCLK running the next cycle takes the value written with bits [4:0]
clear, with FCLK stopped the next keeper edge does; while slaved it is refused. One 1 TU step of a slew shortens or lengthens a cycle. -/
def Obligations.TheTimeOfRecordIsKeptAndSet : Prop :=
  (∀ (s : State) (ofs : Fin 32), s.time.fclk = true → s.time.handoff = false → Does (.keeperReload ofs) s fun t =>
     t.time.keep = s.time.fast + BitVec.ofNat 64 ofs.val ∧ t.time.frac = 0 ∧
     SameRegs [] s t ∧ SameStores s t) ∧
  (∀ (s : State) (m : Int), s.trimmable = true → s.bit 0x494 3 = false →
     (m.natAbs ≤ 25000 → Does (.keepTrimWindow m) s fun t =>
       t.fld 0x528 15 0 = (BitVec.ofInt 16 m).toNat ∧ t.bit 0x528 17 = true ∧
       t.fld 0x528 31 28 = (if s.bit 0x528 17 then (s.fld 0x528 31 28 + 1) % 16 else 0) ∧
       t.fld 0x524 15 0 = (if s.bit 0x524 16 then (BitVec.ofInt 16 (s.keepTrim + tdiv (m - s.keepTrim) 8)).toNat
         else s.fld 0x524 15 0)) ∧
     (25000 < m.natAbs → Does (.keepTrimWindow m) s fun t =>
       t.bit 0x528 16 = true ∧ SameRegs [devKey 0x528] s t ∧ t.fld 0x528 15 0 = s.fld 0x528 15 0)) ∧
  (∀ (s : State) (e : Time), s.time.fclk = true → s.time.handoff = true → Does (.handoff e) s fun t =>
     t.time.handoff = false ∧
     (s.time.setAtEdge = none →
       t.time.fast = (e + (if 0 ≤ lead s.time.keep e then s.time.keep - e else 0) + 31) &&& ~~~31#64 ∧ t.time.keep = s.time.keep) ∧
     (∀ v, s.time.setAtEdge = some v → t.time.fast = (v + 31) &&& ~~~31#64 ∧ t.time.keep = v ∧ t.time.setAtEdge = none ∧
       t.bit 0x504 8 = true)) ∧
  (∀ s : State,
     let v := s.rd64 0x510 0x514 &&& ~~~31#64
     (s.bit 0x504 2 = false → s.time.fclk = true → Does .timeSet s fun t =>
       t.time = { s.time with setNext := some v } ∧ t.takeSet.time.fast = v ∧ SameRegs [] s t ∧ SameStores s t) ∧
     (s.bit 0x504 2 = false → s.time.fclk = false → Does .timeSet s fun t =>
       t.time = { s.time with setAtEdge := some v } ∧ SameRegs [] s t ∧ SameStores s t) ∧
     (s.bit 0x504 2 = true → Does .timeSet s fun t =>
       t.bit 0x504 9 = true ∧ t.time = s.time ∧ SameRegs [devKey 0x504] s t) ∧
     (∀ x : Time, s.time.setAtEdge = some x → s.time.fclk = false → Does .timeSetKeeper s fun t =>
       t.time.keep = x ∧ t.time.fast = x ∧ t.time.frac = 0 ∧ t.time.setAtEdge = none ∧ t.bit 0x504 8 = true ∧
       t.rd64 0x51C 0x520 = x - s.now) ∧
     (s.bit 0x504 2 = true ∨ s.bit 0x504 3 = true → s.time.fclk = true →
       (0 < s.time.slew → Does .timeSlew s fun t => t.time = { s.time with shift := -1, slew := s.time.slew - 1 }) ∧
       (s.time.slew < 0 → Does .timeSlew s fun t => t.time = { s.time with shift := 1, slew := s.time.slew + 1 })))

/-- The late rule at the arming moment (R41 to R43): an action with at least 2,048 TU to go is in time; a late one is
dropped, or acts no earlier than its earliest moment; its lateness is recorded in its VI. LATE_CLR clears the VI's late
records; what this cycle counted stays (R514). -/
def Obligations.LateActionsAreDroppedOrPutOff : Prop :=
  (∀ (s : State) (a : ActId), a.wf = true → (s.act a).armed = true → (s.act a).defer = true → s.actReady a = true →
     (2048 ≤ lead (s.act a).target s.now → Does (.deferredArming a) s fun t =>
       t.act a = { s.act a with defer := false } ∧ SameRegs [] s t ∧ SameStores s t) ∧
     (lead (s.act a).target s.now < 2048 → (s.act a).drop = true → Does (.deferredArming a) s fun t => t.act a = {}) ∧
     (lead (s.act a).target s.now < 2048 → (s.act a).drop = false → Does (.deferredArming a) s fun t =>
       (t.act a).armed = true ∧ (t.act a).late = true ∧
       (t.act a).earliest = s.time.mono + earliestDelay a.kind.val ∧
       t.rdv (s.actVi a.kind.val a.inst.val).1 0x530 = sat32 (2048 - lead (s.act a).target s.now).toNat)) ∧
  (∀ (s : State) (v : Fin 32), Does (.lateClr v) s fun t =>
     t.rdv v 0x52C = (s.cy (viKey v 0x52C)).added ∧ t.rdv v 0x530 = 0 ∧ t.rdv v 0x534 = 0 ∧
     SameRegs [viKey v 0x52C, viKey v 0x530, viKey v 0x534] s t ∧ SameStores s t)

/-- Alarms arm with the target their registers hold, or, on an event with INTV, the event's stamp plus INTV, and are judged now or at
their arming moment; they disarm, and fire: FIRED is set, the producer asserts and the alarm is disarmed, or re-armed INTV later. A
firing due in the same cycle completes first (R39). While FCLK is stopped an always-on alarm fires at the keeper and its event is held. -/
def Obligations.AlarmsArmDisarmAndFire : Prop :=
  ∀ (s : State) (n : Fin 16),
    let a := actId 1 n
    let r := almR n
    let u := s.settleAlarm n
    let drop := u.bit (r + 8) 2
    let tgt := u.rd64 r (r + 4)
    let armed (x : Act) (t : State) : Prop := t.act a = x ∧ t.bit (r + 0xC) 0 = true ∧ SameStores s t
    (u.actReady a = true → 2048 ≤ lead tgt u.now → Does (.almArm n) s (armed { armed := true, target := tgt, drop := drop })) ∧
    (u.actReady a = false → Does (.almArm n) s (armed { armed := true, target := tgt, drop := drop, defer := true })) ∧
    Does (.almDisarm n) s (fun t => t.act a = {} ∧ t.bit (r + 0xC) 0 = false ∧ SameStores s t) ∧
    (∀ (e : Time) (pr : Bool),
      let at_ := if u.bit (r + 8) 6 then e + (u.rd (0x5C0 + 4 * n)).setWidth 64 else tgt
      (u.actReady a = true → 2048 ≤ lead at_ u.now → Does (.almRearmEvent n ⟨e, pr⟩) s
        (armed { armed := true, target := at_, drop := drop, prov := pr && u.bit (r + 8) 6 })) ∧
      (u.actReady a = false → Does (.almRearmEvent n ⟨e, pr⟩) s
        (armed { armed := true, target := at_, drop := drop, defer := true, prov := pr && u.bit (r + 8) 6 }))) ∧
    (s.Due a →
      (s.bit (r + 8) 3 = false → Does (.almFire n) s fun t => t.act a = {} ∧ t.bit (r + 0xC) 1 = true ∧
        t.bit (r + 0xC) 0 = false ∧ SameStores s t) ∧
      (s.bit (r + 8) 3 = true → 2048 ≤ lead ((s.act a).target + (s.rd (0x5C0 + 4 * n)).setWidth 64) s.now →
        Does (.almFire n) s fun t => t.bit (r + 0xC) 1 = true ∧
          t.act a = { armed := true, target := (s.act a).target + (s.rd (0x5C0 + 4 * n)).setWidth 64, drop := s.bit (r + 8) 2 }) ∧
      ((∀ e ∈ s.fab.heldP, ∀ m, e.1 = .alm m → m.val ≠ n.val) → s.aoAlarm a = false ∨ s.domOn 2 = true →
        (∀ x < 4, s.bit (synR x) 4 = false) → Does (.almFire n) s fun t =>
          t.fab.inflight = s.fab.inflight ++ [(0, s.srcOf (98 + n) s.now)])) ∧
    (∀ m : Fin 4, n.val = m.val → s.aoAlarm a = true → s.time.fclk = false → (s.act a).armed = true →
      (s.act a).defer = false → 0 ≤ lead s.time.keep (s.act a).target → Does (.almFireSleep m) s fun t =>
        t.bit (r + 0xC) 1 = true ∧ SameStores s t ∧ (s.bit (r + 8) 3 = false → t.act a = {} ∧ t.bit (r + 0xC) 0 = false) ∧
        ((∀ e ∈ s.fab.heldP, e.1 ≠ .alm m) → (∀ x < 4, s.bit (synR x) 4 = false) →
          t.fab.heldP = s.fab.heldP ++ [(.alm m, s.time.keep)]))

/-! ### Rennet and the event log (02) -/

/-- Held events are delivered: a producer's with the stamp it was held with, marked late; a consumer's leaves its bit
clear. A channel whose condition is met counts its event, latches it, and hands it to the consumer stage of the next cycle. A software fire of a channel the VI has enters
the resynchronisers with the VI's number; of one it lacks, nothing does. -/
def Obligations.EventsAreHeldCountedAndFired : Prop :=
  ((∀ (s : State) (h h' : HeldSrc) (e : Time), s.time.fclk = true → s.fab.heldP.find? (fun x => x.1 == h) = some (h', e) →
     Does (.heldProducerDeliver h) s fun t =>
       t.fab.heldP = s.fab.heldP.filter (fun x => x.1 != h) ∧
       t.fab.inflight = s.fab.inflight ++ [(0, { s.srcOf (heldNo h) e with late := true, prov := false })]) ∧
   (∀ (s : State) (c : Fin 192) (x : Src), Tab.find s.fab.heldC c = some x → s.conGated c = false → s.time.fclk = true →
     Does (.consumerHeldDeliver c) s fun t =>
       Tab.find t.fab.heldC c = none ∧ t.bit (0x860 + 4 * (c.val / 32)) (c.val % 32) = false ∧
       (s.time.mono, s.conCmd c x) ∈ t.agenda)) ∧
  (∀ (s : State) (ch : Fin 64) (a : Src) (l : List Src), s.chFires ch (a :: l) (s.srcsAt ch 3) = true →
     Tab.get (fun _ => 0) s.fab.quiet ch ≤ s.time.mono → Does (.channelEvent ch (a :: l)) s fun t =>
       t.rd (0xB00 + 4 * ch) = s.rd (0xB00 + 4 * ch) + 1 ∧ t.bit (0x814 + 4 * (ch.val / 32)) (ch.val % 32) = true ∧
       (∃ x n, t.fab.stage = s.fab.stage ++ [(ch.val, x, n)] ∧ x.stamp = (firstSrc a l).stamp ∧
         x.multi = (!l.isEmpty || (firstSrc a l).multi || a.multi)) ∧
       SameStores s t) ∧
  (∀ (s : State) (v : Fin 32) (ch : Fin 64), s.time.fclk = true →
     (∀ c, s.chPhys v ch = some c → Does (.fabFire v ch) s fun t => t.fab.inflight = s.fab.inflight ++
       [(0, { s.srcOf 256 s.now with swf := true, swvi := v, ch := Fin.ofNat 64 c })]) ∧
     (s.chPhys v ch = none → Does (.fabFire v ch) s fun t => t = s))

/-- A commit puts every staged change of the view's set, and no other, in force from the end of the cycle on, but for what a discard of
the same cycle keeps; a discard returns those shadows to the active values, which stand over a commit. Counts clear for what the view
owns. -/
def Obligations.FabricSetsCommitAndCountsClear : Prop :=
  (∀ s : State, (s.fab.next.map (·.1)).Nodup → ∀ k, s.applyNext.getKey k = s.cfgNext k) ∧
  (∀ (s : State) (v : Fin 32), (s.shadows.map (·.1)).Nodup →
     Does (.fabCommit v) s (fun t => SameRegs [] s t ∧ t.shadows = s.shadows ∧
       ∀ k, let m := s.fabSet v k &&& ~~~(Tab.get (fun _ => 0) s.fab.dropped k)
         t.cfgNext k = if fabShadow k ∧ (Tab.find s.shadows k).isSome then (s.cfgNext k &&& ~~~m) ||| (s.shadow k &&& m)
           else s.cfgNext k) ∧
     Does (.fabDiscard v) s (fun t => SameRegs [] s t ∧ ∀ k, fabShadow k = true →
       t.shadow k = (s.shadow k &&& ~~~s.fabSet v k) ||| (s.getKey k &&& s.fabSet v k) ∧
       ((Tab.find s.shadows k).isSome = true →
         t.cfgNext k = (s.cfgNext k &&& ~~~s.fabSet v k) ||| (s.getKey k &&& s.fabSet v k)))) ∧
  (∀ (s : State) (v : Fin 32), Does (.fabCntClr v) s fun t =>
     (∀ ch < 64, s.physView v = true ∨ s.chOwner ch = .vi v → t.rd (0xB00 + 4 * ch) = (s.cy (0xB00 + 4 * ch)).added) ∧
     (∀ ch < 64, s.physView v = false → s.chOwner ch ≠ .vi v → t.rd (0xB00 + 4 * ch) = s.rd (0xB00 + 4 * ch)) ∧
     (∀ c < 192, s.physView v = true ∨ s.conOwned v c = true → t.rd (conCnt c) = (s.cy (conCnt c)).added) ∧
     SameStores s t)

/-- The log: entries leave the merge stage in order, at most one in 256 TU; the spill ring takes the oldest entry;
clearing empties the log; a ring that is not valid ends spilling. -/
def Obligations.TheLogReleasesSpillsAndClears : Prop :=
  ∀ s : State,
    (∀ (a : LogEnt) (l : List LogEnt), s.logReady = a :: l → s.logCount < 4096 → Does .logRelease s fun t =>
      t.fab.merge = s.fab.merge.erase (firstEnt a l) ∧ t.logCount = s.logCount + 1 ∧
      t.fld 0x884 31 20 = (s.fld 0x884 31 20 + 1) % 4096 ∧
      t.bytes true (0x600000 + 16 * s.fld 0x884 31 20) 16 = logBytes (firstEnt a l)) ∧
    (s.bit 0x880 2 = true → 0 < s.logCount → 16 ≤ s.fld 0x890 12 8 → s.fld 0x890 12 8 ≤ 26 →
      (s.fld 0x894 25 0 % 2 ^ s.fld 0x890 12 8 + 1) % 2 ^ s.fld 0x890 12 8 ≠ s.fld 0x898 25 0 % 2 ^ s.fld 0x890 12 8 →
      Does .logSpillDrain s fun t => t.logCount = s.logCount - 1 ∧
        t.fld 0x894 25 0 = (s.fld 0x894 25 0 % 2 ^ s.fld 0x890 12 8 + 1) % 2 ^ s.fld 0x890 12 8) ∧
    Does .logClear s (fun t => t.fab.merge = [] ∧ t.logCount = 0 ∧ t.fld 0x898 25 0 = s.fld 0x894 25 0 ∧ SameStores s t) ∧
    (s.spillOk = true → Does .logSpillEnable s fun t => t.bit 0x880 2 = true) ∧
    (s.spillOk = false → Does .logSpillEnable s fun t => t.bit 0x880 2 = false ∧ t.bit 0x884 18 = true) ∧
    (∀ w : Word, Does (.logSpillCfgWrite w) s fun t => t.rd 0x890 = w &&& 0x1FFF ∧
      (t.bit 0x880 2 = true → t.rd 0x894 = 0 ∧ t.rd 0x898 = 0))

/-! ### Locks and Rind (03) -/

/-- A lock is set only while none of the block's shadows is pending; one with a shadow pending is refused and changes
nothing else. Rind: the walk's end keeps the region's CRC and disarms a region that mismatches, with its FAULT bit; opening a region
suspends it, and the end of a commit walk takes its CRC as the new reference and arms it. -/
def Obligations.LocksAndRindGuardTheConfiguration : Prop :=
  (∀ (s : State) (v : Fin 32) (b : LockBlk), s.mayLock v b = true →
     (s.pendingShadow (lockShadows b) = true → Does (.lockSet v b) s fun t =>
       t.bitv v 0x704 0 = true ∧ SameRegs [viKey v 0x704] s t ∧ SameStores s t) ∧
     (s.pendingShadow (lockShadows b) = false → ∀ o i : Nat, lockField b = some (o, i) → Does (.lockSet v b) s fun t =>
       t.bit o i = true ∧ SameRegs [devKey o] s t ∧ SameStores s t) ∧
     (b = .trg → Does (.lockSet v b) s fun t => SameRegs [] s t ∧
       ∀ n : Fin 8, (t.trg n).locked = ((s.trg n).locked || s.owns v .trg n))) ∧
  (∀ s : State,
     (∀ r : Fin 33, s.rindOn = true → s.walkEnds r false = true → Does (.rindRegionEnd r) s fun t =>
       (t.rg r).crc = s.walkCrc ∧ SameStores s t ∧
       let bad : Prop := (s.rg r).armed = true ∧ (s.rg r).opened = false ∧ (s.rg r).wait = false ∧ s.walkCrc ≠ (s.rg r).ref
       (bad → (t.rg r).armed = false ∧ (t.rg r).failed = true ∧
         t.bitv (regionVi r) 0x710 (if r.val < 32 then 1 else 0) = true) ∧
       (¬ bad → (t.rg r).armed = (s.rg r).armed ∧ SameRegs [devKey 0x724] s t)) ∧
     (∀ v : Fin 32, Does (.rindOpen v false) s fun t => (t.rg v).opened = true ∧ (t.rg v).wait = false ∧
       (∀ g, g ≠ v.val → t.rg g = s.rg g) ∧ SameRegs [] s t ∧ SameStores s t) ∧
     Does (.rindOpen 0 true) s (fun t => (t.rg 32).opened = true ∧ ∀ g, g ≠ 32 → t.rg g = s.rg g) ∧
     (∀ v : Fin 32, Does (.rindCommit v false) s fun t => (t.rg v).wait = true ∧ (t.rg v).opened = false ∧
       (∀ g, g ≠ v.val → t.rg g = s.rg g) ∧ SameRegs [] s t ∧ SameStores s t) ∧
     Does (.rindCommit 0 true) s (fun t => (t.rg 32).wait = true ∧ ∀ g, g ≠ 32 → t.rg g = s.rg g) ∧
     (∀ v : Fin 32, v ≠ 0 → Does (.rindOpen v true) s (· = s) ∧ Does (.rindCommit v true) s (· = s)) ∧
     (∀ r : Fin 33, (s.rg r).wait = true → s.walkEnds r true = true → Does (.rindCommitDone r) s fun t =>
       (t.rg r).hasRef = true ∧ (t.rg r).ref = s.walkCrc ∧ (t.rg r).armed = s.rindOn ∧ (t.rg r).wait = false ∧
       (t.rg r).failed = false ∧ SameRegs [devKey 0x418] s t ∧ SameStores s t))

/-! ### Modes and power domains (04) -/

/-- A mode request of 1 to 3 stands in MODE_REQ; one of 4 from another VI than VI0, and any other code, is refused with
its reason; while the supervisor restarts the command waits; from VI0 in SERVICE the request starts the exit. Timed mode
changes: armed with the target and the mode of the VI's registers, refused for a mode that is not 1 to 3, disarmed, and,
at the target, the VI's request becomes that mode. The effective mode follows what calls for it: a wake point primes its
action, 256 TU before its time a start calls for RUN, the end of the hold arranges the descent or the raise, and the mode
falls from RUN. -/
def Obligations.ModesAreRequestedAndScheduled : Prop :=
  (∀ (s : State) (v : Fin 32) (r : BitVec 3),
     (s.rst.coreBusy = true → Does (.modeReq v r) s fun t => t.rst.coreWait = s.rst.coreWait ++ [.modeReq v r] ∧
       SameRegs [] s t ∧ SameStores s t) ∧
     (s.rst.coreBusy = false → 1 ≤ r.toNat → r.toNat ≤ 3 → ¬(v = 0 ∧ s.inService = true) → Does (.modeReq v r) s fun t =>
       t.fldv v 0x400 2 0 = r.toNat ∧ SameStores s t) ∧
     (s.rst.coreBusy = false → r = 4 → v ≠ 0 → Does (.modeReq v r) s fun t =>
       t.bitv v 0x404 16 = true ∧ t.fldv v 0x40C 3 0 = 5 ∧ SameRegs [viKey v 0x404, viKey v 0x40C] s t) ∧
     (s.rst.coreBusy = false → r = 0 ∨ 4 < r.toNat → Does (.modeReq v r) s fun t =>
       t.bitv v 0x404 16 = true ∧ t.fldv v 0x40C 3 0 = 6 ∧ SameRegs [viKey v 0x404, viKey v 0x40C] s t) ∧
     (s.rst.coreBusy = false → 1 ≤ r.toNat → r.toNat ≤ 3 → s.inService = true → Does (.serviceExit r) s fun t =>
       t.mode.trans = .leaveService ∧ t.mode.eff = .service ∧ t.fldv 0 0x400 2 0 = r.toNat)) ∧
  (∀ (s : State) (v : Fin 32),
     let m := s.fldv v 0x43C 2 0
     let tgt := cat64 (s.rdv v 0x438) (s.rdv v 0x434)
     (m = 0 ∨ 3 < m → Does (.modeTmcArm v) s fun t => t.bitv v 0x404 16 = true ∧ t.fldv v 0x40C 3 0 = 6 ∧
       SameRegs [viKey v 0x404, viKey v 0x40C] s t) ∧
     (1 ≤ m → m ≤ 3 → s.actReady (actId 8 v) = true → 2048 ≤ lead tgt s.now → Does (.modeTmcArm v) s fun t =>
       t.act (actId 8 v) = { armed := true, target := tgt, drop := s.bitv v 0x43C 4, data := m } ∧ t.bitv v 0x440 0 = true) ∧
     Does (.modeTmcDisarm v) s (fun t => t.act (actId 8 v) = {} ∧ t.bitv v 0x440 0 = false) ∧
     (s.Due (actId 8 v) → Does (.modeTmcFire v) s fun t => t.act (actId 8 v) = {} ∧
       t.fldv v 0x400 2 0 = (s.act (actId 8 v)).data % 8 ∧ t.bitv v 0x440 1 = true)) ∧
  (∀ s : State,
     (∀ a : ActId, a.wf = true → s.primes (a.kind.val * 512 + a.inst.val) (s.act a) = true → (s.act a).primed = false →
       s.wakePoint (s.act a).target ≤ s.time.mono → Does (.primeWakePoint a) s fun t =>
         t.act a = { s.act a with primed := true } ∧
         (s.mode.eff = .listen → s.mode.trans = .none → s.rst.coreBusy = false → t.mode.trans = .waking)) ∧
     (∀ a : ActId, a.wf = true → (s.act a).armed = true → (s.act a).raised = false →
       a.kind.val = 3 ∨ a.kind.val = 5 ∨ a.kind.val = 6 → lead (s.act a).target s.now ≤ 256 →
       Does (.timedRunRaise a) s fun t => t.act a = { s.act a with raised := true }) ∧
     (s.rst.phase = 5 → s.rst.coreBusy = false → s.mode.trans = .none → s.mode.eff = .primed →
       (s.wantedMode = 1 → Does .holdExpiry s fun t => (s.time.mono, Instr.descentStart) ∈ t.agenda) ∧
       (s.wantedMode = 3 → s.mode.runAt ≤ s.time.mono → Does .holdExpiry s fun t => t.mode.eff = .run) ∧
       (s.wantedMode = 1 → s.mayDescend = true → Does .descentStart s fun t => t.mode.trans = .descent false ∧
         (s.time.nextKeep, Instr.listenReached) ∈ t.agenda ∧ SameRegs [] s t ∧ SameStores s t)) ∧
     (s.mode.eff = .run → s.mode.trans = .none → s.wantedMode < 3 → Does .runFall s fun t => t.mode.eff = .primed))

/-- SERVICE: refused in SAFE, with a block running, or with a timed start armed, with the reason of each; otherwise
entered within 1 µs, and left for the effective mode once the work that holds it is done. -/
def Obligations.ServiceIsEnteredAndLeft : Prop :=
  ∀ s : State,
    (s.rst.coreBusy = false →
      (s.mode.eff = .safe → Does .serviceRequest s fun t => t.bitv 0 0x404 16 = true ∧ t.fldv 0 0x40C 3 0 = 8 ∧
        SameRegs [viKey 0 0x404, viKey 0 0x40C] s t) ∧
      (s.mode.eff ≠ .safe → s.anyRunning = true → Does .serviceRequest s fun t => t.fldv 0 0x40C 3 0 = 1 ∧
        SameRegs [viKey 0 0x404, viKey 0 0x40C] s t) ∧
      (s.mode.eff ≠ .safe → s.anyRunning = false → s.timedPlayback = true → Does .serviceRequest s fun t =>
        t.fldv 0 0x40C 3 0 = 2 ∧ SameRegs [viKey 0 0x404, viKey 0 0x40C] s t) ∧
      (s.mode.eff = .primed ∨ s.mode.eff = .run → s.mode.trans = .none → s.anyRunning = false → s.timedPlayback = false →
        Does .serviceRequest s fun t => t.mode.trans = .toService ∧ t.fldv 0 0x400 2 0 = 4 ∧
          (s.time.mono + us 1, Instr.serviceReached) ∈ t.agenda ∧ SameRegs [viKey 0 0x400] s t)) ∧
    (s.mode.trans = .toService → Does .serviceReached s fun t => t.mode.trans = .none ∧ t.mode.eff = .service) ∧
    (s.mode.trans = .leaveService → s.serviceBusy = false → Does .serviceExitDone s fun t =>
      t.mode.trans = .none ∧ (t.mode.eff = .primed ∨ t.mode.eff = .run))

/-- SAFE: a SAFE command, or an enabled cause, halts every sequencer, drives SAFE_N low, and takes and counts the time; a
cause that is not enabled only fires its producer; the exit is refused while a cause stands. -/
def Obligations.SafeHaltsEverythingUntilItsCausesClear : Prop :=
  ∀ s : State,
    let entered (t : State) : Prop := t.mode.eff = .safe ∧ t.mode.safeN = false ∧ (∀ k < 16, t.seqOn k = false) ∧
      t.rd 0x41C = satAdd (s.rd 0x41C) 1 ∧ t.rd64 0x424 0x428 = s.now
    (s.rst.phase = 5 → s.mode.trans = .none → s.awake = true → s.mode.eff ≠ .safe →
      Does .safeEnter s entered ∧
      (s.bit 0x414 0 = true → Does .thermalWarning s fun t => entered t ∧ t.bit 0x418 0 = true ∧ t.bit 0x418 8 = true) ∧
      (s.bit 0x414 1 = true → Does .supplyFault s fun t => entered t ∧ t.bit 0x418 1 = true ∧ t.bit 0x418 9 = true)) ∧
    (s.rst.phase = 5 → s.awake = true → s.time.fclk = true →
      (s.bit 0x414 0 = false → Does .thermalWarning s fun t => SameRegs [] s t ∧ SameStores s t ∧ t.mode = s.mode ∧
        t.fab.inflight = s.fab.inflight ++ [(0, s.srcOf 171 s.now)]) ∧
      (s.bit 0x414 1 = false → Does .supplyFault s fun t => SameRegs [] s t ∧ SameStores s t ∧
        t.mode = { s.mode with supplyBad := true } ∧
        t.fab.inflight = s.fab.inflight ++ [(0, s.srcOf 172 s.now)])) ∧
    (∀ c : Fin 5, Does (.safeCauseCleared c) s fun t => t.bit 0x418 c = false ∧ SameRegs [devKey 0x418] s t ∧
      SameStores s t) ∧
    (s.rst.coreBusy = true → Does .safeExit s fun t => t.rst.coreWait = s.rst.coreWait ++ [.safeExit] ∧ t.mode = s.mode ∧
      SameRegs [] s t ∧ SameStores s t) ∧
    (s.rst.coreBusy = false → s.mode.eff = .safe →
      (s.fld 0x418 4 0 = 0 → Does .safeExit s fun t => t.mode.safeN = true ∧ (t.mode.eff = .primed ∨ t.mode.eff = .run)) ∧
      (s.fld 0x418 4 0 ≠ 0 → Does .safeExit s fun t => t.mode = s.mode ∧ t.bitv 0 0x404 17 = true ∧
        t.fldv 0 0x40C 3 0 = 4 ∧ SameRegs [viKey 0 0x404, viKey 0 0x40C] s t))

/-- In LISTEN a source that may wake the device starts the wake, and WAKE_SRC names it; a host access is held and wakes,
or, with WAKE_CFG.HOST clear, is refused and answers 0. Sleep: LISTEN is reached with FCLK stopped and the fabric empty,
SHELF with the memory's contents lost; SHELF is left with every granule to be loaded, and PRIMED reached with the held
accesses released. The SHELF command starts the descent, or is refused with its reason. -/
def Obligations.TheDeviceSleepsAndWakes : Prop :=
  (∀ s : State, s.mode.eff = .listen → s.mode.trans = .none → s.rst.coreBusy = false →
     (∀ w : WakeSrc, s.wakeAllowed w = true → Does (.wake w) s fun t => t.mode.trans = .waking ∧
       t.rd 0x430 = wakeSrcWord [w]) ∧
     (s.dom 24 = 6 → s.bit 0x42C 9 = true → Does .kl0Activity s fun t => t.mode.trans = .waking ∧
       t.rd 0x430 = wakeSrcWord [.kl0]) ∧
     (∀ a : HostAcc, s.bit 0x42C 10 = true → Does (.hostAccessWake a) s fun t => t.mode.trans = .waking ∧
       t.mode.heldAcc = s.mode.heldAcc ++ [a] ∧ t.rd 0x430 = wakeSrcWord [.host]) ∧
     (∀ a : HostAcc, s.bit 0x42C 10 = false → a.write = false → Does (.hostAccessWake a) s fun t => t.mode = s.mode ∧
       t.rdata = some (0, true) ∧ t.bitv a.vi 0x10C 3 = true) ∧
     (∀ a : HostAcc, s.bit 0x42C 10 = false → a.write = true → Does (.hostAccessWake a) s fun t => t.mode = s.mode ∧
       t.bitv a.vi 0x10C 3 = true ∧ s.Faulted t a.vi)) ∧
  (∀ s : State,
     (∀ sh : Bool, s.mode.trans = .descent sh → Does .listenReached s fun t => t.mode.eff = .listen ∧ t.time.fclk = false ∧
       t.fab.inflight = [] ∧ (sh = true → t.mode.trans = .toShelf) ∧ SameStores s t) ∧
     (s.mode.trans = .toShelf → Does .shelfReached s fun t => t.mode.eff = .shelf ∧ t.mem.vat = [] ∧ t.mem.mem = [] ∧
       ∀ a, t.nvmB a = s.nvmB a) ∧
     (s.mode.trans = .shelfExit →
       Does .shelfExit s (fun t => t.mem.training = false ∧ t.mem.notLoaded = BitVec.allOnes 128 ∧ t.mem.dir = [] ∧
         t.bit 0x1800 0 = true ∧
         (s.time.mono, if s.bit 0x410 24 then Instr.shelfReload else Instr.primedReached) ∈ t.agenda ∧ SameStores s t) ∧
       Does .shelfReload s (fun t =>
         (s.time.mono + 64 * (s.rst.segs.map Rec.segLen).sum, Instr.primedReached) ∈ t.agenda ∧
         ∀ a, t.vatB a = (s.each s.rst.segs fun s r => s.segCopy s.rst.base r).vatB a ∧
           t.memB a = (s.each s.rst.segs fun s r => s.segCopy s.rst.base r).memB a)) ∧
     (s.mode.trans = .waking ∨ s.mode.trans = .shelfExit → s.synBit 0 0 = true → s.time.fclk = true →
       s.mem.training = false → s.wakeDone = true → Does .primedReached s fun t => t.mode.heldAcc = [] ∧ SameStores s t ∧
         ((∀ c ∈ s.safeConds, s.bit 0x414 c = false ∨ s.bit 0x418 c = true) → s.latchedOn = false →
           (s.mode.svc = false → t.mode.trans = .none ∧ (t.mode.eff = .primed ∨ t.mode.eff = .run)) ∧
           (s.mode.svc = true → t.mode.trans = .toService ∧ t.mode.eff = .primed ∧
             (s.time.mono + us 1, Instr.serviceReached) ∈ t.agenda)) ∧
         (s.latchedOn = true → t.mode.trans = .none ∧ t.mode.eff = .safe)) ∧
     (s.rst.coreBusy = false →
       (s.shelfWhy = none → s.mode.eff = .primed → s.mode.trans = .none → Does .shelf s fun t =>
         t.mode.trans = .descent true) ∧
       (s.shelfWhy = none → s.mode.eff = .listen → s.mode.trans = .none → Does .shelf s fun t =>
         t.mode.trans = .toShelf ∧ (s.time.mono + us 100, Instr.shelfReached) ∈ t.agenda) ∧
       (∀ w, s.shelfWhy = some w → Does .shelf s fun t => t.mode = s.mode ∧ t.bitv 0 0x404 16 = true ∧
         t.fldv 0 0x40C 3 0 = w)))

/-- A power domain that stays unwanted drains, is isolated for 8 cycles and is then off, unless it is wanted again; one
that powers up is on. -/
def Obligations.DomainsGateAndPowerUp : Prop :=
  ∀ (s : State) (d : Fin 29),
    (s.dom d = 2 → 0 < s.unwanted d → s.unwanted d ≤ s.time.mono + 1 → s.wants d = false →
      Does (.domainGateStart d) s fun t => t.dom d = 3 ∧
        (s.time.mono + (32 + us 2), Instr.domainDrainEnd d) ∈ t.agenda ∧ SameStores s t) ∧
    (s.dom d = 3 ∨ s.dom d = 4 → Does (.domainDrainEnd d) s fun t => t.dom d = 5 ∧
      (s.time.mono + 256, Instr.domainIsolatedCheck d) ∈ t.agenda ∧ SameRegs [] s t ∧ SameStores s t) ∧
    (s.dom d = 5 → Does (.domainIsolatedCheck d) s fun t => t.dom d = (if s.wants d then 2 else 0) ∧ SameStores s t) ∧
    (s.dom d = 1 → Does (.domainPowerUpDone d) s fun t => t.dom d = 2 ∧ SameStores s t)

/-! ### Resets and the Starter (05) -/

/-- Each source of a device reset asks for its level, with nothing else under way, and the request holds the keeper's time
and when it takes effect. The holds of a reset end, P0 samples the straps and goes on to P1 or P2, and P1 ends with the
time of record at 0, whether or not XO32 has qualified. -/
def Obligations.ResetSourcesAskForTheirLevel : Prop :=
  (∀ s : State, s.rst.req = none → s.resetLevel = none →
     let asked (src level : Nat) (t : State) : Prop := ∃ r, t.rst.req = some r ∧ r.src = src ∧
       r.level = s.levelFor level ∧ r.time = s.time.keep ∧ r.at_ = s.time.mono ∧
       r.due = s.time.mono + (if atOnce src (s.levelFor level) then 0 else us 2)
     Does .vinBrownout s (fun t => asked 2 1 t ∧ t.rst.holdVin = true) ∧
     Does (.resetN true) s (fun t => asked 3 (if s.bit 0x490 0 then 2 else 1) t ∧ t.rst.holdLow = true) ∧
     ((s.rst.lastWdt.any fun w => decide (s.time.keep.toNat - w ≤ 25600000000)) = false →
       Does .watchdogExpiry s fun t => asked 4 3 t ∧ t.fld 0x498 15 0 = min (s.fld 0x498 15 0 + 1) 65535) ∧
     ((s.rst.lastWdt.any fun w => decide (s.time.keep.toNat - w ≤ 25600000000)) = true →
       Does .watchdogExpiry s fun t => asked 5 1 t) ∧
     (∀ l : BitVec 2, l ≠ 3 → Does (.rstReq l) s fun t => asked 6 (if l = 0 then 3 else l.toNat) t) ∧
     Does (.rstReq 3) s (fun t => t.rst.req = none ∧ t.bitv 0 0x404 16 = true ∧ t.fldv 0 0x40C 3 0 = 6) ∧
     Does .perst s (asked 7 (if s.bit 0x490 1 then 1 else 2)) ∧
     Does .thermalShutdown s (fun t => asked 9 1 t ∧ t.rst.holdHot = true) ∧
     Does .dbgReset s (asked 11 1) ∧ Does .boundaryTestExit s (asked 11 1)) ∧
  (∀ s : State,
     Does (.resetN false) s (fun t => t.rst.holdLow = false ∧ SameRegs [] s t ∧ SameStores s t) ∧
     Does .thermalRelease s (fun t => t.rst.holdHot = false ∧ SameRegs [] s t ∧ SameStores s t) ∧
     (∀ st : BitVec 3, s.rst.phase = 0 → s.rst.req = none → s.rst.holdLow = false → s.rst.holdHot = false →
       Does (.p0Release st) s fun t => t.fld 0x494 2 0 = st.toNat ∧ t.fld 0x3C10 1 0 = (if tb st 2 then 2 else 1) ∧
         t.rst.phase = (if s.fld 0x480 11 8 = 0 then 1 else 2) ∧ t.rst.holdVin = false ∧ SameStores s t) ∧
     (s.rst.phase = 1 →
       Does .xo32Qualified s (fun t => t.rst.phase = 2 ∧ t.time.keep = 0 ∧ t.time.fast = 0 ∧ t.bit 0x494 3 = false) ∧
       Does .xo32Fail s (fun t => t.rst.phase = 2 ∧ t.time.keep = 0 ∧ t.time.fast = 0 ∧ t.bit 0x494 3 = true)) ∧
     (s.bit 0x494 3 = true → Does .xo32LateQualify s fun t => t.time.xoPending = true ∧ SameRegs [] s t))

/-- A power-on reset clears every register; a request that takes effect as a system or warm reset returns the device to P0
in SHELF with the cause recorded, as a core reset halts every sequencer, and the restart of the supervisor releases what
waited. -/
def Obligations.ResetsTakeEffect : Prop :=
  ∀ s : State,
    (s.resetLevel ≠ some 0 → Does .por s fun t => (∀ k, t.getKey k = regReset k) ∧ t.rst = {} ∧ t.mode = {} ∧
      t.seqs = [] ∧ t.acts = [] ∧ t.time.fclk = false ∧ t.now = 0) ∧
    (∀ r : ResetReq, s.rst.req = some r → r.due ≤ s.time.mono → r.src < 256 →
      (r.level < 3 → Does .resetTakeEffect s fun t => t.rst.phase = 0 ∧ t.rst.req = none ∧ t.mode.eff = .shelf ∧
        t.acts = [] ∧ t.seqs = [] ∧ t.fld 0x480 7 0 = r.src ∧ t.fld 0x480 11 8 = r.level ∧ t.rd64 0x484 0x488 = r.time) ∧
      (r.level = 3 → Does .resetTakeEffect s fun t => t.rst.req = none ∧ t.rst.coreBusy = true ∧
        (s.time.mono + us 40, Instr.coreResetDone) ∈ t.agenda ∧ t.fld 0x480 7 0 = r.src ∧ t.fld 0x480 11 8 = 3 ∧
        ∀ k < 16, t.seqOn k = false ∧ t.fld (seqR k + 8) 27 24 = 7)) ∧
    (s.rst.coreBusy = true → Does .coreResetDone s fun t => t.rst.coreBusy = false ∧ t.rst.coreWait = [] ∧
      ∀ c ∈ s.rst.coreWait, (s.time.mono, c) ∈ t.agenda)

/-- P3 begins: BOARD_ID is sampled, and without a readable flash, or after too many restarts, the start-up is bare.
Records that steer: WAIT holds the records until its time or what it waits for, COND skips where its word does not match,
MODE sets the mode to start in, and END ends the records. The end of start-up: training makes the memory usable, the lock
wait ends P3, P4 commits every region over the values in force, and P5 enters the image's mode, or SAFE for a latched
cause. -/
def Obligations.TheStarterBeginsSteersAndEnds : Prop :=
  (∀ (s : State) (pins : BitVec 8) (vcc : Bool) (i : Option NvmInfo), s.rst.phase = 2 →
     Does (.starter pins vcc i) s fun t => t.rst.phase = 3 ∧ t.fld 0x494 15 8 = (if vcc then pins.toNat else 0) ∧
       t.bit 0x494 16 = vcc ∧ (s.rst.bare = true ∨ i = none → t.rst.slot = 3 ∧ t.bit 0x4A0 2 = true)) ∧
  (∀ (s : State) (r : Rec),
     (s.record 7 = some r → Does .wait s fun t => t.rst.waiting = some r ∧
       (s.time.mono + us (payNat r.pay 4 4), Instr.waitDone) ∈ t.agenda ∧ SameStores s t) ∧
     (s.rst.waiting = some r →
       (s.waitMet r = true → Does .waitDone s fun t => t.rst.waiting = none ∧ s.rst.idx < t.rst.idx ∧ SameRegs [] s t) ∧
       (s.waitMet r = false → s.rst.waitEnd ≤ s.time.mono → Does .waitDone s fun t =>
         if s.rst.slot = 0 then t.rst.failedA = true else t.rst.failedB = true)) ∧
     (s.record 8 = some r → Does .cond s fun t => SameRegs [] s t ∧ SameStores s t ∧
       let hit := s.condWord &&& BitVec.ofNat 32 (payNat r.pay 0 4) == BitVec.ofNat 32 (payNat r.pay 4 4)
       t.rst.idx = s.rst.idx + 1 +
         (passOver s.rst.warmKept (s.rst.recs.drop (s.rst.idx + 1)) (if hit then 0 else payNat r.pay 8 2)).1) ∧
     (s.record 9 = some r → Does .modeRecord s fun t => t.rst.startMode = payNat r.pay 0 1 ∧ s.rst.idx < t.rst.idx ∧
       SameRegs [] s t ∧ SameStores s t) ∧
     (s.record 15 = some r → Does .endRecord s fun t => t.rst.ended = true ∧ SameStores s t)) ∧
  (∀ s : State,
     (s.mem.training = true → Does .memoryTrainingDone s fun t => t.mem.training = false ∧ t.bit 0x1800 0 = true ∧
       SameStores s t) ∧
     (s.rst.phase = 3 → s.rst.lockWait = true → s.synsLocked = true ∨ s.rst.waitEnd ≤ s.time.mono →
       Does .starterLockWaitEnd s fun t => t.rst.ready = true ∧ (s.time.mono, Instr.p4) ∈ t.agenda ∧
         (s.synsLocked = false → t.bit 0x4A0 6 = true) ∧ SameRegs [devKey 0x4A0] s t) ∧
     (s.rst.phase = 3 → s.rst.ready = true → Does .p4 s fun t => t.rst.phase = 4 ∧
       (s.time.mono + us 10, Instr.p5) ∈ t.agenda ∧
       (∀ e ∈ t.shadows, ∃ x < 4, synShadow x e.1 = true ∧ synSrcOk x (bf (s.shadow (synR x + 4)) 2 0) = false) ∧
       ∀ g < 33, (t.rg g).hasRef = true ∧ (t.rg g).armed = t.rindOn ∧ (t.rg g).ref = t.regionCrc g) ∧
     (s.rst.phase = 4 → Does .p5 s fun t => t.rst.phase = 5 ∧
       (s.latchedOn = false → t.mode.safeN = true ∧ (t.mode.eff = .primed ∨ t.mode.eff = .run)) ∧
       (s.latchedOn = true → t.mode.safeN = false ∧ t.mode.eff = .safe)))

/-- Records that write: REG_WRITE and REG_FILL make their writes and the next record follows, one refused gives the slot
up; BIND sets its field; PARTITION applies its table at once; CAL_SET passes or is rejected without failing the slot.
SEG_LOAD: the record's copy is taken up, and when it ends the data stand at their destination; data that fail their check
give the slot up. -/
def Obligations.RecordsWriteAndSegmentsLoad : Prop :=
  (∀ (s : State) (r : Rec),
     let up (x t : State) : Prop := if x.rst.slot = 0 then t.rst.failedA = true else t.rst.failedB = true
     (s.record 1 = some r →
       ((s.starterWrites r.pairs).2 = true → Does .regWrite s fun t =>
         t.regs = (s.starterWrites r.pairs).1.regs ∧ (s.starterWrites r.pairs).1.rst.idx < t.rst.idx) ∧
       ((s.starterWrites r.pairs).2 = false → Does .regWrite s (up (s.starterWrites r.pairs).1))) ∧
     (s.record 2 = some r →
       ((s.starterWrites r.fills).2 = true → Does .regFill s fun t =>
         t.regs = (s.starterWrites r.fills).1.regs ∧ (s.starterWrites r.fills).1.rst.idx < t.rst.idx) ∧
       ((s.starterWrites r.fills).2 = false → Does .regFill s (up (s.starterWrites r.fills).1))) ∧
     (s.record 6 = some r → payNat r.pay 0 1 < 32 → payNat r.pay 1 1 < 4 →
       s.bindOk (payNat r.pay 0 1 / 16) (payNat r.pay 0 1 % 16) (payNat r.pay 1 1) = true → s.bit 0x3C00 16 = false →
       Does .bind s fun t => t.bindOf (payNat r.pay 0 1) = payNat r.pay 1 1 ∧ s.rst.idx < t.rst.idx) ∧
     (s.record 4 = some r → (∀ x ∈ r.pairs, addrOff x.1 ≠ 0x3C00 ∧ addrOff x.1 ≠ 0x3C04) →
       let x := s.starterWrites r.pairs
       x.2 = true → x.1.partWhy = none → (x.1.shadows.map (·.1)).Nodup → Does .partition s fun t =>
         t.bit 0x3C08 0 = true ∧ ∀ k, partShadow k = true → k ≠ 0x3D18 → t.getKey k = x.1.shadow k) ∧
     (s.record 5 = some r → Does .calSet s fun t => s.rst.idx < t.rst.idx ∧ t.rst.slot = s.rst.slot ∧
       t.rst.failedA = s.rst.failedA ∧ t.rst.failedB = s.rst.failedB)) ∧
  (∀ (s : State) (r : Rec),
     (s.record 3 = some r → Does .segLoad s fun t => r ∈ t.rst.segs ∧ s.rst.idx < t.rst.idx ∧ SameRegs [] s t ∧
       SameStores s t) ∧
     (s.rst.segCur = some r → crc32c (s.segData s.rst.base r) = payNat r.pay 16 4 → Does .segLoadDone s fun t =>
       ∀ i < r.segLen,
         (if r.segMem then t.memB (payNat r.pay 8 4 + i) else t.vatB (payNat r.pay 8 4 + i)) =
           s.nvmB (s.rst.base + payNat r.pay 0 4 + i)) ∧
     (s.rst.segCur = some r → crc32c (s.segData s.rst.base r) ≠ payNat r.pay 16 4 → Does .segLoadDone s fun t =>
       if s.rst.slot = 0 then t.rst.failedA = true else t.rst.failedB = true))

/-! ### Synthesizers (06) -/

/-- SYN_UPDATE and the divider: nothing without a pending change, a refusal for a reference the synthesizer does not
accept or SYN-A outside SERVICE, otherwise the staged divider and reference, an offset of 0 and, enabled, a new
acquisition; SYN-A returns to the old ones when it has not locked in 10 ms. EN starts and stops the loop. A glide more
than 2,000,000 ppb away, of a muted output or of SYN-A is refused and changes nothing else; otherwise it sets the target,
and GLIDING until the offset reaches it. -/
def Obligations.SynthesizersTakeSettingsAndGlide : Prop :=
  (∀ (s : State) (x : Fin 4),
     let ref := (s.staged (synR x + 4)).getD (s.rd (synR x + 4))
     let div := (s.staged (synR x + 8)).getD (s.rd (synR x + 8))
     (s.pendingStaged (synShadow x) = false → Does (.synUpdate x) s fun t => t = s) ∧
     (s.pendingStaged (synShadow x) = true →
       (synSrcOk x (bf ref 2 0) = false ∨ (x = 0 ∧ s.mode.eff ≠ .service) →
         Does (.synUpdate x) s fun t => t.synBit x 10 = true ∧ SameRegs [devKey (synSt x)] s t ∧ t.shadows = s.shadows) ∧
       (synSrcOk x (bf ref 2 0) = true → (x = 0 → s.mode.eff = .service ∧ s.mode.trans ≠ .leaveService) →
         Does (.synUpdate x) s fun t =>
           t.rd (synR x + 4) = ref ∧ t.rd (synR x + 8) = div ∧
           t.rd (synR x + 0x10) = 0 ∧ t.pendingStaged (synShadow x) = false ∧ SameStores s t ∧
           (s.bit (synR x) 0 = true → t.synBit x 0 = false ∧ (t.sy x).acquiring = true))) ∧
     ((s.sy 0).relock = true → (s.sy 0).restoring = false → s.synBit 0 0 = false →
       (s.sy 0).applyAt + ms 10 ≤ s.time.mono → Does .synApplyTimeout s fun t =>
         t.rd 0x1A04 = (s.sy 0).oldRef ∧ t.rd 0x1A08 = (s.sy 0).oldDiv ∧ t.synBit 0 10 = true ∧ (t.sy 0).acquiring = true) ∧
     (x ≠ 0 →
       (s.bit (synR x) 0 = false → Does (.synEn x true) s fun t => t.bit (synR x) 0 = true ∧ (t.sy x).running = true ∧
         (t.sy x).acquiring = true ∧ SameStores s t) ∧
       (s.bit (synR x) 0 = true → Does (.synEn x false) s fun t => t.bit (synR x) 0 = false ∧ (t.sy x).running = false ∧
         t.synBit x 0 = false ∧ t.synBit x 1 = true ∧ SameStores s t)) ∧
     (s.bit 0x1B08 0 = true → Does .hfxoReady s fun t => t.bit 0x1B08 16 = true ∧ SameRegs [devKey 0x1B08] s t)) ∧
  (∀ (s : State) (x : Fin 4) (ofs : BitVec 24),
     (2000000 < (ofs.toInt - s.effOfs x).natAbs ∨ s.synBit x 1 = true ∨ x = 0 → Does (.synGlide x ofs) s fun t =>
       t.synBit x 11 = true ∧ SameRegs [devKey (synSt x)] s t ∧ SameStores s t) ∧
     ((ofs.toInt - s.effOfs x).natAbs ≤ 2000000 → s.synBit x 1 = false → x ≠ 0 → Does (.synGlide x ofs) s fun t =>
       t.fld (synR x + 0x10) 23 0 = ofs.toNat ∧ t.synBit x 2 = decide (ofs.toInt ≠ s.effOfs x) ∧
       SameRegs [devKey (synR x + 0x10), devKey (synSt x)] s t ∧ SameStores s t) ∧
     (s.synBit x 2 = true → s.effOfs x = sext 24 (s.fld (synR x + 0x10) 23 0) → Does (.glideDone x) s fun t =>
       t.synBit x 2 = false ∧ SameRegs [devKey (synSt x)] s t ∧ SameStores s t))

/-- Lock: the windows of an acquisition declare it and unmute the output, a window beyond its limits or a lost reference
takes it away, a wake locks by one window, and a slow wake falls back to the cold acquisition. -/
def Obligations.LockIsDeclaredAndLost : Prop :=
  ∀ (s : State) (x : Fin 4), (s.sy x).running = true →
    (∀ n : Nat, (s.sy x).acquiring = true →
      (s.within x n (s.lockTol x) = true → s.fld (synR x + 0xC) 11 8 ≤ (s.sy x).windows + 1 →
        Does (.synLockWindow x n true) s fun t => t.synBit x 0 = true ∧ t.synBit x 1 = false ∧ (t.sy x).acquiring = false ∧
          (x = 0 → t.time.fclk = true)) ∧
      Does (.synLockWindow x n false) s (fun t => t.synBit x 12 = true ∧ (t.sy x).acquiring = false ∧
        SameRegs [devKey (synSt x)] s t) ∧
      (s.within x n (s.lockTol x) = false → Does (.synLockWindow x n true) s fun t => (t.sy x).windows = 0 ∧
        (t.sy x).acquiring = true ∧ SameRegs [devKey (synSt x)] s t)) ∧
    (∀ (n : Nat) (b : Bool), (s.sy x).acquiring = false → s.synBit x 0 = true → s.synBit x 4 = false →
      let lim := max (s.fld (synR x + 0xC) 31 24) (s.lockTol x)
      (s.within x n lim = true → Does (.synLockWindow x n b) s fun t => t.synBit x 0 = true ∧
        SameRegs [devKey (synSt x)] s t) ∧
      (s.within x n lim = false → Does (.synLockWindow x n b) s fun t => t.synBit x 0 = false ∧ t.synBit x 8 = true ∧
        t.fld (synR x + 0x20) 15 0 = min (s.fld (synR x + 0x20) 15 0 + 1) 65535 ∧ (x ≠ 0 → t.synBit x 1 = true))) ∧
    Does (.refLoss x) s (fun t => t.synBit x 9 = true ∧ t.synBit x 0 = false) ∧
    (∀ e : Int, (s.sy x).acquiring = true → (s.sy x).retained = true →
      (s.coreOk x = true → e.natAbs ≤ s.lockTol x → Does (.wakeWindow x e) s fun t => t.synBit x 0 = true ∧
        t.synBit x 4 = true ∧ t.synBit x 1 = false) ∧
      (s.coreOk x = false → Does (.wakeWindow x e) s fun t => t.synBit x 12 = true ∧ (t.sy x).acquiring = false ∧
        SameRegs [devKey (synSt x)] s t)) ∧
    (s.mode.trans = .waking ∨ s.mode.trans = .shelfExit → s.synBit 0 0 = false → (s.sy 0).ranged = false →
      Does .wakeSlow s fun t => t.synBit 0 13 = true ∧
      (t.sy 0).acquiring = true ∧ (t.sy 0).retained = false ∧
      t.fab.inflight = s.fab.inflight ++ [(0, s.srcOf 175 s.now)])

/-! ### Segment memory (07) -/

/-- Load engines: a copy that breaks a rule ends at once with its reason and no byte moved; one that passes runs, and ends with every
byte copied, with an error and its reason, or, stopped, after the block in flight: without a block where the stop came in the cycle of
the start (the model's reading, log entry 21). The directory: a validation runs at 2 cycles an entry and leaves none of its entries
UNCHECKED; a precheck scans, and its end reports a good programme's demand or DESC. BAR2 in P5, for a function that is enabled and
behind nothing held: a read returns the bytes of the VI's space, poisoned where a word of them is uncorrectable, a write to existing
addresses stores its bytes there and nowhere else; a scrub pass counts what it corrected and what it could not, and leaves no single-bit
error in the Vat. -/
def Obligations.EnginesScansAndTheApertureReachTheStores : Prop :=
  (∀ (s : State) (e : Fin 4),
     ((s.lde e).busy = false → (s.lde e).stopAt ≠ some s.time.mono → s.ldeCheck e ≠ 0 → Does (.ldeStart e) s fun t => t.bit (ldeR e + 0x18) 2 = true ∧
       t.fld (ldeR e + 0x18) 11 8 = s.ldeCheck e ∧ (t.lde e).busy = false ∧ SameStores s t) ∧
     ((s.lde e).busy = false → (s.lde e).stopAt ≠ some s.time.mono → s.ldeCheck e = 0 → Does (.ldeStart e) s fun t =>
       t.bit (ldeR e + 0x18) 0 = true ∧ t.rd (ldeR e + 0x1C) = 0 ∧ (t.lde e).busy = true ∧ (t.lde e).src = s.rd64 (ldeR e) (ldeR e + 4) ∧
       (t.lde e).dst = s.rd64 (ldeR e + 8) (ldeR e + 12) ∧ (t.lde e).len = (s.rd (ldeR e + 16)).toNat ∧
       SameRegs [devKey (ldeR e + 0x18), devKey (ldeR e + 0x1C)] s t ∧ SameStores s t) ∧
     ((s.lde e).busy = true →
       let stopped (t : State) : Prop := (t.lde e).busy = false ∧ t.bit (ldeR e + 0x18) 3 = true ∧ t.bit (ldeR e + 0x18) 0 = false
       let started : Prop := (s.lde e).next = s.time.mono + (s.lde e).blockTu ∧ (s.lde e).done = 0
       ((s.lde e).local_ = true → started → Does (.ldeStop e) s fun t => stopped t ∧ t.rd (ldeR e + 0x1C) = 0 ∧ SameStores s t) ∧
       ((s.lde e).local_ = true → ¬started → Does (.ldeStop e) s fun t =>
         t.lde e = { s.lde e with stop := true, stopAt := some s.time.mono } ∧ SameRegs [] s t ∧ SameStores s t) ∧
       ((s.lde e).local_ = false → 32 ≤ (s.lde e).len → Does (.ldeStop e) s fun t => stopped t ∧
         ∃ n, 1 ≤ n ∧ n ≤ (s.lde e).len / 32 ∧ t.rd (ldeR e + 0x1C) = BitVec.ofNat 32 (32 * n))) ∧
     (∀ host : List Byte, (s.lde e).busy = true → (s.lde e).suspended = false → (s.lde e).nvmQ = [] →
       (s.ldeNoBus e = false → Does (.ldeDone e (.ok host)) s fun t => (t.lde e).busy = false ∧ t.bit (ldeR e + 0x18) 1 = true ∧
         t.rd (ldeR e + 0x1C) = BitVec.ofNat 32 (s.lde e).len ∧
         SameStores (s.ldeCopy e (s.lde e).done ((s.lde e).len - (s.lde e).done) host) t) ∧
       (∀ (r : Fin 16) (n : Nat), Does (.ldeDone e (.err r n)) s fun t => (t.lde e).busy = false ∧ t.bit (ldeR e + 0x18) 2 = true ∧
         t.fld (ldeR e + 0x18) 11 8 = r))) ∧
  (∀ s : State,
     (∀ (v : Fin 32) (n : BitVec 17), 1 ≤ n.toNat → n.toNat ≤ 65536 → s.bitv v 0x1888 0 = false →
       Does (.dirValGo v n) s fun t => t.bitv v 0x1888 0 = true ∧
         (s.time.mono + 64 * n.toNat, Instr.dirValDone v) ∈ t.agenda ∧ SameRegs [viKey v 0x1888] s t ∧ SameStores s t) ∧
     (∀ (v : Fin 32) (f n : Nat), Tab.get (fun _ => none) s.mem.dirVal v = some (f, n) → Does (.dirValDone v) s fun t =>
       t.bitv v 0x1888 0 = false ∧ (∀ i < n, ∀ p, s.dirEntry v (f + i) = some p → t.dirState p ≠ 0) ∧ SameStores s t) ∧
     (∀ k : Fin 16, s.scanOf k = .idle → Does (.precheck k) s fun t => t.scanOf k = .precheck ∧
       t.bitv (s.ownerVi .seq k) 0x182C 0 = true ∧ (s.time.mono + s.scanTu k, Instr.admitScanDone k) ∈ t.agenda ∧
       SameRegs [viKey (s.ownerVi .seq k) 0x182C] s t ∧ SameStores s t) ∧
     (∀ k : Fin 16, s.scanOf k = .precheck → Does (.admitScanDone k) s fun t => t.scanOf k = .idle ∧ SameStores s t ∧
       ((s.scan k).2.1 = true → t.bit (0x1840 + 4 * k) 16 = true ∧ t.fld (0x1840 + 4 * k) 15 0 = (s.scan k).2.2.1 % 65536) ∧
       ((s.scan k).2.1 = false → t.bitv (s.ownerVi .seq k) 0x182C 2 = true))) ∧
  (∀ s : State,
     (∀ (v : Fin 32), s.starting = false → s.awake = true → s.time.fclk = true → s.pcieBad v 1 = false →
       (∀ a ∈ s.mem.heldAper, a.vi ≠ v) →
       (∀ ofs len : Nat, Does (.apertureRead v ofs len {}) s fun t =>
         t.burst = s.loadVi v (s.aper v ofs).1 (s.aper v ofs).2 len ∧
         t.rdata = some (BitVec.ofNat 32 (leNat (t.burst.take 4)), (s.firstBad v (s.aper v ofs).1 (s.aper v ofs).2 len).isSome) ∧
         t.host.status = 0 ∧ SameRegs ([0x1808, 0x180C, 0x1810].map devKey) s t ∧ SameStores s t) ∧
       (∀ (ofs : Nat) (b : List Byte),
         let mem := (s.aper v ofs).1
         let a := (s.aper v ofs).2
         (mem = false → s.scanHolds v a b.length = false) →
         (∀ i < b.length, s.inView v mem (a + i) = true ∧
           (mem = true ∨ ∀ p, s.vatAddr v (a + i) = some p → p < 0x600000 ∨ 0x610000 ≤ p)) →
         (∀ w ∈ partWords a b.length, s.firstBad v mem w 8 = none) →
         Does (.apertureWrite v ofs b {}) s fun t => SameStores (s.storeVi v mem a b) t ∧ t.host.status = 0)) ∧
     (∀ (l u : List Nat), s.awake = true →
       let w := s.spoils true { single := l, multi := u }
       Does (.vatScrub l u) s fun t =>
         (∀ a ∈ u, 2 ≤ Tab.get (fun _ => 0) t.mem.errs (errKey true a)) ∧
         (∀ a, Tab.get (fun _ => 0) t.mem.errs (errKey true a) ≠ 1) ∧
         t.rd 0x1808 = satAdd (s.rd 0x1808) (w.errsIn true 0 0x2000000 1).length ∧
         t.rd 0x180C = satAdd (s.rd 0x180C) (w.errsIn true 0 0x2000000 2).length ∧
         (∀ a, (∀ x ∈ u, x / 8 ≠ a / 8) → t.vatB a = s.vatB a) ∧ (∀ a, t.memB a = s.memB a) ∧ (∀ a, t.nvmB a = s.nvmB a) ∧
         SameRegs ([0x1808, 0x180C, 0x1810].map devKey) s t))

/-! ### Step words (08) -/

/-- Steps that steer, with no fault cause: BRANCH goes on at its target or at the next step, LOOP_BEGIN writes its loop,
LOOP_END repeats it while passes remain, CALL and RET push and pop the call stack or fault with its code (R242), and COUNT
writes its counter. -/
def Obligations.StepsThatSteerCommit : Prop :=
  ∀ (s : State) (k : Fin 16) (b : Nat) (w : BitVec 128),
    let v := s.ownerVi .seq k
    let f := s.fetched k w
    let n := (s.sq k).pc + 1
    let faults (code : Nat) (t : State) : Prop := t.rd (seqR k + 0x48) = BitVec.ofNat 32 (code * 2 ^ 24 + (s.sq k).pc) ∧
      (t.sq k).target = none ∧ (t.sq k).stopT = ((s.sq k).stopFrom s.time.mono 2).stopT
    (s.Commits k 0x06 b w → ∀ (taken : Bool), taken = (f.branchCond v k w != tb w 115) →
      resBad w ([(119, 116), (115, 115), (107, 104), (81, 64)] ++
        (if bf w 119 116 = 1 ∨ bf w 119 116 = 2 then [(114, 114)] else []) ++
        if bf w 119 116 = 3 ∨ bf w 119 116 = 4 then [(111, 108), (31, 0)] else []) = false →
      bf w 119 116 < 7 → (bf w 119 116 = 3 ∨ bf w 119 116 = 4 → bf w 111 108 < 6) →
      bf w 107 104 < (if bf w 119 116 = 0 then 1 else if bf w 119 116 = 2 ∨ bf w 119 116 = 3 then 8 else 4) →
      f.inTable k (bf w 81 64) = true → (taken = true ∨ f.inTable k n = true) →
      (bf w 119 116 = 2 ∨ bf w 119 116 = 3 → (f.own v .pb (bf w 107 104)).isSome = true) →
      (bf w 119 116 = 5 → (f.own v .acmp (bf w 107 104)).isSome = true) →
      Does (.branch k) s (s.Advances · k (if taken then bf w 81 64 else n) [])) ∧
    (s.Commits k 0x07 b w → resBad w [(119, 118), (31, 0)] = false → f.inTable k n = true → Does (.loopBegin k) s fun t =>
      s.Advances t k n [] ∧ t.rd (loopR k (bf w 119 118)) = BitVec.ofNat 32 (bf w 31 0) ∧
      t.bit (loopR k (bf w 119 118) + 4) 31 = true ∧ t.bit (loopR k (bf w 119 118) + 4) 30 = (bf w 31 0 == 0) ∧
      t.fld (loopR k (bf w 119 118) + 4) 17 0 = n % 2 ^ 18) ∧
    (s.Commits k 0x08 b w → resBad w [(119, 118)] = false → f.bit (loopR k (bf w 119 118) + 4) 31 = true →
      let nx := if f.loopAgain k (bf w 119 118) then f.fld (loopR k (bf w 119 118) + 4) 17 0 else n
      f.inTable k nx = true → Does (.loopEnd k) s fun t => s.Advances t k nx [] ∧
        t.bit (loopR k (bf w 119 118) + 4) 31 = f.loopAgain k (bf w 119 118) ∧
        t.rd (loopR k (bf w 119 118)) = (if f.bit (loopR k (bf w 119 118) + 4) 30 then f.rd (loopR k (bf w 119 118))
          else f.rd (loopR k (bf w 119 118)) - 1)) ∧
    (s.Commits k 0x09 b w → resBad w [(81, 64)] = false → f.inTable k (bf w 81 64) = true → (s.sq k).stack.length < 8 →
      Does (.call k) s fun t => s.Advances t k (bf w 81 64) [] ∧ (t.sq k).stack = n :: (s.sq k).stack) ∧
    (∀ (a : Nat) (l : List Nat), s.Commits k 0x0A b w → resBad w [] = false → (s.sq k).stack = a :: l →
      (f.inTable k a = true → Does (.ret k) s fun t => s.Advances t k a [] ∧ (t.sq k).stack = l) ∧
      (f.inTable k a = false → Does (.ret k) s (faults 4))) ∧
    (s.Commits k 0x0A b w → resBad w [] = false → (s.sq k).stack = [] → Does (.ret k) s (faults 0x0A)) ∧
    (s.Commits k 0x09 b w → resBad w [(81, 64)] = false → f.inTable k (bf w 81 64) = true → 8 ≤ (s.sq k).stack.length →
      Does (.call k) s (faults 9)) ∧
    (s.Commits k 0x11 b w → bf w 119 116 < 3 → resBad w [(119, 116), (113, 112), (31, 0)] = false → f.inTable k n = true →
      Does (.count k) s fun t => s.Advances t k n [] ∧ t.rd (seqR k + 0x70 + 4 * bf w 113 112) =
        (if bf w 119 116 = 0 then BitVec.ofNat 32 (bf w 31 0)
         else if bf w 119 116 = 1 then s.rd (seqR k + 0x70 + 4 * bf w 113 112) + BitVec.ofNat 32 (bf w 31 0)
         else s.rd (seqR k + 0x70 + 4 * bf w 113 112) - BitVec.ofNat 32 (bf w 31 0))) ∧
    (∀ c : Nat, s.Commits k 0x11 b w → resBad w [(119, 116), (113, 112), (109, 104)] = false → f.inTable k n = true →
      (bf w 119 116 = 3 → bf w 109 104 < 8 → f.own v .pb (bf w 109 104) = some c → Does (.count k) s fun t =>
        s.Advances t k n [] ∧ t.rd (seqR k + 0x70 + 4 * bf w 113 112) = ((f.seen k).failCnt[c]?).getD 0) ∧
      (bf w 119 116 = 4 → f.chOwn v (bf w 109 104) = some c → Does (.count k) s fun t =>
        s.Advances t k n [] ∧ t.rd (seqR k + 0x70 + 4 * bf w 113 112) = ((f.seen k).evc[c]?).getD 0))

/-- Steps whose effect waits for the boundary of their run, with no fault cause: SET_FREQ, SET_PHASE, SET_AMPL, MARKER,
SIGNAL, TIMING and FLIP each commit one effect, on the channel, banks, queue or channel of Rennet their fields name. -/
def Obligations.StepsThatSetOutputsCommit : Prop :=
  ∀ (s : State) (k : Fin 16) (b c : Nat) (w : BitVec 128),
    let v := s.ownerVi .seq k
    let f := s.fetched k w
    let n := (s.sq k).pc + 1
    f.inTable k n = true →
    (s.Commits k 0x0B b w → bf w 119 118 ≠ 3 → (tb w 116 = true → bf w 95 64 ≠ 0) →
      resBad w ([(119, 118), (116, 116), (114, 112), (111, 64)] ++
        if bf w 119 118 = 2 then [(117, 117), (63, 0)] else []) = false →
      f.boundAout v k (bf w 114 112) = some c →
      (tb w 116 = true → ∃ d, f.validDesc v (bf w 111 96) = some d ∧ d.typ = 4 ∧ d.fmt ≠ 1) →
      Does (.setFreq k) s (s.Advances · k n [.freq c (bf w 119 118)
        (match f.listFor v w (bf w 95 64) 0 with | some l => l.elem.1 | none => bf w 111 64) (f.listFor v w (bf w 95 64) 0)])) ∧
    (s.Commits k 0x0C b w → resBad w [(116, 116), (114, 112), (15, 0)] = false → f.boundAout v k (bf w 114 112) = some c →
      Does (.setPhase k) s (s.Advances · k n [.phase c (tb w 116) (bf w 15 0)])) ∧
    (s.Commits k 0x0D b w →
      resBad w ([(116, 116), (114, 112), (63, 32)] ++ if tb w 116 then [(111, 96), (31, 0)] else [(79, 64)]) = false →
      f.boundAout v k (bf w 114 112) = some c →
      (tb w 116 = true → bf w 31 0 ≠ 0 ∧ ∃ d, f.validDesc v (bf w 111 96) = some d ∧ d.typ = 4 ∧ d.fmt ≠ 0) →
      Does (.setAmpl k) s (s.Advances · k n [.ampl c
        (match f.listFor v w (bf w 31 0) (bf w 63 32) with | some l => l.elem.2 | none => bf w 79 64) (bf w 63 32)
        (f.listFor v w (bf w 31 0) (bf w 63 32))])) ∧
    (s.Commits k 0x0E b w →
      resBad w ([(119, 116), (115, 112), (111, 111)] ++ if tb w 111 then [(31, 0)] else []) = false →
      bf w 115 112 &&& (15 - bf w 119 116) = 0 → (tb w 111 = true → bf w 31 0 ≠ 0) →
      Does (.marker k) s (s.Advances · k n [.marker (bf w 119 116) (bf w 115 112) (tb w 111) (bf w 31 0)])) ∧
    (s.Commits k 0x10 b w → bf w 119 118 = 0 → resBad w [(119, 118), (117, 116), (108, 104), (63, 0)] = false →
      Does (.signalPost k) s (s.Advances · k n [.post (bf w 117 116) (bf w 108 104) (bf w 63 0)])) ∧
    (s.Commits k 0x10 b w → bf w 119 118 = 1 → resBad w [(119, 118), (101, 96)] = false → f.chOwn v (bf w 101 96) = some c →
      Does (.signalFire k) s (s.Advances · k n [.fire c])) ∧
    (∀ l : List Nat, s.Commits k 0x13 b w → resBad w [(114, 112), (107, 104), (101, 100)] = false →
      bf w 114 112 + 2 ^ bf w 101 100 ≤ 8 → f.boundBanks v k (bf w 114 112) (2 ^ bf w 101 100) = some l →
      Does (.timing k) s (s.Advances · k n [.timing l (bf w 107 104)])) ∧
    (s.Commits k 0x12 b w → (∀ x y z p t, (s.sq k).cur ≠ .flipStall x y z p t) →
      resBad w ([(119, 118), (116, 116), (115, 115), (69, 64)] ++ if tb w 116 then [(117, 117), (63, 0)] else []) = false →
      bf w 119 118 ≠ 3 → f.owns v .misc 0 = true →
      (tb w 115 = true ∨ f.flipFull (bf w 119 118) = false → Does (.flip k) s (s.Advances · k n
        [.flip (bf w 119 118) (bf w 69 64) (tb w 115) (tb w 116) (tb w 117) (BitVec.ofNat 64 (bf w 63 0))])) ∧
      (tb w 115 = false → f.flipFull (bf w 119 118) = true → Does (.flip k) s fun t => (t.sq k).target = none ∧
        s.Plans t k b n (.flipStall (bf w 119 118) (bf w 69 64) (tb w 116) (tb w 117) (BitVec.ofNat 64 (bf w 63 0)))))

/-- Steps that end a run, with no fault cause: PLAY, PLAYLOOP, HOLD, WAIT_EVENT, WAIT_TIME, SYNC and END take their place
at the run's boundary. An undefined opcode faults with code 1, with its index, and halts the programme. -/
def Obligations.StepsThatPlayOrHoldCommit : Prop :=
  ∀ (s : State) (k : Fin 16) (b : Nat) (w : BitVec 128),
    let v := s.ownerVi .seq k
    let f := s.fetched k w
    let n := (s.sq k).pc + 1
    (∀ d : Desc, f.inTable k n = true → f.validDesc v (bf w 111 96) = some d →
      (s.Commits k 0x01 b w → resBad w [(119, 119), (114, 112), (111, 96), (95, 64)] = false →
        (∀ c ∈ f.playBad v k w true, c.1 = false) → Does (.play k) s fun t =>
          let r := bf w 95 64
          let m := if d.typ = 2 then r else d.len * f.perElem v w d * r
          s.Plans t k b n (.play (tb w 119) (f.playDest v w) (bf w 111 96) m (r == 0)) ∧
          (t.sq k).target = (if r = 0 then none else some ((t.sq k).planAt + m))) ∧
      (s.Commits k 0x02 b w → resBad w ([(119, 119), (114, 112), (111, 96), (95, 64), (63, 63)] ++
          if tb w 63 then [(61, 60)] else []) = false → (d.ls ≠ 0 ∨ d.le ≠ 0) →
        (∀ c ∈ f.playBad v k w false, c.1 = false) → Does (.playloop k) s fun t =>
          s.Plans t k b n (.loop (tb w 119) (f.playDest v w) (bf w 111 96) (bf w 95 64)
            (if tb w 63 then some (bf w 61 60) else none) (d.le * f.perElem v w d) ((d.le - d.ls) * f.perElem v w d)
            ((d.len - d.le) * f.perElem v w d) 0) ∧
          (t.sq k).target = (if bf w 95 64 = 0 ∨ tb w 63 = true then none
            else some ((t.sq k).planAt + d.le * f.perElem v w d + (bf w 95 64 - 1) * ((d.le - d.ls) * f.perElem v w d) +
              (d.len - d.le) * f.perElem v w d)))) ∧
    (s.Commits k 0x03 b w → resBad w [(31, 0)] = false → bf w 31 0 ≠ 0 → f.inTable k n = true →
      Does (.hold k) s fun t => s.Plans t k b n (.hold (bf w 31 0)) ∧ (t.sq k).target = none) ∧
    (s.Commits k 0x04 b w →
      resBad w ([(119, 118), (117, 117), (31, 0)] ++ if bf w 31 0 = 0 then [] else [(81, 64)]) = false →
      f.inTable k n = true → (bf w 31 0 ≠ 0 → f.inTable k (bf w 81 64) = true) → Does (.waitEvent k) s fun t =>
        s.Plans t k b n (.waitEvent (bf w 119 118) (bf w 81 64) (bf w 31 0)) ∧ (t.sq k).target = none ∧
        (tb w 117 = true → t.ef k (bf w 119 118) = false)) ∧
    (s.Commits k 0x05 b w → resBad w ([(119, 119), (63, 0)] ++ if tb w 119 then [(81, 64)] else []) = false →
      f.inTable k n = true → (tb w 119 = true → f.inTable k (bf w 81 64) = true) →
      (tb w 119 = false ∨ 2048 ≤ lead (BitVec.ofNat 64 (bf w 63 0)) s.now → Does (.waitTime k) s fun t =>
        s.Plans t k b n (.waitTime (bf w 81 64)) ∧ (t.act (actId 2 k)).armed = true) ∧
      (tb w 119 = true → s.actReady (actId 2 k) = true → lead (BitVec.ofNat 64 (bf w 63 0)) s.now < 2048 →
        Does (.waitTime k) s fun t => s.Advances t k (bf w 81 64) [] ∧ t.act (actId 2 k) = {})) ∧
    (∀ j : Nat, s.Commits k 0x0F b w →
      resBad w ([(119, 116), (111, 96), (31, 0)] ++ if bf w 31 0 = 0 then [] else [(81, 64)]) = false →
      f.virt v .seq k = some j → (bf w 111 96).testBit j = true →
      (∀ i < 16, (bf w 111 96).testBit i = true → (f.own v .seq i).isSome = true) → f.inTable k n = true →
      (bf w 31 0 ≠ 0 → f.inTable k (bf w 81 64) = true) → Does (.sync k) s fun t =>
        s.Plans t k b n (.sync (bf w 119 116) (bf w 111 96) (bf w 81 64) (bf w 31 0)) ∧ (t.sq k).target = none) ∧
    (s.Commits k 0x1F b w → resBad w [] = false → Does (.endStep k) s fun t =>
      s.Plans t k b (s.sq k).pc (.halting 1) ∧ (t.sq k).target = none) ∧
    (∀ op : Nat, s.Commits k op b w → opcodes.contains op = false → Does (.play k) s fun t =>
      t.rd (seqR k + 0x48) = BitVec.ofNat 32 (2 ^ 24 + (s.sq k).pc) ∧ (t.sq k).target = none ∧
      (t.sq k).stopT = ((s.sq k).stopFrom s.time.mono 2).stopT)

/-- What holds a programme ends: HOLD after its count, WAIT_EVENT by its flag or its time-out, WAIT_TIME at its target, a
barrier for all its members or by a time-out, the exit test of a PLAYLOOP; a pulsed marker returns; phase resets act. -/
def Obligations.HoldsPassesAndPulsesEnd : Prop :=
  ∀ (s : State) (k : Fin 16),
    let x := s.sq k
    let goesOn (j : Nat) (t : State) : Prop :=
      if s.bit (seqR j + 8) 18 then (t.sq j).aim = some (s.time.mono + 2048)
      else (t.sq j).target = some (max ((s.sq j).planAt + 1) ((s.sq j).from_ (s.time.mono + 2048)))
    (∀ n, x.plan = .hold n → x.target = none → Does (.holdEnd k) s fun t =>
      t.sq k = { x with target := some (x.planAt + n) } ∧ SameRegs [] s t ∧ SameStores s t) ∧
    (∀ i els tmo, x.plan = .waitEvent i els tmo → x.target = none →
      (s.ef k i = true → Does (.waitEventEnd k) s fun t => t.ef k i = false ∧ (t.sq k).pc = x.pc ∧
        (t.sq k).target = some ((s.candidate x).getD (max (x.planAt + 1) (x.from_ (s.time.mono + 2048)))) ∧
        SameRegs [devKey (seqR k + 0x44)] s t) ∧
      (tmo ≠ 0 → s.ef k i = true → Does (.waitEventTimeout k) s fun t => t.ef k i = false ∧ (t.sq k).pc = x.pc ∧
        (t.sq k).target = some (x.planAt + tmo) ∧ SameRegs [devKey (seqR k + 0x44)] s t) ∧
      (tmo ≠ 0 → s.ef k i = false → Does (.waitEventTimeout k) s fun t => (t.sq k).pc = els ∧
        (t.sq k).target = some (max (x.planAt + tmo) (x.from_ (s.time.mono + 2048))) ∧ SameRegs [] s t)) ∧
    (∀ els, x.plan = .waitTime els → x.target = none → (s.act (actId 2 k)).armed = true →
      (s.act (actId 2 k)).defer = false → Does (.waitTimeEnd k) s fun t => (t.sq k).target = some (s.waitTimeAt k) ∧
        t.act (actId 2 k) = {} ∧ (t.sq k).pc = x.pc ∧ SameRegs [] s t) ∧
    (∀ ms : List Nat, s.barrier k = some ms → Does (.syncRelease k) s fun t => SameRegs [] s t ∧
      ∀ j ∈ ms, (t.sq j).arrived = none ∧ (t.sq j).pc = (s.sq j).pc ∧ goesOn j t) ∧
    (∀ i g els tmo a, x.cur = .sync i g els tmo → x.target = none → x.arrived = some a → tmo ≠ 0 → s.barrier k = none →
      Does (.syncTimeout k) s fun t => (t.sq k).pc = els ∧ (t.sq k).arrived = none ∧ goesOn k t ∧ SameRegs [] s t) ∧
    (∀ p d i loops e head sect tail m, x.plan = .loop p d i loops (some e) head sect tail m → x.target = none →
      (s.ef k e = true → Does (.playloopExitTest k) s fun t => t.ef k e = false ∧
        (t.sq k).target = some (x.planAt + head + m * sect + tail)) ∧
      (s.ef k e = false → (loops = 0 ∨ m + 1 < loops) → Does (.playloopExitTest k) s fun t => (t.sq k).target = none ∧
        (t.sq k).plan = .loop p d i loops (some e) head sect tail (m + 1) ∧
        SameRegs ([0x1808, 0x180C, 0x1810].map devKey) s t) ∧
      (s.ef k e = false → loops ≠ 0 → m + 1 = loops → Does (.playloopExitTest k) s fun t =>
        (t.sq k).target = some (x.planAt + head + m * sect + tail))) ∧
    (∀ (m : Fin 4) (n : Nat) (lv : Bool), x.pulses.find? (fun p => p.1 == m.val) = some (m.val, n, lv) →
      Does (.markerPulseReturn k m) s fun t => t.bit (seqR k + 0x44) (8 + m) = lv ∧
        t.fab.lv0.getLsbD (4 * k + m) = lv ∧ (t.sq k).pulses = x.pulses.filter (fun p => p.1 != m.val) ∧
        SameRegs [devKey (seqR k + 0x44)] s t) ∧
    (∀ (n : Fin 8) (q : Nat), s.aoutSeq n = some q →
      Does (.paramListAdvance n) s (fun t => t = s.catchUp q) ∧
      (∀ j, (s.act (actId 4 n)).armed = true → (s.act (actId 4 n)).defer = false → s.phaseAt n q = some j →
        (s.sq q).at_ j < s.time.mono + s.cycleTu → (∀ e ∈ (s.sq q).queue, j < e.1) →
        Does (.phaseReset n) s fun t => t.act (actId 4 n) = {} ∧ (t.ao n).phaseRef = none))

/-! ### Sequencers in time (09) -/

/-- A start by register or by event is refused with the first reason, or accepted and admitted, with a cached demand or
after a scan; admitted, the programme stands before its first step and its demand joins ADMIT_USED. A timed start is
armed, disarmed, and staged or refused. -/
def Obligations.StartsAreRefusedOrAdmitted : Prop :=
  ∀ (s : State) (k : Fin 16),
    let go (c : Instr) : Prop :=
      (∀ r, s.startWhy k false = some r → Does c s fun t => t.bit (seqR k + 8) 14 = true ∧ t.fld (seqR k + 8) 31 28 = r ∧
        SameRegs [devKey (seqR k + 8)] s t ∧ SameStores s t) ∧
      (s.startWhy k false = none → s.scanOf k = .idle →
        (s.bit (0x1840 + 4 * k) 16 = true → Does c s fun t => t.scanOf k = .entering ∧
          (s.time.mono + 64, Instr.admitScanDone k) ∈ t.agenda ∧ SameRegs [] s t) ∧
        (s.bit (0x1840 + 4 * k) 16 = false → Does c s fun t => t.scanOf k = .start ∧
          (s.time.mono + s.scanTu k, Instr.admitScanDone k) ∈ t.agenda ∧
          SameRegs [viKey (s.ownerVi .seq k) 0x182C] s t))
    let fits : Prop := s.fld 0x1824 15 0 + s.fld (0x1840 + 4 * k) 15 0 ≤ s.fld 0x1820 15 0
    let begun (t : State) : Prop := t.seqState k = 1 ∧ (t.sq k).pc = s.fld (seqR k + 0x18) 17 0 ∧
      (s.domainOf k = 0 ∨ s.synBit (s.domainOf k) 1 = false → (t.sq k).target.isSome = true) ∧ (t.sq k).stack = [] ∧
      t.rd 0x1824 = BitVec.ofNat 32 (s.fld 0x1824 15 0 + s.fld (0x1840 + 4 * k) 15 0)
    let tgt := s.rd64 (seqR k + 0x1C) (seqR k + 0x20)
    go (.seqStart k) ∧
    (s.bit (seqR k) 4 = true → s.seqOn k = false → go (.seqEvstart k) ∧
      ∀ i : Fin 4, s.fld (seqR k) 6 5 = i.val → go (.seqEventInput k i)) ∧
    (s.scanOf k = .entering → s.admitWaits k = false → s.startWhy k true = none → s.bit (0x1840 + 4 * k) 16 = true → fits →
      Does (.admitScanDone k) s begun) ∧
    (s.noStart = true → Does (.seqArm k) s fun t => t.bit (seqR k + 8) 14 = true ∧ t.fld (seqR k + 8) 31 28 = 3 ∧
      SameRegs [devKey (seqR k + 8)] s t) ∧
    (s.noStart = false → s.actReady (actId 3 k) = true → 2048 ≤ lead tgt s.now → Does (.seqArm k) s fun t =>
      t.act (actId 3 k) = { armed := true, target := tgt, drop := s.bit (seqR k) 12 } ∧ t.bit (seqR k + 8) 2 = true) ∧
    Does (.seqDisarm k) s (fun t => t.act (actId 3 k) = {} ∧ t.bit (seqR k + 8) 2 = false) ∧
    (s.stageDue k = true → s.startWhy k true = none → s.bit (0x1840 + 4 * k) 16 = true → fits →
      Does (.seqStage k) s fun t => begun t ∧ t.act (actId 3 k) = {}) ∧
    (∀ r, s.stageDue k = true → s.startWhy k true = some r → Does (.seqStage k) s fun t =>
      t.bit (seqR k + 8) 14 = true ∧ t.fld (seqR k + 8) 31 28 = r ∧ t.act (actId 3 k) = {})

/-- At a step boundary the committed step begins: a holding step shows HOLDING, END halts with its reason. Stops decide a
halt at the first boundary 128 TU on, or at a step's; the halt itself parks every bound output. An event at a running
sequencer's input sets its flag. -/
def Obligations.SequencersStepStopAndHalt : Prop :=
  ∀ (s : State) (k : Fin 16),
    let x := s.sq k
    (∀ b i effs c q, x.queue = (b, i, effs, c) :: q →
      (c.holds = true → Does (.stepBoundary k) s fun t => (t.sq k).cur = c ∧ t.seqState k = 3 ∧
        (t.sq k).queue.length = q.length ∧ SameStores s t) ∧
      (∀ why, c = .halting why → Does (.stepBoundary k) s fun t => t.seqOn k = false ∧
        t.fld (seqR k + 8) 27 24 = why % 16 ∧ (t.sq k).queue = [])) ∧
    (s.seqOn k = true → Does (.seqStop k) s fun t => t.sq k = x.stopFrom (s.time.mono + 128) 3 ∧ SameRegs [] s t ∧
      SameStores s t) ∧
    (s.seqOn k = true → x.halt = none →
      (x.plan.holds = false → Does (.seqStopStep k) s fun t => t.sq k = { x with stopStep := 4 } ∧ SameRegs [] s t) ∧
      (x.plan.holds = true → Does (.seqStopStep k) s fun t => SameRegs [] s t ∧
        (t.sq k).halt = some (max (x.planAt + 1) (x.from_ (s.time.mono + 2048)), 4)) ∧
      (s.bit (seqR k) 8 = true → x.plan.holds = false → Does (.seqEvstop k) s fun t =>
        t.sq k = { x with stopStep := 5 } ∧ SameRegs [] s t)) ∧
    (s.seqOn k = false → Does (.seqStop k) s fun t => t = s) ∧
    (∀ i : Fin 4, s.seqOn k = true → (s.bit (seqR k) 8 = false ∨ s.fld (seqR k) 10 9 ≠ i.val) →
      Does (.seqEventInput k i) s fun t => t.ef k i = true ∧ SameRegs [devKey (seqR k + 0x44)] s t ∧ t.sq k = x) ∧
    (∀ j why, s.haltDue k = some (j, why) → s.seqOn k = true → Does (.seqHalt k) s fun t => t.seqOn k = false ∧
      t.fld (seqR k + 8) 27 24 = why % 16 ∧ SameStores s t ∧
      (∀ n < 8, s.bindsAout k n = true → t.aoutBit n 2 = true) ∧ (∀ n < 8, s.bindsBank k n = true → t.pbState n = 0)) ∧
    Does (.seqCntClr k) s (fun t => t.rd (seqR k + 0x38) = (s.cy (seqR k + 0x38)).added ∧
      t.rd (seqR k + 0x3C) = (s.cy (seqR k + 0x3C)).added ∧ (t.sq k).whey = (s.cy (seqR k + 0x30)).added.setWidth 48 ∧
      SameRegs [devKey (seqR k + 0x38), devKey (seqR k + 0x3C)] s t ∧ SameStores s t)

/-- An underrun of a start that the guarantee does not cover is flagged and its producer fires; when the data arrive, the gap runs from
the boundary at which it began to the first one after the arrival: HOLD_AND_SLIP adds it to SLIP and moves the boundaries to come,
DROP_AND_KEEP_TIME adds its periods to DROP. -/
def Obligations.UnderrunsSlipOrDrop : Prop :=
  ∀ (s : State) (k : Fin 16),
    (2 ≤ s.seqState k → (s.sq k).underrun = none → (s.sq k).loose = true → s.time.fclk = true → Does (.underrun k) s fun t =>
      t.bit (seqR k + 8) 17 = true ∧ (t.sq k).underrun = some s.time.mono ∧
      (0, s.srcOf 176 s.now) ∈ t.fab.inflight ∧ SameStores s t) ∧
    (∀ (b0 ofs : Nat) (h : ofs < 32), (s.sq k).underrun = some b0 →
      let u := s.catchUp k
      let x := u.sq k
      let a := x.from_ (b0 + 1)
      let b := x.from_ (s.time.mono + ofs + 1)
      Does (.underrunDataArrives k ofs h) s fun t => (t.sq k).underrun = none ∧
        (if s.bit (seqR k) 1 then t.rd (seqR k + 0x3C) = satAdd (u.rd (seqR k + 0x3C)) (b - a) ∧ (t.sq k).planAt = x.planAt
         else t.rd (seqR k + 0x38) = satAdd (u.rd (seqR k + 0x38)) (x.at_ b - x.at_ a) ∧
           (t.sq k).planAt = x.planAt + (b - a)))

/-! ### Analog channels (10) -/

/-- A write of AOUTn_MODE is ignored with CFG_BUSY while a running sequencer is bound, and leaves MODE where it names the reserved code;
park and unpark, by command or by event, follow EV_ACT: they wait for the next output boundary, or act at once while the channel's
domain gives none (the model's reading, log entry 46); CNT_CLR clears the three counters. PRELOAD loads a VALID TABLE into the standby
RAM and refuses anything else with TBL_ERR; when the load completes the RAM holds the table, and a PLAY that waited for it past its
boundary takes it and counts its wait up to the boundary at which it does. -/
def Obligations.AnalogChannelsTakeModesParksAndTables : Prop :=
  (∀ (s : State) (n : Fin 8) (v : Word),
     let acts (p : Bool) (t : State) : Prop := (t.ao n).evParked = p ∧ (t.ao n).parkReq = none ∧ t.aoutBit n 3 = p ∧
       (p = true ∨ s.aoutIdle n = true → t.aoutBit n 2 = true) ∧ SameRegs [devKey (aoutR n + 0x2C)] s t ∧ SameStores s t
     let parks (p : Bool) (t : State) : Prop :=
       if s.domOn (6 + n) then t.ao n = { s.ao n with parkReq := some (s.time.mono, p) } ∧ SameRegs [] s t ∧ SameStores s t
       else acts p t
     let u := s.idleTo n s.time.mono
     ((s.aoutSeq n).isSome = true → Does (.aoutModeWrite n v) s fun t => t.aoutBit n 4 = true ∧
       SameRegs [devKey (aoutR n + 0x2C)] u t) ∧
     (s.aoutSeq n = none → Does (.aoutModeWrite n v) s fun t => t.fld (aoutR n + 4) 5 4 = bf v 5 4 ∧
       (bf v 1 0 ≠ 3 → t.fld (aoutR n + 4) 1 0 = bf v 1 0 ∧ SameRegs [devKey (aoutR n + 4)] u t) ∧
       (bf v 1 0 = 3 → t.fld (aoutR n + 4) 1 0 = s.fld (aoutR n + 4) 1 0 ∧ t.aoutBit n 4 = true)) ∧
     Does (.park n) s (parks true) ∧ Does (.unpark n) s (parks false) ∧
     (s.fld (aoutR n) 5 4 = 0 → Does (.aoutParkEvent n) s (parks !(s.ao n).evWants)) ∧
     (s.fld (aoutR n) 5 4 = 1 → Does (.aoutParkEvent n) s (parks true)) ∧
     (s.fld (aoutR n) 5 4 = 2 → Does (.aoutParkEvent n) s (parks false)) ∧
     (s.fld (aoutR n) 5 4 = 3 → Does (.aoutParkEvent n) s (· = s)) ∧
     (∀ r p t0, (s.ao n).parkReq = some (r, p) → r ≤ t0 → acts p (s.parkAtBoundary n t0)) ∧
     Does (.aoutCntClr n) s (fun t => SameRegs [devKey (aoutR n + 0x30), devKey (aoutR n + 0x34), devKey (aoutR n + 0x38)] s t ∧
       ∀ i < 3, t.rd (aoutR n + 0x30 + 4 * i) = (s.cy (aoutR n + 0x30 + 4 * i)).added)) ∧
  (∀ (s : State) (n : Fin 8),
     let v := s.ownerVi .aout n
     let i := s.fld (aoutR n + 0x28) 15 0
     (∀ x, s.validDesc v i = some x → x.typ = 2 → Does (.preload n) s fun t =>
       (t.ao n).loading = some (i, none) ∧ t.aoutBit n 9 = true ∧ t.fld (aoutR n + 0x40) 31 16 = 0xFFFF ∧
       (t.ao n).ramA = (s.ao n).ramA ∧ (s.time.mono + roundUp (tableTu x) 32, Instr.tableLoadDone n) ∈ t.agenda ∧
       SameRegs [devKey (aoutR n + 0x2C), devKey (aoutR n + 0x40)] s t ∧ SameStores s t) ∧
     ((∀ x, s.validDesc v i = some x → x.typ ≠ 2) → Does (.preload n) s fun t => t.aoutBit n 10 = true ∧
       t.ao n = s.ao n ∧ SameRegs [devKey (aoutR n + 0x2C)] s t) ∧
     (∀ d w x, (s.ao n).loading = some (d, w) → s.validDesc v d = some x →
       let u := s.catchUpAout n
       Does (.tableLoadDone n) s fun t =>
       (t.ao n).loading = none ∧ t.aoutBit n 9 = false ∧ SameStores s t ∧
       ((∀ b, w = some b → s.time.mono ≤ b) → (t.ao n).ramB = s.loadVi v x.mem x.addr 8192 ∧
         (t.ao n).ramA = (u.ao n).ramA ∧ t.fld (aoutR n + 0x40) 31 16 = d % 65536 ∧
         t.fld (aoutR n + 0x40) 15 0 = u.fld (aoutR n + 0x40) 15 0) ∧
       (∀ b, w = some b → b < s.time.mono → (t.ao n).ramA = s.loadVi v x.mem x.addr 8192 ∧
         (t.ao n).ramB = (u.ao n).ramA ∧ t.fld (aoutR n + 0x40) 15 0 = d % 65536 ∧ t.aoutBit n 8 = true ∧
         t.rd (aoutR n + 0x38) = satAdd (u.rd (aoutR n + 0x38))
           (((u.aoutSeq n).map fun q => (u.sq q).at_ ((u.sq q).from_ s.time.mono)).getD s.time.mono - b))))

/-! ### Pattern banks and captures (11) -/

/-- A failing vector, of a bank that plays or of the last vector of one that has stopped, sets FAIL and counts; the first since FAIL was
cleared is recorded and fires; with the log enabled its entry waits 32 TU and goes to the ring, or is lost: the next is marked. An entry
whose stamp the handoff is still to convert waits for it. FAIL_CLR, CNT_CLR and the enable of the log do what they say. -/
def Obligations.FailsAreCountedAndLogged : Prop :=
  ∀ (s : State) (k : Fin 8) (pins : BitVec 16) (cont : Bool) (strobe : Time),
    let p := pins &&& ~~~((s.rd (pbR k + 0x20)).setWidth 16)
    let u := s.catchUpAll
    let c := pbR k + 0x44
    let n := 2 ^ s.fld c 12 8
    let wr := (s.rd (c + 4)).toNat % n
    let rd := (s.rd (c + 8)).toNat % n
    let vi := s.ownerVi .pb k
    let back := (s.now - strobe).toNat
    let vec := if s.time.mono < (u.pb k).vecAt + back then u.rd (pbR k + 0x30) - 1 else u.rd (pbR k + 0x30)
    (u.strobed k (s.time.mono - back) = false ∨ p = 0 → Does (.vectorFail k pins cont strobe) s (· = u)) ∧
    (u.strobed k (s.time.mono - back) = true → p ≠ 0 → Does (.vectorFail k pins cont strobe) s fun t => t.pbBit k 2 = true ∧
      t.rd (pbR k + 0x34) = satAdd (u.rd (pbR k + 0x34)) 1 ∧ SameStores s t ∧
      ((u.pb k).firstArmed = true → (t.pb k).firstArmed = false ∧
        t.rd (pbR k + 0x3C) = setBit (p.setWidth 32) 31 true ∧ (s.time.fclk = true → (0, s.srcOf (114 + k) s.now) ∈ t.fab.inflight) ∧
        t.rd (pbR k + 0x38) = vec) ∧
      (u.bit c 0 = true → (u.pb k).buf.length < 64 → (t.pb k).buf.length = (u.pb k).buf.length + 1 ∧
        (s.time.mono + 32, Instr.failLogWrite k) ∈ t.agenda ∧ ∀ e, (t.pb k).buf.getLast? = some e → e.stamp = strobe ∧
          e.a = p ∧ e.vec = vec ∧ e.flags = b2n cont + (if (u.pb k).loss then 2 else 0)) ∧
      (u.bit c 0 = true → 64 ≤ (u.pb k).buf.length → (t.pb k).loss = true ∧
        t.rd (pbR k + 0x50) = satAdd (u.rd (pbR k + 0x50)) 1)) ∧
    (∀ e l, (s.pb k).buf = e :: l → e.prov = true → Does (.failLogWrite k) s fun t =>
      (s.time.nextKeep + 32, Instr.failLogWrite k) ∈ t.agenda ∧ t.pb k = s.pb k ∧ SameRegs [] s t ∧ SameStores s t) ∧
    (∀ e l, (s.pb k).buf = e :: l → e.prov = false → s.bit c 0 = true →
      ((wr + 1) % n = rd → s.bit c 1 = false → Does (.failLogWrite k) s fun t =>
        t.rd (c + 12) = satAdd (s.rd (c + 12)) 1 ∧ SameRegs [devKey (c + 12)] s t ∧ SameStores s t ∧
        (l = [] → (t.pb k).buf = [] ∧ (t.pb k).loss = true) ∧
        (∀ g m, l = g :: m → (t.pb k).buf = { g with flags := g.flags % 2 + 2 } :: m)) ∧
      ((wr + 1) % n ≠ rd ∨ s.bit c 1 = true → s.ringOk vi c 20 = true → Does (.failLogWrite k) s fun t =>
        t.rd (c + 4) = BitVec.ofNat 32 ((wr + 1) % n) ∧ (t.pb k).buf = l ∧
        t.loadVi vi true (s.fld c 23 16 * 0x1000000 + 16 * wr) 16 = failBytes e ∧ (∀ a, t.vatB a = s.vatB a) ∧
        (∀ a, (∀ r ∈ s.ranges vi true (s.fld c 23 16 * 0x1000000 + 16 * wr) 16, a < r.1 ∨ r.1 + r.2 ≤ a) →
          t.memB a = s.memB a))) ∧
    (s.ringOk vi c 20 = true → Does (.flogEnable k) s fun t => t.bit c 0 = true ∧ SameRegs [devKey c] s t) ∧
    (s.ringOk vi c 20 = false → Does (.flogEnable k) s fun t => t.bit c 0 = false ∧ t.pbBit k 9 = true) ∧
    (tb (s.cy (pbR k + 8)).raised 2 = false → Does (.failClr k) s fun t => t.pbBit k 2 = false ∧
      (t.pb k).firstArmed = true ∧ SameRegs [devKey (pbR k + 8)] s t) ∧
    Does (.pbCntClr k) s (fun t => t.rd (pbR k + 0x34) = (s.cy (pbR k + 0x34)).added ∧
      t.rd (pbR k + 0x50) = (s.cy (pbR k + 0x50)).added ∧ SameRegs [devKey (pbR k + 0x34), devKey (pbR k + 0x50)] s t)

/-- A supply's measurement sets its band and reports a supply fault; a free-running start is refused with its reason or
starts the bank, a stop comes at the first boundary 128 TU on, after a mute of SYN-C that comes between; at a segment's boundary what was staged before the cycle
applies to a bank no sequencer plays, and what the cycle wrote stays staged. -/
def Obligations.BanksMeasureStartAndStop : Prop :=
  ∀ (s : State) (k : Fin 8) (mv : BitVec 12),
    let x := s.pb k
    let band := bandOf (s.fld (pbR k + 8) 21 20) mv.toNat
    let starts (c : Instr) : Prop :=
      (s.pbState k ≠ 0 → Does c s (· = s)) ∧
      (∀ w, s.pbState k = 0 → s.freeWhy k = some w → Does c s fun t => t.pbBit k 12 = true ∧
        t.fld (pbR k + 8) 18 16 = w ∧ SameRegs [devKey (pbR k + 8)] s t ∧ SameStores s t) ∧
      (s.pbState k = 0 → s.freeWhy k = none → s.staged (pbR k + 8) = none → s.staged (pbR k + 0x34) = none → Does c s fun t =>
        t.pbState k = 2 ∧ t.rd (pbR k + 0x34) = 0 ∧ (t.pb k).desc = s.fld (pbR k + 0x24) 15 0 ∧ (t.pb k).done = 0 ∧
        (t.pb k).firstArmed = true ∧ SameStores s t ∧
        (t.pb k).tl = (s.firstVector k (s.time.mono + 1536)).1.numberFrom (s.firstVector k (s.time.mono + 1536)).2)
    let stops (c : Instr) : Prop :=
      (s.pbState k ≠ 2 → Does c s (· = s)) ∧
      (s.pbState k = 2 → x.stopAt = none → Does c s fun t =>
        let j := s.cycleOf (x.tl.at_ (x.tl.from_ (s.time.mono + 128)))
        (t.pb k).stopAt = some j ∧ (j, Instr.pbStop k) ∈ t.agenda ∧ SameRegs [] s t) ∧
      (∀ j, s.pbState k = 2 → x.stopAt = some j → (s.time.mono < j ∨ s.synBit 2 1 = true) → Does c s (· = s)) ∧
      (∀ j, s.pbState k = 2 → x.stopAt = some j → j ≤ s.time.mono → s.synBit 2 1 = false → Does c s fun t => t.pbState k = 0 ∧
        (t.pb k).stopAt = none ∧ SameStores s t)
    (s.bit (pbR k + 0xC) 0 = true → Does (.vccioMeasure k mv) s fun t => t.rd (pbR k + 0x2C) = mv.setWidth 32 ∧
      t.fld (pbR k + 8) 21 20 = band ∧ t.pbBit k 11 = (band == 0) ∧ SameStores s t ∧
      SameRegs [devKey (pbR k + 8), devKey (pbR k + 0x2C)] s t ∧
      (band ≠ s.fld (pbR k + 8) 21 20 → s.pbState k ≠ 0 → t.overRate k = true → t.pbBit k 3 = true) ∧
      (s.bit (pbR k) 0 = true → mv.toNat < 1700 ∨ 3600 < mv.toNat → (s.time.mono, Instr.supplyFault) ∈ t.agenda)) ∧
    starts (.pbStart k) ∧ stops (.pbStop k) ∧
    (s.fld (pbR k) 5 4 = 0 → (s.pbState k = 2 → stops (.pbEvent k)) ∧ (s.pbState k ≠ 2 → starts (.pbEvent k))) ∧
    (s.fld (pbR k) 5 4 = 1 → starts (.pbEvent k)) ∧ (s.fld (pbR k) 5 4 = 2 → stops (.pbEvent k)) ∧
    (s.pbState k ≠ 1 →
      let u := s.catchUpFree k
      Does (.vectorSegmentBoundary k) s fun t => t.pendingStaged (bankShadow k) = false ∧
        (∀ o y, bankShadow k o = true → u.staged o = some y → t.getKey o = y ∧ t.shadow o = u.shadow o) ∧
        (∀ o, bankShadow k o = false → t.getKey o = u.getKey o))

/-- A snap samples the capture unit's source banks, in a 64-entry buffer, each to be written 2,048 TU on; a due capture
goes to its ring, once the handoff has converted its stamp; the ring loses it under STOP when full, and the next is marked. -/
def Obligations.CapturesAreTakenAndWritten : Prop :=
  ∀ (s : State) (u : Fin 16) (levels : List (BitVec 16 × BitVec 16)) (k : Nat),
    let c := capR u
    let n := 2 ^ s.fld c 12 8
    let wr := (s.rd (c + 4)).toNat % n
    let rd := (s.rd (c + 8)).toNat % n
    let vi := s.ownerVi .pb (u / 2)
    let w := s.catchUpAll
    (s.bit c 0 = false ∨ s.bit c 3 = false → Does (.capSnap u levels) s (· = s)) ∧
    (s.bit c 0 = true → s.bit c 3 = true → (List.range 8).filter (fun i => w.bit c (24 + i)) = [k] →
      ((w.capBuf u).length < 64 → Does (.capSnap u levels) s fun t => ∃ e, t.capBuf u = w.capBuf u ++ [e] ∧
        e.stamp = s.now ∧ e.vec = w.rd (pbR k + 0x30) ∧ e.due = s.time.mono + 2048 ∧ e.flags = 1 + 2 * b2n (w.capLoss u) ∧
        (w.bit (pbR k + 0xC) 0 = true → w.calOn 2 k = false → (e.a, e.b) = (levels[0]?).getD (0, 0)) ∧
        (s.time.mono + 2048, Instr.captureWrite u) ∈ t.agenda ∧ SameStores s t) ∧
      (64 ≤ (w.capBuf u).length → Does (.capSnap u levels) s fun t => t.capBuf u = w.capBuf u ∧
        t.capLoss u = true ∧ t.rd (c + 12) = satAdd (w.rd (c + 12)) 1)) ∧
    (∀ e l, ((s.capBuf u).filter fun e => decide (e.due ≤ s.time.mono)).mergeSort entLe = e :: l → e.prov = true → Does (.captureWrite u) s fun t =>
      (s.time.nextKeep + 32, Instr.captureWrite u) ∈ t.agenda ∧ t.capBuf u = s.capBuf u ∧ SameRegs [] s t ∧ SameStores s t) ∧
    (∀ e l, ((s.capBuf u).filter fun e => decide (e.due ≤ s.time.mono)).mergeSort entLe = e :: l → e.prov = false → s.bit c 0 = true →
      ((wr + 1) % n = rd → s.bit c 1 = false → Does (.captureWrite u) s fun t =>
        t.rd (c + 12) = satAdd (s.rd (c + 12)) 1 ∧ SameRegs [devKey (c + 12)] s t ∧ SameStores s t ∧
        ((s.capBuf u).erase e = [] → t.capBuf u = [] ∧ t.capLoss u = true) ∧
        (∀ g m, ((s.capBuf u).erase e).mergeSort entLe = g :: m → t.capBuf u = { g with flags := g.flags % 2 + 2 } :: m)) ∧
      ((wr + 1) % n ≠ rd ∨ s.bit c 1 = true → s.ringOk vi c 20 = true → Does (.captureWrite u) s fun t =>
        t.rd (c + 4) = BitVec.ofNat 32 ((wr + 1) % n) ∧ t.capBuf u = (s.capBuf u).erase e ∧
        t.loadVi vi true (s.fld c 23 16 * 0x1000000 + 16 * wr) 16 = capBytes e ∧ (∀ a, t.vatB a = s.vatB a) ∧
        (∀ a, (∀ r ∈ s.ranges vi true (s.fld c 23 16 * 0x1000000 + 16 * wr) 16, a < r.1 ∨ r.1 + r.2 ≤ a) →
          t.memB a = s.memB a)))

/-- An event or FIRE begins a pulse 64 TU and the delay on, or is missed while the output is busy or SYN-C is muted; a timed pulse is
armed, disarmed and pulses at its target; a leading edge begins or extends the pulse, which ends at its trailing edge, each on the tap
of SYN-C nearest to it, the earlier of two equally near ones (the model's choice, log entry 121); a leading edge during a mute is missed
(the model's choice, log entry 122). -/
def Obligations.TriggerOutputsPulse : Prop :=
  ∀ (s : State) (n : Fin 8),
    let x := s.trg n
    let a := actId 5 n
    let r := trgR n
    let tgt := s.rd64 (r + 0x18) (r + 0x1C)
    let pulses (t : State) (at_ : Nat) : Prop := (t.trg n).leads = x.leads ++ [(at_, at_ + s.trgWidth n)] ∧
      (t.trg n).busyTo = max x.busyTo (at_ + s.trgWidth n) ∧ SameStores s t
    let event (c : Instr) : Prop :=
      (s.bit r 0 = false ∨ s.bit r 2 = false → Does c s (· = s)) ∧
      (s.bit r 0 = true → s.bit r 2 = true →
        (s.synBit 2 1 = true → Does c s fun t => t.rd (r + 0x28) = satAdd (s.rd (r + 0x28)) 1 ∧ t.bit (r + 8) 7 = true) ∧
        (s.synBit 2 1 = false → s.trgBusy n = true → Does c s fun t => t.rd (r + 0x28) = satAdd (s.rd (r + 0x28)) 1 ∧
          SameRegs [devKey (r + 0x28)] s t) ∧
        (s.synBit 2 1 = false → s.trgBusy n = false → Does c s fun t =>
          pulses t (s.time.mono + 64 + (s.rd (r + 0xC)).toNat) ∧ SameRegs [] s t))
    event (.fire n) ∧ event (.trgEvent n) ∧
    (s.noStart = true → Does (.trgArm n) s fun t => t.bit (r + 8) 6 = true ∧ SameRegs [devKey (r + 8)] s t) ∧
    (s.noStart = false → s.actReady a = true → 2048 ≤ lead tgt s.now → Does (.trgArm n) s fun t =>
      t.act a = { armed := true, target := tgt, drop := s.bit r 3 } ∧ t.bit (r + 8) 0 = true) ∧
    Does (.trgDisarm n) s (fun t => t.act a = {} ∧ t.bit (r + 8) 0 = false) ∧
    ((s.act a).armed = true → (s.act a).defer = false → s.trgEdgeAt n < s.time.mono + 32 →
      (s.synBit 2 1 = true → Does (.trgTimedPulse n) s fun t => (t.trg n).missed = true ∧ t.act a = s.act a ∧ SameRegs [] s t) ∧
      (s.synBit 2 1 = false → x.missed = false → Does (.trgTimedPulse n) s fun t => t.act a = {} ∧
        pulses t (s.trgEdgeAt n) ∧ t.bit (r + 8) 0 = false) ∧
      (s.synBit 2 1 = false → x.missed = true → lead (s.act a).target s.now < 2048 → (s.act a).drop = true →
        Does (.trgTimedPulse n) s fun t => t.act a = {} ∧ t.bit (r + 8) 3 = true ∧ (t.trg n).leads = x.leads) ∧
      (s.synBit 2 1 = false → x.missed = true → (s.act a).drop = false → Does (.trgTimedPulse n) s fun t =>
        t.act a = {} ∧ pulses t s.time.mono)) ∧
    (∀ b e, x.leads.find? (fun e => decide (e.1 < s.time.mono + 32)) = some (b, e) → s.synBit 2 1 = true →
      Does (.trgLeadingEdge n) s fun t => t.trg n = { x with leads := x.leads.erase (b, e) } ∧ t.bit (r + 8) 7 = true ∧
        t.rd (r + 0x28) = satAdd (s.rd (r + 0x28)) 1 ∧ SameRegs [devKey (r + 8), devKey (r + 0x28)] s t) ∧
    (∀ b e, x.leads.find? (fun e => decide (e.1 < s.time.mono + 32)) = some (b, e) → s.synBit 2 1 = false →
      (s.bit (r + 8) 1 = true → b ≤ x.trail → Does (.trgLeadingEdge n) s fun t => (t.trg n).trail = max x.trail e ∧
        (t.trg n).trailTap = s.onTap (max x.trail e * 2 ^ 40) ∧
        t.bit (r + 8) 4 = true ∧ (t.trg n).leads = x.leads.erase (b, e) ∧ SameRegs [devKey (r + 8)] s t) ∧
      (s.bit (r + 8) 1 = false ∨ x.trail < b → Does (.trgLeadingEdge n) s fun t => (t.trg n).trail = e ∧
        (t.trg n).leadTap = s.onTap (b * 2 ^ 40) ∧ (t.trg n).trailTap = s.onTap (e * 2 ^ 40) ∧
        t.bit (r + 8) 1 = true ∧ t.rd (r + 0x24) = s.rd (r + 0x24) + 1 ∧ (t.trg n).leads = x.leads.erase (b, e) ∧
        (s.cycleOf e, Instr.trgPulseEnd n) ∈ t.agenda)) ∧
    (s.bit (r + 8) 1 = true → x.trail < s.time.mono + 32 → Does (.trgPulseEnd n) s fun t => t.bit (r + 8) 1 = false ∧
      SameRegs [devKey (r + 8)] s t) ∧
    Does (.trgCntClr n) s (fun t => t.rd (r + 0x24) = (s.cy (r + 0x24)).added ∧ t.rd (r + 0x28) = (s.cy (r + 0x28)).added ∧
      SameRegs [devKey (r + 0x24), devKey (r + 0x28)] s t)

/-! ### Inputs and keys (12) -/

/-- A raw edge into another level changes the filtered level in its cycle with FILT = 0; one of a counting polarity is stamped, queued
in the 64-entry FIFO or lost with a count, counted, and fires, or is lost as an event while the pin's wake edge is held. With FCLK
stopped no edge is stamped; of a raw pulse below 2 ns both edges come or neither, by a free value (log entry 130). Asleep only a wake
pin's edge that lasts 100 ns acts: it is queued with COARSE_WAKE and its event is held. The clears and the comparators act as they say
(with FCLK stopped by the model's choice, log entry 123). -/
def Obligations.InputEdgesAreStampedAndQueued : Prop :=
  ∀ (s : State) (n : Fin 16) (rising : Bool) (stamp : Time),
    let x := s.tin n
    let r := tinR n + 4
    let awake : Prop := s.time.fclk = true ∧ ((∀ m, s.mode.trans ≠ .descent m) ∨ s.tinWakes n rising = false)
    let held : Prop := n.val < 4 ∧ ∃ e ∈ s.fab.heldP, e.1 = .tin (Fin.ofNat 4 n)
    let at_ := some (stamp, s.time.handoff)
    (∀ back, s.time.fclk = false → Does (.tinEdge n rising ⟨stamp, back⟩) s fun t =>
      t.tin n = { x with raw := rising != back.isSome, rawAt := none } ∧ t.fab = s.fab ∧ SameRegs [] s t ∧ SameStores s t) ∧
    (∀ b, awake → Does (.tinEdge n rising ⟨stamp, some b⟩) s fun t => t = s.fresh ∨
      ((t.tin n).raw = rising ∧ ∃ d, (s.time.mono + d, Instr.tinEdge n (!rising) ⟨b, none⟩) ∈ t.agenda)) ∧
    (awake → s.fld (tinR n) 13 8 ≠ 0 ∨ s.bit r 7 = rising → Does (.tinEdge n rising ⟨stamp, none⟩) s fun t =>
      t.tin n = { x with raw := rising, rawAt := at_ } ∧ t.fab = s.fab ∧ SameRegs [] s t ∧ SameStores s t) ∧
    (awake → s.fld (tinR n) 13 8 = 0 → s.bit r 7 ≠ rising →
      (s.bit (tinR n) 0 = true → polCounts (s.fld (tinR n) 3 2) rising = true →
        Does (.tinEdge n rising ⟨stamp, none⟩) s fun t => t.bit r 7 = rising ∧ (t.tin n).cnt = x.cnt + 1 ∧ SameStores s t ∧
          (¬held → (0, { s.srcOf (64 + n) stamp with prov := s.time.handoff }) ∈ t.fab.inflight) ∧
          (held → t.bit 0x448 n = true ∧ t.fab = s.fab) ∧
          (x.fifo.length < 64 → (t.tin n).fifo = x.fifo ++
              [{ stamp := stamp, edge := rising, coarse := false, loss := x.loss, prov := s.time.handoff }] ∧
            t.fld r 6 0 = x.fifo.length + 1 ∧ (t.tin n).loss = false) ∧
          (64 ≤ x.fifo.length → (t.tin n).fifo = x.fifo ∧ (t.tin n).loss = true ∧
            t.fld r 23 16 = min (s.fld r 23 16 + 1) 255)) ∧
      (s.bit (tinR n) 0 = false ∨ polCounts (s.fld (tinR n) 3 2) rising = false →
        Does (.tinEdge n rising ⟨stamp, none⟩) s fun t => t.bit r 7 = rising ∧ SameRegs [devKey r] s t ∧
          t.tin n = { x with raw := rising, rawAt := at_, run := 0 } ∧ t.fab = s.fab)) ∧
    (∀ (m : Fin 4) (lasts : Nat), s.awake = false → s.time.fclk = false → s.tinWakes m rising = true →
      (lasts < 2560 → Does (.tinWakeEdge m ⟨rising, lasts⟩) s (· = s)) ∧
      (2560 ≤ lasts → Does (.tinWakeEdge m ⟨rising, lasts⟩) s fun t =>
        (∃ y, (HeldSrc.tin m, y) ∈ t.fab.heldP) ∧ (t.tin m).raw = rising ∧ SameStores s t ∧
        ((s.tin m).fifo.length < 64 → (t.tin m).fifo = (s.tin m).fifo ++
          [{ stamp := s.keepNext, edge := rising, coarse := true, loss := (s.tin m).loss, prov := false }]))) ∧
    Does (.fifoClr n) s (fun t => (t.tin n).fifo = [] ∧ (t.tin n).win = none ∧ t.fld r 6 0 = 0 ∧ t.fld r 31 28 = 0 ∧
      SameRegs [devKey r] s t) ∧
    Does (.tinCntClr n) s (fun t => (t.tin n).cnt = 0 ∧ t.fld r 23 16 = bf (s.cy r).added 23 16 ∧ (t.tin n).fifo = x.fifo ∧
      SameRegs [devKey r] s t) ∧
    (∀ (m : Fin 4) (uv vccio : Nat),
      let w := s.setAcmp m { s.acmp m with uv := uv, vccio := vccio }
      let o := w.acmpOut m
      let c := acmpR m + 4
      (s.acmpLive m = false → Does (.acmpCrossing m ⟨uv, vccio⟩) s (· = w)) ∧
      (s.acmpLive m = true → s.fld (acmpR m) 25 20 ≠ 0 ∨ o = s.bit c 0 → Does (.acmpCrossing m ⟨uv, vccio⟩) s fun t =>
        t.acmp m = { w.acmp m with out := o } ∧ t.fab = s.fab ∧ SameRegs [] s t) ∧
      (s.acmpLive m = true → s.fld (acmpR m) 25 20 = 0 → o ≠ s.bit c 0 →
        (s.time.fclk = false ∨ polCounts (s.fld (acmpR m) 19 18) o = false → Does (.acmpCrossing m ⟨uv, vccio⟩) s fun t =>
          t.bit c 0 = o ∧ t.fab = s.fab ∧ SameRegs [devKey c] s t) ∧
        (s.time.fclk = true → polCounts (s.fld (acmpR m) 19 18) o = true → Does (.acmpCrossing m ⟨uv, vccio⟩) s fun t =>
          t.bit c 0 = o ∧ t.rd (acmpR m + 8) = s.rd (acmpR m + 8) + 1 ∧ (0, s.srcOf (80 + m) s.now) ∈ t.fab.inflight ∧
          SameRegs [devKey c, devKey (acmpR m + 8)] s t)))

/-- A conversion is queued, refused while one is, or refused for a reserved channel, and its value stands in MADC_DATA;
the temperature, its peak and the thermal causes follow each update; a scan touches only enabled keys, a touch needs the
debounce's scans, and one longer than MAX_ON is stuck. -/
def Obligations.TheMonitorConvertsAndKeysTouch : Prop :=
  ∀ (s : State) (ch : BitVec 5) (value temp : BitVec 16),
    (s.bit 0x2B84 30 = true → Does (.madcGo ch) s (fun t => t.bit 0x2B84 29 = true ∧ SameRegs [devKey 0x2B84] s t) ∧
      (s.madcTaken = true → Does (.madcDone value) s fun t => (s.time.mono + s.cycleTu, Instr.madcDone value) ∈ t.agenda ∧
        SameRegs [] s t) ∧
      (s.madcTaken = false → Does (.madcDone value) s fun t => t.bit 0x2B84 30 = false ∧ t.bit 0x2B84 31 = true ∧
        t.fld 0x2B84 15 0 = value.toNat ∧ t.fld 0x2B84 20 16 = s.fld 0x2B84 20 16 ∧ SameRegs [devKey 0x2B84] s t)) ∧
    (s.bit 0x2B84 30 = false → 27 ≤ ch.toNat → Does (.madcGo ch) s fun t => t.bit 0x2B84 28 = true ∧
      t.bit 0x2B84 30 = false ∧ SameRegs [devKey 0x2B84] s t) ∧
    (s.bit 0x2B84 30 = false → ch.toNat < 27 → Does (.madcGo ch) s fun t => t.bit 0x2B84 30 = true ∧
      t.fld 0x2B84 20 16 = ch.toNat ∧ (∃ y, (s.time.mono + us 10, Instr.madcDone y) ∈ t.agenda) ∧ SameRegs [devKey 0x2B84] s t) ∧
    (s.awake = true → Does (.tempUpdate temp) s fun t => t.rd 0x2B88 = temp.setWidth 32 ∧ t.peakTaken = false ∧
      t.rd 0x2B8C = (if s.peakTaken = true ∨ sext 16 (s.fld 0x2B8C 15 0) < temp.toInt then temp.setWidth 32 else s.rd 0x2B8C) ∧
      ((∀ c < 3, s.bit 0x414 c = true → s.bit 0x418 c = true) → SameRegs [devKey 0x2B88, devKey 0x2B8C] s t) ∧
      (2240 ≤ temp.toInt → sext 16 (s.fld 0x2B88 15 0) < 2240 → (s.time.mono, Instr.thermalWarning) ∈ t.agenda) ∧
      (temp.toInt < 2160 → s.bit 0x418 0 = true → (s.time.mono, Instr.safeCauseCleared 0) ∈ t.agenda)) ∧
    (∀ (n : Fin 6) (raw : Int) (raws : List Int), raws.length = 6 → raws[n.val]? = some raw →
      s.mode.eff ≠ .shelf ∨ s.bit 0x410 25 = true → (∀ m < 6, m ≠ n.val → s.bit (keyR m) 0 = false) →
      (s.bit (keyR n) 0 = false → Does (.keyScan raws) s (· = s)) ∧
      (s.bit (keyR n) 0 = true → s.bit (keyR n + 4) 1 = false → Does (.keyScan raws) s fun t =>
        t.fld (keyR n + 4) 31 16 = (BitVec.ofInt 16 (sat16 (raw - (s.key n).base))).toNat ∧ (t.key n).raw = raw ∧ SameStores s t) ∧
      (s.bit (keyR n) 0 = true → s.bit (keyR n + 4) 1 = false → s.bit (keyR n + 4) 0 = true → Does (.keyScan raws) s fun t =>
        t.bit (keyR n + 4) 0 = decide ((s.fld (keyR n) 31 16 : Int) ≤ 2 * (raw - (s.key n).base))) ∧
      (s.bit (keyR n) 0 = true → s.bit (keyR n + 4) 1 = false → s.bit (keyR n + 4) 0 = false → s.awake = true →
        (s.fld (keyR n) 31 16 : Int) ≤ raw - (s.key n).base → Does (.keyScan raws) s fun t =>
          t.bit (keyR n + 4) 0 = decide (s.fld 0x2BA0 2 1 ≤ (s.key n).deb) ∧
          (s.fld 0x2BA0 2 1 ≤ (s.key n).deb → s.time.fclk = true → (∀ e ∈ s.fab.heldP, e.1 ≠ .key n) → (0, s.srcOf (84 + n) s.now) ∈ t.fab.inflight))) ∧
    (∀ n : Fin 6, s.bit (keyR n + 4) 0 = true → (s.key n).since + s.fld 0x2BA0 28 16 * ms 1000 < s.time.mono →
      Does (.keyStuck n) s fun t => t.bit 0x2BA4 n = true ∧ t.bit (keyR n + 4) 2 = true ∧ t.bit (keyR n + 4) 0 = false ∧
        (t.key n).base = (s.key n).raw ∧ (s.time.fclk = true → (0, s.srcOf 174 s.now) ∈ t.fab.inflight)) ∧
    Does .keyBaselineDrift s (fun t => SameRegs [] s t ∧ SameStores s t ∧ (∀ n < 6, s.bit (keyR n) 0 = false → t.key n = s.key n) ∧
      ∀ n < 6, s.bit (keyR n) 0 = true → (s.time.mono + ms 500, Instr.keyBaselineDrift) ∈ t.agenda)

/-! ### Scan-out (13) -/

/-- A push or a flip event queues one entry on the link's queue or finds it full (QFULL for a push); FRAME_GO is pending
once; a flush empties the queue and disarms its timed entries; a tearing-effect edge fires. At a line boundary with a
reason to start one, a frame starts: it is counted and stamped, it takes the head that is due or wanted, or repeats with a
count; its first blanking line fires. -/
def Obligations.FramesQueueAndStart : Prop :=
  (∀ (s : State) (l : Fin 2) (v : Word),
     let q := s.qLink l
     let r := dsiR l + 0x10
     let tgt := s.rd64 (dsiR l + 4) (dsiR l + 8)
     (s.dsiFull l = true → Does (.qpush l v) s (fun t => t.bit (dsiR q + 0x14) 5 = true ∧ t.disp = s.disp ∧
         SameRegs [devKey (dsiR q + 0x14)] s t) ∧ Does (.dsiEventFlip l) s (· = s)) ∧
     (s.dsiFull l = false → tb v 8 = false → Does (.qpush l v) s fun t =>
       t.dsiQ q = s.dsiQ q ++ [{ fb := bf v 5 0, slot := none }] ∧ SameStores s t) ∧
     (s.dsiFull l = false → tb v 8 = true → (∀ i < 8, s.actReady (qAct q i) = true) → 2048 ≤ lead tgt s.now →
       Does (.qpush l v) s fun t => ∃ i < 8, t.dsiQ q = s.dsiQ q ++ [{ fb := bf v 5 0, slot := some i }] ∧
         t.act (qAct q i) = { armed := true, target := tgt, drop := tb v 9 }) ∧
     (s.lock2 = true → l = 1 → Does (.dsiEventFlip l) s (· = s)) ∧
     (s.lock2 = false ∨ l = 0 → s.dsiFull l = false → Does (.dsiEventFlip l) s fun t =>
       t.dsiQ l = s.dsiQ l ++ [{ fb := s.fld r 5 0, slot := none }] ∧ SameRegs [devKey r] s t ∧
       t.fld r 5 0 = (if s.bit r 24 = false then s.fld r 5 0 else if s.fld r 5 0 = s.fld r 21 16 then s.fld r 13 8
         else (s.fld r 5 0 + 1) % 64)) ∧
     Does (.qflush l) s (fun t => t.dsiQ l = [] ∧ SameStores s t ∧ ∀ e ∈ s.dsiQ l, ∀ i, e.slot = some i → t.act (qAct l i) = {}) ∧
     ((s.lk l).running = true → (s.lk l).go = none → (s.lock2 = false ∨ l = 0) → Does (.frameGo l) s fun t =>
       t.lk l = { s.lk l with go := some s.time.mono } ∧ t.bit (dsiR l + 0x14) 2 = true ∧ SameRegs [devKey (dsiR l + 0x14)] s t) ∧
     ((s.lk l).running = false ∨ (s.lk l).go.isSome = true → Does (.frameGo l) s (· = s)) ∧
     (∀ rising, s.awake = true → s.bit (dsiR l + 0x34) 0 = true → rising ≠ s.bit (dsiR l + 0x34) 1 → s.time.fclk = true →
       Does (.teEdge l rising) s fun t => t.fab.inflight = s.fab.inflight ++ [(0, s.srcOf (95 + l) s.now)] ∧ SameRegs [] s t)) ∧
  (∀ (s : State) (l : Fin 2) (j : Nat),
     let at_ := s.disp.tl.at_ j
     let w := s.frameWhy l j at_
     let r := dsiR l
     let x := s.lk l
     (s.lineNow = none → Does (.frameStart l) s (· = s)) ∧
     (s.lineNow = some j → w = 0 → Does (.frameStart l) s (· = s)) ∧
     (s.lineNow = some j → w ≠ 0 → (∀ o ∈ [0x18, 0x1C, 0x24, 0x38], s.staged (r + o) = none) →
       Does (.frameStart l) s fun t => (t.lk l).line0 = j ∧ (t.lk l).notional = false ∧ (t.lk l).go = none ∧
         t.rd (r + 0x18) = s.rd (r + 0x18) + 1 ∧ SameStores s t ∧
         t.rd64 (r + 0x1C) (r + 0x38) = s.now + BitVec.ofNat 64 (at_ - s.time.mono) ∧
         (s.time.fclk = true → (0, s.srcOf 90 s.now) ∈ t.fab.inflight) ∧
         (w = 1 ∨ w = 2 → ∀ e, s.frameHead l = some e → (w = 2 → e.slot = none) → (t.lk l).buf = some e.fb ∧
           (s.time.fclk = true → (0, s.srcOf 97 s.now) ∈ t.fab.inflight)) ∧
         (w = 2 → (∀ e, s.frameHead l = some e → e.slot ≠ none) → (t.lk l).buf = x.buf) ∧
         (w = 3 → (t.lk l).buf = x.buf ∧ t.rd (r + 0x24) = satAdd (s.rd (r + 0x24)) 1)) ∧
     (s.lineNow = some j → s.blanks l j = true → s.time.fclk = true →
       Does (.blankingStart l) s fun t => t.fab.inflight = s.fab.inflight ++ [(0, s.srcOf 91 s.now)] ∧ SameRegs [] s t ∧
         (t.lk l).blanked = true ∧ (s.fld 0x2C2C 7 0 = 0 → t.lk l = { x with blanked := true, frames := x.frames + 1 })) ∧
     Does .dispCntClr s (fun t => t.rd 0x2D48 = (s.cy 0x2D48).added ∧
       (∀ i < 2, ∀ o ∈ [0x24, 0x28, 0x2C, 0x30], t.rd (dsiR i + o) = (s.cy (dsiR i + o)).added) ∧ SameStores s t))

/-- A start is refused with its reason, a refused admission with its demand, or accepted with its demand admitted; from
the first line boundary the links run; STOP and STOP_NOW ask them to stop, and the last that stops ends the scan-out. -/
def Obligations.ScanOutStartsAndStops : Prop :=
  ∀ (s : State),
    let v := s.dispVi
    let need := classMBps (s.fld 0x2C00 31 28)
    let asked (now : Bool) (t : State) : Prop := t.dispState = 3 ∧ SameRegs [devKey 0x2C08] s t ∧
      ∀ l < 2, (t.lk l).stopReq = some (now || ((s.lk l).stopReq).getD false)
    (∀ w, s.dispWhy = some w → Does .dispStart s fun t => t.bit 0x2C08 10 = true ∧ t.fld 0x2C08 19 16 = w ∧
      t.dispState = s.dispState ∧ t.disp = s.disp ∧ (w ≠ 8 → SameRegs [devKey 0x2C08] s t) ∧
      (w = 8 → t.bitv v 0x182C 1 = true ∧ t.fldv v 0x182C 31 16 = need % 65536 ∧
        t.rdv v 0x1830 = satAdd (s.rdv v 0x1830) 1)) ∧
    (s.dispWhy = none → Does .dispStart s fun t => t.dispState = 1 ∧ t.disp.demand = need ∧ t.disp.rects = [] ∧ t.disp.waiting = !s.domOn 23 ∧
      t.rd 0x1824 = BitVec.ofNat 32 (s.fld 0x1824 15 0 + need) ∧ SameStores s t) ∧
    (s.firstLine = true → Does .scanoutFirstLine s fun t => t.dispState = (if s.dispState = 1 then 2 else s.dispState) ∧ 
      ∀ l < 2, s.bit 0x2C00 (16 + l) = true → (t.lk l).running = true ∧
        ((s.lk l).running = false → (t.lk l).line0 = 0 ∧ (t.lk l).notional = true)) ∧
    (s.dispState = 0 → Does .stop s (· = s)) ∧
    (s.dispState ≠ 0 → Does .stop s (asked false) ∧ (s.synBit 3 1 = false → Does .stopNow s (asked true)) ∧
      (s.synBit 3 1 = true → Does .stopNow s fun t => t.dispState = 0 ∧ (t.lk 0).running = false ∧ (t.lk 1).running = false)) ∧
    (∀ (l : Fin 2) (j : Nat), s.lineNow = some j → s.stopsHere l j = true → Does (.scanoutStopped l) s fun t =>
      (t.lk l).running = false ∧ t.bit (dsiR l + 0x14) 0 = false ∧ SameStores s t ∧
      ((s.lk (1 - l.val)).running = true → t.dispState = s.dispState) ∧
      ((s.lk (1 - l.val)).running = false → s.dispState ≠ 0 → t.dispState = 0 ∧
        t.rd 0x1824 = BitVec.ofNat 32 (s.fld 0x1824 15 0 - s.disp.demand)))

/-- What was staged before the cycle applies at the chosen line, a colour preset stages its matrix and offsets, a line that underruns is
counted and background from there on, a rectangle's CRC is written and compared, and a register packet is refused, sent or
waits. -/
def Obligations.LinesPresetsRectanglesAndPackets : Prop :=
  ∀ (s : State),
    (s.dispState = 0 ∨ (∃ j, s.lineNow = some j ∧ (s.lk s.applyLink).line j = s.fld 0x2C1C 15 0) → Does .applyLine s fun t =>
      t.pendingStaged dispShadow = false ∧ SameStores s t ∧
      (∀ o y, dispShadow o = true → s.staged o = some y → t.getKey o = y ∧ t.shadow o = s.shadow o) ∧
      (∀ o, s.staged o = none → t.getKey o = s.getKey o)) ∧
    Does (.cscPreset 0) s (fun t => t.bit 0x2C08 9 = true ∧ t.shadows = s.shadows ∧ SameRegs [devKey 0x2C08] s t) ∧
    (∀ code : BitVec 2, code ≠ 0 → Does (.cscPreset code) s fun t => SameRegs [] s t ∧
      (∀ k < 9, sext 16 (bf (t.shadow (0x2C34 + 4 * (k / 2))) (16 * (k % 2) + 15) (16 * (k % 2))) =
        ((cscTable code.toNat).1[k]?).getD 0) ∧
      (∀ k < 6, sext 11 (bf (t.shadow (0x2C48 + 4 * (k / 2))) (16 * (k % 2) + 10) (16 * (k % 2))) =
        ((cscTable code.toNat).2[k]?).getD 0)) ∧
    (∀ (l : Fin 2) (col : Nat), s.linkActive l = true →
      let q := s.qLink l
      Does (.lineUnderrun l col) s fun t => (t.lk l).ur = some (min col (((s.lk l).ur).getD col)) ∧
        t.bit (dsiR q + 0x14) 3 = true ∧ t.rd (dsiR q + 0x28) = satAdd (s.rd (dsiR q + 0x28)) 1 ∧ (t.lk q).urFrame = true ∧
        ((s.lk q).urFrame = false → s.time.fclk = true → (0, s.srcOf 94 s.now) ∈ t.fab.inflight) ∧
        ((s.lk q).urFrame = true → t.fab = s.fab)) ∧
    (∀ (n : Fin 4) (r : RectRun), s.disp.rects.find? (fun r => r.n == n.val && s.rectDue r) = some r →
      let q := s.lk (s.qLink r.link)
      let crc := BitVec.ofNat 32 ((if r.done < r.h then s.rectLine r else r).crc ^^^ 0xFFFFFFFF)
      let bad : Prop := r.chk = true ∧ q.bufOk = true ∧ q.bg = false ∧ s.mode.eff ≠ .safe ∧
        crc.toNat ≠ ((parseFb q.desc).exp[n.val]?).getD 0
      Does (.rectCrc n) s fun t => t.rd (0x2D0C + 0x10 * n) = crc ∧ r ∉ t.disp.rects ∧
        (bad → t.bit 0x2D40 n = true ∧ t.rd 0x2D48 = satAdd (s.rd 0x2D48) 1 ∧
          t.rd 0x2D44 = s.rd (dsiR (s.qLink r.link) + 0x18)) ∧ (¬ bad → SameRegs [devKey (0x2D0C + 0x10 * n)] s t)) ∧
    (∀ v : Word,
      let bad : Prop := s.bit 0x2C08 13 = true ∨ bf v 5 0 ∈ [0x04, 0x06, 0x14, 0x24] ∨ 64 < bf v 15 8
      let p := (setBit v 31 false, s.pktBytes v)
      (bad → Does (.pktGo v) s fun t => t.bit 0x2C08 14 = true ∧ t.disp = s.disp ∧
        t.rd 0x2C54 = setBit v 31 false &&& 0x3FF3F ∧ SameRegs [devKey 0x2C54, devKey 0x2C08] s t) ∧
      (¬ bad → (s.lk (bf v 16 16)).running = true → Does (.pktGo v) s fun t => t.disp.packet = some p ∧
        t.bit 0x2C08 13 = true ∧ t.disp.sent = s.disp.sent) ∧
      (¬ bad → (s.lk (bf v 16 16)).running = false → Does (.pktGo v) s fun t => t.disp.packet = none ∧
        t.bit 0x2C08 13 = false ∧ t.disp.sent = s.disp.sent ++ [p])) ∧
    (∀ p, s.disp.packet = some p → ((s.lk (bf p.1 16 16)).running = false ∨
        ∃ j, s.lineNow = some j ∧ s.blankLine (s.qLink (bf p.1 16 16)) j = true) → Does .pktSend s fun t =>
      t.disp.packet = none ∧ t.disp.sent = s.disp.sent ++ [p] ∧ t.bit 0x2C08 13 = false ∧ SameRegs [devKey 0x2C08] s t)

/-! ### Calibration and Affinage (14) -/

/-- A foreground calibration waits while the supervisor restarts, is refused with the first failing reason, or runs; it
ends accepted or rejected as a whole, with its figures and an entry of the history, or is aborted where a cause of R394
holds. -/
def Obligations.CalibrationsRunEndAndAbort : Prop :=
  ∀ (s : State) (v : Fin 32) (inst : Fin 16),
    let logged (t : State) : Prop := t.fld 0x3180 31 16 = (s.fld 0x3180 31 16 + 1) % 65536 ∧
      t.fld 0x3180 5 0 = s.fld 0x3180 31 16 % 64 ∧ t.cal.run = none ∧ SameStores s t
    let go (c : Instr) (kind i : Nat) : Prop :=
      (s.rst.coreBusy = true → Does c s fun t => t.rst.coreWait = s.rst.coreWait ++ [c] ∧ SameRegs [] s t ∧ t.cal = s.cal) ∧
      (∀ w, s.rst.coreBusy = false → s.calWhy v kind i = some w → Does c s fun t => t.bitv v 0x3004 3 = true ∧
        t.fldv v 0x3004 11 8 = w ∧ t.fldv v 0x3004 15 12 = kind ∧ t.fldv v 0x3004 19 16 = i ∧ t.cal = s.cal ∧
        SameRegs [viKey v 0x3004] s t ∧ SameStores s t) ∧
      (s.rst.coreBusy = false → s.calWhy v kind i = none → Does c s fun t => t.bitv v 0x3004 0 = true ∧
        (∃ p, s.calInst v kind i = some p ∧ t.cal.run = some (v.val, kind, p)) ∧ SameStores s t)
    go (.calDac v inst) 1 inst ∧ go (.calBankDeskew v inst) 2 inst ∧ go (.calDphyDeskew v inst) 3 inst ∧
    go (.calMadc v) 4 0 ∧ go (.calKlRetrain v inst) 5 inst ∧
    (∀ (r : CalRes) (u kind p : Nat), s.cal.run = some (u, kind, p) → p < 8 →
      (s.calLimit kind r ≠ 0 → Does (.calDone r) s fun t => logged t ∧ t.bitv u 0x3004 2 = true ∧ t.bitv u 0x3004 0 = false ∧
        t.fldv u 0x3004 31 27 = s.calLimit kind r ∧ t.rdv u 0x3008 = satAdd (s.rdv u 0x3008) 1 ∧
        t.rdv u 0x300C = BitVec.ofNat 32 (r.fig1.toNat + 65536 * r.fig2.toNat) ∧ t.cal.anchors = s.cal.anchors) ∧
      (s.calLimit kind r = 0 → Does (.calDone r) s fun t => logged t ∧ t.bitv u 0x3004 1 = true ∧ t.bitv u 0x3004 0 = false ∧
        t.rdv u 0x300C = BitVec.ofNat 32 (r.fig1.toNat + 65536 * r.fig2.toNat) ∧
        (kind = 2 → t.rd (0x3080 + 4 * p) = BitVec.ofNat 32 r.fig1.toNat))) ∧
    (∀ why : AbortWhy,
      (s.abortHolds why = true → Does (.calAbort why) s fun t => logged t ∧ t.cal.anchors = s.cal.anchors ∧
        ∀ r, s.cal.run = some r → t.bitv r.1 0x3004 4 = true ∧ t.fldv r.1 0x3004 31 27 = abortCode why) ∧
      (s.abortHolds why = false → Does (.calAbort why) s (· = s)))

/-- A background update outside its limits is rejected, with the reason in the owner's CAL_STATUS and a count; within them
it is adopted: the tap table, the gain of a DTC, or the anchors of a channel's cells. A set is saved at the current
temperature unless another lies within 1 °C of it; clearing a set re-anchors every item; both wait while the supervisor restarts; the evaluation takes
the current temperature. -/
def Obligations.AffinageAndCalibrationSets : Prop :=
  (∀ s : State,
     let rejected (v target why : Nat) (t : State) : Prop := t.bit 0x3014 target = true ∧
       t.fld 0x3014 31 16 = min (s.fld 0x3014 31 16 + 1) 65535 ∧ t.bitv v 0x3004 2 = true ∧
       t.fldv v 0x3004 31 27 = why ∧ t.rdv v 0x3008 = satAdd (s.rdv v 0x3008) 1 ∧ t.cal.anchors = s.cal.anchors ∧
       t.cal.taps = s.cal.taps ∧ t.cal.dtc = s.cal.dtc ∧ SameStores s t
     (∀ (c : Bool) (hits : List Nat) (period : Nat) (dnl : BitVec 16), s.affOn 0 = true → hits.length = 32 → hits.sum = 1048576 →
       let r := 0x3060 + 4 * b2n c
       let v := if c then s.ownerVi .misc 2 else 0
       ((∃ h ∈ hits, h * 64 < 1048576 ∨ 3 * 1048576 < h * 64) →
         Does (.affTapUpdate c hits period dnl) s (rejected v 0 3)) ∧
       ((∀ h ∈ hits, 1048576 ≤ h * 64 ∧ h * 64 ≤ 3 * 1048576) →
         (s.fld 0x3028 15 0 < dnl.toNat → Does (.affTapUpdate c hits period dnl) s (rejected v 0 5)) ∧
         (dnl.toNat ≤ s.fld 0x3028 15 0 → Does (.affTapUpdate c hits period dnl) s fun t =>
           Tab.get (fun _ => []) t.cal.taps (b2n c) = period :: hits ∧ t.fld r 15 0 = dnl.toNat ∧
           t.fld r 31 16 = (s.fld r 31 16 + 1) % 65536 ∧ SameRegs [devKey r] s t))) ∧
     (∀ (x : Fin 4) (gain step : Int), s.affOn 1 = true → s.synBit x 0 = true →
       s.fld (synR x + 8) 23 0 ≠ 0 ∨ s.effOfs x ≠ 0 →
       let v := if x.val = 0 then 0 else s.ownerVi .misc x
       (1000 < gain.natAbs → Does (.affDtcUpdate x gain step) s (rejected v 1 3)) ∧
       (gain.natAbs ≤ 1000 → 100 < step.natAbs → Does (.affDtcUpdate x gain step) s (rejected v 1 4)) ∧
       (gain.natAbs ≤ 1000 → step.natAbs ≤ 100 → Does (.affDtcUpdate x gain step) s fun t =>
         Tab.get (fun _ => 0) t.cal.dtc x.val = gain ∧ SameRegs [] s t)) ∧
     (∀ (n : Fin 8) (cells : List (BitVec 10 × Option Int)) (inl sfdr : BitVec 16),
       (s.dacTracked n = false → Does (.affDacUpdate n cells inl sfdr) s (· = s)) ∧
       (s.dacTracked n = true → s.fld 0x3020 15 0 < inl.toNat →
         Does (.affDacUpdate n cells inl sfdr) s (rejected (s.ownerVi .aout n) 2 1)) ∧
       (s.dacTracked n = true → inl.toNat ≤ s.fld 0x3020 15 0 → sfdr.toNat < s.fld 0x3024 15 0 →
         Does (.affDacUpdate n cells inl sfdr) s (rejected (s.ownerVi .aout n) 2 2)) ∧
       (s.dacTracked n = true → inl.toNat ≤ s.fld 0x3020 15 0 → s.fld 0x3024 15 0 ≤ sfdr.toNat →
         (∀ c ∈ cells, c.1.toNat < 67 → ∀ x, c.2 = some x → inRange (itemKey 1 (n.val * 128 + c.1.toNat)) x = true ∧
           (x - s.working (itemKey 1 (n.val * 128 + c.1.toNat))).natAbs ≤ s.fld 0x3038 15 0) →
         Does (.affDacUpdate n cells inl sfdr) s fun t => SameStores s t ∧ t.cal.tracked.getLsbD n = true ∧
           t.rd (0x3040 + 4 * n) = BitVec.ofNat 32 (inl.toNat + 65536 * sfdr.toNat) ∧
           ((cells.map (·.1)).Nodup → ∀ c ∈ cells, c.1.toNat < 67 → ∀ x, c.2 = some x →
             Tab.get (fun _ => none) t.cal.anchors (itemKey 1 (n.val * 128 + c.1.toNat)) = some { a := x, t := s.tempNow })))) ∧
  (∀ (s : State) (i : Fin 8), s.rst.coreBusy = true →
     Does (.save i) s (fun t => t.rst.coreWait = s.rst.coreWait ++ [.save i] ∧ t.cal = s.cal ∧ SameRegs [] s t) ∧
     Does (.clear i) s (fun t => t.rst.coreWait = s.rst.coreWait ++ [.clear i] ∧ t.cal = s.cal ∧ SameRegs [] s t)) ∧
  (∀ (s : State) (i : Fin 8), s.rst.coreBusy = false →
     let near : Prop := ∃ j < 8, j ≠ i.val ∧ ∃ d, s.calSet j = some d ∧ (d.temp - s.tempNow).natAbs ≤ 16
     (near → Does (.save i) s fun t => t.bitv 0 0x3004 2 = true ∧ t.fldv 0 0x3004 31 27 = 15 ∧ t.cal.sets = s.cal.sets ∧
       t.rdv 0 0x3008 = satAdd (s.rdv 0 0x3008) 1) ∧
     (¬ near → Does (.save i) s fun t => (∃ c, t.calSet i = some c ∧ c.temp = s.tempNow ∧ c.words.length = allItems.length) ∧
       (∀ j, j ≠ i.val → t.calSet j = s.calSet j) ∧ t.cal.anchors = s.cal.anchors ∧
       t.fld 0x3180 31 16 = (s.fld 0x3180 31 16 + 1) % 65536) ∧
     Does (.clear i) s (fun t => t.calSet i = none ∧ (∀ j, j ≠ i.val → t.calSet j = s.calSet j) ∧ t.cal.anchors = [] ∧
       t.cal.refSets = t.cal.sets ∧ t.cal.temp = s.tempNow ∧ t.bit 0x3104 i = false ∧ SameStores s t)) ∧
  (∀ s : State,
     (s.affOn 3 = true → Does .calsetTempEval s fun t => t.cal.temp = s.tempNow ∧ t.cal.anchors = s.cal.anchors ∧
       t.fld 0x3104 31 16 = (BitVec.ofInt 16 s.tempNow).toNat ∧ SameStores s t) ∧
     (s.affOn 3 = false → Does .calsetTempEval s (· = s)))

/-! ### Virtual interfaces (15) -/

/-- A post is refused by the receiver's mask, discarded by a receiver in reset, turned away by a full queue, or stands in
the queue with its source pending; a flush empties the queues, and each sender counts; the clears of a VI's counters and
of a fault record, and the port time-out. A semaphore is released by its VI and handed by its VI to one of its running
sequencers that does not halt in this cycle; anything else is an error and leaves every semaphore as it was. -/
def Obligations.MailboxesAndSemaphores : Prop :=
  (∀ (s : State) (v d : Fin 32) (w : Word), bf w 4 0 = d.val →
     let q := bf w 17 16
     let full : Prop := 32 ≤ ((s.vi d).queue q).length
     let msg : Msg := { at_ := s.time.mono, vi := v, seqr := none, epoch := (s.vi v).epoch, seq := (s.vi v).mbSeq, q := q,
                        payload := cat64 (s.rdv v 0x284) (s.rdv v 0x280) }
     (tb w 31 = false → Does (.mbPost v w) s (· = s)) ∧
     (tb w 31 = true → s.bitv d 0x290 v = false → Does (.mbPost v w) s fun t => t.fldv v 0x28C 1 0 = 2 ∧
       t.rdv v 0x298 = satAdd (s.rdv v 0x298) 1 ∧ t.vis = s.vis) ∧
     (tb w 31 = true → s.bitv d 0x290 v = true → (s.vi d).inReset = true → Does (.mbPost v w) s fun t =>
       t.fldv v 0x28C 1 0 = 3 ∧ t.rdv v 0x294 = satAdd (s.rdv v 0x294) 1 ∧ t.vis = s.vis) ∧
     (tb w 31 = true → s.bitv d 0x290 v = true → (s.vi d).inReset = false →
       (full → Does (.mbPost v w) s fun t => t.fldv v 0x28C 1 0 = 1 ∧ t.rdv v 0x298 = satAdd (s.rdv v 0x298) 1 ∧
         t.vis = s.vis) ∧
       (¬ full → Does (.mbPost v w) s fun t => t.fldv v 0x28C 1 0 = 0 ∧ t.fldv v 0x28C 31 16 = (s.vi v).mbSeq % 65536 ∧
         t.bitv d 0x180 (2 + q) = true ∧ (t.vi v).mbSeq = ((s.vi v).mbSeq + 1) % 65536 ∧
         (t.vi d).queue q = putMsg msg ((s.vi d).queue q))) ∧
     Does (.mbFlush v) s (fun t => (∀ i < 4, (t.vi v).queue i = [] ∧ t.bitv v 0x29C (8 * i + 6) = false) ∧
       ∀ u, t.rdv u 0x294 = satAdd (s.rdv u 0x294)
         (((s.vi v).q0 ++ (s.vi v).q1 ++ (s.vi v).q2 ++ (s.vi v).q3).filter fun m => m.vi == u).length) ∧
     Does (.viCntClr v) s (fun t => (∀ o ∈ [0x294, 0x298, 0x120], t.rdv v o = (s.cy (viKey v o)).added) ∧
       t.fldv v 0x124 31 16 = bf (s.cy (viKey v 0x124)).added 31 16 ∧ t.fldv v 0x124 15 0 = s.fldv v 0x124 15 0) ∧
     (∀ r : Fin 8, Does (.viPwfClr v r) s fun t => t.bitv v 0x124 r = false ∧ SameRegs [viKey v 0x124] s t) ∧
     (∀ m, s.out.find? (s.rspLate v) = some m → Does (.rspTimeout v) s fun t =>
       t.rdv v 0x120 = satAdd (s.rdv v 0x120) 1 ∧ t.bitv v 0x180 28 = true ∧ ∃ l, t.out = s.out.erase m ++ l)) ∧
  (∀ (s : State) (v : Fin 32) (n : Fin 64) (w : Word),
     (∀ q, (s.sem n).owner = some (v.val, q) → Does (.semRel v n) s fun t => t.sem n = {} ∧ (∀ m, m ≠ n.val → t.sem m = s.sem m) ∧
       SameRegs [] s t) ∧
     ((∀ q, (s.sem n).owner ≠ some (v.val, q)) → Does (.semRel v n) s fun t => t.bitv v 0x2AC 0 = true ∧ t.sems = s.sems ∧
       SameRegs [viKey v 0x2AC] s t) ∧
     (tb w 31 = false → Does (.semGive v w) s (· = s)) ∧
     (∀ k, tb w 31 = true → s.phys v .seq (bf w 11 8) = some k → (s.sem (bf w 5 0)).owner = some (v.val, none) →
       s.seqOn k = true → s.haltsNow k = false → Does (.semGive v w) s fun t =>
         t.sem (bf w 5 0) = { owner := some (v.val, some k), epoch := (s.vi v).epoch } ∧ SameRegs [] s t) ∧
     (tb w 31 = true → (∀ k, s.phys v .seq (bf w 11 8) = some k → (s.sem (bf w 5 0)).owner ≠ some (v.val, none) ∨
         s.seqOn k = false ∨ s.haltsNow k = true) → Does (.semGive v w) s fun t => t.bitv v 0x2AC 1 = true ∧ t.sems = s.sems ∧
       SameRegs [viKey v 0x2AC] s t))

/-- Bindings change where they may; an edit is refused with its reason or accepted for 1 µs later, and then the whole
staged table is in force at once and every sequencer that changes its owner halts; a discard drops the staged table. -/
def Obligations.BindingsAndPartitionsChange : Prop :=
  ∀ s : State,
    (∀ (j : Fin 2) (w : Word), s.bit 0x3C00 16 = true → w ≠ s.rd (0x3C10 + 4 * j) → Does (.viBind j w) s fun t =>
      t.rd (0x3C10 + 4 * j) = s.rd (0x3C10 + 4 * j) ∧ t.bitv 0 0x10C 5 = true ∧ SameStores s t) ∧
    (∀ (j : Fin 2) (w : Word), s.bit 0x3C00 16 = false → Does (.viBind j w) s fun t =>
      ∀ i < 16, (s.bindOk j i (bf w (2 * i + 1) (2 * i)) = true → t.fld (0x3C10 + 4 * j) (2 * i + 1) (2 * i) =
          bf w (2 * i + 1) (2 * i)) ∧
        (s.bindOk j i (bf w (2 * i + 1) (2 * i)) = false → t.bit 0x3C08 5 = true ∧
          t.fld (0x3C10 + 4 * j) (2 * i + 1) (2 * i) = s.fld (0x3C10 + 4 * j) (2 * i + 1) (2 * i))) ∧
    (s.rst.coreBusy = true → Does .apply s fun t => t.rst.coreWait = s.rst.coreWait ++ [.apply]) ∧
    (s.rst.coreBusy = false →
      let refused (why : Nat) (t : State) : Prop := t.bit 0x3C08 4 = true ∧ t.fld 0x3C08 11 8 = why ∧
        SameRegs [devKey 0x3C08] s t ∧ t.shadows = s.shadows
      (s.bit 0x3C08 2 = true → Does .apply s (refused 4)) ∧
      (s.bit 0x3C08 2 = false → s.rst.phase ≠ 3 → s.mode.eff ≠ .service → Does .apply s (refused 1)) ∧
      (s.bit 0x3C08 2 = false → s.rst.phase = 3 ∨ s.mode.eff = .service →
        (∀ w, s.partWhy = some w → Does .apply s (refused w)) ∧
        (s.partWhy = none → Does .apply s fun t => t.bit 0x3C08 2 = true ∧ SameRegs [devKey 0x3C08] s t ∧
          (s.cal.run = none → (s.time.mono + us 1, Instr.partitionEdit) ∈ t.agenda)))) ∧
    Does .discard s (fun t => t.shadows = s.shadows.filter (fun e => !partShadow e.1) ∧ SameRegs [] s t) ∧
    (s.bit 0x3C08 2 = true → s.cal.run = none → Does .partitionEdit s fun t => t.inForce = true ∧ t.bit 0x3C08 2 = false ∧
      (∀ k < 16, s.owner .seq k ≠ t.owner .seq k → t.seqOn k = false) ∧
      ∀ o y, partShadow o = true → o ≠ 0x3D18 → s.staged o = some y → t.getKey o = y) ∧
    (s.bit 0x3C08 2 = false ∨ s.cal.run.isSome = true → Does .partitionEdit s (· = s))

/-- A VI reset advances the epoch, halts the VI's sequencers and ends 20 µs later, with the VI's registers at their reset
values; it is absorbed by one in progress, and during the Starter it is a system reset. -/
def Obligations.ViResetsRunAndEnd : Prop :=
  ∀ (s : State) (v : Fin 32),
    (s.rst.phase = 3 ∨ s.rst.phase = 4 → s.rst.req = none → s.resetLevel = none → Does (.viReset v) s fun t =>
      ∃ r, t.rst.req = some r ∧ r.level = 1 ∧ r.promoted = true ∧ r.time = s.time.keep) ∧
    (s.rst.phase ≠ 3 → s.rst.phase ≠ 4 → (s.vi v).inReset = true → Does (.viReset v) s (· = s)) ∧
    (s.rst.phase ≠ 3 → s.rst.phase ≠ 4 → (s.vi v).inReset = false → Does (.viReset v) s fun t =>
      (t.vi v).inReset = true ∧ (t.vi v).epoch = ((s.vi v).epoch + 1) % 65536 ∧
      (s.time.mono + us 20, Instr.viResetDone v) ∈ t.agenda ∧ (∀ k, s.owns v .seq k = true → k < 16 → t.seqOn k = false) ∧
      (∀ i < 4, (t.vi v).queue i = [])) ∧
    ((s.vi v).inReset = true → Does (.viResetDone v) s fun t => (t.vi v).inReset = false ∧
      (t.vi v).epoch = (s.vi v).epoch ∧ (t.rg v).wait = true ∧
      ∀ o ∈ [0x184, 0x290, 0x434], t.rdv v o = regReset (viKey v o)) ∧
    ((s.vi v).inReset = false → Does (.viResetDone v) s (· = s))

/-! ### Host ports (16) -/

/-- PCIe requests: a BAR0 request is not accepted before P5 or in SHELF, is Unsupported where R444 says, and otherwise performs one
access per DW; a configuration request is retried from a reset's assertion to P5 (the model's reading, log entry 105), Unsupported for a
function that is not enabled, and otherwise acts on its function; the link comes up and goes down. -/
def Obligations.PcieRequestsAreAnswered : Prop :=
  ∀ (s : State) (fn : Fin 32) (off : BitVec 16) (wr : Bool) (dws : List (Word × BitVec 4)) (req : CfgReq),
    (s.starting = true ∨ s.mode.eff = .shelf → Does (.bar0Request fn off wr dws) s (· = s)) ∧
    (s.starting = true → Does (.configRequest fn req) s fun t => t.host = { s.host with status := 2 } ∧ SameRegs [] s t ∧ SameStores s t) ∧
    (s.starting = false → s.mode.eff ≠ .shelf → s.pcieBad fn dws.length = true → Does (.bar0Request fn off wr dws) s fun t =>
      t.host = { s.host with status := 1 } ∧ SameRegs [] s t ∧ SameStores s t) ∧
    (∀ (d : Word) (be : BitVec 4), s.starting = false → s.mode.eff ≠ .shelf → s.pcieBad fn 1 = false →
      Does (.bar0Request fn off true [(d, be)]) s (fun t => t.host.status = 0 ∧
        ∃ u, exec (.registerWrite fn .pcie off d be) s = .next u ∧ t = { u with host := { u.host with status := 0 } }) ∧
      Does (.bar0Request fn off false [(d, be)]) s fun t => t.host.status = 0 ∧
        ∃ u, exec (.rcRead fn .pcie off be) s = .next u ∧ t = { u with host := { u.host with status := 0 } }) ∧
    (s.starting = false → s.fnEnabled fn = false → Does (.configRequest fn req) s fun t =>
      t.host = { s.host with status := 1 } ∧ SameRegs [] s t ∧ SameStores s t) ∧
    (s.starting = false → s.fnEnabled fn = true →
      Does (.configRequest fn (.read 0)) s (fun t => t.host.status = 0 ∧
        t.rdata = some (if fn = 0 then 0xD9601F9A else 0xD9611F9A, false) ∧ SameRegs [] s t) ∧
      (∀ on, Does (.configRequest fn (.powerState on)) s fun t => t.host.d3hot.getLsbD fn = on ∧ t.host.status = 0 ∧
        SameRegs [] s t) ∧
      (∀ on, Does (.configRequest fn (.busMaster on)) s fun t => t.host.busMaster.getLsbD fn = on ∧ t.host.status = 0 ∧
        SameRegs [] s t) ∧
      Does (.configRequest fn .turnOff) s (fun t => t.host = { s.host with pmeOff := true, status := 0 } ∧ SameRegs [] s t) ∧
      ((s.vi fn).inReset = false → Does (.configRequest fn .flr) s fun t => (t.vi fn).inReset = true ∧
        t.host.d3hot.getLsbD fn = false ∧ t.host.busMaster.getLsbD fn = false ∧ t.host.status = 0)) ∧
    (∀ on n, s.starting = false → s.fnEnabled 0 = true → Does (.configRequest 0 (.vfs on n)) s fun t => t.host.vfs = (if on then n.val else 0) ∧
      t.host.status = 0 ∧ SameRegs [] s t) ∧
    Does .pcieLinkUp s (fun t => t.bit 0x3800 31 = true ∧ t.fld 0x3800 7 4 = s.fld 0x3804 7 4 ∧
      t.fld 0x3800 2 0 = s.fld 0x3804 2 0 ∧ t.host = { s.host with wakeAt := 0, pmeOff := false } ∧ SameRegs [devKey 0x3800] s t) ∧
    Does (.pcieLinkDown true) s (fun t => t.fld 0x3808 15 0 = min (s.fld 0x3808 15 0 + 1) 65535 ∧
      SameRegs [devKey 0x3808] s t) ∧
    Does (.pcieLinkDown false) s (fun t => t.bit 0x3800 31 = false ∧
      t.fld 0x3808 31 16 = min (s.fld 0x3808 31 16 + 1) 65535 ∧ SameRegs [devKey 0x3800, devKey 0x3808] s t)

/-- An SPI request in order performs the access of its VI; one from a reset's assertion to P5 (the model's reading, log entry 105), with
a wrong CRC, out of order or for a VI that is not bound is answered with its code and performs nothing; a burst ends past the window's
end; a frame cut short counts; a word that waits 2 ms is abandoned. -/
def Obligations.SpiFramesAreAnswered : Prop :=
  ∀ (s : State) (m3 : Bool) (cmd : Byte) (addr : BitVec 24) (data : Word) (crc : Byte),
    let wr := cmd.getLsbD 6
    let hasCrc := cmd.getLsbD 5
    let v : Fin 32 := Fin.ofNat 32 (addr.toNat / 65536)
    let off := addr.toNat % 65536
    let good := crc8 (spiBytes cmd addr data wr)
    let answered (code : Nat) (t : State) : Prop := (∃ f, t.host.spi = some f ∧ f.wait = false ∧
      f.resp = s.spiWord wr hasCrc code 0) ∧ t.bit 0x3814 2 = m3 ∧ SameStores s t
    (s.rst.phase = 5 → s.mode.eff = .shelf → Does (.spiFrame m3 cmd addr data crc) s (· = s)) ∧
    (s.starting = true → s.rst.phase ≠ 5 ∨ s.mode.eff ≠ .shelf → Does (.spiFrame m3 cmd addr data crc) s fun t => answered 1 t ∧ SameRegs [devKey 0x3814] s t) ∧
    (s.starting = false → s.mode.eff ≠ .shelf →
      (hasCrc = true → good ≠ crc → Does (.spiFrame m3 cmd addr data crc) s fun t => answered 2 t ∧ t.bit 0x3814 1 = true ∧
        t.fld 0x3814 31 16 = min (s.fld 0x3814 31 16 + 1) 65535 ∧ SameRegs [devKey 0x3814] s t) ∧
      (hasCrc = false ∨ good = crc → s.spiCmdBad cmd addr = true → Does (.spiFrame m3 cmd addr data crc) s fun t =>
        answered 3 t ∧ SameRegs [devKey 0x3814] s t) ∧
      (hasCrc = false ∨ good = crc → s.spiCmdBad cmd addr = false →
        (s.portOf v ≠ 2 → Does (.spiFrame m3 cmd addr data crc) s fun t => answered 4 t ∧ SameRegs [devKey 0x3814] s t) ∧
        (s.portOf v = 2 → Does (.spiFrame m3 cmd addr data crc) s fun t => ∃ u : State, u.regs = (s.wbit 0x3814 2 m3).regs ∧
          (∃ f, u.host.spi = some f ∧ f.wait = true ∧ f.vi = v.val ∧ f.off = off ∧ f.write = wr ∧ f.crc = hasCrc) ∧
          (s.time.mono + ms 2, Instr.spiWaitTimeout) ∈ u.agenda ∧
          exec (if wr then .registerWrite v .spi (BitVec.ofNat 16 off) data 0xF
            else .rcRead v .spi (BitVec.ofNat 16 off) 0xF) u = .next t))) ∧
    (s.host.spi = none → Does (.spiBurstWord data crc) s (· = s)) ∧
    (∀ f, s.host.spi = some f → f.wait = false → f.inc = true → s.starting = false →
      (f.write = true → f.crc = true → crc8 (beBytes 4 data.toNat) ≠ crc → Does (.spiBurstWord data crc) s fun t =>
        t.bit 0x3814 1 = true ∧ ∃ g, t.host.spi = some g ∧ g.resp = f.resp ++ s.spiWord f.write f.crc 2 0) ∧
      (f.write = false ∨ f.crc = false ∨ crc8 (beBytes 4 data.toNat) = crc → 0xFFFC < f.off + 4 →
        Does (.spiBurstWord data crc) s fun t => SameRegs [] s t ∧
          ∃ g, t.host.spi = some g ∧ g.resp = f.resp ++ s.spiWord f.write f.crc 7 0)) ∧
    Does (.spiCsAbort true) s (fun t => t.host.spi = none ∧ t.bit 0x3814 0 = true ∧
      t.fld 0x3814 15 8 = min (s.fld 0x3814 15 8 + 1) 255 ∧ SameRegs [devKey 0x3814] s t ∧ SameStores s t) ∧
    Does (.spiCsAbort false) s (fun t => t.host.spi = none ∧ SameRegs [] s t ∧ SameStores s t) ∧
    (∀ f, s.host.spi = some f → f.wait = true → f.at_ + ms 2 ≤ s.time.mono → Does .spiWaitTimeout s fun t =>
      (∃ g, t.host.spi = some g ∧ g.wait = false ∧ g.resp = f.resp ++ s.spiWord f.write f.crc 5 0) ∧
      (∀ a ∈ t.mode.heldAcc, a.port = .spi → a.vi.val ≠ f.vi) ∧ SameRegs [] s t)

/-- An erase of the NVM is refused with its reason or runs, and ends with the units erased or with an error code; a debug
access reads without an effect, writes only as VI0, is refused while the device sleeps and waits while FCLK is stopped awake. -/
def Obligations.NvmErasesAndDebugAccesses : Prop :=
  ∀ (s : State) (count : BitVec 16) (dr : BitVec 64),
    let a := (s.rd 0x3824).toNat
    let n := count.toNat * 2 ^ s.fld 0x3820 23 16
    let v := bf dr 60 56
    let off := BitVec.ofNat 16 (bf dr 47 32)
    (∀ w, s.eraseWhy a n = some w → Does (.nvmErase count) s fun t => t.bit 0x382C 2 = true ∧ t.fld 0x382C 31 28 = w ∧
      t.host.erase = s.host.erase ∧ SameRegs [devKey 0x382C] s t ∧ SameStores s t) ∧
    (s.eraseWhy a n = none → Does (.nvmErase count) s fun t => t.bit 0x382C 0 = true ∧ t.fld 0x382C 31 28 = 0 ∧
      t.host.erase = some (a, a + n) ∧ SameRegs [devKey 0x382C] s t ∧ SameStores s t) ∧
    (∀ (lo hi : Nat) (how : NvmEnd), s.host.erase = some (lo, hi) → Does (.nvmEraseDone how) s fun t =>
      t.bit 0x382C 0 = false ∧ t.host.erase = none ∧ (∀ x, x < lo ∨ hi ≤ x → t.nvmB x = s.nvmB x) ∧
      (∀ x, t.vatB x = s.vatB x ∧ t.memB x = s.memB x) ∧ SameRegs [devKey 0x382C] s t ∧
      (how = .ok → t.bit 0x382C 1 = true ∧ ∀ x, lo ≤ x → x < hi → t.nvmB x = 0xFF) ∧
      (how ≠ .ok → t.bit 0x382C 2 = true ∧ t.fld 0x382C 31 28 = (if how = .device then 4 else 5))) ∧
    (dr.getLsbD 63 = false → Does (.dbgAcc dr) s (· = s)) ∧
    (dr.getLsbD 63 = true → s.dbgWaits = true → Does (.dbgAcc dr) s fun t =>
      t.host = { s.host with dbgHeld := some dr, dbgDone := false } ∧ SameRegs [] s t ∧ SameStores s t) ∧
    (dr.getLsbD 63 = true → s.dbgWaits = false →
      ((s.rst.phase = 5 ∧ (s.mode.eff = .listen ∨ s.mode.eff = .shelf)) ∨ (dr.getLsbD 62 = true ∧ v ≠ 0) →
        Does (.dbgAcc dr) s fun t => t.host = { s.host with dbgHeld := none, dbgDone := true, dbgErr := true } ∧ SameRegs [] s t ∧
          SameStores s t) ∧
      (¬ (s.rst.phase = 5 ∧ (s.mode.eff = .listen ∨ s.mode.eff = .shelf)) →
        (dr.getLsbD 62 = false → Does (.dbgAcc dr) s fun t => t.host.dbgDone = true ∧ t.host.dbgData = (s.peek v off.toNat).1 ∧
          t.host.dbgErr = (s.peek v off.toNat).2.isSome ∧ SameRegs [] s t ∧ SameStores s t) ∧
        (dr.getLsbD 62 = true → v = 0 → Does (.dbgAcc dr) s fun t => ∃ u,
          exec (.registerWrite 0 .internal off (BitVec.ofNat 32 (bf dr 31 0)) 0xF) { s with host := { s.host with dbgHeld := none } } =
            .next u ∧
          t = { u with host := { u.host with dbgData := u.host.dbgData, dbgDone := true, dbgErr := u.host.refused } })))

/-! ### Krairlink (17) -/

/-- A port trains, fails and tries again every 100 ms; a unit that was alone is then the root of its tree. A port goes down on a loss,
on a LEAVE or in an orderly close, which says LEAVE three times and gives the responses that wait 2 µs, with its reason (after a LEAVE
it trains again by the model's reading, log entry 126). -/
def Obligations.LinkPortsTrainAndGoDown : Prop :=
  ∀ (s : State) (p : Fin 4) (why : LeaveWhy),
    let st := klR p + 4
    let end_ := s.time.mono + us 2
    let left (t : State) : Prop := ∃ l, t.kl.sent = s.kl.sent ++ List.replicate 3 (p.val, 0, Pkt.leave (leaveCode why)) ++ l
    let closed (t : State) : Prop := SameStores s t ∧
      t.klState p = (if why = .retrain then 1 else if why ≠ .reset then 0
        else if s.klState p = 1 ∨ s.klState p = 2 ∨ s.klState p = 3 then 4 else s.klState p) ∧
      (s.klState p = 1 ∨ s.klState p = 2 ∨ s.klState p = 3 → t.fld st 15 12 = 4)
    (∀ peer, s.bit (klR p) 0 = true → s.domOn (24 + p) = true → s.klState p = 1 → Does (.portTrained p peer) s fun t =>
      t.klState p = 2 ∧ t.klRole p = 0 ∧ t.kp p = { peer := peer } ∧ t.inTree = true ∧
      (s.inTree = false → t.isRoot = true ∧ t.addr = 0 ∧ t.upPort = none) ∧
      (s.time.mono, Instr.announceSend) ∈ t.agenda ∧ SameStores s t) ∧
    (s.klState p = 1 → Does (.trainFail p) s fun t => t.klState p = 4 ∧ t.fld st 15 12 = 5 ∧ SameRegs [devKey st] s t ∧
      (s.time.mono + ms 100, Instr.trainRetry p) ∈ t.agenda) ∧
    (s.bit (klR p) 0 = true → s.klState p = 4 → s.domOn (24 + p) = true → Does (.trainRetry p) s fun t => t.klState p = 1 ∧
      (s.time.mono + ms 10, Instr.trainFail p) ∈ t.agenda ∧ SameRegs [devKey st] s t) ∧
    (s.klState p = 2 ∨ s.klState p = 3 → Does (.lossOfSignal p) s fun t =>
      t.klState p = (if s.bit (klR p) 0 then 1 else 4) ∧ t.fld st 15 12 = 2 ∧
      t.rd (klR p + 0x20) = satAdd (s.rd (klR p + 0x20)) 1 ∧ (t.kp p).air = []) ∧
    (∀ code, (s.klState p = 2 → Does (.leave p code) s fun t => t.klState p = 4 ∧ t.fld st 15 12 = 1 ∧ SameStores s t ∧
        (s.bit (klR p) 0 = true → (s.time.mono + us 10, Instr.trainRetry p) ∈ t.agenda)) ∧
      (s.klState p ≠ 2 → Does (.leave p code) s (· = s))) ∧
    (s.klState p = 2 →
      ((s.kp p).rsp ≠ [] → Does (.portClose p why) s fun t => t.klState p = 3 ∧ left t ∧ (t.kp p).closeAt = end_ ∧
        (end_, Instr.portClose p why) ∈ t.agenda ∧ SameRegs [devKey st] s t) ∧
      ((s.kp p).rsp = [] → Does (.portClose p why) s fun t => closed t ∧ left t)) ∧
    (s.klState p = 3 → s.time.mono < (s.kp p).closeAt → Does (.portClose p why) s fun t => SameRegs [] s t ∧
      ((s.kp p).closeAt, Instr.portClose p why) ∈ t.agenda) ∧
    (s.klState p ≠ 2 → (s.klState p = 3 → (s.kp p).closeAt ≤ s.time.mono) → Does (.portClose p why) s closed)

/-- An ANNOUNCE shows its peer's address (the model's reading, log entry 131). One of a better root is adopted, one deeper than the tree
allows blocks the port, and any other gives the port its role; the unit's own goes out on every trained port every 100 µs; 400 µs
without one on the upstream port is a loss. -/
def Obligations.AnnouncesFormTheTree : Prop :=
  ∀ (s : State) (p : Fin 4) (src : Byte) (root : BitVec 64) (prio depth epoch : Byte) (sender parent : BitVec 64),
    let st := klR p + 4
    let known := s.rootKnown
    let better := betterRoot prio.toNat root known.1 known.2 && parent != s.kl.serial
    let ann := Instr.announce ⟨p, src⟩ root prio depth epoch sender parent
    let heard (t : State) : Prop := t.fld st 31 24 = src.toNat ∧ (t.kp p).ann.isSome = true ∧ SameStores s t
    let role (r why : Nat) (t : State) : Prop := heard t ∧ t.klRole p = r ∧ t.fld st 11 8 = why ∧
      (s.inTree = true → SameRegs [devKey st] s t)
    let deep (t : State) : Prop := heard t ∧ t.klRole p = 3 ∧ t.fld st 11 8 = 2
    let last : Prop := s.inTree = true ∧ s.upPort = none ∧
      ∀ q ∈ s.portsUp, q ≠ p.val → s.klRole q = 3 ∧ s.fld (klR q + 4) 11 8 = 2
    let tooDeep (t : State) : Prop := deep t ∧ (last → t.inTree = false) ∧ (¬ last → s.inTree = true → SameRegs [devKey st] s t)
    let adopted (t : State) : Prop := heard t ∧ t.upPort = some p.val ∧ t.depth = depth.toNat + 1 ∧ t.inTree = true ∧
      t.isRoot = false ∧ t.rd64 0x3410 0x3414 = root ∧ t.rd 0x3418 = BitVec.ofNat 32 prio.toNat ∧ t.klRole p = 1 ∧
      t.kl.parent = sender ∧ t.kl.joining = true ∧ (s.time.mono + us 400, Instr.announceTimeout) ∈ t.agenda
    (s.klState p ≠ 2 → Does ann s (· = s)) ∧
    (s.klState p = 2 → better = true →
      (8 ≤ depth.toNat → s.upPort = some p.val → Does ann s fun t => deep t ∧ t.upPort ≠ some p.val) ∧
      (8 ≤ depth.toNat → s.upPort ≠ some p.val → Does ann s tooDeep) ∧
      (depth.toNat < 8 → Does ann s fun t => adopted t ∧ t.fld 0x3404 23 16 = (s.fld 0x3404 23 16 + 1) % 256)) ∧
    (s.klState p = 2 → better = false → root ≠ known.2 →
      (s.upPort ≠ some p.val → Does ann s (role 0 0)) ∧ (s.upPort = some p.val → Does ann s heard)) ∧
    (s.klState p = 2 → better = false → root = known.2 → s.upPort = some p.val → s.inTree = true →
      (8 ≤ depth.toNat → Does ann s fun t => deep t ∧ t.upPort ≠ some p.val) ∧
      (depth.toNat < 8 → Does ann s fun t => heard t ∧ t.depth = depth.toNat + 1 ∧ t.kl.parent = sender ∧
        SameRegs [devKey 0x3404, devKey st] s t ∧ (s.time.mono + us 400, Instr.announceTimeout) ∈ t.agenda)) ∧
    (s.klState p = 2 → better = false → root = known.2 → s.upPort ≠ some p.val →
      (parent = s.kl.serial → Does ann s (role 2 0)) ∧
      (parent ≠ s.kl.serial →
        (s.isRoot = true ∨ s.upPort ≠ none ∨ s.inTree = false → Does ann s (role 3 1)) ∧
        (s.isRoot = false → s.upPort = none → s.inTree = true →
          (8 ≤ depth.toNat → Does ann s tooDeep) ∧ (depth.toNat < 8 → Does ann s adopted)))) ∧
    (s.portsUp ≠ [] → Does .announceSend s fun t => SameRegs [] s t ∧
      (s.time.mono + us 100, Instr.announceSend) ∈ t.agenda ∧
      t.kl.sent = s.kl.sent ++ if s.inTree then s.portsUp.map fun q => (q, 0, Pkt.announce (BitVec.ofNat 8 s.addr)
        (s.rd64 0x3410 0x3414) (BitVec.ofNat 8 (s.fld 0x3418 7 0)) (BitVec.ofNat 8 s.depth)
        (BitVec.ofNat 8 (s.fld 0x3404 23 16)) s.kl.serial s.kl.parent) else []) ∧
    (s.portsUp = [] → Does .announceSend s (· = s)) ∧
    (∀ q, s.upPort = some q → q < 4 →
      ((s.kp q).ann.any (fun a => decide (a.at_ + us 400 ≤ s.time.mono)) = true → Does .announceTimeout s fun t =>
        t.rd (klR q + 0x20) = satAdd (s.rd (klR q + 0x20)) 1 ∧ t.fld (klR q + 4) 15 12 = 2 ∧
        t.klState q = (if s.bit (klR q) 0 then 1 else 4)) ∧
      ((s.kp q).ann.any (fun a => decide (a.at_ + us 400 ≤ s.time.mono)) = false → Does .announceTimeout s (· = s)))

/-- The root grants an address or answers that none is left, another unit forwards the join and its answer; the joining unit takes the
address, with the root in its roster (the model's reading, log entry 127), or retries in 10 ms; departures and members change the
roster, and a lost address stays reserved 10 ms. What is forwarded has travelled one hop more, 15 at most. -/
def Obligations.UnitsJoinAndDepart : Prop :=
  ∀ (s : State) (p : Fin 4) (serial : BitVec 64) (dst src pref depth addr status epoch kind : Byte) (time : Time)
    (hops : Fin 16),
    let req := Instr.joinReq p src serial pref hops
    let ack := Instr.joinAck ⟨⟨p, hops⟩, dst⟩ serial addr status epoch
    let dep := Instr.depart ⟨p, hops⟩ addr kind
    let mem := Instr.member ⟨p, hops⟩ addr kind depth time serial
    let back : Byte := if src = 0 then 255 else src
    let gone (t : State) : Prop := t.inRoster addr.toNat = false ∧ t.ros addr.toNat = none
    (s.hears p = false → Does req s (· = s) ∧ Does dep s (· = s) ∧ Does mem s (· = s)) ∧
    (s.hearsRsp p = false → Does ack s (· = s)) ∧
    (s.hears p = true → s.isRoot = true →
      (s.grant serial pref.toNat = none → Does req s fun t => s.Accepts t p ∧ SameRegs [] s t ∧
        t.Goes p 0 (.joinAck back serial 0 1 (BitVec.ofNat 8 (s.fld 0x3404 23 16)))) ∧
      (∀ u, s.grant serial pref.toNat = some u → Does req s fun t => s.Accepts t p ∧ t.inRoster u = true ∧
        (t.ros u).any (fun e => e.serial == serial && e.depth == hops.val + 1) = true ∧ u ∈ (t.kp p).subtree ∧
        t.Goes p 0 (.joinAck back serial (BitVec.ofNat 8 u) 0 (BitVec.ofNat 8 (s.fld 0x3404 23 16))) ∧ SameStores s t)) ∧
    (∀ q, s.hears p = true → s.isRoot = false → s.upPort = some q → hops ≠ 15 → Does req s fun t => s.Accepts t p ∧
      (serial, p.val) ∈ t.kl.joins ∧ t.Goes q (hops.val + 1) (.joinReq src serial pref) ∧ SameRegs [] s t) ∧
    (s.hearsRsp p = true → serial = s.kl.serial → s.kl.joining = true →
      (status = 0 → Does ack s fun t => s.Accepts t p ∧ t.addr = addr.toNat ∧ t.fld 0x3404 23 16 = epoch.toNat ∧
        t.kl.joining = false ∧ t.inRoster 0 = true ∧
        (t.ros 0).any (fun e => e.serial == s.rd64 0x3410 0x3414 && e.depth == 0) = true ∧
        (s.bit 0x500 0 = true → t.bit 0x504 2 = true ∧ t.bit 0x504 3 = false)) ∧
      (status ≠ 0 → Does ack s fun t => s.Accepts t p ∧ t.klRole p = 3 ∧ t.fld (klR p + 4) 11 8 = 3 ∧
        (s.time.mono + ms 10, Instr.joinRetry) ∈ t.agenda ∧ SameRegs [devKey (klR p + 4)] s t)) ∧
    (∀ j q, s.hearsRsp p = true → serial ≠ s.kl.serial → s.kl.joins.find? (fun j => j.1 == serial) = some (j, q) →
      Does ack s fun t => s.Accepts t p ∧ (status = 0 → addr.toNat ∈ (t.kp q).subtree) ∧ SameRegs [] s t ∧
        (hops ≠ 15 → t.Goes q (hops.val + 1) (.joinAck dst serial addr status epoch))) ∧
    (∀ q, s.upPort = some q → s.kl.joining = true → Does .joinRetry s fun t => t.klRole q = 1 ∧
      t.Goes q 0 (.joinReq (BitVec.ofNat 8 s.addr) s.kl.serial
        (BitVec.ofNat 8 (if s.addr ≠ 0 then s.addr else s.fld 0x3400 7 0)))) ∧
    (∀ r, Tab.get (fun _ => none) s.kl.resv addr.toNat = some r →
      (r.until_ ≤ s.time.mono → Does (.addressReserveExpiry addr) s fun t =>
        Tab.get (fun _ => none) t.kl.resv addr.toNat = none ∧ SameRegs [] s t) ∧
      (s.time.mono < r.until_ → Does (.addressReserveExpiry addr) s (· = s))) ∧
    (∀ e, s.hears p = true → s.isRoot = true → s.ros addr.toNat = some e → Does dep s fun t => s.Accepts t p ∧ gone t ∧
      (kind = 3 → Tab.get (fun _ => none) t.kl.resv addr.toNat = some { serial := e.serial, until_ := s.time.mono + ms 10 } ∧
        (s.time.mono + ms 10, Instr.addressReserveExpiry addr) ∈ t.agenda)) ∧
    (∀ q, s.hears p = true → s.isRoot = false → s.upPort = some q → Does dep s fun t => s.Accepts t p ∧
      addr.toNat ∉ (t.kp p).subtree ∧ SameRegs [] s t ∧ (hops ≠ 15 → t.Goes q (hops.val + 1) (.depart addr kind))) ∧
    (s.hears p = true → Does mem s fun t => s.Accepts t p ∧ (kind ≠ 1 → gone t) ∧
      (kind = 1 → t.inRoster addr.toNat = true ∧
        (t.ros addr.toNat).any (fun e => e.serial == serial && e.depth == depth.toNat) = true) ∧
      (hops ≠ 15 → ∀ q ∈ s.routeOf 255 (some p.val), t.Goes q (hops.val + 1) (.member addr kind depth time serial)))

/-- A unit's time exchanges give an offset and a delay to half a unit, the last eight offsets their mean, and a slaved unit slews by it
or, beyond 2,048 TU or at first, steps, so that its next cycle starts on a multiple of 32 TU. A unit in holdover makes its last slew
again (the model's reading, log entry 102). -/
def Obligations.TheTreesTimeAligns : Prop :=
  ∀ (s : State) (t1 t2 t3 t4 : Time) (p q : Nat),
    let kept := if s.bit 0x504 3 then { s.time with slew := s.time.rate } else s.time
    (s.upPort = some p → Does (.timeReqSend t1) s fun t => t.kl.t1 = some t1 ∧ t.kl.sent = s.kl.sent ++ [(p, 0, .timeReq)] ∧
      t.kl.nextReq = s.time.mono + us 125 ∧ SameRegs [] s t) ∧
    (∀ r : Fin 4, (s.hears r = true → Does (.timeReq r t2 t3) s fun t => t.kl.sent = s.kl.sent ++ [(r.val, 0, .timeRsp t2 t3)] ∧
      SameRegs [] s t) ∧ (s.hears r = false → Does (.timeReq r t2 t3) s (· = s))) ∧
    (s.upPort = some p → s.kl.t1 = some t1 → Does (.timeRsp t2 t3 t4) s fun t => ∃ th dl : Int,
      (2 * th - ((t2 - t1).toInt - (t4 - t3).toInt - sext 16 (s.fld (klR p + 8) 15 0))).natAbs ≤ 1 ∧
      (2 * dl - ((t4 - t1).toInt - (t3 - t2).toInt)).natAbs ≤ 1 ∧ t.rd (klR p + 0xC) = wordOfInt dl ∧
      t.kl.t1 = none ∧ t.kl.thetas = (s.kl.thetas ++ [th]).drop (s.kl.thetas.length - 7) ∧
      SameRegs [devKey (klR p + 0xC)] s t) ∧
    (s.upPort = none ∨ s.kl.thetas.length < 8 → Does .offsetApply s fun t => SameRegs [] s t ∧ t.time = kept ∧
      t.kl.nextOfs = s.time.mono + ms 1) ∧
    (s.upPort = some q → q < 4 → 8 ≤ s.kl.thetas.length → Does .offsetApply s fun t => ∃ m : Int,
      (8 * m - s.kl.thetas.sum).natAbs < 8 ∧ t.rd (klR q + 0x10) = wordOfInt m ∧ SameStores s t ∧
      (s.bit 0x504 2 = false ∨ s.time.fclk = false ∨ s.time.handoff = true → t.time = kept) ∧
      (s.bit 0x504 2 = true → s.time.fclk = true → s.time.handoff = false →
        (s.kl.aligned = true → m.natAbs < 2048 → t.time = { s.time with slew := m, rate := m } ∧
          SameRegs [devKey (klR q + 0x10)] s t) ∧
        (s.kl.aligned = false ∨ 2048 ≤ m.natAbs →
          let up := (t.time.fast - (s.time.fast + BitVec.ofInt 64 m)).toNat
          up < 32 ∧ t.time.fast &&& 31 = 0 ∧ t.time.mono = s.time.mono + up ∧ t.time.slew = 0 ∧
          t.kl.aligned = true ∧ t.kl.thetas = [] ∧ t.bit 0x504 8 = true ∧ t.rd64 0x51C 0x520 = BitVec.ofInt 64 m)))

/-- An exported event waits in its line's queue of four, is delivered at home, or is lost and counted; an event for this unit stands in
every matching line of imports, which holds 16, and any other is routed on; a delivery that is due asserts its line once. -/
def Obligations.EventsCrossTheLink : Prop :=
  ∀ (s : State) (p : Fin 4) (n : Fin 32) (x : Src) (dst src lch srcp svi vector dvi : Byte) (stamp : Time) (budget : Word)
    (foreign multi swf : Bool) (hops : Fin 16),
    let c := s.rd (expR n)
    let dest := bf c 15 8
    let exp := Instr.exportEv n x
    let ev := Instr.event ⟨p, hops⟩ dst src stamp budget lch srcp foreign multi swf
    let irq := Instr.irqMsg ⟨p, hops⟩ dst src svi vector dvi
    let taken (l : List Nat) (t : State) : Prop := ∀ m ∈ l,
      ((s.impWaiting m).length < 16 → (t.impQ m).length = (s.impWaiting m).length + 1) ∧
      (16 ≤ (s.impWaiting m).length → t.impQ m = s.impWaiting m)
    let home := s.linesFor 0 s.addr (some (bf c 7 0))
    let lost (t : State) : Prop := t.rdv (s.lineVi n) 0x3628 = satAdd (s.rdv (s.lineVi n) 0x3628) 1
    let sends : Prop := tb c 31 = true ∧ (x.prov && s.time.handoff) = false
    (tb c 31 = false → Does exp s (· = s)) ∧
    (tb c 31 = true → x.prov = true → s.time.handoff = true → Does exp s fun t => SameRegs [] s t ∧
      (s.time.mono + 32, exp) ∈ t.agenda) ∧
    (sends → s.inTree = false →
      (dest = 0 ∨ dest = 255 → Does exp s fun t => taken home t ∧ (s.kl.lostAt = some s.time.mono → lost t)) ∧
      (dest ≠ 0 → dest ≠ 255 → Does exp s fun t => lost t ∧ SameRegs [viKey (s.lineVi n) 0x3628] s t)) ∧
    (sends → s.inTree = true →
      (dest = s.addr ∨ dest = 255 → Does exp s (taken home)) ∧
      (dest ≠ s.addr → (s.expQ n).length < 4 → Does exp s fun t => t.expQ n = s.expQ n ++ [x] ∧ t.kl.sent = s.kl.sent ∧
        (dest ≠ 255 → SameRegs [] s t)) ∧
      (dest ≠ s.addr → dest ≠ 255 → 4 ≤ (s.expQ n).length → Does exp s (· = s))) ∧
    (s.hears p = false → Does ev s (· = s)) ∧
    (s.hears p = true →
      (dst.toNat = s.addr ∨ dst = 255 → Does ev s fun t => s.Accepts t p ∧
        taken (s.linesFor 0 src.toNat (some lch.toNat)) t ∧ SameStores s t) ∧
      (dst.toNat ≠ s.addr → Does ev s fun t => s.Accepts t p ∧ (dst ≠ 255 → SameRegs [] s t) ∧
        (hops ≠ 15 → ∀ q ∈ s.routeOf dst.toNat (some p.val),
          t.Goes q (hops.val + 1) (.event dst src stamp budget lch srcp foreign multi swf)))) ∧
    (s.hearsRsp p = false → Does irq s (· = s)) ∧
    (s.hearsRsp p = true → dst.toNat = s.addr →
      let l := (s.linesFor 3 src.toNat none).filter fun m => s.owns (dvi.toNat % 32) .evg (m / 2)
      (l = [] → Does irq s fun t => s.Accepts t p ∧
        t.rdv (dvi.toNat % 32) 0x3620 = satAdd (s.rdv (dvi.toNat % 32) 0x3620) 1) ∧
      (l ≠ [] → Does irq s fun t => s.Accepts t p ∧ taken l t)) ∧
    (s.hearsRsp p = true → dst.toNat ≠ s.addr → Does irq s fun t => s.Accepts t p ∧ SameRegs [] s t ∧
      (hops ≠ 15 → ∀ q ∈ s.routeOf dst.toNat (some p.val), t.Goes q (hops.val + 1) (.irqMsg dst src svi vector dvi))) ∧
    (s.impDue n = [] → Does (.importDeliver n) s (· = s)) ∧
    (∀ a l, s.impDue n = a :: l → s.time.fclk = true → Does (.importDeliver n) s fun t =>
      t.rd (impR n + 4) = BitVec.ofNat 32 (firstDeliv a l).info ∧
      t.impQ n = (s.impWaiting n).filter (fun e => !(a :: l).contains e) ∧
      ∃ r, t.fab.inflight = s.fab.inflight ++
        (0, { s.impSrc n (firstDeliv a l) with multi := (firstDeliv a l).multi || !l.isEmpty }) :: r)

/-- A remote write or read of a VI is refused, sent, or waits for a slot; one for this unit is refused, forwarded, or
performed as an access of the VI it names; answers and time-outs end it, with a fault record for a failed write. -/
def Obligations.RemoteAccessesRunAndEnd : Prop :=
  ∀ (s : State) (v dvi : Fin 32) (p : Fin 4) (d data : Word) (dst src ovi st : Byte) (rid off : BitVec 16) (hops : Fin 16),
    let tag := (s.fldv v 0x118 15 0 + 1) % 65536
    let w := s.raTarget v tag 0
    let x := s.ra v
    let me := BitVec.ofNat 8 s.addr
    let o := ovi.toNat % 32
    let rd := Instr.rdReq ⟨p, hops⟩ dst src rid dvi ovi off
    let wr := Instr.wrReq ⟨p, hops⟩ dst src rid dvi ovi off data
    let rdA := Instr.rdRsp ⟨p, hops⟩ dst src rid st ovi data
    let wrA := Instr.wrRsp ⟨p, hops⟩ dst src rid st ovi off (BitVec.ofNat 8 dvi)
    let ended (res : Nat) (t : State) : Prop := t.bitv v 0x360C 8 = true ∧ t.fldv v 0x360C 3 0 = res ∧ (t.ra v).read = none
    (s.raGood w.unit = false → Does (.klRaWdata v d) s (fun t => t.rdv v 0x118 = BitVec.ofNat 32 tag ∧ s.Faulted t v ∧
        t.kl = s.kl) ∧
      (s.bitv v 0x360C 9 = false → Does (.klRaRead v) s (ended 7))) ∧
    (s.raGood w.unit = true → 16 ≤ x.writes.length → Does (.klRaWdata v d) s fun t =>
      (t.ra v).waiting = x.waiting ++ [(d, tag, 0)] ∧ (t.ra v).writes = x.writes) ∧
    (s.raGood w.unit = true → s.routeOf w.unit none = [] →
      (x.writes.length < 16 → Does (.klRaWdata v d) s (s.Faulted · v)) ∧
      (s.bitv v 0x360C 9 = false → Does (.klRaRead v) s (ended 3))) ∧
    (s.raGood w.unit = true → s.routeOf w.unit none ≠ [] →
      (x.writes.length < 16 → Does (.klRaWdata v d) s fun t => (t.ra v).writes = x.writes ++ [w] ∧
        t.rdv v 0x118 = BitVec.ofNat 32 tag ∧
        (s.time.mono + us 200 * s.hops w.unit, Instr.remoteTimeout v false (BitVec.ofNat 16 tag)) ∈ t.agenda ∧
        ∀ q ∈ s.routeOf w.unit none, t.Goes q 0 (.wrReq (BitVec.ofNat 8 w.unit) me (BitVec.ofNat 16 tag)
          (BitVec.ofNat 8 w.rvi) (BitVec.ofNat 8 v) (BitVec.ofNat 16 w.ofs) d)) ∧
      (s.bitv v 0x360C 9 = false → Does (.klRaRead v) s fun t => (t.ra v).read = some w ∧ t.bitv v 0x360C 9 = true ∧
        (s.time.mono + us 200 * s.hops w.unit, Instr.remoteTimeout v true (BitVec.ofNat 16 tag)) ∈ t.agenda ∧
        ∀ q ∈ s.routeOf w.unit none, t.Goes q 0 (.rdReq (BitVec.ofNat 8 w.unit) me (BitVec.ofNat 16 tag)
          (BitVec.ofNat 8 w.rvi) (BitVec.ofNat 8 v) (BitVec.ofNat 16 w.ofs)))) ∧
    (s.bitv v 0x360C 9 = true → Does (.klRaRead v) s fun t => t.bitv v 0x360C 8 = true ∧ t.fldv v 0x360C 3 0 = 7 ∧
      t.kl = s.kl) ∧
    (s.hears p = false → Does rd s (· = s) ∧ Does wr s (· = s)) ∧
    (s.hearsRsp p = false → Does rdA s (· = s) ∧ Does wrA s (· = s)) ∧
    (s.hears p = true → dst.toNat ≠ s.addr →
      (s.routeOf dst.toNat (some p.val) = [] → Does rd s (fun t => s.Accepts t p ∧ SameRegs [] s t ∧
          ∀ q ∈ s.routeOf src.toNat none, t.Goes q 0 (.rdRsp src me rid 3 ovi 0)) ∧
        Does wr s fun t => s.Accepts t p ∧ SameRegs [] s t ∧
          ∀ q ∈ s.routeOf src.toNat none, t.Goes q 0 (.wrRsp src me rid 3 ovi off (BitVec.ofNat 8 dvi))) ∧
      (s.routeOf dst.toNat (some p.val) ≠ [] → Does rd s (fun t => s.Accepts t p ∧ SameRegs [] s t ∧
          (hops ≠ 15 → ∀ q ∈ s.routeOf dst.toNat (some p.val),
            t.Goes q (hops.val + 1) (.rdReq dst src rid (BitVec.ofNat 8 dvi) ovi off))) ∧
        Does wr s fun t => s.Accepts t p ∧ SameRegs [] s t ∧
          (hops ≠ 15 → ∀ q ∈ s.routeOf dst.toNat (some p.val),
            t.Goes q (hops.val + 1) (.wrReq dst src rid (BitVec.ofNat 8 dvi) ovi off data)))) ∧
    (s.hearsRsp p = true → dst.toNat ≠ s.addr →
      Does rdA s (fun t => s.Accepts t p ∧ SameRegs [] s t ∧ (hops ≠ 15 →
        ∀ q ∈ s.routeOf dst.toNat (some p.val), t.Goes q (hops.val + 1) (.rdRsp dst src rid st ovi data))) ∧
      Does wrA s (fun t => s.Accepts t p ∧ SameRegs [] s t ∧ (hops ≠ 15 →
        ∀ q ∈ s.routeOf dst.toNat (some p.val),
          t.Goes q (hops.val + 1) (.wrRsp dst src rid st ovi off (BitVec.ofNat 8 dvi))))) ∧
    (s.hears p = true → dst.toNat = s.addr →
      (s.serveWhy dvi ≠ 0 → Does rd s (fun t => s.Accepts t p ∧ SameRegs [] s t ∧
          ∀ q ∈ s.routeOf src.toNat none, t.Goes q 0 (.rdRsp src me rid (s.serveWhy dvi) ovi 0)) ∧
        Does wr s fun t => s.Accepts t p ∧ SameRegs [] s t ∧
          ∀ q ∈ s.routeOf src.toNat none, t.Goes q 0 (.wrRsp src me rid (s.serveWhy dvi) ovi off (BitVec.ofNat 8 dvi))) ∧
      (s.serveWhy dvi = 0 →
        Does rd s (fun t => ∃ u : State, u.regs = s.regs ∧ s.Accepts u p ∧ u.kl.served.length = s.kl.served.length + 1 ∧
          exec (.rcRead dvi .link off 0xF) u = .next t) ∧
        Does wr s fun t => ∃ u : State, u.regs = s.regs ∧ s.Accepts u p ∧ u.kl.served.length = s.kl.served.length + 1 ∧
          exec (.registerWrite dvi .link off data 0xF) u = .next t)) ∧
    (s.hearsRsp p = true → dst.toNat = s.addr →
      ((s.ra o).read.any (fun y => y.rid == rid.toNat) = true → Does rdA s fun t =>
        t.bitv o 0x360C 9 = false ∧ t.bitv o 0x360C 8 = true ∧ t.fldv o 0x360C 3 0 = st.toNat % 16 ∧
        t.rdv o 0x3610 = (if st = 0 then data else 0) ∧ (t.ra o).read = none) ∧
      ((s.ra o).read.any (fun y => y.rid == rid.toNat) = false → Does rdA s fun t =>
        t.rdv o 0x3614 = satAdd (s.rdv o 0x3614) 1 ∧ SameRegs [viKey o 0x3614] s t) ∧
      (∀ y, (s.ra o).writes.find? (fun y => y.rid == rid.toNat) = some y → (s.ra o).waiting = [] → Does wrA s fun t =>
          (t.ra o).writes = (s.ra o).writes.filter (· ≠ y) ∧ (st ≠ 0 → s.Faulted t o) ∧ (st = 0 → SameRegs [] s t)) ∧
      ((s.ra o).writes.find? (fun y => y.rid == rid.toNat) = none → Does wrA s fun t =>
          t.rdv o 0x3614 = satAdd (s.rdv o 0x3614) 1 ∧ SameRegs [viKey o 0x3614] s t)) ∧
    (x.read.any (fun y => y.rid == rid.toNat) = true → Does (.remoteTimeout v true rid) s fun t =>
      t.bitv v 0x360C 9 = false ∧ ended 6 t) ∧
    (x.read.any (fun y => y.rid == rid.toNat) = false → Does (.remoteTimeout v true rid) s (· = s)) ∧
    (∀ y, x.writes.find? (fun y => y.rid == rid.toNat) = some y → x.waiting = [] → Does (.remoteTimeout v false rid) s fun t =>
      (t.ra v).writes = x.writes.filter (· ≠ y) ∧ s.Faulted t v) ∧
    (x.writes.find? (fun y => y.rid == rid.toNat) = none → Does (.remoteTimeout v false rid) s (· = s))

/-- Acknowledgements release what is acknowledged, credits count up to 8, a NAK or 20 µs without an ACK resends what is not, and after 8
sends the port is down; a bad packet is answered with a NAK, a duplicate with an ACK, one of bad form only counts (the model's reading,
log entry 128); reset commands go out, are forwarded, and reset the unit where it allows them. -/
def Obligations.PacketsAreAcknowledgedAndResetsAsked : Prop :=
  ∀ (s : State) (p : Fin 4) (l : BitVec 12) (ce cr cq : Fin 4) (v : Word) (dst level : Byte) (hops : Fin 16),
    let x := s.kp p
    let quiet : Prop := x.evt = [] ∧ x.rsp = [] ∧ x.req = []
    let rst := Instr.resetCmd ⟨p, hops⟩ dst level
    let resent (air : List AirPkt) (c : Instr) : Prop :=
      (air = [] → Does c s fun t => (t.kp p).air = [] ∧ t.kl.sent = s.kl.sent ∧ SameRegs [] s t) ∧
      (air ≠ [] → (∀ a ∈ air, a.tries < 8) → Does c s fun t =>
        t.kp p = { x with air := air.map (fun a => { a with tries := a.tries + 1 }), timer := s.time.mono } ∧
        t.kl.sent = s.kl.sent ++ air.map (fun a => (p.val, a.hops, a.pkt)) ∧
        t.rd (klR p + 0x18) = satAdd (s.rd (klR p + 0x18)) 1 ∧ SameRegs [devKey (klR p + 0x18)] s t) ∧
      ((∃ a ∈ air, 8 ≤ a.tries) → Does c s fun t => t.fld (klR p + 4) 15 12 = 3 ∧
        t.rd (klR p + 0x20) = satAdd (s.rd (klR p + 0x20)) 1 ∧ t.klState p = (if s.bit (klR p) 0 then 1 else 4))
    (s.sends p = false → Does (.ack p l) s (· = s) ∧ Does (.nak p l) s (· = s) ∧ Does (.credit p ce cr cq) s (· = s)) ∧
    (s.sends p = true → quiet →
      Does (.ack p l) s (fun t => SameRegs [] s t ∧ t.kl.sent = s.kl.sent ∧
        t.kp p = { x with air := x.air.filter (fun a => 8 < (l.toNat + 4096 - a.lseq) % 4096), timer := s.time.mono }) ∧
      Does (.credit p ce cr cq) s fun t => SameRegs [] s t ∧ t.kl.sent = s.kl.sent ∧
        t.kp p = { x with cEvt := min 8 (x.cEvt + ce), cRsp := min 8 (x.cRsp + cr), cReq := min 8 (x.cReq + cq) }) ∧
    (s.sends p = true → resent (x.air.filter fun a => 8 < ((l.toNat + 4095) % 4096 + 4096 - a.lseq) % 4096) (.nak p l)) ∧
    (s.ackLate p = true → resent x.air (.replayTimeout p)) ∧
    (s.ackLate p = false → Does (.replayTimeout p) s (· = s)) ∧
    (s.klState p ≠ 2 → ∀ b, Does (.klBadPacket p b) s (· = s)) ∧
    (s.klState p = 2 →
      Does (.klBadPacket p .crc) s (fun t => t.rd (klR p + 0x14) = satAdd (s.rd (klR p + 0x14)) 1 ∧
        t.kl.sent = s.kl.sent ++ [(p.val, 0, .nak (BitVec.ofNat 12 x.rx))] ∧ SameRegs [devKey (klR p + 0x14)] s t) ∧
      Does (.klBadPacket p .form) s (fun t => t.rd (klR p + 0x14) = satAdd (s.rd (klR p + 0x14)) 1 ∧
        t.kl = s.kl ∧ SameRegs [devKey (klR p + 0x14)] s t) ∧
      ∀ g : BitVec 12, Does (.klBadPacket p (.lseq g)) s fun t => SameRegs [] s t ∧ t.kl.sent = s.kl.sent ++
        [(p.val, 0, if 1 ≤ (x.rx + 4096 - g.toNat) % 4096 ∧ (x.rx + 4096 - g.toNat) % 4096 ≤ 8
          then .ack (BitVec.ofNat 12 ((x.rx + 4095) % 4096)) else .nak (BitVec.ofNat 12 x.rx))]) ∧
    (s.inTree = false ∨ (bf v 25 24 ≠ 1 ∧ bf v 25 24 ≠ 2) → Does (.klRstCmd v) s (· = s)) ∧
    (s.inTree = true → bf v 25 24 = 1 ∨ bf v 25 24 = 2 → Does (.klRstCmd v) s fun t => SameRegs [] s t ∧
      ∀ q ∈ s.routeOf (bf v 7 0) none, t.Goes q 0 (.resetCmd (BitVec.ofNat 8 (bf v 7 0)) (BitVec.ofNat 8 (bf v 25 24)))) ∧
    (s.hears p = false → Does rst s (· = s)) ∧
    (s.hears p = true → Does rst s fun t => s.Accepts t p ∧ SameRegs [] s t ∧
      (dst.toNat ≠ s.addr → hops ≠ 15 → ∀ q ∈ s.routeOf dst.toNat (some p.val), t.Goes q (hops.val + 1) (.resetCmd dst level)) ∧
      (s.upPort = some p.val → dst.toNat = s.addr ∨ dst.toNat = 255 → s.bit 0x3400 16 = true → level = 1 ∨ level = 2 →
        s.rst.req = none → s.resetLevel = none → ∃ r, t.rst.req = some r ∧ r.src = 8 ∧ r.level = s.levelFor level.toNat) ∧
      (s.upPort ≠ some p.val ∨ s.bit 0x3400 16 = false ∨ (level ≠ 1 ∧ level ≠ 2) ∨
        (dst.toNat ≠ s.addr ∧ dst.toNat ≠ 255) → t.rst = s.rst))
end

