-- ==== Sys2Proof/Laws/Tab.lean ====
section
/-! SUPPORT. Laws of `Tab`: what a read gives after a write, and that every operation keeps the canonical form. -/

namespace Sys2Proof.Machine

variable {α : Type}

theorem Tab.find_erase_self (t : Tab α) (k : Nat) : Tab.find (Tab.erase t k) k = none := by
  induction t with
  | nil => rfl
  | cons e t ih =>
    obtain ⟨a, v⟩ := e
    by_cases h : a = k <;> simp [Tab.erase, Tab.find, h, ih]

theorem Tab.find_erase_ne (t : Tab α) {j k : Nat} (h : j ≠ k) : Tab.find (Tab.erase t k) j = Tab.find t j := by
  induction t with
  | nil => rfl
  | cons e t ih =>
    obtain ⟨a, v⟩ := e
    by_cases ha : a = k
    · have hj : a ≠ j := by omega
      simp [Tab.erase, Tab.find, ha, ih]; intro hk; omega
    · by_cases hj : a = j
      · subst hj; simp [Tab.erase, Tab.find, ha]
      · simp [Tab.erase, Tab.find, ha, hj, ih]

theorem Tab.find_insert_self (t : Tab α) (k : Nat) (v : α) (h : Tab.find t k = none) :
    Tab.find (Tab.insert t k v) k = some v := by
  induction t with
  | nil => simp [Tab.insert, Tab.find]
  | cons e t ih =>
    obtain ⟨a, w⟩ := e
    simp only [Tab.find] at h
    by_cases ha : a = k
    · simp [ha] at h
    · simp only [ha, if_false] at h
      by_cases hk : k < a <;> simp [Tab.insert, Tab.find, hk, ha, ih h]

theorem Tab.find_insert_ne (t : Tab α) {j k : Nat} (v : α) (h : j ≠ k) : Tab.find (Tab.insert t k v) j = Tab.find t j := by
  induction t with
  | nil => simp [Tab.insert, Tab.find, h.symm]
  | cons e t ih =>
    obtain ⟨a, w⟩ := e
    by_cases hk : k < a
    · simp [Tab.insert, Tab.find, hk, h.symm]
    · by_cases hj : a = j
      · subst hj; simp [Tab.insert, Tab.find, hk]
      · simp [Tab.insert, Tab.find, hk, hj, ih]

variable [DecidableEq α]

/-- A read of the key written gives the value written. -/
@[simp] theorem Tab.get_set_self (d : Nat → α) (t : Tab α) (k : Nat) (v : α) : Tab.get d (Tab.set d t k v) k = v := by
  unfold Tab.get Tab.set
  split
  · simp [Tab.find_erase_self, *]
  · simp [Tab.find_insert_self _ _ _ (Tab.find_erase_self t k)]

/-- A read of another key gives what it gave before. -/
theorem Tab.get_set_ne (d : Nat → α) (t : Tab α) {j k : Nat} (v : α) (h : j ≠ k) :
    Tab.get d (Tab.set d t k v) j = Tab.get d t j := by
  unfold Tab.get Tab.set
  split
  · rw [Tab.find_erase_ne t h]
  · rw [Tab.find_insert_ne _ v h, Tab.find_erase_ne t h]

theorem Tab.get_set (d : Nat → α) (t : Tab α) (j k : Nat) (v : α) :
    Tab.get d (Tab.set d t k v) j = if j = k then v else Tab.get d t j := by
  by_cases h : j = k
  · simp [h]
  · simp [h, Tab.get_set_ne d t v h]

omit [DecidableEq α] in
@[simp] theorem Tab.get_nil (d : Nat → α) (k : Nat) : Tab.get d [] k = d k := rfl

/-! ### The canonical form is kept -/

omit [DecidableEq α] in
theorem Tab.rising_mono {t : Tab α} {a b : Nat} (h : Tab.risingFrom b t = true) (hab : a ≤ b) :
    Tab.risingFrom a t = true := by
  cases t with
  | nil => rfl
  | cons e t => simp [Tab.risingFrom] at h ⊢; exact ⟨by omega, h.2⟩

omit [DecidableEq α] in
theorem Tab.rising_filter {t : Tab α} (p : Nat × α → Bool) {a : Nat} (h : Tab.risingFrom a t = true) :
    Tab.risingFrom a (t.filter p) = true := by
  induction t generalizing a with
  | nil => rfl
  | cons e t ih =>
    simp [Tab.risingFrom] at h
    rw [List.filter_cons]
    split
    · simp [Tab.risingFrom, h.1, ih h.2]
    · exact Tab.rising_mono (ih h.2) (by omega)

omit [DecidableEq α] in
theorem Tab.erase_eq_filter (t : Tab α) (k : Nat) : Tab.erase t k = t.filter fun e => e.1 ≠ k := by
  induction t with
  | nil => rfl
  | cons e t ih => by_cases h : e.1 = k <;> simp [Tab.erase, h, ih]

omit [DecidableEq α] in
theorem Tab.rising_insert {t : Tab α} {a k : Nat} (v : α) (h : Tab.risingFrom a t = true) (hk : a ≤ k)
    (hn : ∀ e ∈ t, e.1 ≠ k) : Tab.risingFrom a (Tab.insert t k v) = true := by
  induction t generalizing a with
  | nil => simp [Tab.insert, Tab.risingFrom, hk]
  | cons e t ih =>
    obtain ⟨b, w⟩ := e
    simp [Tab.risingFrom] at h
    have hb : b ≠ k := hn (b, w) (by simp)
    by_cases hkb : k < b
    · simp [Tab.insert, Tab.risingFrom, hkb, hk, h.2]
    · simp [Tab.insert, Tab.risingFrom, hkb, h.1]
      exact ih h.2 (by omega) fun e he => hn e (by simp [he])

omit [DecidableEq α] in
theorem Tab.mem_insert {t : Tab α} {k : Nat} {v : α} {e : Nat × α} (h : e ∈ Tab.insert t k v) : e = (k, v) ∨ e ∈ t := by
  induction t with
  | nil => simpa [Tab.insert] using h
  | cons f t ih =>
    unfold Tab.insert at h
    split at h
    · simpa using h
    · simp only [List.mem_cons] at h ⊢
      rcases h with h | h
      · exact .inr (.inl h)
      · rcases ih h with h | h
        · exact .inl h
        · exact .inr (.inr h)

/-- A write keeps the canonical form. -/
theorem Tab.wf_set {d : Nat → α} {t : Tab α} (h : Tab.wf d t = true) (k : Nat) (v : α) : Tab.wf d (Tab.set d t k v) = true := by
  simp only [Tab.wf, Bool.and_eq_true] at h ⊢
  have hr : Tab.risingFrom 0 (Tab.erase t k) = true := by
    rw [Tab.erase_eq_filter]; exact Tab.rising_filter _ h.1
  have ha : ∀ e ∈ Tab.erase t k, e.2 ≠ d e.1 := by
    rw [Tab.erase_eq_filter]
    intro e he
    have := List.all_eq_true.mp h.2 e (List.mem_filter.mp he).1
    simpa using this
  unfold Tab.set
  split
  · exact ⟨hr, by simpa using ha⟩
  · refine ⟨Tab.rising_insert v hr (Nat.zero_le k) ?_, ?_⟩
    · rw [Tab.erase_eq_filter]
      intro e he
      simpa using (List.mem_filter.mp he).2
    · simp only [List.all_eq_true, decide_eq_true_eq]
      intro e he
      rcases Tab.mem_insert he with rfl | he
      · assumption
      · exact ha e he

/-- Dropping entries keeps the canonical form. -/
theorem Tab.wf_filter {d : Nat → α} {t : Tab α} (h : Tab.wf d t = true) (p : Nat × α → Bool) : Tab.wf d (t.filter p) = true := by
  simp only [Tab.wf, Bool.and_eq_true] at h ⊢
  refine ⟨Tab.rising_filter p h.1, ?_⟩
  simp only [List.all_eq_true] at h ⊢
  exact fun e he => h.2 e (List.mem_filter.mp he).1

theorem Tab.wf_keep {d : Nat → α} {t : Tab α} (h : Tab.wf d t = true) (p : Nat → Bool) : Tab.wf d (Tab.keep p t) = true :=
  Tab.wf_filter h _

@[simp] theorem Tab.wf_nil (d : Nat → α) : Tab.wf d ([] : Tab α) = true := rfl

end Sys2Proof.Machine
end

