-- ==== Sys2Proof/Laws/Memory.lean ====
section
/-! SUPPORT. Laws of the three stores: what a byte reads after a write, and that every store operation keeps the canonical
form. -/

namespace Sys2Proof.Machine

/-! ### Read after write -/

@[simp] theorem State.vatB_wVat (s : State) (a j : Nat) (b : Byte) : (s.wVat a b).vatB j = if j = a then b else s.vatB j :=
  Tab.get_set _ _ _ _ _
@[simp] theorem State.memB_wVat (s : State) (a j : Nat) (b : Byte) : (s.wVat a b).memB j = s.memB j := rfl
@[simp] theorem State.nvmB_wVat (s : State) (a j : Nat) (b : Byte) : (s.wVat a b).nvmB j = s.nvmB j := rfl
@[simp] theorem State.memB_wMem (s : State) (a j : Nat) (b : Byte) : (s.wMem a b).memB j = if j = a then b else s.memB j :=
  Tab.get_set _ _ _ _ _
@[simp] theorem State.vatB_wMem (s : State) (a j : Nat) (b : Byte) : (s.wMem a b).vatB j = s.vatB j := rfl
@[simp] theorem State.nvmB_wMem (s : State) (a j : Nat) (b : Byte) : (s.wMem a b).nvmB j = s.nvmB j := rfl
@[simp] theorem State.nvmB_wNvm (s : State) (a j : Nat) (b : Byte) : (s.wNvm a b).nvmB j = if j = a then b else s.nvmB j :=
  Tab.get_set _ _ _ _ _
@[simp] theorem State.vatB_wNvm (s : State) (a j : Nat) (b : Byte) : (s.wNvm a b).vatB j = s.vatB j := rfl
@[simp] theorem State.memB_wNvm (s : State) (a j : Nat) (b : Byte) : (s.wNvm a b).memB j = s.memB j := rfl

/-- Bytes stored from `a` on stand there, and every other byte of the same store reads as before. -/
theorem State.vatB_putBytes (s : State) (a j : Nat) (l : List Byte) :
    (s.putBytes true a l).vatB j = if a ≤ j ∧ j < a + l.length then (l[j - a]?).getD 0 else s.vatB j := by
  induction l generalizing s a with
  | nil => simp only [State.putBytes, List.length_nil, Nat.add_zero]; rw [if_neg (by omega)]
  | cons b l ih =>
    simp only [State.putBytes, if_true, ih, List.length_cons]
    by_cases h : j = a
    · subst h; simp
    · by_cases h2 : a + 1 ≤ j ∧ j < a + 1 + l.length
      · have e : j - a = (j - (a + 1)) + 1 := by omega
        rw [if_pos h2, if_pos (by omega), e, List.getElem?_cons_succ]
      · rw [if_neg h2, if_neg (by omega)]; simp [h]

theorem State.memB_putBytes (s : State) (a j : Nat) (l : List Byte) :
    (s.putBytes false a l).memB j = if a ≤ j ∧ j < a + l.length then (l[j - a]?).getD 0 else s.memB j := by
  induction l generalizing s a with
  | nil => simp only [State.putBytes, List.length_nil, Nat.add_zero]; rw [if_neg (by omega)]
  | cons b l ih =>
    simp only [State.putBytes, Bool.false_eq_true, if_false, ih, List.length_cons]
    by_cases h : j = a
    · subst h; simp
    · by_cases h2 : a + 1 ≤ j ∧ j < a + 1 + l.length
      · have e : j - a = (j - (a + 1)) + 1 := by omega
        rw [if_pos h2, if_pos (by omega), e, List.getElem?_cons_succ]
      · rw [if_neg h2, if_neg (by omega)]; simp [h]

/-! ### The canonical form is kept -/

theorem Memory.wf_iff (m : MemSt) : Memory.wf m = true ↔
    Tab.wf m.blank m.vat = true ∧ Tab.wf m.blank m.mem = true ∧ Tab.wf m.nvmBlank m.nvm = true := by
  simp [Memory.wf, and_assoc]

theorem Memory.wf_wVat {s : State} (h : Memory.wf s.mem = true) (a : Nat) (b : Byte) : Memory.wf (s.wVat a b).mem = true := by
  rw [Memory.wf_iff] at h ⊢
  exact ⟨Tab.wf_set h.1 a b, h.2⟩

theorem Memory.wf_wMem {s : State} (h : Memory.wf s.mem = true) (a : Nat) (b : Byte) : Memory.wf (s.wMem a b).mem = true := by
  rw [Memory.wf_iff] at h ⊢
  exact ⟨h.1, Tab.wf_set h.2.1 a b, h.2.2⟩

theorem Memory.wf_wNvm {s : State} (h : Memory.wf s.mem = true) (a : Nat) (b : Byte) : Memory.wf (s.wNvm a b).mem = true := by
  rw [Memory.wf_iff] at h ⊢
  exact ⟨h.1, h.2.1, Tab.wf_set h.2.2 a b⟩

theorem Memory.wf_putBytes {s : State} (h : Memory.wf s.mem = true) (vat : Bool) (a : Nat) (l : List Byte) :
    Memory.wf (s.putBytes vat a l).mem = true := by
  induction l generalizing s a with
  | nil => exact h
  | cons b l ih =>
    cases vat
    · exact ih (Memory.wf_wMem h a b) (a + 1)
    · exact ih (Memory.wf_wVat h a b) (a + 1)

theorem Memory.wf_loseStores {s : State} (h : Memory.wf s.mem = true) : Memory.wf s.loseStores.mem = true := by
  rw [Memory.wf_iff] at h ⊢
  exact ⟨rfl, rfl, h.2.2⟩

theorem NvmRange.find_filter (l : List NvmRange) (lo hi a : Nat) (ha : ¬ (lo ≤ a ∧ a < hi)) :
    (l.filter fun q => !(decide (lo ≤ q.lo) && decide (q.hi ≤ hi))).find? (fun r => decide (r.lo ≤ a) && decide (a < r.hi)) =
      l.find? fun r => decide (r.lo ≤ a) && decide (a < r.hi) := by
  induction l with
  | nil => rfl
  | cons q l ih =>
    by_cases hq : lo ≤ q.lo ∧ q.hi ≤ hi
    · have : ¬ (q.lo ≤ a ∧ a < q.hi) := by omega
      simp only [List.filter_cons, List.find?_cons]
      rw [if_neg (by simp [hq]), ih]
      have e : (decide (q.lo ≤ a) && decide (a < q.hi)) = false := by
        rw [← Bool.not_eq_true, Bool.and_eq_true, decide_eq_true_eq, decide_eq_true_eq]; exact this
      rw [e]
    · simp only [List.filter_cons, List.find?_cons]
      have e : (!(decide (lo ≤ q.lo) && decide (q.hi ≤ hi))) = true := by
        rw [Bool.not_eq_true', ← Bool.not_eq_true, Bool.and_eq_true, decide_eq_true_eq, decide_eq_true_eq]; exact hq
      rw [if_pos e, List.find?_cons, ih]

/-- Outside the range that is wiped the NVM reads what it read. -/
theorem State.nvmBlank_wipe (s : State) (lo hi a : Nat) (e : Bool) (ha : ¬ (lo ≤ a ∧ a < hi)) :
    (s.wipeNvm lo hi e).mem.nvmBlank a = s.mem.nvmBlank a := by
  have h0 : (decide (lo ≤ a) && decide (a < hi)) = false := by
    rw [← Bool.not_eq_true, Bool.and_eq_true, decide_eq_true_eq, decide_eq_true_eq]; exact ha
  simp only [State.wipeNvm, MemSt.nvmBlank, List.find?_cons, h0]
  rw [NvmRange.find_filter _ _ _ _ ha]

theorem Memory.wf_wipeNvm {s : State} (h : Memory.wf s.mem = true) (lo hi : Nat) (e : Bool) :
    Memory.wf (s.wipeNvm lo hi e).mem = true := by
  rw [Memory.wf_iff] at h ⊢
  refine ⟨h.1, h.2.1, ?_⟩
  have hk := Tab.wf_keep h.2.2 fun a => !(decide (lo ≤ a) && decide (a < hi))
  simp only [Tab.wf, Bool.and_eq_true, List.all_eq_true, decide_eq_true_eq] at hk ⊢
  refine ⟨hk.1, fun x hx => ?_⟩
  have hn := (List.mem_filter.mp hx).2
  rw [State.nvmBlank_wipe s lo hi x.1 e (by simp only [Bool.not_eq_true', ← Bool.not_eq_true, Bool.and_eq_true, decide_eq_true_eq] at hn; exact hn)]
  exact hk.2 x hx

/-- The reset state's stores stand in canonical form. -/
theorem State.reset_mem_wf : Memory.wf State.reset.mem = true := rfl

end Sys2Proof.Machine
end

