-- ==== Sys2Proof/Laws/State.lean ====
section
/-! SUPPORT. What each named update of the state leaves: one lemma per field and update, so that no proof unfolds a record
update; and what a register, a field, a bit and a unit's state read after a write. -/

namespace Sys2Proof.Machine

variable (s : State)

/-! ### Fields an update leaves -/

@[simp] theorem State.setKey_shadows (k : Nat) (x : Word) : (s.setKey k x).shadows = s.shadows := rfl
@[simp] theorem State.setKey_cyc (k : Nat) (x : Word) : (s.setKey k x).cyc = s.cyc := rfl
@[simp] theorem State.setKey_acts (k : Nat) (x : Word) : (s.setKey k x).acts = s.acts := rfl
@[simp] theorem State.setKey_agenda (k : Nat) (x : Word) : (s.setKey k x).agenda = s.agenda := rfl
@[simp] theorem State.setKey_time (k : Nat) (x : Word) : (s.setKey k x).time = s.time := rfl
@[simp] theorem State.setKey_fab (k : Nat) (x : Word) : (s.setKey k x).fab = s.fab := rfl
@[simp] theorem State.setKey_rind (k : Nat) (x : Word) : (s.setKey k x).rind = s.rind := rfl
@[simp] theorem State.setKey_walk (k : Nat) (x : Word) : (s.setKey k x).walk = s.walk := rfl
@[simp] theorem State.setKey_mode (k : Nat) (x : Word) : (s.setKey k x).mode = s.mode := rfl
@[simp] theorem State.setKey_rst (k : Nat) (x : Word) : (s.setKey k x).rst = s.rst := rfl
@[simp] theorem State.setKey_syn (k : Nat) (x : Word) : (s.setKey k x).syn = s.syn := rfl
@[simp] theorem State.setKey_mem (k : Nat) (x : Word) : (s.setKey k x).mem = s.mem := rfl
@[simp] theorem State.setKey_seqs (k : Nat) (x : Word) : (s.setKey k x).seqs = s.seqs := rfl
@[simp] theorem State.setKey_aouts (k : Nat) (x : Word) : (s.setKey k x).aouts = s.aouts := rfl
@[simp] theorem State.setKey_pbs (k : Nat) (x : Word) : (s.setKey k x).pbs = s.pbs := rfl
@[simp] theorem State.setKey_trgs (k : Nat) (x : Word) : (s.setKey k x).trgs = s.trgs := rfl
@[simp] theorem State.setKey_disp (k : Nat) (x : Word) : (s.setKey k x).disp = s.disp := rfl
@[simp] theorem State.setKey_vis (k : Nat) (x : Word) : (s.setKey k x).vis = s.vis := rfl
@[simp] theorem State.setKey_sems (k : Nat) (x : Word) : (s.setKey k x).sems = s.sems := rfl
@[simp] theorem State.setKey_out (k : Nat) (x : Word) : (s.setKey k x).out = s.out := rfl
@[simp] theorem State.setKey_cal (k : Nat) (x : Word) : (s.setKey k x).cal = s.cal := rfl
@[simp] theorem State.setKey_kl (k : Nat) (x : Word) : (s.setKey k x).kl = s.kl := rfl
@[simp] theorem State.setKey_host (k : Nat) (x : Word) : (s.setKey k x).host = s.host := rfl
@[simp] theorem State.setKey_tins (k : Nat) (x : Word) : (s.setKey k x).tins = s.tins := rfl
@[simp] theorem State.setKey_acmps (k : Nat) (x : Word) : (s.setKey k x).acmps = s.acmps := rfl
@[simp] theorem State.setKey_keys (k : Nat) (x : Word) : (s.setKey k x).keys = s.keys := rfl
@[simp] theorem State.setKey_peakTaken (k : Nat) (x : Word) : (s.setKey k x).peakTaken = s.peakTaken := rfl
@[simp] theorem State.setKey_refinHz (k : Nat) (x : Word) : (s.setKey k x).refinHz = s.refinHz := rfl
@[simp] theorem State.setKey_hfxoHz (k : Nat) (x : Word) : (s.setKey k x).hfxoHz = s.hfxoHz := rfl
@[simp] theorem State.setKey_free (k : Nat) (x : Word) : (s.setKey k x).free = s.free := rfl
@[simp] theorem State.setKey_rdata (k : Nat) (x : Word) : (s.setKey k x).rdata = s.rdata := rfl
@[simp] theorem State.setKey_burst (k : Nat) (x : Word) : (s.setKey k x).burst = s.burst := rfl
@[simp] theorem State.setKey_pending (k : Nat) (x : Word) : (s.setKey k x).pending = s.pending := rfl

@[simp] theorem State.wr_shadows (o : Nat) (x : Word) : (s.wr o x).shadows = s.shadows := rfl
@[simp] theorem State.wr_cyc (o : Nat) (x : Word) : (s.wr o x).cyc = s.cyc := rfl
@[simp] theorem State.wr_acts (o : Nat) (x : Word) : (s.wr o x).acts = s.acts := rfl
@[simp] theorem State.wr_agenda (o : Nat) (x : Word) : (s.wr o x).agenda = s.agenda := rfl
@[simp] theorem State.wr_time (o : Nat) (x : Word) : (s.wr o x).time = s.time := rfl
@[simp] theorem State.wr_fab (o : Nat) (x : Word) : (s.wr o x).fab = s.fab := rfl
@[simp] theorem State.wr_rind (o : Nat) (x : Word) : (s.wr o x).rind = s.rind := rfl
@[simp] theorem State.wr_walk (o : Nat) (x : Word) : (s.wr o x).walk = s.walk := rfl
@[simp] theorem State.wr_mode (o : Nat) (x : Word) : (s.wr o x).mode = s.mode := rfl
@[simp] theorem State.wr_rst (o : Nat) (x : Word) : (s.wr o x).rst = s.rst := rfl
@[simp] theorem State.wr_syn (o : Nat) (x : Word) : (s.wr o x).syn = s.syn := rfl
@[simp] theorem State.wr_mem (o : Nat) (x : Word) : (s.wr o x).mem = s.mem := rfl
@[simp] theorem State.wr_seqs (o : Nat) (x : Word) : (s.wr o x).seqs = s.seqs := rfl
@[simp] theorem State.wr_aouts (o : Nat) (x : Word) : (s.wr o x).aouts = s.aouts := rfl
@[simp] theorem State.wr_pbs (o : Nat) (x : Word) : (s.wr o x).pbs = s.pbs := rfl
@[simp] theorem State.wr_trgs (o : Nat) (x : Word) : (s.wr o x).trgs = s.trgs := rfl
@[simp] theorem State.wr_disp (o : Nat) (x : Word) : (s.wr o x).disp = s.disp := rfl
@[simp] theorem State.wr_vis (o : Nat) (x : Word) : (s.wr o x).vis = s.vis := rfl
@[simp] theorem State.wr_sems (o : Nat) (x : Word) : (s.wr o x).sems = s.sems := rfl
@[simp] theorem State.wr_out (o : Nat) (x : Word) : (s.wr o x).out = s.out := rfl
@[simp] theorem State.wr_cal (o : Nat) (x : Word) : (s.wr o x).cal = s.cal := rfl
@[simp] theorem State.wr_kl (o : Nat) (x : Word) : (s.wr o x).kl = s.kl := rfl
@[simp] theorem State.wr_host (o : Nat) (x : Word) : (s.wr o x).host = s.host := rfl
@[simp] theorem State.wr_tins (o : Nat) (x : Word) : (s.wr o x).tins = s.tins := rfl
@[simp] theorem State.wr_acmps (o : Nat) (x : Word) : (s.wr o x).acmps = s.acmps := rfl
@[simp] theorem State.wr_keys (o : Nat) (x : Word) : (s.wr o x).keys = s.keys := rfl
@[simp] theorem State.wr_peakTaken (o : Nat) (x : Word) : (s.wr o x).peakTaken = s.peakTaken := rfl
@[simp] theorem State.wr_refinHz (o : Nat) (x : Word) : (s.wr o x).refinHz = s.refinHz := rfl
@[simp] theorem State.wr_hfxoHz (o : Nat) (x : Word) : (s.wr o x).hfxoHz = s.hfxoHz := rfl
@[simp] theorem State.wr_free (o : Nat) (x : Word) : (s.wr o x).free = s.free := rfl
@[simp] theorem State.wr_rdata (o : Nat) (x : Word) : (s.wr o x).rdata = s.rdata := rfl
@[simp] theorem State.wr_burst (o : Nat) (x : Word) : (s.wr o x).burst = s.burst := rfl
@[simp] theorem State.wr_pending (o : Nat) (x : Word) : (s.wr o x).pending = s.pending := rfl

@[simp] theorem State.wrv_shadows (v o : Nat) (x : Word) : (s.wrv v o x).shadows = s.shadows := rfl
@[simp] theorem State.wrv_cyc (v o : Nat) (x : Word) : (s.wrv v o x).cyc = s.cyc := rfl
@[simp] theorem State.wrv_acts (v o : Nat) (x : Word) : (s.wrv v o x).acts = s.acts := rfl
@[simp] theorem State.wrv_agenda (v o : Nat) (x : Word) : (s.wrv v o x).agenda = s.agenda := rfl
@[simp] theorem State.wrv_time (v o : Nat) (x : Word) : (s.wrv v o x).time = s.time := rfl
@[simp] theorem State.wrv_fab (v o : Nat) (x : Word) : (s.wrv v o x).fab = s.fab := rfl
@[simp] theorem State.wrv_rind (v o : Nat) (x : Word) : (s.wrv v o x).rind = s.rind := rfl
@[simp] theorem State.wrv_walk (v o : Nat) (x : Word) : (s.wrv v o x).walk = s.walk := rfl
@[simp] theorem State.wrv_mode (v o : Nat) (x : Word) : (s.wrv v o x).mode = s.mode := rfl
@[simp] theorem State.wrv_rst (v o : Nat) (x : Word) : (s.wrv v o x).rst = s.rst := rfl
@[simp] theorem State.wrv_syn (v o : Nat) (x : Word) : (s.wrv v o x).syn = s.syn := rfl
@[simp] theorem State.wrv_mem (v o : Nat) (x : Word) : (s.wrv v o x).mem = s.mem := rfl
@[simp] theorem State.wrv_seqs (v o : Nat) (x : Word) : (s.wrv v o x).seqs = s.seqs := rfl
@[simp] theorem State.wrv_aouts (v o : Nat) (x : Word) : (s.wrv v o x).aouts = s.aouts := rfl
@[simp] theorem State.wrv_pbs (v o : Nat) (x : Word) : (s.wrv v o x).pbs = s.pbs := rfl
@[simp] theorem State.wrv_trgs (v o : Nat) (x : Word) : (s.wrv v o x).trgs = s.trgs := rfl
@[simp] theorem State.wrv_disp (v o : Nat) (x : Word) : (s.wrv v o x).disp = s.disp := rfl
@[simp] theorem State.wrv_vis (v o : Nat) (x : Word) : (s.wrv v o x).vis = s.vis := rfl
@[simp] theorem State.wrv_sems (v o : Nat) (x : Word) : (s.wrv v o x).sems = s.sems := rfl
@[simp] theorem State.wrv_out (v o : Nat) (x : Word) : (s.wrv v o x).out = s.out := rfl
@[simp] theorem State.wrv_cal (v o : Nat) (x : Word) : (s.wrv v o x).cal = s.cal := rfl
@[simp] theorem State.wrv_kl (v o : Nat) (x : Word) : (s.wrv v o x).kl = s.kl := rfl
@[simp] theorem State.wrv_host (v o : Nat) (x : Word) : (s.wrv v o x).host = s.host := rfl
@[simp] theorem State.wrv_tins (v o : Nat) (x : Word) : (s.wrv v o x).tins = s.tins := rfl
@[simp] theorem State.wrv_acmps (v o : Nat) (x : Word) : (s.wrv v o x).acmps = s.acmps := rfl
@[simp] theorem State.wrv_keys (v o : Nat) (x : Word) : (s.wrv v o x).keys = s.keys := rfl
@[simp] theorem State.wrv_peakTaken (v o : Nat) (x : Word) : (s.wrv v o x).peakTaken = s.peakTaken := rfl
@[simp] theorem State.wrv_refinHz (v o : Nat) (x : Word) : (s.wrv v o x).refinHz = s.refinHz := rfl
@[simp] theorem State.wrv_hfxoHz (v o : Nat) (x : Word) : (s.wrv v o x).hfxoHz = s.hfxoHz := rfl
@[simp] theorem State.wrv_free (v o : Nat) (x : Word) : (s.wrv v o x).free = s.free := rfl
@[simp] theorem State.wrv_rdata (v o : Nat) (x : Word) : (s.wrv v o x).rdata = s.rdata := rfl
@[simp] theorem State.wrv_burst (v o : Nat) (x : Word) : (s.wrv v o x).burst = s.burst := rfl
@[simp] theorem State.wrv_pending (v o : Nat) (x : Word) : (s.wrv v o x).pending = s.pending := rfl

@[simp] theorem State.wfld_shadows (o hi lo x : Nat) : (s.wfld o hi lo x).shadows = s.shadows := rfl
@[simp] theorem State.wfld_cyc (o hi lo x : Nat) : (s.wfld o hi lo x).cyc = s.cyc := rfl
@[simp] theorem State.wfld_acts (o hi lo x : Nat) : (s.wfld o hi lo x).acts = s.acts := rfl
@[simp] theorem State.wfld_agenda (o hi lo x : Nat) : (s.wfld o hi lo x).agenda = s.agenda := rfl
@[simp] theorem State.wfld_time (o hi lo x : Nat) : (s.wfld o hi lo x).time = s.time := rfl
@[simp] theorem State.wfld_fab (o hi lo x : Nat) : (s.wfld o hi lo x).fab = s.fab := rfl
@[simp] theorem State.wfld_rind (o hi lo x : Nat) : (s.wfld o hi lo x).rind = s.rind := rfl
@[simp] theorem State.wfld_walk (o hi lo x : Nat) : (s.wfld o hi lo x).walk = s.walk := rfl
@[simp] theorem State.wfld_mode (o hi lo x : Nat) : (s.wfld o hi lo x).mode = s.mode := rfl
@[simp] theorem State.wfld_rst (o hi lo x : Nat) : (s.wfld o hi lo x).rst = s.rst := rfl
@[simp] theorem State.wfld_syn (o hi lo x : Nat) : (s.wfld o hi lo x).syn = s.syn := rfl
@[simp] theorem State.wfld_mem (o hi lo x : Nat) : (s.wfld o hi lo x).mem = s.mem := rfl
@[simp] theorem State.wfld_seqs (o hi lo x : Nat) : (s.wfld o hi lo x).seqs = s.seqs := rfl
@[simp] theorem State.wfld_aouts (o hi lo x : Nat) : (s.wfld o hi lo x).aouts = s.aouts := rfl
@[simp] theorem State.wfld_pbs (o hi lo x : Nat) : (s.wfld o hi lo x).pbs = s.pbs := rfl
@[simp] theorem State.wfld_trgs (o hi lo x : Nat) : (s.wfld o hi lo x).trgs = s.trgs := rfl
@[simp] theorem State.wfld_disp (o hi lo x : Nat) : (s.wfld o hi lo x).disp = s.disp := rfl
@[simp] theorem State.wfld_vis (o hi lo x : Nat) : (s.wfld o hi lo x).vis = s.vis := rfl
@[simp] theorem State.wfld_sems (o hi lo x : Nat) : (s.wfld o hi lo x).sems = s.sems := rfl
@[simp] theorem State.wfld_out (o hi lo x : Nat) : (s.wfld o hi lo x).out = s.out := rfl
@[simp] theorem State.wfld_cal (o hi lo x : Nat) : (s.wfld o hi lo x).cal = s.cal := rfl
@[simp] theorem State.wfld_kl (o hi lo x : Nat) : (s.wfld o hi lo x).kl = s.kl := rfl
@[simp] theorem State.wfld_host (o hi lo x : Nat) : (s.wfld o hi lo x).host = s.host := rfl
@[simp] theorem State.wfld_tins (o hi lo x : Nat) : (s.wfld o hi lo x).tins = s.tins := rfl
@[simp] theorem State.wfld_acmps (o hi lo x : Nat) : (s.wfld o hi lo x).acmps = s.acmps := rfl
@[simp] theorem State.wfld_keys (o hi lo x : Nat) : (s.wfld o hi lo x).keys = s.keys := rfl
@[simp] theorem State.wfld_peakTaken (o hi lo x : Nat) : (s.wfld o hi lo x).peakTaken = s.peakTaken := rfl
@[simp] theorem State.wfld_refinHz (o hi lo x : Nat) : (s.wfld o hi lo x).refinHz = s.refinHz := rfl
@[simp] theorem State.wfld_hfxoHz (o hi lo x : Nat) : (s.wfld o hi lo x).hfxoHz = s.hfxoHz := rfl
@[simp] theorem State.wfld_free (o hi lo x : Nat) : (s.wfld o hi lo x).free = s.free := rfl
@[simp] theorem State.wfld_rdata (o hi lo x : Nat) : (s.wfld o hi lo x).rdata = s.rdata := rfl
@[simp] theorem State.wfld_burst (o hi lo x : Nat) : (s.wfld o hi lo x).burst = s.burst := rfl
@[simp] theorem State.wfld_pending (o hi lo x : Nat) : (s.wfld o hi lo x).pending = s.pending := rfl

@[simp] theorem State.wfldv_shadows (v o hi lo x : Nat) : (s.wfldv v o hi lo x).shadows = s.shadows := rfl
@[simp] theorem State.wfldv_cyc (v o hi lo x : Nat) : (s.wfldv v o hi lo x).cyc = s.cyc := rfl
@[simp] theorem State.wfldv_acts (v o hi lo x : Nat) : (s.wfldv v o hi lo x).acts = s.acts := rfl
@[simp] theorem State.wfldv_agenda (v o hi lo x : Nat) : (s.wfldv v o hi lo x).agenda = s.agenda := rfl
@[simp] theorem State.wfldv_time (v o hi lo x : Nat) : (s.wfldv v o hi lo x).time = s.time := rfl
@[simp] theorem State.wfldv_fab (v o hi lo x : Nat) : (s.wfldv v o hi lo x).fab = s.fab := rfl
@[simp] theorem State.wfldv_rind (v o hi lo x : Nat) : (s.wfldv v o hi lo x).rind = s.rind := rfl
@[simp] theorem State.wfldv_walk (v o hi lo x : Nat) : (s.wfldv v o hi lo x).walk = s.walk := rfl
@[simp] theorem State.wfldv_mode (v o hi lo x : Nat) : (s.wfldv v o hi lo x).mode = s.mode := rfl
@[simp] theorem State.wfldv_rst (v o hi lo x : Nat) : (s.wfldv v o hi lo x).rst = s.rst := rfl
@[simp] theorem State.wfldv_syn (v o hi lo x : Nat) : (s.wfldv v o hi lo x).syn = s.syn := rfl
@[simp] theorem State.wfldv_mem (v o hi lo x : Nat) : (s.wfldv v o hi lo x).mem = s.mem := rfl
@[simp] theorem State.wfldv_seqs (v o hi lo x : Nat) : (s.wfldv v o hi lo x).seqs = s.seqs := rfl
@[simp] theorem State.wfldv_aouts (v o hi lo x : Nat) : (s.wfldv v o hi lo x).aouts = s.aouts := rfl
@[simp] theorem State.wfldv_pbs (v o hi lo x : Nat) : (s.wfldv v o hi lo x).pbs = s.pbs := rfl
@[simp] theorem State.wfldv_trgs (v o hi lo x : Nat) : (s.wfldv v o hi lo x).trgs = s.trgs := rfl
@[simp] theorem State.wfldv_disp (v o hi lo x : Nat) : (s.wfldv v o hi lo x).disp = s.disp := rfl
@[simp] theorem State.wfldv_vis (v o hi lo x : Nat) : (s.wfldv v o hi lo x).vis = s.vis := rfl
@[simp] theorem State.wfldv_sems (v o hi lo x : Nat) : (s.wfldv v o hi lo x).sems = s.sems := rfl
@[simp] theorem State.wfldv_out (v o hi lo x : Nat) : (s.wfldv v o hi lo x).out = s.out := rfl
@[simp] theorem State.wfldv_cal (v o hi lo x : Nat) : (s.wfldv v o hi lo x).cal = s.cal := rfl
@[simp] theorem State.wfldv_kl (v o hi lo x : Nat) : (s.wfldv v o hi lo x).kl = s.kl := rfl
@[simp] theorem State.wfldv_host (v o hi lo x : Nat) : (s.wfldv v o hi lo x).host = s.host := rfl
@[simp] theorem State.wfldv_tins (v o hi lo x : Nat) : (s.wfldv v o hi lo x).tins = s.tins := rfl
@[simp] theorem State.wfldv_acmps (v o hi lo x : Nat) : (s.wfldv v o hi lo x).acmps = s.acmps := rfl
@[simp] theorem State.wfldv_keys (v o hi lo x : Nat) : (s.wfldv v o hi lo x).keys = s.keys := rfl
@[simp] theorem State.wfldv_peakTaken (v o hi lo x : Nat) : (s.wfldv v o hi lo x).peakTaken = s.peakTaken := rfl
@[simp] theorem State.wfldv_refinHz (v o hi lo x : Nat) : (s.wfldv v o hi lo x).refinHz = s.refinHz := rfl
@[simp] theorem State.wfldv_hfxoHz (v o hi lo x : Nat) : (s.wfldv v o hi lo x).hfxoHz = s.hfxoHz := rfl
@[simp] theorem State.wfldv_free (v o hi lo x : Nat) : (s.wfldv v o hi lo x).free = s.free := rfl
@[simp] theorem State.wfldv_rdata (v o hi lo x : Nat) : (s.wfldv v o hi lo x).rdata = s.rdata := rfl
@[simp] theorem State.wfldv_burst (v o hi lo x : Nat) : (s.wfldv v o hi lo x).burst = s.burst := rfl
@[simp] theorem State.wfldv_pending (v o hi lo x : Nat) : (s.wfldv v o hi lo x).pending = s.pending := rfl

@[simp] theorem State.wr64_shadows (o p : Nat) (x : BitVec 64) : (s.wr64 o p x).shadows = s.shadows := rfl
@[simp] theorem State.wr64_cyc (o p : Nat) (x : BitVec 64) : (s.wr64 o p x).cyc = s.cyc := rfl
@[simp] theorem State.wr64_acts (o p : Nat) (x : BitVec 64) : (s.wr64 o p x).acts = s.acts := rfl
@[simp] theorem State.wr64_agenda (o p : Nat) (x : BitVec 64) : (s.wr64 o p x).agenda = s.agenda := rfl
@[simp] theorem State.wr64_time (o p : Nat) (x : BitVec 64) : (s.wr64 o p x).time = s.time := rfl
@[simp] theorem State.wr64_fab (o p : Nat) (x : BitVec 64) : (s.wr64 o p x).fab = s.fab := rfl
@[simp] theorem State.wr64_rind (o p : Nat) (x : BitVec 64) : (s.wr64 o p x).rind = s.rind := rfl
@[simp] theorem State.wr64_walk (o p : Nat) (x : BitVec 64) : (s.wr64 o p x).walk = s.walk := rfl
@[simp] theorem State.wr64_mode (o p : Nat) (x : BitVec 64) : (s.wr64 o p x).mode = s.mode := rfl
@[simp] theorem State.wr64_rst (o p : Nat) (x : BitVec 64) : (s.wr64 o p x).rst = s.rst := rfl
@[simp] theorem State.wr64_syn (o p : Nat) (x : BitVec 64) : (s.wr64 o p x).syn = s.syn := rfl
@[simp] theorem State.wr64_mem (o p : Nat) (x : BitVec 64) : (s.wr64 o p x).mem = s.mem := rfl
@[simp] theorem State.wr64_seqs (o p : Nat) (x : BitVec 64) : (s.wr64 o p x).seqs = s.seqs := rfl
@[simp] theorem State.wr64_aouts (o p : Nat) (x : BitVec 64) : (s.wr64 o p x).aouts = s.aouts := rfl
@[simp] theorem State.wr64_pbs (o p : Nat) (x : BitVec 64) : (s.wr64 o p x).pbs = s.pbs := rfl
@[simp] theorem State.wr64_trgs (o p : Nat) (x : BitVec 64) : (s.wr64 o p x).trgs = s.trgs := rfl
@[simp] theorem State.wr64_disp (o p : Nat) (x : BitVec 64) : (s.wr64 o p x).disp = s.disp := rfl
@[simp] theorem State.wr64_vis (o p : Nat) (x : BitVec 64) : (s.wr64 o p x).vis = s.vis := rfl
@[simp] theorem State.wr64_sems (o p : Nat) (x : BitVec 64) : (s.wr64 o p x).sems = s.sems := rfl
@[simp] theorem State.wr64_out (o p : Nat) (x : BitVec 64) : (s.wr64 o p x).out = s.out := rfl
@[simp] theorem State.wr64_cal (o p : Nat) (x : BitVec 64) : (s.wr64 o p x).cal = s.cal := rfl
@[simp] theorem State.wr64_kl (o p : Nat) (x : BitVec 64) : (s.wr64 o p x).kl = s.kl := rfl
@[simp] theorem State.wr64_host (o p : Nat) (x : BitVec 64) : (s.wr64 o p x).host = s.host := rfl
@[simp] theorem State.wr64_tins (o p : Nat) (x : BitVec 64) : (s.wr64 o p x).tins = s.tins := rfl
@[simp] theorem State.wr64_acmps (o p : Nat) (x : BitVec 64) : (s.wr64 o p x).acmps = s.acmps := rfl
@[simp] theorem State.wr64_keys (o p : Nat) (x : BitVec 64) : (s.wr64 o p x).keys = s.keys := rfl
@[simp] theorem State.wr64_peakTaken (o p : Nat) (x : BitVec 64) : (s.wr64 o p x).peakTaken = s.peakTaken := rfl
@[simp] theorem State.wr64_refinHz (o p : Nat) (x : BitVec 64) : (s.wr64 o p x).refinHz = s.refinHz := rfl
@[simp] theorem State.wr64_hfxoHz (o p : Nat) (x : BitVec 64) : (s.wr64 o p x).hfxoHz = s.hfxoHz := rfl
@[simp] theorem State.wr64_free (o p : Nat) (x : BitVec 64) : (s.wr64 o p x).free = s.free := rfl
@[simp] theorem State.wr64_rdata (o p : Nat) (x : BitVec 64) : (s.wr64 o p x).rdata = s.rdata := rfl
@[simp] theorem State.wr64_burst (o p : Nat) (x : BitVec 64) : (s.wr64 o p x).burst = s.burst := rfl
@[simp] theorem State.wr64_pending (o p : Nat) (x : BitVec 64) : (s.wr64 o p x).pending = s.pending := rfl

@[simp] theorem State.clrCnt_shadows (k : Nat) : (s.clrCnt k).shadows = s.shadows := rfl
@[simp] theorem State.clrCnt_cyc (k : Nat) : (s.clrCnt k).cyc = s.cyc := rfl
@[simp] theorem State.clrCnt_acts (k : Nat) : (s.clrCnt k).acts = s.acts := rfl
@[simp] theorem State.clrCnt_agenda (k : Nat) : (s.clrCnt k).agenda = s.agenda := rfl
@[simp] theorem State.clrCnt_time (k : Nat) : (s.clrCnt k).time = s.time := rfl
@[simp] theorem State.clrCnt_fab (k : Nat) : (s.clrCnt k).fab = s.fab := rfl
@[simp] theorem State.clrCnt_rind (k : Nat) : (s.clrCnt k).rind = s.rind := rfl
@[simp] theorem State.clrCnt_walk (k : Nat) : (s.clrCnt k).walk = s.walk := rfl
@[simp] theorem State.clrCnt_mode (k : Nat) : (s.clrCnt k).mode = s.mode := rfl
@[simp] theorem State.clrCnt_rst (k : Nat) : (s.clrCnt k).rst = s.rst := rfl
@[simp] theorem State.clrCnt_syn (k : Nat) : (s.clrCnt k).syn = s.syn := rfl
@[simp] theorem State.clrCnt_mem (k : Nat) : (s.clrCnt k).mem = s.mem := rfl
@[simp] theorem State.clrCnt_seqs (k : Nat) : (s.clrCnt k).seqs = s.seqs := rfl
@[simp] theorem State.clrCnt_aouts (k : Nat) : (s.clrCnt k).aouts = s.aouts := rfl
@[simp] theorem State.clrCnt_pbs (k : Nat) : (s.clrCnt k).pbs = s.pbs := rfl
@[simp] theorem State.clrCnt_trgs (k : Nat) : (s.clrCnt k).trgs = s.trgs := rfl
@[simp] theorem State.clrCnt_disp (k : Nat) : (s.clrCnt k).disp = s.disp := rfl
@[simp] theorem State.clrCnt_vis (k : Nat) : (s.clrCnt k).vis = s.vis := rfl
@[simp] theorem State.clrCnt_sems (k : Nat) : (s.clrCnt k).sems = s.sems := rfl
@[simp] theorem State.clrCnt_out (k : Nat) : (s.clrCnt k).out = s.out := rfl
@[simp] theorem State.clrCnt_cal (k : Nat) : (s.clrCnt k).cal = s.cal := rfl
@[simp] theorem State.clrCnt_kl (k : Nat) : (s.clrCnt k).kl = s.kl := rfl
@[simp] theorem State.clrCnt_host (k : Nat) : (s.clrCnt k).host = s.host := rfl
@[simp] theorem State.clrCnt_tins (k : Nat) : (s.clrCnt k).tins = s.tins := rfl
@[simp] theorem State.clrCnt_acmps (k : Nat) : (s.clrCnt k).acmps = s.acmps := rfl
@[simp] theorem State.clrCnt_keys (k : Nat) : (s.clrCnt k).keys = s.keys := rfl
@[simp] theorem State.clrCnt_peakTaken (k : Nat) : (s.clrCnt k).peakTaken = s.peakTaken := rfl
@[simp] theorem State.clrCnt_refinHz (k : Nat) : (s.clrCnt k).refinHz = s.refinHz := rfl
@[simp] theorem State.clrCnt_hfxoHz (k : Nat) : (s.clrCnt k).hfxoHz = s.hfxoHz := rfl
@[simp] theorem State.clrCnt_free (k : Nat) : (s.clrCnt k).free = s.free := rfl
@[simp] theorem State.clrCnt_rdata (k : Nat) : (s.clrCnt k).rdata = s.rdata := rfl
@[simp] theorem State.clrCnt_burst (k : Nat) : (s.clrCnt k).burst = s.burst := rfl
@[simp] theorem State.clrCnt_pending (k : Nat) : (s.clrCnt k).pending = s.pending := rfl

@[simp] theorem State.clrFld_shadows (k hi lo : Nat) : (s.clrFld k hi lo).shadows = s.shadows := rfl
@[simp] theorem State.clrFld_cyc (k hi lo : Nat) : (s.clrFld k hi lo).cyc = s.cyc := rfl
@[simp] theorem State.clrFld_acts (k hi lo : Nat) : (s.clrFld k hi lo).acts = s.acts := rfl
@[simp] theorem State.clrFld_agenda (k hi lo : Nat) : (s.clrFld k hi lo).agenda = s.agenda := rfl
@[simp] theorem State.clrFld_time (k hi lo : Nat) : (s.clrFld k hi lo).time = s.time := rfl
@[simp] theorem State.clrFld_fab (k hi lo : Nat) : (s.clrFld k hi lo).fab = s.fab := rfl
@[simp] theorem State.clrFld_rind (k hi lo : Nat) : (s.clrFld k hi lo).rind = s.rind := rfl
@[simp] theorem State.clrFld_walk (k hi lo : Nat) : (s.clrFld k hi lo).walk = s.walk := rfl
@[simp] theorem State.clrFld_mode (k hi lo : Nat) : (s.clrFld k hi lo).mode = s.mode := rfl
@[simp] theorem State.clrFld_rst (k hi lo : Nat) : (s.clrFld k hi lo).rst = s.rst := rfl
@[simp] theorem State.clrFld_syn (k hi lo : Nat) : (s.clrFld k hi lo).syn = s.syn := rfl
@[simp] theorem State.clrFld_mem (k hi lo : Nat) : (s.clrFld k hi lo).mem = s.mem := rfl
@[simp] theorem State.clrFld_seqs (k hi lo : Nat) : (s.clrFld k hi lo).seqs = s.seqs := rfl
@[simp] theorem State.clrFld_aouts (k hi lo : Nat) : (s.clrFld k hi lo).aouts = s.aouts := rfl
@[simp] theorem State.clrFld_pbs (k hi lo : Nat) : (s.clrFld k hi lo).pbs = s.pbs := rfl
@[simp] theorem State.clrFld_trgs (k hi lo : Nat) : (s.clrFld k hi lo).trgs = s.trgs := rfl
@[simp] theorem State.clrFld_disp (k hi lo : Nat) : (s.clrFld k hi lo).disp = s.disp := rfl
@[simp] theorem State.clrFld_vis (k hi lo : Nat) : (s.clrFld k hi lo).vis = s.vis := rfl
@[simp] theorem State.clrFld_sems (k hi lo : Nat) : (s.clrFld k hi lo).sems = s.sems := rfl
@[simp] theorem State.clrFld_out (k hi lo : Nat) : (s.clrFld k hi lo).out = s.out := rfl
@[simp] theorem State.clrFld_cal (k hi lo : Nat) : (s.clrFld k hi lo).cal = s.cal := rfl
@[simp] theorem State.clrFld_kl (k hi lo : Nat) : (s.clrFld k hi lo).kl = s.kl := rfl
@[simp] theorem State.clrFld_host (k hi lo : Nat) : (s.clrFld k hi lo).host = s.host := rfl
@[simp] theorem State.clrFld_tins (k hi lo : Nat) : (s.clrFld k hi lo).tins = s.tins := rfl
@[simp] theorem State.clrFld_acmps (k hi lo : Nat) : (s.clrFld k hi lo).acmps = s.acmps := rfl
@[simp] theorem State.clrFld_keys (k hi lo : Nat) : (s.clrFld k hi lo).keys = s.keys := rfl
@[simp] theorem State.clrFld_peakTaken (k hi lo : Nat) : (s.clrFld k hi lo).peakTaken = s.peakTaken := rfl
@[simp] theorem State.clrFld_refinHz (k hi lo : Nat) : (s.clrFld k hi lo).refinHz = s.refinHz := rfl
@[simp] theorem State.clrFld_hfxoHz (k hi lo : Nat) : (s.clrFld k hi lo).hfxoHz = s.hfxoHz := rfl
@[simp] theorem State.clrFld_free (k hi lo : Nat) : (s.clrFld k hi lo).free = s.free := rfl
@[simp] theorem State.clrFld_rdata (k hi lo : Nat) : (s.clrFld k hi lo).rdata = s.rdata := rfl
@[simp] theorem State.clrFld_burst (k hi lo : Nat) : (s.clrFld k hi lo).burst = s.burst := rfl
@[simp] theorem State.clrFld_pending (k hi lo : Nat) : (s.clrFld k hi lo).pending = s.pending := rfl

@[simp] theorem State.setCy_regs (k : Nat) (c : Cyc) : (s.setCy k c).regs = s.regs := rfl
@[simp] theorem State.setCy_shadows (k : Nat) (c : Cyc) : (s.setCy k c).shadows = s.shadows := rfl
@[simp] theorem State.setCy_acts (k : Nat) (c : Cyc) : (s.setCy k c).acts = s.acts := rfl
@[simp] theorem State.setCy_agenda (k : Nat) (c : Cyc) : (s.setCy k c).agenda = s.agenda := rfl
@[simp] theorem State.setCy_time (k : Nat) (c : Cyc) : (s.setCy k c).time = s.time := rfl
@[simp] theorem State.setCy_fab (k : Nat) (c : Cyc) : (s.setCy k c).fab = s.fab := rfl
@[simp] theorem State.setCy_rind (k : Nat) (c : Cyc) : (s.setCy k c).rind = s.rind := rfl
@[simp] theorem State.setCy_walk (k : Nat) (c : Cyc) : (s.setCy k c).walk = s.walk := rfl
@[simp] theorem State.setCy_mode (k : Nat) (c : Cyc) : (s.setCy k c).mode = s.mode := rfl
@[simp] theorem State.setCy_rst (k : Nat) (c : Cyc) : (s.setCy k c).rst = s.rst := rfl
@[simp] theorem State.setCy_syn (k : Nat) (c : Cyc) : (s.setCy k c).syn = s.syn := rfl
@[simp] theorem State.setCy_mem (k : Nat) (c : Cyc) : (s.setCy k c).mem = s.mem := rfl
@[simp] theorem State.setCy_seqs (k : Nat) (c : Cyc) : (s.setCy k c).seqs = s.seqs := rfl
@[simp] theorem State.setCy_aouts (k : Nat) (c : Cyc) : (s.setCy k c).aouts = s.aouts := rfl
@[simp] theorem State.setCy_pbs (k : Nat) (c : Cyc) : (s.setCy k c).pbs = s.pbs := rfl
@[simp] theorem State.setCy_trgs (k : Nat) (c : Cyc) : (s.setCy k c).trgs = s.trgs := rfl
@[simp] theorem State.setCy_disp (k : Nat) (c : Cyc) : (s.setCy k c).disp = s.disp := rfl
@[simp] theorem State.setCy_vis (k : Nat) (c : Cyc) : (s.setCy k c).vis = s.vis := rfl
@[simp] theorem State.setCy_sems (k : Nat) (c : Cyc) : (s.setCy k c).sems = s.sems := rfl
@[simp] theorem State.setCy_out (k : Nat) (c : Cyc) : (s.setCy k c).out = s.out := rfl
@[simp] theorem State.setCy_cal (k : Nat) (c : Cyc) : (s.setCy k c).cal = s.cal := rfl
@[simp] theorem State.setCy_kl (k : Nat) (c : Cyc) : (s.setCy k c).kl = s.kl := rfl
@[simp] theorem State.setCy_host (k : Nat) (c : Cyc) : (s.setCy k c).host = s.host := rfl
@[simp] theorem State.setCy_tins (k : Nat) (c : Cyc) : (s.setCy k c).tins = s.tins := rfl
@[simp] theorem State.setCy_acmps (k : Nat) (c : Cyc) : (s.setCy k c).acmps = s.acmps := rfl
@[simp] theorem State.setCy_keys (k : Nat) (c : Cyc) : (s.setCy k c).keys = s.keys := rfl
@[simp] theorem State.setCy_peakTaken (k : Nat) (c : Cyc) : (s.setCy k c).peakTaken = s.peakTaken := rfl
@[simp] theorem State.setCy_refinHz (k : Nat) (c : Cyc) : (s.setCy k c).refinHz = s.refinHz := rfl
@[simp] theorem State.setCy_hfxoHz (k : Nat) (c : Cyc) : (s.setCy k c).hfxoHz = s.hfxoHz := rfl
@[simp] theorem State.setCy_free (k : Nat) (c : Cyc) : (s.setCy k c).free = s.free := rfl
@[simp] theorem State.setCy_rdata (k : Nat) (c : Cyc) : (s.setCy k c).rdata = s.rdata := rfl
@[simp] theorem State.setCy_burst (k : Nat) (c : Cyc) : (s.setCy k c).burst = s.burst := rfl
@[simp] theorem State.setCy_pending (k : Nat) (c : Cyc) : (s.setCy k c).pending = s.pending := rfl

@[simp] theorem State.touch_regs (k : Nat) (m : Word) : (s.touch k m).regs = s.regs := rfl
@[simp] theorem State.touch_shadows (k : Nat) (m : Word) : (s.touch k m).shadows = s.shadows := rfl
@[simp] theorem State.touch_acts (k : Nat) (m : Word) : (s.touch k m).acts = s.acts := rfl
@[simp] theorem State.touch_agenda (k : Nat) (m : Word) : (s.touch k m).agenda = s.agenda := rfl
@[simp] theorem State.touch_time (k : Nat) (m : Word) : (s.touch k m).time = s.time := rfl
@[simp] theorem State.touch_fab (k : Nat) (m : Word) : (s.touch k m).fab = s.fab := rfl
@[simp] theorem State.touch_rind (k : Nat) (m : Word) : (s.touch k m).rind = s.rind := rfl
@[simp] theorem State.touch_walk (k : Nat) (m : Word) : (s.touch k m).walk = s.walk := rfl
@[simp] theorem State.touch_mode (k : Nat) (m : Word) : (s.touch k m).mode = s.mode := rfl
@[simp] theorem State.touch_rst (k : Nat) (m : Word) : (s.touch k m).rst = s.rst := rfl
@[simp] theorem State.touch_syn (k : Nat) (m : Word) : (s.touch k m).syn = s.syn := rfl
@[simp] theorem State.touch_mem (k : Nat) (m : Word) : (s.touch k m).mem = s.mem := rfl
@[simp] theorem State.touch_seqs (k : Nat) (m : Word) : (s.touch k m).seqs = s.seqs := rfl
@[simp] theorem State.touch_aouts (k : Nat) (m : Word) : (s.touch k m).aouts = s.aouts := rfl
@[simp] theorem State.touch_pbs (k : Nat) (m : Word) : (s.touch k m).pbs = s.pbs := rfl
@[simp] theorem State.touch_trgs (k : Nat) (m : Word) : (s.touch k m).trgs = s.trgs := rfl
@[simp] theorem State.touch_disp (k : Nat) (m : Word) : (s.touch k m).disp = s.disp := rfl
@[simp] theorem State.touch_vis (k : Nat) (m : Word) : (s.touch k m).vis = s.vis := rfl
@[simp] theorem State.touch_sems (k : Nat) (m : Word) : (s.touch k m).sems = s.sems := rfl
@[simp] theorem State.touch_out (k : Nat) (m : Word) : (s.touch k m).out = s.out := rfl
@[simp] theorem State.touch_cal (k : Nat) (m : Word) : (s.touch k m).cal = s.cal := rfl
@[simp] theorem State.touch_kl (k : Nat) (m : Word) : (s.touch k m).kl = s.kl := rfl
@[simp] theorem State.touch_host (k : Nat) (m : Word) : (s.touch k m).host = s.host := rfl
@[simp] theorem State.touch_tins (k : Nat) (m : Word) : (s.touch k m).tins = s.tins := rfl
@[simp] theorem State.touch_acmps (k : Nat) (m : Word) : (s.touch k m).acmps = s.acmps := rfl
@[simp] theorem State.touch_keys (k : Nat) (m : Word) : (s.touch k m).keys = s.keys := rfl
@[simp] theorem State.touch_peakTaken (k : Nat) (m : Word) : (s.touch k m).peakTaken = s.peakTaken := rfl
@[simp] theorem State.touch_refinHz (k : Nat) (m : Word) : (s.touch k m).refinHz = s.refinHz := rfl
@[simp] theorem State.touch_hfxoHz (k : Nat) (m : Word) : (s.touch k m).hfxoHz = s.hfxoHz := rfl
@[simp] theorem State.touch_free (k : Nat) (m : Word) : (s.touch k m).free = s.free := rfl
@[simp] theorem State.touch_rdata (k : Nat) (m : Word) : (s.touch k m).rdata = s.rdata := rfl
@[simp] theorem State.touch_burst (k : Nat) (m : Word) : (s.touch k m).burst = s.burst := rfl
@[simp] theorem State.touch_pending (k : Nat) (m : Word) : (s.touch k m).pending = s.pending := rfl

@[simp] theorem State.tally_shadows (k : Nat) (f : Word → Word) : (s.tally k f).shadows = s.shadows := rfl
@[simp] theorem State.tally_acts (k : Nat) (f : Word → Word) : (s.tally k f).acts = s.acts := rfl
@[simp] theorem State.tally_agenda (k : Nat) (f : Word → Word) : (s.tally k f).agenda = s.agenda := rfl
@[simp] theorem State.tally_time (k : Nat) (f : Word → Word) : (s.tally k f).time = s.time := rfl
@[simp] theorem State.tally_fab (k : Nat) (f : Word → Word) : (s.tally k f).fab = s.fab := rfl
@[simp] theorem State.tally_rind (k : Nat) (f : Word → Word) : (s.tally k f).rind = s.rind := rfl
@[simp] theorem State.tally_walk (k : Nat) (f : Word → Word) : (s.tally k f).walk = s.walk := rfl
@[simp] theorem State.tally_mode (k : Nat) (f : Word → Word) : (s.tally k f).mode = s.mode := rfl
@[simp] theorem State.tally_rst (k : Nat) (f : Word → Word) : (s.tally k f).rst = s.rst := rfl
@[simp] theorem State.tally_syn (k : Nat) (f : Word → Word) : (s.tally k f).syn = s.syn := rfl
@[simp] theorem State.tally_mem (k : Nat) (f : Word → Word) : (s.tally k f).mem = s.mem := rfl
@[simp] theorem State.tally_seqs (k : Nat) (f : Word → Word) : (s.tally k f).seqs = s.seqs := rfl
@[simp] theorem State.tally_aouts (k : Nat) (f : Word → Word) : (s.tally k f).aouts = s.aouts := rfl
@[simp] theorem State.tally_pbs (k : Nat) (f : Word → Word) : (s.tally k f).pbs = s.pbs := rfl
@[simp] theorem State.tally_trgs (k : Nat) (f : Word → Word) : (s.tally k f).trgs = s.trgs := rfl
@[simp] theorem State.tally_disp (k : Nat) (f : Word → Word) : (s.tally k f).disp = s.disp := rfl
@[simp] theorem State.tally_vis (k : Nat) (f : Word → Word) : (s.tally k f).vis = s.vis := rfl
@[simp] theorem State.tally_sems (k : Nat) (f : Word → Word) : (s.tally k f).sems = s.sems := rfl
@[simp] theorem State.tally_out (k : Nat) (f : Word → Word) : (s.tally k f).out = s.out := rfl
@[simp] theorem State.tally_cal (k : Nat) (f : Word → Word) : (s.tally k f).cal = s.cal := rfl
@[simp] theorem State.tally_kl (k : Nat) (f : Word → Word) : (s.tally k f).kl = s.kl := rfl
@[simp] theorem State.tally_host (k : Nat) (f : Word → Word) : (s.tally k f).host = s.host := rfl
@[simp] theorem State.tally_tins (k : Nat) (f : Word → Word) : (s.tally k f).tins = s.tins := rfl
@[simp] theorem State.tally_acmps (k : Nat) (f : Word → Word) : (s.tally k f).acmps = s.acmps := rfl
@[simp] theorem State.tally_keys (k : Nat) (f : Word → Word) : (s.tally k f).keys = s.keys := rfl
@[simp] theorem State.tally_peakTaken (k : Nat) (f : Word → Word) : (s.tally k f).peakTaken = s.peakTaken := rfl
@[simp] theorem State.tally_refinHz (k : Nat) (f : Word → Word) : (s.tally k f).refinHz = s.refinHz := rfl
@[simp] theorem State.tally_hfxoHz (k : Nat) (f : Word → Word) : (s.tally k f).hfxoHz = s.hfxoHz := rfl
@[simp] theorem State.tally_free (k : Nat) (f : Word → Word) : (s.tally k f).free = s.free := rfl
@[simp] theorem State.tally_rdata (k : Nat) (f : Word → Word) : (s.tally k f).rdata = s.rdata := rfl
@[simp] theorem State.tally_burst (k : Nat) (f : Word → Word) : (s.tally k f).burst = s.burst := rfl
@[simp] theorem State.tally_pending (k : Nat) (f : Word → Word) : (s.tally k f).pending = s.pending := rfl

@[simp] theorem State.incSat_shadows (o n : Nat) : (s.incSat o n).shadows = s.shadows := rfl
@[simp] theorem State.incSat_acts (o n : Nat) : (s.incSat o n).acts = s.acts := rfl
@[simp] theorem State.incSat_agenda (o n : Nat) : (s.incSat o n).agenda = s.agenda := rfl
@[simp] theorem State.incSat_time (o n : Nat) : (s.incSat o n).time = s.time := rfl
@[simp] theorem State.incSat_fab (o n : Nat) : (s.incSat o n).fab = s.fab := rfl
@[simp] theorem State.incSat_rind (o n : Nat) : (s.incSat o n).rind = s.rind := rfl
@[simp] theorem State.incSat_walk (o n : Nat) : (s.incSat o n).walk = s.walk := rfl
@[simp] theorem State.incSat_mode (o n : Nat) : (s.incSat o n).mode = s.mode := rfl
@[simp] theorem State.incSat_rst (o n : Nat) : (s.incSat o n).rst = s.rst := rfl
@[simp] theorem State.incSat_syn (o n : Nat) : (s.incSat o n).syn = s.syn := rfl
@[simp] theorem State.incSat_mem (o n : Nat) : (s.incSat o n).mem = s.mem := rfl
@[simp] theorem State.incSat_seqs (o n : Nat) : (s.incSat o n).seqs = s.seqs := rfl
@[simp] theorem State.incSat_aouts (o n : Nat) : (s.incSat o n).aouts = s.aouts := rfl
@[simp] theorem State.incSat_pbs (o n : Nat) : (s.incSat o n).pbs = s.pbs := rfl
@[simp] theorem State.incSat_trgs (o n : Nat) : (s.incSat o n).trgs = s.trgs := rfl
@[simp] theorem State.incSat_disp (o n : Nat) : (s.incSat o n).disp = s.disp := rfl
@[simp] theorem State.incSat_vis (o n : Nat) : (s.incSat o n).vis = s.vis := rfl
@[simp] theorem State.incSat_sems (o n : Nat) : (s.incSat o n).sems = s.sems := rfl
@[simp] theorem State.incSat_out (o n : Nat) : (s.incSat o n).out = s.out := rfl
@[simp] theorem State.incSat_cal (o n : Nat) : (s.incSat o n).cal = s.cal := rfl
@[simp] theorem State.incSat_kl (o n : Nat) : (s.incSat o n).kl = s.kl := rfl
@[simp] theorem State.incSat_host (o n : Nat) : (s.incSat o n).host = s.host := rfl
@[simp] theorem State.incSat_tins (o n : Nat) : (s.incSat o n).tins = s.tins := rfl
@[simp] theorem State.incSat_acmps (o n : Nat) : (s.incSat o n).acmps = s.acmps := rfl
@[simp] theorem State.incSat_keys (o n : Nat) : (s.incSat o n).keys = s.keys := rfl
@[simp] theorem State.incSat_peakTaken (o n : Nat) : (s.incSat o n).peakTaken = s.peakTaken := rfl
@[simp] theorem State.incSat_refinHz (o n : Nat) : (s.incSat o n).refinHz = s.refinHz := rfl
@[simp] theorem State.incSat_hfxoHz (o n : Nat) : (s.incSat o n).hfxoHz = s.hfxoHz := rfl
@[simp] theorem State.incSat_free (o n : Nat) : (s.incSat o n).free = s.free := rfl
@[simp] theorem State.incSat_rdata (o n : Nat) : (s.incSat o n).rdata = s.rdata := rfl
@[simp] theorem State.incSat_burst (o n : Nat) : (s.incSat o n).burst = s.burst := rfl
@[simp] theorem State.incSat_pending (o n : Nat) : (s.incSat o n).pending = s.pending := rfl

@[simp] theorem State.incWrap_shadows (o n : Nat) : (s.incWrap o n).shadows = s.shadows := rfl
@[simp] theorem State.incWrap_acts (o n : Nat) : (s.incWrap o n).acts = s.acts := rfl
@[simp] theorem State.incWrap_agenda (o n : Nat) : (s.incWrap o n).agenda = s.agenda := rfl
@[simp] theorem State.incWrap_time (o n : Nat) : (s.incWrap o n).time = s.time := rfl
@[simp] theorem State.incWrap_fab (o n : Nat) : (s.incWrap o n).fab = s.fab := rfl
@[simp] theorem State.incWrap_rind (o n : Nat) : (s.incWrap o n).rind = s.rind := rfl
@[simp] theorem State.incWrap_walk (o n : Nat) : (s.incWrap o n).walk = s.walk := rfl
@[simp] theorem State.incWrap_mode (o n : Nat) : (s.incWrap o n).mode = s.mode := rfl
@[simp] theorem State.incWrap_rst (o n : Nat) : (s.incWrap o n).rst = s.rst := rfl
@[simp] theorem State.incWrap_syn (o n : Nat) : (s.incWrap o n).syn = s.syn := rfl
@[simp] theorem State.incWrap_mem (o n : Nat) : (s.incWrap o n).mem = s.mem := rfl
@[simp] theorem State.incWrap_seqs (o n : Nat) : (s.incWrap o n).seqs = s.seqs := rfl
@[simp] theorem State.incWrap_aouts (o n : Nat) : (s.incWrap o n).aouts = s.aouts := rfl
@[simp] theorem State.incWrap_pbs (o n : Nat) : (s.incWrap o n).pbs = s.pbs := rfl
@[simp] theorem State.incWrap_trgs (o n : Nat) : (s.incWrap o n).trgs = s.trgs := rfl
@[simp] theorem State.incWrap_disp (o n : Nat) : (s.incWrap o n).disp = s.disp := rfl
@[simp] theorem State.incWrap_vis (o n : Nat) : (s.incWrap o n).vis = s.vis := rfl
@[simp] theorem State.incWrap_sems (o n : Nat) : (s.incWrap o n).sems = s.sems := rfl
@[simp] theorem State.incWrap_out (o n : Nat) : (s.incWrap o n).out = s.out := rfl
@[simp] theorem State.incWrap_cal (o n : Nat) : (s.incWrap o n).cal = s.cal := rfl
@[simp] theorem State.incWrap_kl (o n : Nat) : (s.incWrap o n).kl = s.kl := rfl
@[simp] theorem State.incWrap_host (o n : Nat) : (s.incWrap o n).host = s.host := rfl
@[simp] theorem State.incWrap_tins (o n : Nat) : (s.incWrap o n).tins = s.tins := rfl
@[simp] theorem State.incWrap_acmps (o n : Nat) : (s.incWrap o n).acmps = s.acmps := rfl
@[simp] theorem State.incWrap_keys (o n : Nat) : (s.incWrap o n).keys = s.keys := rfl
@[simp] theorem State.incWrap_peakTaken (o n : Nat) : (s.incWrap o n).peakTaken = s.peakTaken := rfl
@[simp] theorem State.incWrap_refinHz (o n : Nat) : (s.incWrap o n).refinHz = s.refinHz := rfl
@[simp] theorem State.incWrap_hfxoHz (o n : Nat) : (s.incWrap o n).hfxoHz = s.hfxoHz := rfl
@[simp] theorem State.incWrap_free (o n : Nat) : (s.incWrap o n).free = s.free := rfl
@[simp] theorem State.incWrap_rdata (o n : Nat) : (s.incWrap o n).rdata = s.rdata := rfl
@[simp] theorem State.incWrap_burst (o n : Nat) : (s.incWrap o n).burst = s.burst := rfl
@[simp] theorem State.incWrap_pending (o n : Nat) : (s.incWrap o n).pending = s.pending := rfl

@[simp] theorem State.incSatv_shadows (v o n : Nat) : (s.incSatv v o n).shadows = s.shadows := rfl
@[simp] theorem State.incSatv_acts (v o n : Nat) : (s.incSatv v o n).acts = s.acts := rfl
@[simp] theorem State.incSatv_agenda (v o n : Nat) : (s.incSatv v o n).agenda = s.agenda := rfl
@[simp] theorem State.incSatv_time (v o n : Nat) : (s.incSatv v o n).time = s.time := rfl
@[simp] theorem State.incSatv_fab (v o n : Nat) : (s.incSatv v o n).fab = s.fab := rfl
@[simp] theorem State.incSatv_rind (v o n : Nat) : (s.incSatv v o n).rind = s.rind := rfl
@[simp] theorem State.incSatv_walk (v o n : Nat) : (s.incSatv v o n).walk = s.walk := rfl
@[simp] theorem State.incSatv_mode (v o n : Nat) : (s.incSatv v o n).mode = s.mode := rfl
@[simp] theorem State.incSatv_rst (v o n : Nat) : (s.incSatv v o n).rst = s.rst := rfl
@[simp] theorem State.incSatv_syn (v o n : Nat) : (s.incSatv v o n).syn = s.syn := rfl
@[simp] theorem State.incSatv_mem (v o n : Nat) : (s.incSatv v o n).mem = s.mem := rfl
@[simp] theorem State.incSatv_seqs (v o n : Nat) : (s.incSatv v o n).seqs = s.seqs := rfl
@[simp] theorem State.incSatv_aouts (v o n : Nat) : (s.incSatv v o n).aouts = s.aouts := rfl
@[simp] theorem State.incSatv_pbs (v o n : Nat) : (s.incSatv v o n).pbs = s.pbs := rfl
@[simp] theorem State.incSatv_trgs (v o n : Nat) : (s.incSatv v o n).trgs = s.trgs := rfl
@[simp] theorem State.incSatv_disp (v o n : Nat) : (s.incSatv v o n).disp = s.disp := rfl
@[simp] theorem State.incSatv_vis (v o n : Nat) : (s.incSatv v o n).vis = s.vis := rfl
@[simp] theorem State.incSatv_sems (v o n : Nat) : (s.incSatv v o n).sems = s.sems := rfl
@[simp] theorem State.incSatv_out (v o n : Nat) : (s.incSatv v o n).out = s.out := rfl
@[simp] theorem State.incSatv_cal (v o n : Nat) : (s.incSatv v o n).cal = s.cal := rfl
@[simp] theorem State.incSatv_kl (v o n : Nat) : (s.incSatv v o n).kl = s.kl := rfl
@[simp] theorem State.incSatv_host (v o n : Nat) : (s.incSatv v o n).host = s.host := rfl
@[simp] theorem State.incSatv_tins (v o n : Nat) : (s.incSatv v o n).tins = s.tins := rfl
@[simp] theorem State.incSatv_acmps (v o n : Nat) : (s.incSatv v o n).acmps = s.acmps := rfl
@[simp] theorem State.incSatv_keys (v o n : Nat) : (s.incSatv v o n).keys = s.keys := rfl
@[simp] theorem State.incSatv_peakTaken (v o n : Nat) : (s.incSatv v o n).peakTaken = s.peakTaken := rfl
@[simp] theorem State.incSatv_refinHz (v o n : Nat) : (s.incSatv v o n).refinHz = s.refinHz := rfl
@[simp] theorem State.incSatv_hfxoHz (v o n : Nat) : (s.incSatv v o n).hfxoHz = s.hfxoHz := rfl
@[simp] theorem State.incSatv_free (v o n : Nat) : (s.incSatv v o n).free = s.free := rfl
@[simp] theorem State.incSatv_rdata (v o n : Nat) : (s.incSatv v o n).rdata = s.rdata := rfl
@[simp] theorem State.incSatv_burst (v o n : Nat) : (s.incSatv v o n).burst = s.burst := rfl
@[simp] theorem State.incSatv_pending (v o n : Nat) : (s.incSatv v o n).pending = s.pending := rfl

@[simp] theorem State.incFld_shadows (o hi lo n : Nat) : (s.incFld o hi lo n).shadows = s.shadows := rfl
@[simp] theorem State.incFld_acts (o hi lo n : Nat) : (s.incFld o hi lo n).acts = s.acts := rfl
@[simp] theorem State.incFld_agenda (o hi lo n : Nat) : (s.incFld o hi lo n).agenda = s.agenda := rfl
@[simp] theorem State.incFld_time (o hi lo n : Nat) : (s.incFld o hi lo n).time = s.time := rfl
@[simp] theorem State.incFld_fab (o hi lo n : Nat) : (s.incFld o hi lo n).fab = s.fab := rfl
@[simp] theorem State.incFld_rind (o hi lo n : Nat) : (s.incFld o hi lo n).rind = s.rind := rfl
@[simp] theorem State.incFld_walk (o hi lo n : Nat) : (s.incFld o hi lo n).walk = s.walk := rfl
@[simp] theorem State.incFld_mode (o hi lo n : Nat) : (s.incFld o hi lo n).mode = s.mode := rfl
@[simp] theorem State.incFld_rst (o hi lo n : Nat) : (s.incFld o hi lo n).rst = s.rst := rfl
@[simp] theorem State.incFld_syn (o hi lo n : Nat) : (s.incFld o hi lo n).syn = s.syn := rfl
@[simp] theorem State.incFld_mem (o hi lo n : Nat) : (s.incFld o hi lo n).mem = s.mem := rfl
@[simp] theorem State.incFld_seqs (o hi lo n : Nat) : (s.incFld o hi lo n).seqs = s.seqs := rfl
@[simp] theorem State.incFld_aouts (o hi lo n : Nat) : (s.incFld o hi lo n).aouts = s.aouts := rfl
@[simp] theorem State.incFld_pbs (o hi lo n : Nat) : (s.incFld o hi lo n).pbs = s.pbs := rfl
@[simp] theorem State.incFld_trgs (o hi lo n : Nat) : (s.incFld o hi lo n).trgs = s.trgs := rfl
@[simp] theorem State.incFld_disp (o hi lo n : Nat) : (s.incFld o hi lo n).disp = s.disp := rfl
@[simp] theorem State.incFld_vis (o hi lo n : Nat) : (s.incFld o hi lo n).vis = s.vis := rfl
@[simp] theorem State.incFld_sems (o hi lo n : Nat) : (s.incFld o hi lo n).sems = s.sems := rfl
@[simp] theorem State.incFld_out (o hi lo n : Nat) : (s.incFld o hi lo n).out = s.out := rfl
@[simp] theorem State.incFld_cal (o hi lo n : Nat) : (s.incFld o hi lo n).cal = s.cal := rfl
@[simp] theorem State.incFld_kl (o hi lo n : Nat) : (s.incFld o hi lo n).kl = s.kl := rfl
@[simp] theorem State.incFld_host (o hi lo n : Nat) : (s.incFld o hi lo n).host = s.host := rfl
@[simp] theorem State.incFld_tins (o hi lo n : Nat) : (s.incFld o hi lo n).tins = s.tins := rfl
@[simp] theorem State.incFld_acmps (o hi lo n : Nat) : (s.incFld o hi lo n).acmps = s.acmps := rfl
@[simp] theorem State.incFld_keys (o hi lo n : Nat) : (s.incFld o hi lo n).keys = s.keys := rfl
@[simp] theorem State.incFld_peakTaken (o hi lo n : Nat) : (s.incFld o hi lo n).peakTaken = s.peakTaken := rfl
@[simp] theorem State.incFld_refinHz (o hi lo n : Nat) : (s.incFld o hi lo n).refinHz = s.refinHz := rfl
@[simp] theorem State.incFld_hfxoHz (o hi lo n : Nat) : (s.incFld o hi lo n).hfxoHz = s.hfxoHz := rfl
@[simp] theorem State.incFld_free (o hi lo n : Nat) : (s.incFld o hi lo n).free = s.free := rfl
@[simp] theorem State.incFld_rdata (o hi lo n : Nat) : (s.incFld o hi lo n).rdata = s.rdata := rfl
@[simp] theorem State.incFld_burst (o hi lo n : Nat) : (s.incFld o hi lo n).burst = s.burst := rfl
@[simp] theorem State.incFld_pending (o hi lo n : Nat) : (s.incFld o hi lo n).pending = s.pending := rfl

@[simp] theorem State.stage_regs (k : Nat) (x : Word) : (s.stage k x).regs = s.regs := rfl
@[simp] theorem State.stage_cyc (k : Nat) (x : Word) : (s.stage k x).cyc = s.cyc := rfl
@[simp] theorem State.stage_acts (k : Nat) (x : Word) : (s.stage k x).acts = s.acts := rfl
@[simp] theorem State.stage_agenda (k : Nat) (x : Word) : (s.stage k x).agenda = s.agenda := rfl
@[simp] theorem State.stage_time (k : Nat) (x : Word) : (s.stage k x).time = s.time := rfl
@[simp] theorem State.stage_fab (k : Nat) (x : Word) : (s.stage k x).fab = s.fab := rfl
@[simp] theorem State.stage_rind (k : Nat) (x : Word) : (s.stage k x).rind = s.rind := rfl
@[simp] theorem State.stage_walk (k : Nat) (x : Word) : (s.stage k x).walk = s.walk := rfl
@[simp] theorem State.stage_mode (k : Nat) (x : Word) : (s.stage k x).mode = s.mode := rfl
@[simp] theorem State.stage_rst (k : Nat) (x : Word) : (s.stage k x).rst = s.rst := rfl
@[simp] theorem State.stage_syn (k : Nat) (x : Word) : (s.stage k x).syn = s.syn := rfl
@[simp] theorem State.stage_mem (k : Nat) (x : Word) : (s.stage k x).mem = s.mem := rfl
@[simp] theorem State.stage_seqs (k : Nat) (x : Word) : (s.stage k x).seqs = s.seqs := rfl
@[simp] theorem State.stage_aouts (k : Nat) (x : Word) : (s.stage k x).aouts = s.aouts := rfl
@[simp] theorem State.stage_pbs (k : Nat) (x : Word) : (s.stage k x).pbs = s.pbs := rfl
@[simp] theorem State.stage_trgs (k : Nat) (x : Word) : (s.stage k x).trgs = s.trgs := rfl
@[simp] theorem State.stage_disp (k : Nat) (x : Word) : (s.stage k x).disp = s.disp := rfl
@[simp] theorem State.stage_vis (k : Nat) (x : Word) : (s.stage k x).vis = s.vis := rfl
@[simp] theorem State.stage_sems (k : Nat) (x : Word) : (s.stage k x).sems = s.sems := rfl
@[simp] theorem State.stage_out (k : Nat) (x : Word) : (s.stage k x).out = s.out := rfl
@[simp] theorem State.stage_cal (k : Nat) (x : Word) : (s.stage k x).cal = s.cal := rfl
@[simp] theorem State.stage_kl (k : Nat) (x : Word) : (s.stage k x).kl = s.kl := rfl
@[simp] theorem State.stage_host (k : Nat) (x : Word) : (s.stage k x).host = s.host := rfl
@[simp] theorem State.stage_tins (k : Nat) (x : Word) : (s.stage k x).tins = s.tins := rfl
@[simp] theorem State.stage_acmps (k : Nat) (x : Word) : (s.stage k x).acmps = s.acmps := rfl
@[simp] theorem State.stage_keys (k : Nat) (x : Word) : (s.stage k x).keys = s.keys := rfl
@[simp] theorem State.stage_peakTaken (k : Nat) (x : Word) : (s.stage k x).peakTaken = s.peakTaken := rfl
@[simp] theorem State.stage_refinHz (k : Nat) (x : Word) : (s.stage k x).refinHz = s.refinHz := rfl
@[simp] theorem State.stage_hfxoHz (k : Nat) (x : Word) : (s.stage k x).hfxoHz = s.hfxoHz := rfl
@[simp] theorem State.stage_free (k : Nat) (x : Word) : (s.stage k x).free = s.free := rfl
@[simp] theorem State.stage_rdata (k : Nat) (x : Word) : (s.stage k x).rdata = s.rdata := rfl
@[simp] theorem State.stage_burst (k : Nat) (x : Word) : (s.stage k x).burst = s.burst := rfl
@[simp] theorem State.stage_pending (k : Nat) (x : Word) : (s.stage k x).pending = s.pending := rfl

@[simp] theorem State.dropShadows_regs (p : Nat → Bool) : (s.dropShadows p).regs = s.regs := rfl
@[simp] theorem State.dropShadows_cyc (p : Nat → Bool) : (s.dropShadows p).cyc = s.cyc := rfl
@[simp] theorem State.dropShadows_acts (p : Nat → Bool) : (s.dropShadows p).acts = s.acts := rfl
@[simp] theorem State.dropShadows_agenda (p : Nat → Bool) : (s.dropShadows p).agenda = s.agenda := rfl
@[simp] theorem State.dropShadows_time (p : Nat → Bool) : (s.dropShadows p).time = s.time := rfl
@[simp] theorem State.dropShadows_fab (p : Nat → Bool) : (s.dropShadows p).fab = s.fab := rfl
@[simp] theorem State.dropShadows_rind (p : Nat → Bool) : (s.dropShadows p).rind = s.rind := rfl
@[simp] theorem State.dropShadows_walk (p : Nat → Bool) : (s.dropShadows p).walk = s.walk := rfl
@[simp] theorem State.dropShadows_mode (p : Nat → Bool) : (s.dropShadows p).mode = s.mode := rfl
@[simp] theorem State.dropShadows_rst (p : Nat → Bool) : (s.dropShadows p).rst = s.rst := rfl
@[simp] theorem State.dropShadows_syn (p : Nat → Bool) : (s.dropShadows p).syn = s.syn := rfl
@[simp] theorem State.dropShadows_mem (p : Nat → Bool) : (s.dropShadows p).mem = s.mem := rfl
@[simp] theorem State.dropShadows_seqs (p : Nat → Bool) : (s.dropShadows p).seqs = s.seqs := rfl
@[simp] theorem State.dropShadows_aouts (p : Nat → Bool) : (s.dropShadows p).aouts = s.aouts := rfl
@[simp] theorem State.dropShadows_pbs (p : Nat → Bool) : (s.dropShadows p).pbs = s.pbs := rfl
@[simp] theorem State.dropShadows_trgs (p : Nat → Bool) : (s.dropShadows p).trgs = s.trgs := rfl
@[simp] theorem State.dropShadows_disp (p : Nat → Bool) : (s.dropShadows p).disp = s.disp := rfl
@[simp] theorem State.dropShadows_vis (p : Nat → Bool) : (s.dropShadows p).vis = s.vis := rfl
@[simp] theorem State.dropShadows_sems (p : Nat → Bool) : (s.dropShadows p).sems = s.sems := rfl
@[simp] theorem State.dropShadows_out (p : Nat → Bool) : (s.dropShadows p).out = s.out := rfl
@[simp] theorem State.dropShadows_cal (p : Nat → Bool) : (s.dropShadows p).cal = s.cal := rfl
@[simp] theorem State.dropShadows_kl (p : Nat → Bool) : (s.dropShadows p).kl = s.kl := rfl
@[simp] theorem State.dropShadows_host (p : Nat → Bool) : (s.dropShadows p).host = s.host := rfl
@[simp] theorem State.dropShadows_tins (p : Nat → Bool) : (s.dropShadows p).tins = s.tins := rfl
@[simp] theorem State.dropShadows_acmps (p : Nat → Bool) : (s.dropShadows p).acmps = s.acmps := rfl
@[simp] theorem State.dropShadows_keys (p : Nat → Bool) : (s.dropShadows p).keys = s.keys := rfl
@[simp] theorem State.dropShadows_peakTaken (p : Nat → Bool) : (s.dropShadows p).peakTaken = s.peakTaken := rfl
@[simp] theorem State.dropShadows_refinHz (p : Nat → Bool) : (s.dropShadows p).refinHz = s.refinHz := rfl
@[simp] theorem State.dropShadows_hfxoHz (p : Nat → Bool) : (s.dropShadows p).hfxoHz = s.hfxoHz := rfl
@[simp] theorem State.dropShadows_free (p : Nat → Bool) : (s.dropShadows p).free = s.free := rfl
@[simp] theorem State.dropShadows_rdata (p : Nat → Bool) : (s.dropShadows p).rdata = s.rdata := rfl
@[simp] theorem State.dropShadows_burst (p : Nat → Bool) : (s.dropShadows p).burst = s.burst := rfl
@[simp] theorem State.dropShadows_pending (p : Nat → Bool) : (s.dropShadows p).pending = s.pending := rfl

@[simp] theorem State.resetRegs_cyc (p : Nat → Bool) : (s.resetRegs p).cyc = s.cyc := rfl
@[simp] theorem State.resetRegs_acts (p : Nat → Bool) : (s.resetRegs p).acts = s.acts := rfl
@[simp] theorem State.resetRegs_agenda (p : Nat → Bool) : (s.resetRegs p).agenda = s.agenda := rfl
@[simp] theorem State.resetRegs_time (p : Nat → Bool) : (s.resetRegs p).time = s.time := rfl
@[simp] theorem State.resetRegs_fab (p : Nat → Bool) : (s.resetRegs p).fab = s.fab := rfl
@[simp] theorem State.resetRegs_rind (p : Nat → Bool) : (s.resetRegs p).rind = s.rind := rfl
@[simp] theorem State.resetRegs_walk (p : Nat → Bool) : (s.resetRegs p).walk = s.walk := rfl
@[simp] theorem State.resetRegs_mode (p : Nat → Bool) : (s.resetRegs p).mode = s.mode := rfl
@[simp] theorem State.resetRegs_rst (p : Nat → Bool) : (s.resetRegs p).rst = s.rst := rfl
@[simp] theorem State.resetRegs_syn (p : Nat → Bool) : (s.resetRegs p).syn = s.syn := rfl
@[simp] theorem State.resetRegs_mem (p : Nat → Bool) : (s.resetRegs p).mem = s.mem := rfl
@[simp] theorem State.resetRegs_seqs (p : Nat → Bool) : (s.resetRegs p).seqs = s.seqs := rfl
@[simp] theorem State.resetRegs_aouts (p : Nat → Bool) : (s.resetRegs p).aouts = s.aouts := rfl
@[simp] theorem State.resetRegs_pbs (p : Nat → Bool) : (s.resetRegs p).pbs = s.pbs := rfl
@[simp] theorem State.resetRegs_trgs (p : Nat → Bool) : (s.resetRegs p).trgs = s.trgs := rfl
@[simp] theorem State.resetRegs_disp (p : Nat → Bool) : (s.resetRegs p).disp = s.disp := rfl
@[simp] theorem State.resetRegs_vis (p : Nat → Bool) : (s.resetRegs p).vis = s.vis := rfl
@[simp] theorem State.resetRegs_sems (p : Nat → Bool) : (s.resetRegs p).sems = s.sems := rfl
@[simp] theorem State.resetRegs_out (p : Nat → Bool) : (s.resetRegs p).out = s.out := rfl
@[simp] theorem State.resetRegs_cal (p : Nat → Bool) : (s.resetRegs p).cal = s.cal := rfl
@[simp] theorem State.resetRegs_kl (p : Nat → Bool) : (s.resetRegs p).kl = s.kl := rfl
@[simp] theorem State.resetRegs_host (p : Nat → Bool) : (s.resetRegs p).host = s.host := rfl
@[simp] theorem State.resetRegs_tins (p : Nat → Bool) : (s.resetRegs p).tins = s.tins := rfl
@[simp] theorem State.resetRegs_acmps (p : Nat → Bool) : (s.resetRegs p).acmps = s.acmps := rfl
@[simp] theorem State.resetRegs_keys (p : Nat → Bool) : (s.resetRegs p).keys = s.keys := rfl
@[simp] theorem State.resetRegs_peakTaken (p : Nat → Bool) : (s.resetRegs p).peakTaken = s.peakTaken := rfl
@[simp] theorem State.resetRegs_refinHz (p : Nat → Bool) : (s.resetRegs p).refinHz = s.refinHz := rfl
@[simp] theorem State.resetRegs_hfxoHz (p : Nat → Bool) : (s.resetRegs p).hfxoHz = s.hfxoHz := rfl
@[simp] theorem State.resetRegs_free (p : Nat → Bool) : (s.resetRegs p).free = s.free := rfl
@[simp] theorem State.resetRegs_rdata (p : Nat → Bool) : (s.resetRegs p).rdata = s.rdata := rfl
@[simp] theorem State.resetRegs_burst (p : Nat → Bool) : (s.resetRegs p).burst = s.burst := rfl
@[simp] theorem State.resetRegs_pending (p : Nat → Bool) : (s.resetRegs p).pending = s.pending := rfl

@[simp] theorem State.setAct_regs (a : ActId) (x : Act) : (s.setAct a x).regs = s.regs := rfl
@[simp] theorem State.setAct_shadows (a : ActId) (x : Act) : (s.setAct a x).shadows = s.shadows := rfl
@[simp] theorem State.setAct_cyc (a : ActId) (x : Act) : (s.setAct a x).cyc = s.cyc := rfl
@[simp] theorem State.setAct_agenda (a : ActId) (x : Act) : (s.setAct a x).agenda = s.agenda := rfl
@[simp] theorem State.setAct_time (a : ActId) (x : Act) : (s.setAct a x).time = s.time := rfl
@[simp] theorem State.setAct_fab (a : ActId) (x : Act) : (s.setAct a x).fab = s.fab := rfl
@[simp] theorem State.setAct_rind (a : ActId) (x : Act) : (s.setAct a x).rind = s.rind := rfl
@[simp] theorem State.setAct_walk (a : ActId) (x : Act) : (s.setAct a x).walk = s.walk := rfl
@[simp] theorem State.setAct_mode (a : ActId) (x : Act) : (s.setAct a x).mode = s.mode := rfl
@[simp] theorem State.setAct_rst (a : ActId) (x : Act) : (s.setAct a x).rst = s.rst := rfl
@[simp] theorem State.setAct_syn (a : ActId) (x : Act) : (s.setAct a x).syn = s.syn := rfl
@[simp] theorem State.setAct_mem (a : ActId) (x : Act) : (s.setAct a x).mem = s.mem := rfl
@[simp] theorem State.setAct_seqs (a : ActId) (x : Act) : (s.setAct a x).seqs = s.seqs := rfl
@[simp] theorem State.setAct_aouts (a : ActId) (x : Act) : (s.setAct a x).aouts = s.aouts := rfl
@[simp] theorem State.setAct_pbs (a : ActId) (x : Act) : (s.setAct a x).pbs = s.pbs := rfl
@[simp] theorem State.setAct_trgs (a : ActId) (x : Act) : (s.setAct a x).trgs = s.trgs := rfl
@[simp] theorem State.setAct_disp (a : ActId) (x : Act) : (s.setAct a x).disp = s.disp := rfl
@[simp] theorem State.setAct_vis (a : ActId) (x : Act) : (s.setAct a x).vis = s.vis := rfl
@[simp] theorem State.setAct_sems (a : ActId) (x : Act) : (s.setAct a x).sems = s.sems := rfl
@[simp] theorem State.setAct_out (a : ActId) (x : Act) : (s.setAct a x).out = s.out := rfl
@[simp] theorem State.setAct_cal (a : ActId) (x : Act) : (s.setAct a x).cal = s.cal := rfl
@[simp] theorem State.setAct_kl (a : ActId) (x : Act) : (s.setAct a x).kl = s.kl := rfl
@[simp] theorem State.setAct_host (a : ActId) (x : Act) : (s.setAct a x).host = s.host := rfl
@[simp] theorem State.setAct_tins (a : ActId) (x : Act) : (s.setAct a x).tins = s.tins := rfl
@[simp] theorem State.setAct_acmps (a : ActId) (x : Act) : (s.setAct a x).acmps = s.acmps := rfl
@[simp] theorem State.setAct_keys (a : ActId) (x : Act) : (s.setAct a x).keys = s.keys := rfl
@[simp] theorem State.setAct_peakTaken (a : ActId) (x : Act) : (s.setAct a x).peakTaken = s.peakTaken := rfl
@[simp] theorem State.setAct_refinHz (a : ActId) (x : Act) : (s.setAct a x).refinHz = s.refinHz := rfl
@[simp] theorem State.setAct_hfxoHz (a : ActId) (x : Act) : (s.setAct a x).hfxoHz = s.hfxoHz := rfl
@[simp] theorem State.setAct_free (a : ActId) (x : Act) : (s.setAct a x).free = s.free := rfl
@[simp] theorem State.setAct_rdata (a : ActId) (x : Act) : (s.setAct a x).rdata = s.rdata := rfl
@[simp] theorem State.setAct_burst (a : ActId) (x : Act) : (s.setAct a x).burst = s.burst := rfl
@[simp] theorem State.setAct_pending (a : ActId) (x : Act) : (s.setAct a x).pending = s.pending := rfl

@[simp] theorem State.setSq_regs (k : Nat) (x : SeqSt) : (s.setSq k x).regs = s.regs := rfl
@[simp] theorem State.setSq_shadows (k : Nat) (x : SeqSt) : (s.setSq k x).shadows = s.shadows := rfl
@[simp] theorem State.setSq_cyc (k : Nat) (x : SeqSt) : (s.setSq k x).cyc = s.cyc := rfl
@[simp] theorem State.setSq_acts (k : Nat) (x : SeqSt) : (s.setSq k x).acts = s.acts := rfl
@[simp] theorem State.setSq_agenda (k : Nat) (x : SeqSt) : (s.setSq k x).agenda = s.agenda := rfl
@[simp] theorem State.setSq_time (k : Nat) (x : SeqSt) : (s.setSq k x).time = s.time := rfl
@[simp] theorem State.setSq_fab (k : Nat) (x : SeqSt) : (s.setSq k x).fab = s.fab := rfl
@[simp] theorem State.setSq_rind (k : Nat) (x : SeqSt) : (s.setSq k x).rind = s.rind := rfl
@[simp] theorem State.setSq_walk (k : Nat) (x : SeqSt) : (s.setSq k x).walk = s.walk := rfl
@[simp] theorem State.setSq_mode (k : Nat) (x : SeqSt) : (s.setSq k x).mode = s.mode := rfl
@[simp] theorem State.setSq_rst (k : Nat) (x : SeqSt) : (s.setSq k x).rst = s.rst := rfl
@[simp] theorem State.setSq_syn (k : Nat) (x : SeqSt) : (s.setSq k x).syn = s.syn := rfl
@[simp] theorem State.setSq_mem (k : Nat) (x : SeqSt) : (s.setSq k x).mem = s.mem := rfl
@[simp] theorem State.setSq_aouts (k : Nat) (x : SeqSt) : (s.setSq k x).aouts = s.aouts := rfl
@[simp] theorem State.setSq_pbs (k : Nat) (x : SeqSt) : (s.setSq k x).pbs = s.pbs := rfl
@[simp] theorem State.setSq_trgs (k : Nat) (x : SeqSt) : (s.setSq k x).trgs = s.trgs := rfl
@[simp] theorem State.setSq_disp (k : Nat) (x : SeqSt) : (s.setSq k x).disp = s.disp := rfl
@[simp] theorem State.setSq_vis (k : Nat) (x : SeqSt) : (s.setSq k x).vis = s.vis := rfl
@[simp] theorem State.setSq_sems (k : Nat) (x : SeqSt) : (s.setSq k x).sems = s.sems := rfl
@[simp] theorem State.setSq_out (k : Nat) (x : SeqSt) : (s.setSq k x).out = s.out := rfl
@[simp] theorem State.setSq_cal (k : Nat) (x : SeqSt) : (s.setSq k x).cal = s.cal := rfl
@[simp] theorem State.setSq_kl (k : Nat) (x : SeqSt) : (s.setSq k x).kl = s.kl := rfl
@[simp] theorem State.setSq_host (k : Nat) (x : SeqSt) : (s.setSq k x).host = s.host := rfl
@[simp] theorem State.setSq_tins (k : Nat) (x : SeqSt) : (s.setSq k x).tins = s.tins := rfl
@[simp] theorem State.setSq_acmps (k : Nat) (x : SeqSt) : (s.setSq k x).acmps = s.acmps := rfl
@[simp] theorem State.setSq_keys (k : Nat) (x : SeqSt) : (s.setSq k x).keys = s.keys := rfl
@[simp] theorem State.setSq_peakTaken (k : Nat) (x : SeqSt) : (s.setSq k x).peakTaken = s.peakTaken := rfl
@[simp] theorem State.setSq_refinHz (k : Nat) (x : SeqSt) : (s.setSq k x).refinHz = s.refinHz := rfl
@[simp] theorem State.setSq_hfxoHz (k : Nat) (x : SeqSt) : (s.setSq k x).hfxoHz = s.hfxoHz := rfl
@[simp] theorem State.setSq_free (k : Nat) (x : SeqSt) : (s.setSq k x).free = s.free := rfl
@[simp] theorem State.setSq_rdata (k : Nat) (x : SeqSt) : (s.setSq k x).rdata = s.rdata := rfl
@[simp] theorem State.setSq_burst (k : Nat) (x : SeqSt) : (s.setSq k x).burst = s.burst := rfl
@[simp] theorem State.setSq_pending (k : Nat) (x : SeqSt) : (s.setSq k x).pending = s.pending := rfl

@[simp] theorem State.setAo_regs (k : Nat) (x : AoutSt) : (s.setAo k x).regs = s.regs := rfl
@[simp] theorem State.setAo_shadows (k : Nat) (x : AoutSt) : (s.setAo k x).shadows = s.shadows := rfl
@[simp] theorem State.setAo_cyc (k : Nat) (x : AoutSt) : (s.setAo k x).cyc = s.cyc := rfl
@[simp] theorem State.setAo_acts (k : Nat) (x : AoutSt) : (s.setAo k x).acts = s.acts := rfl
@[simp] theorem State.setAo_agenda (k : Nat) (x : AoutSt) : (s.setAo k x).agenda = s.agenda := rfl
@[simp] theorem State.setAo_time (k : Nat) (x : AoutSt) : (s.setAo k x).time = s.time := rfl
@[simp] theorem State.setAo_fab (k : Nat) (x : AoutSt) : (s.setAo k x).fab = s.fab := rfl
@[simp] theorem State.setAo_rind (k : Nat) (x : AoutSt) : (s.setAo k x).rind = s.rind := rfl
@[simp] theorem State.setAo_walk (k : Nat) (x : AoutSt) : (s.setAo k x).walk = s.walk := rfl
@[simp] theorem State.setAo_mode (k : Nat) (x : AoutSt) : (s.setAo k x).mode = s.mode := rfl
@[simp] theorem State.setAo_rst (k : Nat) (x : AoutSt) : (s.setAo k x).rst = s.rst := rfl
@[simp] theorem State.setAo_syn (k : Nat) (x : AoutSt) : (s.setAo k x).syn = s.syn := rfl
@[simp] theorem State.setAo_mem (k : Nat) (x : AoutSt) : (s.setAo k x).mem = s.mem := rfl
@[simp] theorem State.setAo_seqs (k : Nat) (x : AoutSt) : (s.setAo k x).seqs = s.seqs := rfl
@[simp] theorem State.setAo_pbs (k : Nat) (x : AoutSt) : (s.setAo k x).pbs = s.pbs := rfl
@[simp] theorem State.setAo_trgs (k : Nat) (x : AoutSt) : (s.setAo k x).trgs = s.trgs := rfl
@[simp] theorem State.setAo_disp (k : Nat) (x : AoutSt) : (s.setAo k x).disp = s.disp := rfl
@[simp] theorem State.setAo_vis (k : Nat) (x : AoutSt) : (s.setAo k x).vis = s.vis := rfl
@[simp] theorem State.setAo_sems (k : Nat) (x : AoutSt) : (s.setAo k x).sems = s.sems := rfl
@[simp] theorem State.setAo_out (k : Nat) (x : AoutSt) : (s.setAo k x).out = s.out := rfl
@[simp] theorem State.setAo_cal (k : Nat) (x : AoutSt) : (s.setAo k x).cal = s.cal := rfl
@[simp] theorem State.setAo_kl (k : Nat) (x : AoutSt) : (s.setAo k x).kl = s.kl := rfl
@[simp] theorem State.setAo_host (k : Nat) (x : AoutSt) : (s.setAo k x).host = s.host := rfl
@[simp] theorem State.setAo_tins (k : Nat) (x : AoutSt) : (s.setAo k x).tins = s.tins := rfl
@[simp] theorem State.setAo_acmps (k : Nat) (x : AoutSt) : (s.setAo k x).acmps = s.acmps := rfl
@[simp] theorem State.setAo_keys (k : Nat) (x : AoutSt) : (s.setAo k x).keys = s.keys := rfl
@[simp] theorem State.setAo_peakTaken (k : Nat) (x : AoutSt) : (s.setAo k x).peakTaken = s.peakTaken := rfl
@[simp] theorem State.setAo_refinHz (k : Nat) (x : AoutSt) : (s.setAo k x).refinHz = s.refinHz := rfl
@[simp] theorem State.setAo_hfxoHz (k : Nat) (x : AoutSt) : (s.setAo k x).hfxoHz = s.hfxoHz := rfl
@[simp] theorem State.setAo_free (k : Nat) (x : AoutSt) : (s.setAo k x).free = s.free := rfl
@[simp] theorem State.setAo_rdata (k : Nat) (x : AoutSt) : (s.setAo k x).rdata = s.rdata := rfl
@[simp] theorem State.setAo_burst (k : Nat) (x : AoutSt) : (s.setAo k x).burst = s.burst := rfl
@[simp] theorem State.setAo_pending (k : Nat) (x : AoutSt) : (s.setAo k x).pending = s.pending := rfl

@[simp] theorem State.setPb_regs (k : Nat) (x : PbSt) : (s.setPb k x).regs = s.regs := rfl
@[simp] theorem State.setPb_shadows (k : Nat) (x : PbSt) : (s.setPb k x).shadows = s.shadows := rfl
@[simp] theorem State.setPb_cyc (k : Nat) (x : PbSt) : (s.setPb k x).cyc = s.cyc := rfl
@[simp] theorem State.setPb_acts (k : Nat) (x : PbSt) : (s.setPb k x).acts = s.acts := rfl
@[simp] theorem State.setPb_agenda (k : Nat) (x : PbSt) : (s.setPb k x).agenda = s.agenda := rfl
@[simp] theorem State.setPb_time (k : Nat) (x : PbSt) : (s.setPb k x).time = s.time := rfl
@[simp] theorem State.setPb_fab (k : Nat) (x : PbSt) : (s.setPb k x).fab = s.fab := rfl
@[simp] theorem State.setPb_rind (k : Nat) (x : PbSt) : (s.setPb k x).rind = s.rind := rfl
@[simp] theorem State.setPb_walk (k : Nat) (x : PbSt) : (s.setPb k x).walk = s.walk := rfl
@[simp] theorem State.setPb_mode (k : Nat) (x : PbSt) : (s.setPb k x).mode = s.mode := rfl
@[simp] theorem State.setPb_rst (k : Nat) (x : PbSt) : (s.setPb k x).rst = s.rst := rfl
@[simp] theorem State.setPb_syn (k : Nat) (x : PbSt) : (s.setPb k x).syn = s.syn := rfl
@[simp] theorem State.setPb_mem (k : Nat) (x : PbSt) : (s.setPb k x).mem = s.mem := rfl
@[simp] theorem State.setPb_seqs (k : Nat) (x : PbSt) : (s.setPb k x).seqs = s.seqs := rfl
@[simp] theorem State.setPb_aouts (k : Nat) (x : PbSt) : (s.setPb k x).aouts = s.aouts := rfl
@[simp] theorem State.setPb_trgs (k : Nat) (x : PbSt) : (s.setPb k x).trgs = s.trgs := rfl
@[simp] theorem State.setPb_disp (k : Nat) (x : PbSt) : (s.setPb k x).disp = s.disp := rfl
@[simp] theorem State.setPb_vis (k : Nat) (x : PbSt) : (s.setPb k x).vis = s.vis := rfl
@[simp] theorem State.setPb_sems (k : Nat) (x : PbSt) : (s.setPb k x).sems = s.sems := rfl
@[simp] theorem State.setPb_out (k : Nat) (x : PbSt) : (s.setPb k x).out = s.out := rfl
@[simp] theorem State.setPb_cal (k : Nat) (x : PbSt) : (s.setPb k x).cal = s.cal := rfl
@[simp] theorem State.setPb_kl (k : Nat) (x : PbSt) : (s.setPb k x).kl = s.kl := rfl
@[simp] theorem State.setPb_host (k : Nat) (x : PbSt) : (s.setPb k x).host = s.host := rfl
@[simp] theorem State.setPb_tins (k : Nat) (x : PbSt) : (s.setPb k x).tins = s.tins := rfl
@[simp] theorem State.setPb_acmps (k : Nat) (x : PbSt) : (s.setPb k x).acmps = s.acmps := rfl
@[simp] theorem State.setPb_keys (k : Nat) (x : PbSt) : (s.setPb k x).keys = s.keys := rfl
@[simp] theorem State.setPb_peakTaken (k : Nat) (x : PbSt) : (s.setPb k x).peakTaken = s.peakTaken := rfl
@[simp] theorem State.setPb_refinHz (k : Nat) (x : PbSt) : (s.setPb k x).refinHz = s.refinHz := rfl
@[simp] theorem State.setPb_hfxoHz (k : Nat) (x : PbSt) : (s.setPb k x).hfxoHz = s.hfxoHz := rfl
@[simp] theorem State.setPb_free (k : Nat) (x : PbSt) : (s.setPb k x).free = s.free := rfl
@[simp] theorem State.setPb_rdata (k : Nat) (x : PbSt) : (s.setPb k x).rdata = s.rdata := rfl
@[simp] theorem State.setPb_burst (k : Nat) (x : PbSt) : (s.setPb k x).burst = s.burst := rfl
@[simp] theorem State.setPb_pending (k : Nat) (x : PbSt) : (s.setPb k x).pending = s.pending := rfl

@[simp] theorem State.setTrg_regs (k : Nat) (x : TrgSt) : (s.setTrg k x).regs = s.regs := rfl
@[simp] theorem State.setTrg_shadows (k : Nat) (x : TrgSt) : (s.setTrg k x).shadows = s.shadows := rfl
@[simp] theorem State.setTrg_cyc (k : Nat) (x : TrgSt) : (s.setTrg k x).cyc = s.cyc := rfl
@[simp] theorem State.setTrg_acts (k : Nat) (x : TrgSt) : (s.setTrg k x).acts = s.acts := rfl
@[simp] theorem State.setTrg_agenda (k : Nat) (x : TrgSt) : (s.setTrg k x).agenda = s.agenda := rfl
@[simp] theorem State.setTrg_time (k : Nat) (x : TrgSt) : (s.setTrg k x).time = s.time := rfl
@[simp] theorem State.setTrg_fab (k : Nat) (x : TrgSt) : (s.setTrg k x).fab = s.fab := rfl
@[simp] theorem State.setTrg_rind (k : Nat) (x : TrgSt) : (s.setTrg k x).rind = s.rind := rfl
@[simp] theorem State.setTrg_walk (k : Nat) (x : TrgSt) : (s.setTrg k x).walk = s.walk := rfl
@[simp] theorem State.setTrg_mode (k : Nat) (x : TrgSt) : (s.setTrg k x).mode = s.mode := rfl
@[simp] theorem State.setTrg_rst (k : Nat) (x : TrgSt) : (s.setTrg k x).rst = s.rst := rfl
@[simp] theorem State.setTrg_syn (k : Nat) (x : TrgSt) : (s.setTrg k x).syn = s.syn := rfl
@[simp] theorem State.setTrg_mem (k : Nat) (x : TrgSt) : (s.setTrg k x).mem = s.mem := rfl
@[simp] theorem State.setTrg_seqs (k : Nat) (x : TrgSt) : (s.setTrg k x).seqs = s.seqs := rfl
@[simp] theorem State.setTrg_aouts (k : Nat) (x : TrgSt) : (s.setTrg k x).aouts = s.aouts := rfl
@[simp] theorem State.setTrg_pbs (k : Nat) (x : TrgSt) : (s.setTrg k x).pbs = s.pbs := rfl
@[simp] theorem State.setTrg_disp (k : Nat) (x : TrgSt) : (s.setTrg k x).disp = s.disp := rfl
@[simp] theorem State.setTrg_vis (k : Nat) (x : TrgSt) : (s.setTrg k x).vis = s.vis := rfl
@[simp] theorem State.setTrg_sems (k : Nat) (x : TrgSt) : (s.setTrg k x).sems = s.sems := rfl
@[simp] theorem State.setTrg_out (k : Nat) (x : TrgSt) : (s.setTrg k x).out = s.out := rfl
@[simp] theorem State.setTrg_cal (k : Nat) (x : TrgSt) : (s.setTrg k x).cal = s.cal := rfl
@[simp] theorem State.setTrg_kl (k : Nat) (x : TrgSt) : (s.setTrg k x).kl = s.kl := rfl
@[simp] theorem State.setTrg_host (k : Nat) (x : TrgSt) : (s.setTrg k x).host = s.host := rfl
@[simp] theorem State.setTrg_tins (k : Nat) (x : TrgSt) : (s.setTrg k x).tins = s.tins := rfl
@[simp] theorem State.setTrg_acmps (k : Nat) (x : TrgSt) : (s.setTrg k x).acmps = s.acmps := rfl
@[simp] theorem State.setTrg_keys (k : Nat) (x : TrgSt) : (s.setTrg k x).keys = s.keys := rfl
@[simp] theorem State.setTrg_peakTaken (k : Nat) (x : TrgSt) : (s.setTrg k x).peakTaken = s.peakTaken := rfl
@[simp] theorem State.setTrg_refinHz (k : Nat) (x : TrgSt) : (s.setTrg k x).refinHz = s.refinHz := rfl
@[simp] theorem State.setTrg_hfxoHz (k : Nat) (x : TrgSt) : (s.setTrg k x).hfxoHz = s.hfxoHz := rfl
@[simp] theorem State.setTrg_free (k : Nat) (x : TrgSt) : (s.setTrg k x).free = s.free := rfl
@[simp] theorem State.setTrg_rdata (k : Nat) (x : TrgSt) : (s.setTrg k x).rdata = s.rdata := rfl
@[simp] theorem State.setTrg_burst (k : Nat) (x : TrgSt) : (s.setTrg k x).burst = s.burst := rfl
@[simp] theorem State.setTrg_pending (k : Nat) (x : TrgSt) : (s.setTrg k x).pending = s.pending := rfl

@[simp] theorem State.setSy_regs (k : Nat) (x : SynSt) : (s.setSy k x).regs = s.regs := rfl
@[simp] theorem State.setSy_shadows (k : Nat) (x : SynSt) : (s.setSy k x).shadows = s.shadows := rfl
@[simp] theorem State.setSy_cyc (k : Nat) (x : SynSt) : (s.setSy k x).cyc = s.cyc := rfl
@[simp] theorem State.setSy_acts (k : Nat) (x : SynSt) : (s.setSy k x).acts = s.acts := rfl
@[simp] theorem State.setSy_agenda (k : Nat) (x : SynSt) : (s.setSy k x).agenda = s.agenda := rfl
@[simp] theorem State.setSy_time (k : Nat) (x : SynSt) : (s.setSy k x).time = s.time := rfl
@[simp] theorem State.setSy_fab (k : Nat) (x : SynSt) : (s.setSy k x).fab = s.fab := rfl
@[simp] theorem State.setSy_rind (k : Nat) (x : SynSt) : (s.setSy k x).rind = s.rind := rfl
@[simp] theorem State.setSy_walk (k : Nat) (x : SynSt) : (s.setSy k x).walk = s.walk := rfl
@[simp] theorem State.setSy_mode (k : Nat) (x : SynSt) : (s.setSy k x).mode = s.mode := rfl
@[simp] theorem State.setSy_rst (k : Nat) (x : SynSt) : (s.setSy k x).rst = s.rst := rfl
@[simp] theorem State.setSy_mem (k : Nat) (x : SynSt) : (s.setSy k x).mem = s.mem := rfl
@[simp] theorem State.setSy_seqs (k : Nat) (x : SynSt) : (s.setSy k x).seqs = s.seqs := rfl
@[simp] theorem State.setSy_aouts (k : Nat) (x : SynSt) : (s.setSy k x).aouts = s.aouts := rfl
@[simp] theorem State.setSy_pbs (k : Nat) (x : SynSt) : (s.setSy k x).pbs = s.pbs := rfl
@[simp] theorem State.setSy_trgs (k : Nat) (x : SynSt) : (s.setSy k x).trgs = s.trgs := rfl
@[simp] theorem State.setSy_disp (k : Nat) (x : SynSt) : (s.setSy k x).disp = s.disp := rfl
@[simp] theorem State.setSy_vis (k : Nat) (x : SynSt) : (s.setSy k x).vis = s.vis := rfl
@[simp] theorem State.setSy_sems (k : Nat) (x : SynSt) : (s.setSy k x).sems = s.sems := rfl
@[simp] theorem State.setSy_out (k : Nat) (x : SynSt) : (s.setSy k x).out = s.out := rfl
@[simp] theorem State.setSy_cal (k : Nat) (x : SynSt) : (s.setSy k x).cal = s.cal := rfl
@[simp] theorem State.setSy_kl (k : Nat) (x : SynSt) : (s.setSy k x).kl = s.kl := rfl
@[simp] theorem State.setSy_host (k : Nat) (x : SynSt) : (s.setSy k x).host = s.host := rfl
@[simp] theorem State.setSy_tins (k : Nat) (x : SynSt) : (s.setSy k x).tins = s.tins := rfl
@[simp] theorem State.setSy_acmps (k : Nat) (x : SynSt) : (s.setSy k x).acmps = s.acmps := rfl
@[simp] theorem State.setSy_keys (k : Nat) (x : SynSt) : (s.setSy k x).keys = s.keys := rfl
@[simp] theorem State.setSy_peakTaken (k : Nat) (x : SynSt) : (s.setSy k x).peakTaken = s.peakTaken := rfl
@[simp] theorem State.setSy_refinHz (k : Nat) (x : SynSt) : (s.setSy k x).refinHz = s.refinHz := rfl
@[simp] theorem State.setSy_hfxoHz (k : Nat) (x : SynSt) : (s.setSy k x).hfxoHz = s.hfxoHz := rfl
@[simp] theorem State.setSy_free (k : Nat) (x : SynSt) : (s.setSy k x).free = s.free := rfl
@[simp] theorem State.setSy_rdata (k : Nat) (x : SynSt) : (s.setSy k x).rdata = s.rdata := rfl
@[simp] theorem State.setSy_burst (k : Nat) (x : SynSt) : (s.setSy k x).burst = s.burst := rfl
@[simp] theorem State.setSy_pending (k : Nat) (x : SynSt) : (s.setSy k x).pending = s.pending := rfl

@[simp] theorem State.setVi_regs (k : Nat) (x : ViSt) : (s.setVi k x).regs = s.regs := rfl
@[simp] theorem State.setVi_shadows (k : Nat) (x : ViSt) : (s.setVi k x).shadows = s.shadows := rfl
@[simp] theorem State.setVi_cyc (k : Nat) (x : ViSt) : (s.setVi k x).cyc = s.cyc := rfl
@[simp] theorem State.setVi_acts (k : Nat) (x : ViSt) : (s.setVi k x).acts = s.acts := rfl
@[simp] theorem State.setVi_agenda (k : Nat) (x : ViSt) : (s.setVi k x).agenda = s.agenda := rfl
@[simp] theorem State.setVi_time (k : Nat) (x : ViSt) : (s.setVi k x).time = s.time := rfl
@[simp] theorem State.setVi_fab (k : Nat) (x : ViSt) : (s.setVi k x).fab = s.fab := rfl
@[simp] theorem State.setVi_rind (k : Nat) (x : ViSt) : (s.setVi k x).rind = s.rind := rfl
@[simp] theorem State.setVi_walk (k : Nat) (x : ViSt) : (s.setVi k x).walk = s.walk := rfl
@[simp] theorem State.setVi_mode (k : Nat) (x : ViSt) : (s.setVi k x).mode = s.mode := rfl
@[simp] theorem State.setVi_rst (k : Nat) (x : ViSt) : (s.setVi k x).rst = s.rst := rfl
@[simp] theorem State.setVi_syn (k : Nat) (x : ViSt) : (s.setVi k x).syn = s.syn := rfl
@[simp] theorem State.setVi_mem (k : Nat) (x : ViSt) : (s.setVi k x).mem = s.mem := rfl
@[simp] theorem State.setVi_seqs (k : Nat) (x : ViSt) : (s.setVi k x).seqs = s.seqs := rfl
@[simp] theorem State.setVi_aouts (k : Nat) (x : ViSt) : (s.setVi k x).aouts = s.aouts := rfl
@[simp] theorem State.setVi_pbs (k : Nat) (x : ViSt) : (s.setVi k x).pbs = s.pbs := rfl
@[simp] theorem State.setVi_trgs (k : Nat) (x : ViSt) : (s.setVi k x).trgs = s.trgs := rfl
@[simp] theorem State.setVi_disp (k : Nat) (x : ViSt) : (s.setVi k x).disp = s.disp := rfl
@[simp] theorem State.setVi_sems (k : Nat) (x : ViSt) : (s.setVi k x).sems = s.sems := rfl
@[simp] theorem State.setVi_out (k : Nat) (x : ViSt) : (s.setVi k x).out = s.out := rfl
@[simp] theorem State.setVi_cal (k : Nat) (x : ViSt) : (s.setVi k x).cal = s.cal := rfl
@[simp] theorem State.setVi_kl (k : Nat) (x : ViSt) : (s.setVi k x).kl = s.kl := rfl
@[simp] theorem State.setVi_host (k : Nat) (x : ViSt) : (s.setVi k x).host = s.host := rfl
@[simp] theorem State.setVi_tins (k : Nat) (x : ViSt) : (s.setVi k x).tins = s.tins := rfl
@[simp] theorem State.setVi_acmps (k : Nat) (x : ViSt) : (s.setVi k x).acmps = s.acmps := rfl
@[simp] theorem State.setVi_keys (k : Nat) (x : ViSt) : (s.setVi k x).keys = s.keys := rfl
@[simp] theorem State.setVi_peakTaken (k : Nat) (x : ViSt) : (s.setVi k x).peakTaken = s.peakTaken := rfl
@[simp] theorem State.setVi_refinHz (k : Nat) (x : ViSt) : (s.setVi k x).refinHz = s.refinHz := rfl
@[simp] theorem State.setVi_hfxoHz (k : Nat) (x : ViSt) : (s.setVi k x).hfxoHz = s.hfxoHz := rfl
@[simp] theorem State.setVi_free (k : Nat) (x : ViSt) : (s.setVi k x).free = s.free := rfl
@[simp] theorem State.setVi_rdata (k : Nat) (x : ViSt) : (s.setVi k x).rdata = s.rdata := rfl
@[simp] theorem State.setVi_burst (k : Nat) (x : ViSt) : (s.setVi k x).burst = s.burst := rfl
@[simp] theorem State.setVi_pending (k : Nat) (x : ViSt) : (s.setVi k x).pending = s.pending := rfl

@[simp] theorem State.setSem_regs (k : Nat) (x : SemSt) : (s.setSem k x).regs = s.regs := rfl
@[simp] theorem State.setSem_shadows (k : Nat) (x : SemSt) : (s.setSem k x).shadows = s.shadows := rfl
@[simp] theorem State.setSem_cyc (k : Nat) (x : SemSt) : (s.setSem k x).cyc = s.cyc := rfl
@[simp] theorem State.setSem_acts (k : Nat) (x : SemSt) : (s.setSem k x).acts = s.acts := rfl
@[simp] theorem State.setSem_agenda (k : Nat) (x : SemSt) : (s.setSem k x).agenda = s.agenda := rfl
@[simp] theorem State.setSem_time (k : Nat) (x : SemSt) : (s.setSem k x).time = s.time := rfl
@[simp] theorem State.setSem_fab (k : Nat) (x : SemSt) : (s.setSem k x).fab = s.fab := rfl
@[simp] theorem State.setSem_rind (k : Nat) (x : SemSt) : (s.setSem k x).rind = s.rind := rfl
@[simp] theorem State.setSem_walk (k : Nat) (x : SemSt) : (s.setSem k x).walk = s.walk := rfl
@[simp] theorem State.setSem_mode (k : Nat) (x : SemSt) : (s.setSem k x).mode = s.mode := rfl
@[simp] theorem State.setSem_rst (k : Nat) (x : SemSt) : (s.setSem k x).rst = s.rst := rfl
@[simp] theorem State.setSem_syn (k : Nat) (x : SemSt) : (s.setSem k x).syn = s.syn := rfl
@[simp] theorem State.setSem_mem (k : Nat) (x : SemSt) : (s.setSem k x).mem = s.mem := rfl
@[simp] theorem State.setSem_seqs (k : Nat) (x : SemSt) : (s.setSem k x).seqs = s.seqs := rfl
@[simp] theorem State.setSem_aouts (k : Nat) (x : SemSt) : (s.setSem k x).aouts = s.aouts := rfl
@[simp] theorem State.setSem_pbs (k : Nat) (x : SemSt) : (s.setSem k x).pbs = s.pbs := rfl
@[simp] theorem State.setSem_trgs (k : Nat) (x : SemSt) : (s.setSem k x).trgs = s.trgs := rfl
@[simp] theorem State.setSem_disp (k : Nat) (x : SemSt) : (s.setSem k x).disp = s.disp := rfl
@[simp] theorem State.setSem_vis (k : Nat) (x : SemSt) : (s.setSem k x).vis = s.vis := rfl
@[simp] theorem State.setSem_out (k : Nat) (x : SemSt) : (s.setSem k x).out = s.out := rfl
@[simp] theorem State.setSem_cal (k : Nat) (x : SemSt) : (s.setSem k x).cal = s.cal := rfl
@[simp] theorem State.setSem_kl (k : Nat) (x : SemSt) : (s.setSem k x).kl = s.kl := rfl
@[simp] theorem State.setSem_host (k : Nat) (x : SemSt) : (s.setSem k x).host = s.host := rfl
@[simp] theorem State.setSem_tins (k : Nat) (x : SemSt) : (s.setSem k x).tins = s.tins := rfl
@[simp] theorem State.setSem_acmps (k : Nat) (x : SemSt) : (s.setSem k x).acmps = s.acmps := rfl
@[simp] theorem State.setSem_keys (k : Nat) (x : SemSt) : (s.setSem k x).keys = s.keys := rfl
@[simp] theorem State.setSem_peakTaken (k : Nat) (x : SemSt) : (s.setSem k x).peakTaken = s.peakTaken := rfl
@[simp] theorem State.setSem_refinHz (k : Nat) (x : SemSt) : (s.setSem k x).refinHz = s.refinHz := rfl
@[simp] theorem State.setSem_hfxoHz (k : Nat) (x : SemSt) : (s.setSem k x).hfxoHz = s.hfxoHz := rfl
@[simp] theorem State.setSem_free (k : Nat) (x : SemSt) : (s.setSem k x).free = s.free := rfl
@[simp] theorem State.setSem_rdata (k : Nat) (x : SemSt) : (s.setSem k x).rdata = s.rdata := rfl
@[simp] theorem State.setSem_burst (k : Nat) (x : SemSt) : (s.setSem k x).burst = s.burst := rfl
@[simp] theorem State.setSem_pending (k : Nat) (x : SemSt) : (s.setSem k x).pending = s.pending := rfl

@[simp] theorem State.setRg_regs (k : Nat) (x : RindSt) : (s.setRg k x).regs = s.regs := rfl
@[simp] theorem State.setRg_shadows (k : Nat) (x : RindSt) : (s.setRg k x).shadows = s.shadows := rfl
@[simp] theorem State.setRg_cyc (k : Nat) (x : RindSt) : (s.setRg k x).cyc = s.cyc := rfl
@[simp] theorem State.setRg_acts (k : Nat) (x : RindSt) : (s.setRg k x).acts = s.acts := rfl
@[simp] theorem State.setRg_agenda (k : Nat) (x : RindSt) : (s.setRg k x).agenda = s.agenda := rfl
@[simp] theorem State.setRg_time (k : Nat) (x : RindSt) : (s.setRg k x).time = s.time := rfl
@[simp] theorem State.setRg_fab (k : Nat) (x : RindSt) : (s.setRg k x).fab = s.fab := rfl
@[simp] theorem State.setRg_mode (k : Nat) (x : RindSt) : (s.setRg k x).mode = s.mode := rfl
@[simp] theorem State.setRg_rst (k : Nat) (x : RindSt) : (s.setRg k x).rst = s.rst := rfl
@[simp] theorem State.setRg_syn (k : Nat) (x : RindSt) : (s.setRg k x).syn = s.syn := rfl
@[simp] theorem State.setRg_mem (k : Nat) (x : RindSt) : (s.setRg k x).mem = s.mem := rfl
@[simp] theorem State.setRg_seqs (k : Nat) (x : RindSt) : (s.setRg k x).seqs = s.seqs := rfl
@[simp] theorem State.setRg_aouts (k : Nat) (x : RindSt) : (s.setRg k x).aouts = s.aouts := rfl
@[simp] theorem State.setRg_pbs (k : Nat) (x : RindSt) : (s.setRg k x).pbs = s.pbs := rfl
@[simp] theorem State.setRg_trgs (k : Nat) (x : RindSt) : (s.setRg k x).trgs = s.trgs := rfl
@[simp] theorem State.setRg_disp (k : Nat) (x : RindSt) : (s.setRg k x).disp = s.disp := rfl
@[simp] theorem State.setRg_vis (k : Nat) (x : RindSt) : (s.setRg k x).vis = s.vis := rfl
@[simp] theorem State.setRg_sems (k : Nat) (x : RindSt) : (s.setRg k x).sems = s.sems := rfl
@[simp] theorem State.setRg_out (k : Nat) (x : RindSt) : (s.setRg k x).out = s.out := rfl
@[simp] theorem State.setRg_cal (k : Nat) (x : RindSt) : (s.setRg k x).cal = s.cal := rfl
@[simp] theorem State.setRg_kl (k : Nat) (x : RindSt) : (s.setRg k x).kl = s.kl := rfl
@[simp] theorem State.setRg_host (k : Nat) (x : RindSt) : (s.setRg k x).host = s.host := rfl
@[simp] theorem State.setRg_tins (k : Nat) (x : RindSt) : (s.setRg k x).tins = s.tins := rfl
@[simp] theorem State.setRg_walk (k : Nat) (x : RindSt) : (s.setRg k x).walk = s.walk := rfl
@[simp] theorem State.setRg_acmps (k : Nat) (x : RindSt) : (s.setRg k x).acmps = s.acmps := rfl
@[simp] theorem State.setRg_keys (k : Nat) (x : RindSt) : (s.setRg k x).keys = s.keys := rfl
@[simp] theorem State.setRg_peakTaken (k : Nat) (x : RindSt) : (s.setRg k x).peakTaken = s.peakTaken := rfl
@[simp] theorem State.setRg_refinHz (k : Nat) (x : RindSt) : (s.setRg k x).refinHz = s.refinHz := rfl
@[simp] theorem State.setRg_hfxoHz (k : Nat) (x : RindSt) : (s.setRg k x).hfxoHz = s.hfxoHz := rfl
@[simp] theorem State.setRg_free (k : Nat) (x : RindSt) : (s.setRg k x).free = s.free := rfl
@[simp] theorem State.setRg_rdata (k : Nat) (x : RindSt) : (s.setRg k x).rdata = s.rdata := rfl
@[simp] theorem State.setRg_burst (k : Nat) (x : RindSt) : (s.setRg k x).burst = s.burst := rfl
@[simp] theorem State.setRg_pending (k : Nat) (x : RindSt) : (s.setRg k x).pending = s.pending := rfl

@[simp] theorem State.setLde_regs (k : Nat) (x : LdeSt) : (s.setLde k x).regs = s.regs := rfl
@[simp] theorem State.setLde_shadows (k : Nat) (x : LdeSt) : (s.setLde k x).shadows = s.shadows := rfl
@[simp] theorem State.setLde_cyc (k : Nat) (x : LdeSt) : (s.setLde k x).cyc = s.cyc := rfl
@[simp] theorem State.setLde_acts (k : Nat) (x : LdeSt) : (s.setLde k x).acts = s.acts := rfl
@[simp] theorem State.setLde_agenda (k : Nat) (x : LdeSt) : (s.setLde k x).agenda = s.agenda := rfl
@[simp] theorem State.setLde_time (k : Nat) (x : LdeSt) : (s.setLde k x).time = s.time := rfl
@[simp] theorem State.setLde_fab (k : Nat) (x : LdeSt) : (s.setLde k x).fab = s.fab := rfl
@[simp] theorem State.setLde_rind (k : Nat) (x : LdeSt) : (s.setLde k x).rind = s.rind := rfl
@[simp] theorem State.setLde_walk (k : Nat) (x : LdeSt) : (s.setLde k x).walk = s.walk := rfl
@[simp] theorem State.setLde_mode (k : Nat) (x : LdeSt) : (s.setLde k x).mode = s.mode := rfl
@[simp] theorem State.setLde_rst (k : Nat) (x : LdeSt) : (s.setLde k x).rst = s.rst := rfl
@[simp] theorem State.setLde_syn (k : Nat) (x : LdeSt) : (s.setLde k x).syn = s.syn := rfl
@[simp] theorem State.setLde_seqs (k : Nat) (x : LdeSt) : (s.setLde k x).seqs = s.seqs := rfl
@[simp] theorem State.setLde_aouts (k : Nat) (x : LdeSt) : (s.setLde k x).aouts = s.aouts := rfl
@[simp] theorem State.setLde_pbs (k : Nat) (x : LdeSt) : (s.setLde k x).pbs = s.pbs := rfl
@[simp] theorem State.setLde_trgs (k : Nat) (x : LdeSt) : (s.setLde k x).trgs = s.trgs := rfl
@[simp] theorem State.setLde_disp (k : Nat) (x : LdeSt) : (s.setLde k x).disp = s.disp := rfl
@[simp] theorem State.setLde_vis (k : Nat) (x : LdeSt) : (s.setLde k x).vis = s.vis := rfl
@[simp] theorem State.setLde_sems (k : Nat) (x : LdeSt) : (s.setLde k x).sems = s.sems := rfl
@[simp] theorem State.setLde_out (k : Nat) (x : LdeSt) : (s.setLde k x).out = s.out := rfl
@[simp] theorem State.setLde_cal (k : Nat) (x : LdeSt) : (s.setLde k x).cal = s.cal := rfl
@[simp] theorem State.setLde_kl (k : Nat) (x : LdeSt) : (s.setLde k x).kl = s.kl := rfl
@[simp] theorem State.setLde_host (k : Nat) (x : LdeSt) : (s.setLde k x).host = s.host := rfl
@[simp] theorem State.setLde_tins (k : Nat) (x : LdeSt) : (s.setLde k x).tins = s.tins := rfl
@[simp] theorem State.setLde_acmps (k : Nat) (x : LdeSt) : (s.setLde k x).acmps = s.acmps := rfl
@[simp] theorem State.setLde_keys (k : Nat) (x : LdeSt) : (s.setLde k x).keys = s.keys := rfl
@[simp] theorem State.setLde_peakTaken (k : Nat) (x : LdeSt) : (s.setLde k x).peakTaken = s.peakTaken := rfl
@[simp] theorem State.setLde_refinHz (k : Nat) (x : LdeSt) : (s.setLde k x).refinHz = s.refinHz := rfl
@[simp] theorem State.setLde_hfxoHz (k : Nat) (x : LdeSt) : (s.setLde k x).hfxoHz = s.hfxoHz := rfl
@[simp] theorem State.setLde_free (k : Nat) (x : LdeSt) : (s.setLde k x).free = s.free := rfl
@[simp] theorem State.setLde_rdata (k : Nat) (x : LdeSt) : (s.setLde k x).rdata = s.rdata := rfl
@[simp] theorem State.setLde_burst (k : Nat) (x : LdeSt) : (s.setLde k x).burst = s.burst := rfl
@[simp] theorem State.setLde_pending (k : Nat) (x : LdeSt) : (s.setLde k x).pending = s.pending := rfl

@[simp] theorem State.setScan_regs (k : Nat) (x : ScanFor) : (s.setScan k x).regs = s.regs := rfl
@[simp] theorem State.setScan_shadows (k : Nat) (x : ScanFor) : (s.setScan k x).shadows = s.shadows := rfl
@[simp] theorem State.setScan_cyc (k : Nat) (x : ScanFor) : (s.setScan k x).cyc = s.cyc := rfl
@[simp] theorem State.setScan_acts (k : Nat) (x : ScanFor) : (s.setScan k x).acts = s.acts := rfl
@[simp] theorem State.setScan_agenda (k : Nat) (x : ScanFor) : (s.setScan k x).agenda = s.agenda := rfl
@[simp] theorem State.setScan_time (k : Nat) (x : ScanFor) : (s.setScan k x).time = s.time := rfl
@[simp] theorem State.setScan_fab (k : Nat) (x : ScanFor) : (s.setScan k x).fab = s.fab := rfl
@[simp] theorem State.setScan_rind (k : Nat) (x : ScanFor) : (s.setScan k x).rind = s.rind := rfl
@[simp] theorem State.setScan_walk (k : Nat) (x : ScanFor) : (s.setScan k x).walk = s.walk := rfl
@[simp] theorem State.setScan_mode (k : Nat) (x : ScanFor) : (s.setScan k x).mode = s.mode := rfl
@[simp] theorem State.setScan_rst (k : Nat) (x : ScanFor) : (s.setScan k x).rst = s.rst := rfl
@[simp] theorem State.setScan_syn (k : Nat) (x : ScanFor) : (s.setScan k x).syn = s.syn := rfl
@[simp] theorem State.setScan_seqs (k : Nat) (x : ScanFor) : (s.setScan k x).seqs = s.seqs := rfl
@[simp] theorem State.setScan_aouts (k : Nat) (x : ScanFor) : (s.setScan k x).aouts = s.aouts := rfl
@[simp] theorem State.setScan_pbs (k : Nat) (x : ScanFor) : (s.setScan k x).pbs = s.pbs := rfl
@[simp] theorem State.setScan_trgs (k : Nat) (x : ScanFor) : (s.setScan k x).trgs = s.trgs := rfl
@[simp] theorem State.setScan_disp (k : Nat) (x : ScanFor) : (s.setScan k x).disp = s.disp := rfl
@[simp] theorem State.setScan_vis (k : Nat) (x : ScanFor) : (s.setScan k x).vis = s.vis := rfl
@[simp] theorem State.setScan_sems (k : Nat) (x : ScanFor) : (s.setScan k x).sems = s.sems := rfl
@[simp] theorem State.setScan_out (k : Nat) (x : ScanFor) : (s.setScan k x).out = s.out := rfl
@[simp] theorem State.setScan_cal (k : Nat) (x : ScanFor) : (s.setScan k x).cal = s.cal := rfl
@[simp] theorem State.setScan_kl (k : Nat) (x : ScanFor) : (s.setScan k x).kl = s.kl := rfl
@[simp] theorem State.setScan_host (k : Nat) (x : ScanFor) : (s.setScan k x).host = s.host := rfl
@[simp] theorem State.setScan_tins (k : Nat) (x : ScanFor) : (s.setScan k x).tins = s.tins := rfl
@[simp] theorem State.setScan_acmps (k : Nat) (x : ScanFor) : (s.setScan k x).acmps = s.acmps := rfl
@[simp] theorem State.setScan_keys (k : Nat) (x : ScanFor) : (s.setScan k x).keys = s.keys := rfl
@[simp] theorem State.setScan_peakTaken (k : Nat) (x : ScanFor) : (s.setScan k x).peakTaken = s.peakTaken := rfl
@[simp] theorem State.setScan_refinHz (k : Nat) (x : ScanFor) : (s.setScan k x).refinHz = s.refinHz := rfl
@[simp] theorem State.setScan_hfxoHz (k : Nat) (x : ScanFor) : (s.setScan k x).hfxoHz = s.hfxoHz := rfl
@[simp] theorem State.setScan_free (k : Nat) (x : ScanFor) : (s.setScan k x).free = s.free := rfl
@[simp] theorem State.setScan_rdata (k : Nat) (x : ScanFor) : (s.setScan k x).rdata = s.rdata := rfl
@[simp] theorem State.setScan_burst (k : Nat) (x : ScanFor) : (s.setScan k x).burst = s.burst := rfl
@[simp] theorem State.setScan_pending (k : Nat) (x : ScanFor) : (s.setScan k x).pending = s.pending := rfl

@[simp] theorem State.setDom_regs (d c : Nat) : (s.setDom d c).regs = s.regs := rfl
@[simp] theorem State.setDom_shadows (d c : Nat) : (s.setDom d c).shadows = s.shadows := rfl
@[simp] theorem State.setDom_cyc (d c : Nat) : (s.setDom d c).cyc = s.cyc := rfl
@[simp] theorem State.setDom_acts (d c : Nat) : (s.setDom d c).acts = s.acts := rfl
@[simp] theorem State.setDom_agenda (d c : Nat) : (s.setDom d c).agenda = s.agenda := rfl
@[simp] theorem State.setDom_time (d c : Nat) : (s.setDom d c).time = s.time := rfl
@[simp] theorem State.setDom_fab (d c : Nat) : (s.setDom d c).fab = s.fab := rfl
@[simp] theorem State.setDom_rind (d c : Nat) : (s.setDom d c).rind = s.rind := rfl
@[simp] theorem State.setDom_walk (d c : Nat) : (s.setDom d c).walk = s.walk := rfl
@[simp] theorem State.setDom_rst (d c : Nat) : (s.setDom d c).rst = s.rst := rfl
@[simp] theorem State.setDom_syn (d c : Nat) : (s.setDom d c).syn = s.syn := rfl
@[simp] theorem State.setDom_mem (d c : Nat) : (s.setDom d c).mem = s.mem := rfl
@[simp] theorem State.setDom_seqs (d c : Nat) : (s.setDom d c).seqs = s.seqs := rfl
@[simp] theorem State.setDom_aouts (d c : Nat) : (s.setDom d c).aouts = s.aouts := rfl
@[simp] theorem State.setDom_pbs (d c : Nat) : (s.setDom d c).pbs = s.pbs := rfl
@[simp] theorem State.setDom_trgs (d c : Nat) : (s.setDom d c).trgs = s.trgs := rfl
@[simp] theorem State.setDom_disp (d c : Nat) : (s.setDom d c).disp = s.disp := rfl
@[simp] theorem State.setDom_vis (d c : Nat) : (s.setDom d c).vis = s.vis := rfl
@[simp] theorem State.setDom_sems (d c : Nat) : (s.setDom d c).sems = s.sems := rfl
@[simp] theorem State.setDom_out (d c : Nat) : (s.setDom d c).out = s.out := rfl
@[simp] theorem State.setDom_cal (d c : Nat) : (s.setDom d c).cal = s.cal := rfl
@[simp] theorem State.setDom_kl (d c : Nat) : (s.setDom d c).kl = s.kl := rfl
@[simp] theorem State.setDom_host (d c : Nat) : (s.setDom d c).host = s.host := rfl
@[simp] theorem State.setDom_tins (d c : Nat) : (s.setDom d c).tins = s.tins := rfl
@[simp] theorem State.setDom_acmps (d c : Nat) : (s.setDom d c).acmps = s.acmps := rfl
@[simp] theorem State.setDom_keys (d c : Nat) : (s.setDom d c).keys = s.keys := rfl
@[simp] theorem State.setDom_peakTaken (d c : Nat) : (s.setDom d c).peakTaken = s.peakTaken := rfl
@[simp] theorem State.setDom_refinHz (d c : Nat) : (s.setDom d c).refinHz = s.refinHz := rfl
@[simp] theorem State.setDom_hfxoHz (d c : Nat) : (s.setDom d c).hfxoHz = s.hfxoHz := rfl
@[simp] theorem State.setDom_free (d c : Nat) : (s.setDom d c).free = s.free := rfl
@[simp] theorem State.setDom_rdata (d c : Nat) : (s.setDom d c).rdata = s.rdata := rfl
@[simp] theorem State.setDom_burst (d c : Nat) : (s.setDom d c).burst = s.burst := rfl
@[simp] theorem State.setDom_pending (d c : Nat) : (s.setDom d c).pending = s.pending := rfl

@[simp] theorem State.wVat_regs (a : Nat) (b : Byte) : (s.wVat a b).regs = s.regs := rfl
@[simp] theorem State.wVat_shadows (a : Nat) (b : Byte) : (s.wVat a b).shadows = s.shadows := rfl
@[simp] theorem State.wVat_cyc (a : Nat) (b : Byte) : (s.wVat a b).cyc = s.cyc := rfl
@[simp] theorem State.wVat_acts (a : Nat) (b : Byte) : (s.wVat a b).acts = s.acts := rfl
@[simp] theorem State.wVat_agenda (a : Nat) (b : Byte) : (s.wVat a b).agenda = s.agenda := rfl
@[simp] theorem State.wVat_time (a : Nat) (b : Byte) : (s.wVat a b).time = s.time := rfl
@[simp] theorem State.wVat_fab (a : Nat) (b : Byte) : (s.wVat a b).fab = s.fab := rfl
@[simp] theorem State.wVat_rind (a : Nat) (b : Byte) : (s.wVat a b).rind = s.rind := rfl
@[simp] theorem State.wVat_walk (a : Nat) (b : Byte) : (s.wVat a b).walk = s.walk := rfl
@[simp] theorem State.wVat_mode (a : Nat) (b : Byte) : (s.wVat a b).mode = s.mode := rfl
@[simp] theorem State.wVat_rst (a : Nat) (b : Byte) : (s.wVat a b).rst = s.rst := rfl
@[simp] theorem State.wVat_syn (a : Nat) (b : Byte) : (s.wVat a b).syn = s.syn := rfl
@[simp] theorem State.wVat_seqs (a : Nat) (b : Byte) : (s.wVat a b).seqs = s.seqs := rfl
@[simp] theorem State.wVat_aouts (a : Nat) (b : Byte) : (s.wVat a b).aouts = s.aouts := rfl
@[simp] theorem State.wVat_pbs (a : Nat) (b : Byte) : (s.wVat a b).pbs = s.pbs := rfl
@[simp] theorem State.wVat_trgs (a : Nat) (b : Byte) : (s.wVat a b).trgs = s.trgs := rfl
@[simp] theorem State.wVat_disp (a : Nat) (b : Byte) : (s.wVat a b).disp = s.disp := rfl
@[simp] theorem State.wVat_vis (a : Nat) (b : Byte) : (s.wVat a b).vis = s.vis := rfl
@[simp] theorem State.wVat_sems (a : Nat) (b : Byte) : (s.wVat a b).sems = s.sems := rfl
@[simp] theorem State.wVat_out (a : Nat) (b : Byte) : (s.wVat a b).out = s.out := rfl
@[simp] theorem State.wVat_cal (a : Nat) (b : Byte) : (s.wVat a b).cal = s.cal := rfl
@[simp] theorem State.wVat_kl (a : Nat) (b : Byte) : (s.wVat a b).kl = s.kl := rfl
@[simp] theorem State.wVat_host (a : Nat) (b : Byte) : (s.wVat a b).host = s.host := rfl
@[simp] theorem State.wVat_tins (a : Nat) (b : Byte) : (s.wVat a b).tins = s.tins := rfl
@[simp] theorem State.wVat_acmps (a : Nat) (b : Byte) : (s.wVat a b).acmps = s.acmps := rfl
@[simp] theorem State.wVat_keys (a : Nat) (b : Byte) : (s.wVat a b).keys = s.keys := rfl
@[simp] theorem State.wVat_peakTaken (a : Nat) (b : Byte) : (s.wVat a b).peakTaken = s.peakTaken := rfl
@[simp] theorem State.wVat_refinHz (a : Nat) (b : Byte) : (s.wVat a b).refinHz = s.refinHz := rfl
@[simp] theorem State.wVat_hfxoHz (a : Nat) (b : Byte) : (s.wVat a b).hfxoHz = s.hfxoHz := rfl
@[simp] theorem State.wVat_free (a : Nat) (b : Byte) : (s.wVat a b).free = s.free := rfl
@[simp] theorem State.wVat_rdata (a : Nat) (b : Byte) : (s.wVat a b).rdata = s.rdata := rfl
@[simp] theorem State.wVat_burst (a : Nat) (b : Byte) : (s.wVat a b).burst = s.burst := rfl
@[simp] theorem State.wVat_pending (a : Nat) (b : Byte) : (s.wVat a b).pending = s.pending := rfl

@[simp] theorem State.wMem_regs (a : Nat) (b : Byte) : (s.wMem a b).regs = s.regs := rfl
@[simp] theorem State.wMem_shadows (a : Nat) (b : Byte) : (s.wMem a b).shadows = s.shadows := rfl
@[simp] theorem State.wMem_cyc (a : Nat) (b : Byte) : (s.wMem a b).cyc = s.cyc := rfl
@[simp] theorem State.wMem_acts (a : Nat) (b : Byte) : (s.wMem a b).acts = s.acts := rfl
@[simp] theorem State.wMem_agenda (a : Nat) (b : Byte) : (s.wMem a b).agenda = s.agenda := rfl
@[simp] theorem State.wMem_time (a : Nat) (b : Byte) : (s.wMem a b).time = s.time := rfl
@[simp] theorem State.wMem_fab (a : Nat) (b : Byte) : (s.wMem a b).fab = s.fab := rfl
@[simp] theorem State.wMem_rind (a : Nat) (b : Byte) : (s.wMem a b).rind = s.rind := rfl
@[simp] theorem State.wMem_walk (a : Nat) (b : Byte) : (s.wMem a b).walk = s.walk := rfl
@[simp] theorem State.wMem_mode (a : Nat) (b : Byte) : (s.wMem a b).mode = s.mode := rfl
@[simp] theorem State.wMem_rst (a : Nat) (b : Byte) : (s.wMem a b).rst = s.rst := rfl
@[simp] theorem State.wMem_syn (a : Nat) (b : Byte) : (s.wMem a b).syn = s.syn := rfl
@[simp] theorem State.wMem_seqs (a : Nat) (b : Byte) : (s.wMem a b).seqs = s.seqs := rfl
@[simp] theorem State.wMem_aouts (a : Nat) (b : Byte) : (s.wMem a b).aouts = s.aouts := rfl
@[simp] theorem State.wMem_pbs (a : Nat) (b : Byte) : (s.wMem a b).pbs = s.pbs := rfl
@[simp] theorem State.wMem_trgs (a : Nat) (b : Byte) : (s.wMem a b).trgs = s.trgs := rfl
@[simp] theorem State.wMem_disp (a : Nat) (b : Byte) : (s.wMem a b).disp = s.disp := rfl
@[simp] theorem State.wMem_vis (a : Nat) (b : Byte) : (s.wMem a b).vis = s.vis := rfl
@[simp] theorem State.wMem_sems (a : Nat) (b : Byte) : (s.wMem a b).sems = s.sems := rfl
@[simp] theorem State.wMem_out (a : Nat) (b : Byte) : (s.wMem a b).out = s.out := rfl
@[simp] theorem State.wMem_cal (a : Nat) (b : Byte) : (s.wMem a b).cal = s.cal := rfl
@[simp] theorem State.wMem_kl (a : Nat) (b : Byte) : (s.wMem a b).kl = s.kl := rfl
@[simp] theorem State.wMem_host (a : Nat) (b : Byte) : (s.wMem a b).host = s.host := rfl
@[simp] theorem State.wMem_tins (a : Nat) (b : Byte) : (s.wMem a b).tins = s.tins := rfl
@[simp] theorem State.wMem_acmps (a : Nat) (b : Byte) : (s.wMem a b).acmps = s.acmps := rfl
@[simp] theorem State.wMem_keys (a : Nat) (b : Byte) : (s.wMem a b).keys = s.keys := rfl
@[simp] theorem State.wMem_peakTaken (a : Nat) (b : Byte) : (s.wMem a b).peakTaken = s.peakTaken := rfl
@[simp] theorem State.wMem_refinHz (a : Nat) (b : Byte) : (s.wMem a b).refinHz = s.refinHz := rfl
@[simp] theorem State.wMem_hfxoHz (a : Nat) (b : Byte) : (s.wMem a b).hfxoHz = s.hfxoHz := rfl
@[simp] theorem State.wMem_free (a : Nat) (b : Byte) : (s.wMem a b).free = s.free := rfl
@[simp] theorem State.wMem_rdata (a : Nat) (b : Byte) : (s.wMem a b).rdata = s.rdata := rfl
@[simp] theorem State.wMem_burst (a : Nat) (b : Byte) : (s.wMem a b).burst = s.burst := rfl
@[simp] theorem State.wMem_pending (a : Nat) (b : Byte) : (s.wMem a b).pending = s.pending := rfl

@[simp] theorem State.wNvm_regs (a : Nat) (b : Byte) : (s.wNvm a b).regs = s.regs := rfl
@[simp] theorem State.wNvm_shadows (a : Nat) (b : Byte) : (s.wNvm a b).shadows = s.shadows := rfl
@[simp] theorem State.wNvm_cyc (a : Nat) (b : Byte) : (s.wNvm a b).cyc = s.cyc := rfl
@[simp] theorem State.wNvm_acts (a : Nat) (b : Byte) : (s.wNvm a b).acts = s.acts := rfl
@[simp] theorem State.wNvm_agenda (a : Nat) (b : Byte) : (s.wNvm a b).agenda = s.agenda := rfl
@[simp] theorem State.wNvm_time (a : Nat) (b : Byte) : (s.wNvm a b).time = s.time := rfl
@[simp] theorem State.wNvm_fab (a : Nat) (b : Byte) : (s.wNvm a b).fab = s.fab := rfl
@[simp] theorem State.wNvm_rind (a : Nat) (b : Byte) : (s.wNvm a b).rind = s.rind := rfl
@[simp] theorem State.wNvm_walk (a : Nat) (b : Byte) : (s.wNvm a b).walk = s.walk := rfl
@[simp] theorem State.wNvm_mode (a : Nat) (b : Byte) : (s.wNvm a b).mode = s.mode := rfl
@[simp] theorem State.wNvm_rst (a : Nat) (b : Byte) : (s.wNvm a b).rst = s.rst := rfl
@[simp] theorem State.wNvm_syn (a : Nat) (b : Byte) : (s.wNvm a b).syn = s.syn := rfl
@[simp] theorem State.wNvm_seqs (a : Nat) (b : Byte) : (s.wNvm a b).seqs = s.seqs := rfl
@[simp] theorem State.wNvm_aouts (a : Nat) (b : Byte) : (s.wNvm a b).aouts = s.aouts := rfl
@[simp] theorem State.wNvm_pbs (a : Nat) (b : Byte) : (s.wNvm a b).pbs = s.pbs := rfl
@[simp] theorem State.wNvm_trgs (a : Nat) (b : Byte) : (s.wNvm a b).trgs = s.trgs := rfl
@[simp] theorem State.wNvm_disp (a : Nat) (b : Byte) : (s.wNvm a b).disp = s.disp := rfl
@[simp] theorem State.wNvm_vis (a : Nat) (b : Byte) : (s.wNvm a b).vis = s.vis := rfl
@[simp] theorem State.wNvm_sems (a : Nat) (b : Byte) : (s.wNvm a b).sems = s.sems := rfl
@[simp] theorem State.wNvm_out (a : Nat) (b : Byte) : (s.wNvm a b).out = s.out := rfl
@[simp] theorem State.wNvm_cal (a : Nat) (b : Byte) : (s.wNvm a b).cal = s.cal := rfl
@[simp] theorem State.wNvm_kl (a : Nat) (b : Byte) : (s.wNvm a b).kl = s.kl := rfl
@[simp] theorem State.wNvm_host (a : Nat) (b : Byte) : (s.wNvm a b).host = s.host := rfl
@[simp] theorem State.wNvm_tins (a : Nat) (b : Byte) : (s.wNvm a b).tins = s.tins := rfl
@[simp] theorem State.wNvm_acmps (a : Nat) (b : Byte) : (s.wNvm a b).acmps = s.acmps := rfl
@[simp] theorem State.wNvm_keys (a : Nat) (b : Byte) : (s.wNvm a b).keys = s.keys := rfl
@[simp] theorem State.wNvm_peakTaken (a : Nat) (b : Byte) : (s.wNvm a b).peakTaken = s.peakTaken := rfl
@[simp] theorem State.wNvm_refinHz (a : Nat) (b : Byte) : (s.wNvm a b).refinHz = s.refinHz := rfl
@[simp] theorem State.wNvm_hfxoHz (a : Nat) (b : Byte) : (s.wNvm a b).hfxoHz = s.hfxoHz := rfl
@[simp] theorem State.wNvm_free (a : Nat) (b : Byte) : (s.wNvm a b).free = s.free := rfl
@[simp] theorem State.wNvm_rdata (a : Nat) (b : Byte) : (s.wNvm a b).rdata = s.rdata := rfl
@[simp] theorem State.wNvm_burst (a : Nat) (b : Byte) : (s.wNvm a b).burst = s.burst := rfl
@[simp] theorem State.wNvm_pending (a : Nat) (b : Byte) : (s.wNvm a b).pending = s.pending := rfl

@[simp] theorem State.after_regs (tu : Nat) (c : Instr) : (s.after tu c).regs = s.regs := rfl
@[simp] theorem State.after_shadows (tu : Nat) (c : Instr) : (s.after tu c).shadows = s.shadows := rfl
@[simp] theorem State.after_cyc (tu : Nat) (c : Instr) : (s.after tu c).cyc = s.cyc := rfl
@[simp] theorem State.after_acts (tu : Nat) (c : Instr) : (s.after tu c).acts = s.acts := rfl
@[simp] theorem State.after_time (tu : Nat) (c : Instr) : (s.after tu c).time = s.time := rfl
@[simp] theorem State.after_fab (tu : Nat) (c : Instr) : (s.after tu c).fab = s.fab := rfl
@[simp] theorem State.after_rind (tu : Nat) (c : Instr) : (s.after tu c).rind = s.rind := rfl
@[simp] theorem State.after_walk (tu : Nat) (c : Instr) : (s.after tu c).walk = s.walk := rfl
@[simp] theorem State.after_mode (tu : Nat) (c : Instr) : (s.after tu c).mode = s.mode := rfl
@[simp] theorem State.after_rst (tu : Nat) (c : Instr) : (s.after tu c).rst = s.rst := rfl
@[simp] theorem State.after_syn (tu : Nat) (c : Instr) : (s.after tu c).syn = s.syn := rfl
@[simp] theorem State.after_mem (tu : Nat) (c : Instr) : (s.after tu c).mem = s.mem := rfl
@[simp] theorem State.after_seqs (tu : Nat) (c : Instr) : (s.after tu c).seqs = s.seqs := rfl
@[simp] theorem State.after_aouts (tu : Nat) (c : Instr) : (s.after tu c).aouts = s.aouts := rfl
@[simp] theorem State.after_pbs (tu : Nat) (c : Instr) : (s.after tu c).pbs = s.pbs := rfl
@[simp] theorem State.after_trgs (tu : Nat) (c : Instr) : (s.after tu c).trgs = s.trgs := rfl
@[simp] theorem State.after_disp (tu : Nat) (c : Instr) : (s.after tu c).disp = s.disp := rfl
@[simp] theorem State.after_vis (tu : Nat) (c : Instr) : (s.after tu c).vis = s.vis := rfl
@[simp] theorem State.after_sems (tu : Nat) (c : Instr) : (s.after tu c).sems = s.sems := rfl
@[simp] theorem State.after_out (tu : Nat) (c : Instr) : (s.after tu c).out = s.out := rfl
@[simp] theorem State.after_cal (tu : Nat) (c : Instr) : (s.after tu c).cal = s.cal := rfl
@[simp] theorem State.after_kl (tu : Nat) (c : Instr) : (s.after tu c).kl = s.kl := rfl
@[simp] theorem State.after_host (tu : Nat) (c : Instr) : (s.after tu c).host = s.host := rfl
@[simp] theorem State.after_tins (tu : Nat) (c : Instr) : (s.after tu c).tins = s.tins := rfl
@[simp] theorem State.after_acmps (tu : Nat) (c : Instr) : (s.after tu c).acmps = s.acmps := rfl
@[simp] theorem State.after_keys (tu : Nat) (c : Instr) : (s.after tu c).keys = s.keys := rfl
@[simp] theorem State.after_peakTaken (tu : Nat) (c : Instr) : (s.after tu c).peakTaken = s.peakTaken := rfl
@[simp] theorem State.after_refinHz (tu : Nat) (c : Instr) : (s.after tu c).refinHz = s.refinHz := rfl
@[simp] theorem State.after_hfxoHz (tu : Nat) (c : Instr) : (s.after tu c).hfxoHz = s.hfxoHz := rfl
@[simp] theorem State.after_free (tu : Nat) (c : Instr) : (s.after tu c).free = s.free := rfl
@[simp] theorem State.after_rdata (tu : Nat) (c : Instr) : (s.after tu c).rdata = s.rdata := rfl
@[simp] theorem State.after_burst (tu : Nat) (c : Instr) : (s.after tu c).burst = s.burst := rfl
@[simp] theorem State.after_pending (tu : Nat) (c : Instr) : (s.after tu c).pending = s.pending := rfl

@[simp] theorem State.atTime_regs (t : Nat) (c : Instr) : (s.at_ t c).regs = s.regs := rfl
@[simp] theorem State.atTime_shadows (t : Nat) (c : Instr) : (s.at_ t c).shadows = s.shadows := rfl
@[simp] theorem State.atTime_cyc (t : Nat) (c : Instr) : (s.at_ t c).cyc = s.cyc := rfl
@[simp] theorem State.atTime_acts (t : Nat) (c : Instr) : (s.at_ t c).acts = s.acts := rfl
@[simp] theorem State.atTime_time (t : Nat) (c : Instr) : (s.at_ t c).time = s.time := rfl
@[simp] theorem State.atTime_fab (t : Nat) (c : Instr) : (s.at_ t c).fab = s.fab := rfl
@[simp] theorem State.atTime_rind (t : Nat) (c : Instr) : (s.at_ t c).rind = s.rind := rfl
@[simp] theorem State.atTime_walk (t : Nat) (c : Instr) : (s.at_ t c).walk = s.walk := rfl
@[simp] theorem State.atTime_mode (t : Nat) (c : Instr) : (s.at_ t c).mode = s.mode := rfl
@[simp] theorem State.atTime_rst (t : Nat) (c : Instr) : (s.at_ t c).rst = s.rst := rfl
@[simp] theorem State.atTime_syn (t : Nat) (c : Instr) : (s.at_ t c).syn = s.syn := rfl
@[simp] theorem State.atTime_mem (t : Nat) (c : Instr) : (s.at_ t c).mem = s.mem := rfl
@[simp] theorem State.atTime_seqs (t : Nat) (c : Instr) : (s.at_ t c).seqs = s.seqs := rfl
@[simp] theorem State.atTime_aouts (t : Nat) (c : Instr) : (s.at_ t c).aouts = s.aouts := rfl
@[simp] theorem State.atTime_pbs (t : Nat) (c : Instr) : (s.at_ t c).pbs = s.pbs := rfl
@[simp] theorem State.atTime_trgs (t : Nat) (c : Instr) : (s.at_ t c).trgs = s.trgs := rfl
@[simp] theorem State.atTime_disp (t : Nat) (c : Instr) : (s.at_ t c).disp = s.disp := rfl
@[simp] theorem State.atTime_vis (t : Nat) (c : Instr) : (s.at_ t c).vis = s.vis := rfl
@[simp] theorem State.atTime_sems (t : Nat) (c : Instr) : (s.at_ t c).sems = s.sems := rfl
@[simp] theorem State.atTime_out (t : Nat) (c : Instr) : (s.at_ t c).out = s.out := rfl
@[simp] theorem State.atTime_cal (t : Nat) (c : Instr) : (s.at_ t c).cal = s.cal := rfl
@[simp] theorem State.atTime_kl (t : Nat) (c : Instr) : (s.at_ t c).kl = s.kl := rfl
@[simp] theorem State.atTime_host (t : Nat) (c : Instr) : (s.at_ t c).host = s.host := rfl
@[simp] theorem State.atTime_tins (t : Nat) (c : Instr) : (s.at_ t c).tins = s.tins := rfl
@[simp] theorem State.atTime_acmps (t : Nat) (c : Instr) : (s.at_ t c).acmps = s.acmps := rfl
@[simp] theorem State.atTime_keys (t : Nat) (c : Instr) : (s.at_ t c).keys = s.keys := rfl
@[simp] theorem State.atTime_peakTaken (t : Nat) (c : Instr) : (s.at_ t c).peakTaken = s.peakTaken := rfl
@[simp] theorem State.atTime_refinHz (t : Nat) (c : Instr) : (s.at_ t c).refinHz = s.refinHz := rfl
@[simp] theorem State.atTime_hfxoHz (t : Nat) (c : Instr) : (s.at_ t c).hfxoHz = s.hfxoHz := rfl
@[simp] theorem State.atTime_free (t : Nat) (c : Instr) : (s.at_ t c).free = s.free := rfl
@[simp] theorem State.atTime_rdata (t : Nat) (c : Instr) : (s.at_ t c).rdata = s.rdata := rfl
@[simp] theorem State.atTime_burst (t : Nat) (c : Instr) : (s.at_ t c).burst = s.burst := rfl
@[simp] theorem State.atTime_pending (t : Nat) (c : Instr) : (s.at_ t c).pending = s.pending := rfl

@[simp] theorem State.cancel_regs (c : Instr) : (s.cancel c).regs = s.regs := rfl
@[simp] theorem State.cancel_shadows (c : Instr) : (s.cancel c).shadows = s.shadows := rfl
@[simp] theorem State.cancel_cyc (c : Instr) : (s.cancel c).cyc = s.cyc := rfl
@[simp] theorem State.cancel_acts (c : Instr) : (s.cancel c).acts = s.acts := rfl
@[simp] theorem State.cancel_time (c : Instr) : (s.cancel c).time = s.time := rfl
@[simp] theorem State.cancel_fab (c : Instr) : (s.cancel c).fab = s.fab := rfl
@[simp] theorem State.cancel_rind (c : Instr) : (s.cancel c).rind = s.rind := rfl
@[simp] theorem State.cancel_walk (c : Instr) : (s.cancel c).walk = s.walk := rfl
@[simp] theorem State.cancel_mode (c : Instr) : (s.cancel c).mode = s.mode := rfl
@[simp] theorem State.cancel_rst (c : Instr) : (s.cancel c).rst = s.rst := rfl
@[simp] theorem State.cancel_syn (c : Instr) : (s.cancel c).syn = s.syn := rfl
@[simp] theorem State.cancel_mem (c : Instr) : (s.cancel c).mem = s.mem := rfl
@[simp] theorem State.cancel_seqs (c : Instr) : (s.cancel c).seqs = s.seqs := rfl
@[simp] theorem State.cancel_aouts (c : Instr) : (s.cancel c).aouts = s.aouts := rfl
@[simp] theorem State.cancel_pbs (c : Instr) : (s.cancel c).pbs = s.pbs := rfl
@[simp] theorem State.cancel_trgs (c : Instr) : (s.cancel c).trgs = s.trgs := rfl
@[simp] theorem State.cancel_disp (c : Instr) : (s.cancel c).disp = s.disp := rfl
@[simp] theorem State.cancel_vis (c : Instr) : (s.cancel c).vis = s.vis := rfl
@[simp] theorem State.cancel_sems (c : Instr) : (s.cancel c).sems = s.sems := rfl
@[simp] theorem State.cancel_out (c : Instr) : (s.cancel c).out = s.out := rfl
@[simp] theorem State.cancel_cal (c : Instr) : (s.cancel c).cal = s.cal := rfl
@[simp] theorem State.cancel_kl (c : Instr) : (s.cancel c).kl = s.kl := rfl
@[simp] theorem State.cancel_host (c : Instr) : (s.cancel c).host = s.host := rfl
@[simp] theorem State.cancel_tins (c : Instr) : (s.cancel c).tins = s.tins := rfl
@[simp] theorem State.cancel_acmps (c : Instr) : (s.cancel c).acmps = s.acmps := rfl
@[simp] theorem State.cancel_keys (c : Instr) : (s.cancel c).keys = s.keys := rfl
@[simp] theorem State.cancel_peakTaken (c : Instr) : (s.cancel c).peakTaken = s.peakTaken := rfl
@[simp] theorem State.cancel_refinHz (c : Instr) : (s.cancel c).refinHz = s.refinHz := rfl
@[simp] theorem State.cancel_hfxoHz (c : Instr) : (s.cancel c).hfxoHz = s.hfxoHz := rfl
@[simp] theorem State.cancel_free (c : Instr) : (s.cancel c).free = s.free := rfl
@[simp] theorem State.cancel_rdata (c : Instr) : (s.cancel c).rdata = s.rdata := rfl
@[simp] theorem State.cancel_burst (c : Instr) : (s.cancel c).burst = s.burst := rfl
@[simp] theorem State.cancel_pending (c : Instr) : (s.cancel c).pending = s.pending := rfl

@[simp] theorem State.fresh_regs : (s.fresh).regs = s.regs := rfl
@[simp] theorem State.fresh_shadows : (s.fresh).shadows = s.shadows := rfl
@[simp] theorem State.fresh_cyc : (s.fresh).cyc = s.cyc := rfl
@[simp] theorem State.fresh_acts : (s.fresh).acts = s.acts := rfl
@[simp] theorem State.fresh_agenda : (s.fresh).agenda = s.agenda := rfl
@[simp] theorem State.fresh_time : (s.fresh).time = s.time := rfl
@[simp] theorem State.fresh_fab : (s.fresh).fab = s.fab := rfl
@[simp] theorem State.fresh_rind : (s.fresh).rind = s.rind := rfl
@[simp] theorem State.fresh_walk : (s.fresh).walk = s.walk := rfl
@[simp] theorem State.fresh_mode : (s.fresh).mode = s.mode := rfl
@[simp] theorem State.fresh_rst : (s.fresh).rst = s.rst := rfl
@[simp] theorem State.fresh_syn : (s.fresh).syn = s.syn := rfl
@[simp] theorem State.fresh_mem : (s.fresh).mem = s.mem := rfl
@[simp] theorem State.fresh_seqs : (s.fresh).seqs = s.seqs := rfl
@[simp] theorem State.fresh_aouts : (s.fresh).aouts = s.aouts := rfl
@[simp] theorem State.fresh_pbs : (s.fresh).pbs = s.pbs := rfl
@[simp] theorem State.fresh_trgs : (s.fresh).trgs = s.trgs := rfl
@[simp] theorem State.fresh_disp : (s.fresh).disp = s.disp := rfl
@[simp] theorem State.fresh_vis : (s.fresh).vis = s.vis := rfl
@[simp] theorem State.fresh_sems : (s.fresh).sems = s.sems := rfl
@[simp] theorem State.fresh_out : (s.fresh).out = s.out := rfl
@[simp] theorem State.fresh_cal : (s.fresh).cal = s.cal := rfl
@[simp] theorem State.fresh_kl : (s.fresh).kl = s.kl := rfl
@[simp] theorem State.fresh_host : (s.fresh).host = s.host := rfl
@[simp] theorem State.fresh_tins : (s.fresh).tins = s.tins := rfl
@[simp] theorem State.fresh_acmps : (s.fresh).acmps = s.acmps := rfl
@[simp] theorem State.fresh_keys : (s.fresh).keys = s.keys := rfl
@[simp] theorem State.fresh_peakTaken : (s.fresh).peakTaken = s.peakTaken := rfl
@[simp] theorem State.fresh_refinHz : (s.fresh).refinHz = s.refinHz := rfl
@[simp] theorem State.fresh_hfxoHz : (s.fresh).hfxoHz = s.hfxoHz := rfl
@[simp] theorem State.fresh_rdata : (s.fresh).rdata = s.rdata := rfl
@[simp] theorem State.fresh_burst : (s.fresh).burst = s.burst := rfl
@[simp] theorem State.fresh_pending : (s.fresh).pending = s.pending := rfl

@[simp] theorem State.answer_regs (w : Word) : (s.answer w).regs = s.regs := rfl
@[simp] theorem State.answer_shadows (w : Word) : (s.answer w).shadows = s.shadows := rfl
@[simp] theorem State.answer_cyc (w : Word) : (s.answer w).cyc = s.cyc := rfl
@[simp] theorem State.answer_acts (w : Word) : (s.answer w).acts = s.acts := rfl
@[simp] theorem State.answer_agenda (w : Word) : (s.answer w).agenda = s.agenda := rfl
@[simp] theorem State.answer_time (w : Word) : (s.answer w).time = s.time := rfl
@[simp] theorem State.answer_fab (w : Word) : (s.answer w).fab = s.fab := rfl
@[simp] theorem State.answer_rind (w : Word) : (s.answer w).rind = s.rind := rfl
@[simp] theorem State.answer_walk (w : Word) : (s.answer w).walk = s.walk := rfl
@[simp] theorem State.answer_mode (w : Word) : (s.answer w).mode = s.mode := rfl
@[simp] theorem State.answer_rst (w : Word) : (s.answer w).rst = s.rst := rfl
@[simp] theorem State.answer_syn (w : Word) : (s.answer w).syn = s.syn := rfl
@[simp] theorem State.answer_mem (w : Word) : (s.answer w).mem = s.mem := rfl
@[simp] theorem State.answer_seqs (w : Word) : (s.answer w).seqs = s.seqs := rfl
@[simp] theorem State.answer_aouts (w : Word) : (s.answer w).aouts = s.aouts := rfl
@[simp] theorem State.answer_pbs (w : Word) : (s.answer w).pbs = s.pbs := rfl
@[simp] theorem State.answer_trgs (w : Word) : (s.answer w).trgs = s.trgs := rfl
@[simp] theorem State.answer_disp (w : Word) : (s.answer w).disp = s.disp := rfl
@[simp] theorem State.answer_vis (w : Word) : (s.answer w).vis = s.vis := rfl
@[simp] theorem State.answer_sems (w : Word) : (s.answer w).sems = s.sems := rfl
@[simp] theorem State.answer_out (w : Word) : (s.answer w).out = s.out := rfl
@[simp] theorem State.answer_cal (w : Word) : (s.answer w).cal = s.cal := rfl
@[simp] theorem State.answer_kl (w : Word) : (s.answer w).kl = s.kl := rfl
@[simp] theorem State.answer_host (w : Word) : (s.answer w).host = s.host := rfl
@[simp] theorem State.answer_tins (w : Word) : (s.answer w).tins = s.tins := rfl
@[simp] theorem State.answer_acmps (w : Word) : (s.answer w).acmps = s.acmps := rfl
@[simp] theorem State.answer_keys (w : Word) : (s.answer w).keys = s.keys := rfl
@[simp] theorem State.answer_peakTaken (w : Word) : (s.answer w).peakTaken = s.peakTaken := rfl
@[simp] theorem State.answer_refinHz (w : Word) : (s.answer w).refinHz = s.refinHz := rfl
@[simp] theorem State.answer_hfxoHz (w : Word) : (s.answer w).hfxoHz = s.hfxoHz := rfl
@[simp] theorem State.answer_free (w : Word) : (s.answer w).free = s.free := rfl
@[simp] theorem State.answer_burst (w : Word) : (s.answer w).burst = s.burst := rfl
@[simp] theorem State.answer_pending (w : Word) : (s.answer w).pending = s.pending := rfl

@[simp] theorem State.wbit_shadows (o i : Nat) (b : Bool) : (s.wbit o i b).shadows = s.shadows := by unfold State.wbit; cases b <;> rfl
@[simp] theorem State.wbit_acts (o i : Nat) (b : Bool) : (s.wbit o i b).acts = s.acts := by unfold State.wbit; cases b <;> rfl
@[simp] theorem State.wbit_agenda (o i : Nat) (b : Bool) : (s.wbit o i b).agenda = s.agenda := by unfold State.wbit; cases b <;> rfl
@[simp] theorem State.wbit_time (o i : Nat) (b : Bool) : (s.wbit o i b).time = s.time := by unfold State.wbit; cases b <;> rfl
@[simp] theorem State.wbit_fab (o i : Nat) (b : Bool) : (s.wbit o i b).fab = s.fab := by unfold State.wbit; cases b <;> rfl
@[simp] theorem State.wbit_rind (o i : Nat) (b : Bool) : (s.wbit o i b).rind = s.rind := by unfold State.wbit; cases b <;> rfl
@[simp] theorem State.wbit_mode (o i : Nat) (b : Bool) : (s.wbit o i b).mode = s.mode := by unfold State.wbit; cases b <;> rfl
@[simp] theorem State.wbit_rst (o i : Nat) (b : Bool) : (s.wbit o i b).rst = s.rst := by unfold State.wbit; cases b <;> rfl
@[simp] theorem State.wbit_syn (o i : Nat) (b : Bool) : (s.wbit o i b).syn = s.syn := by unfold State.wbit; cases b <;> rfl
@[simp] theorem State.wbit_mem (o i : Nat) (b : Bool) : (s.wbit o i b).mem = s.mem := by unfold State.wbit; cases b <;> rfl
@[simp] theorem State.wbit_seqs (o i : Nat) (b : Bool) : (s.wbit o i b).seqs = s.seqs := by unfold State.wbit; cases b <;> rfl
@[simp] theorem State.wbit_aouts (o i : Nat) (b : Bool) : (s.wbit o i b).aouts = s.aouts := by unfold State.wbit; cases b <;> rfl
@[simp] theorem State.wbit_pbs (o i : Nat) (b : Bool) : (s.wbit o i b).pbs = s.pbs := by unfold State.wbit; cases b <;> rfl
@[simp] theorem State.wbit_trgs (o i : Nat) (b : Bool) : (s.wbit o i b).trgs = s.trgs := by unfold State.wbit; cases b <;> rfl
@[simp] theorem State.wbit_disp (o i : Nat) (b : Bool) : (s.wbit o i b).disp = s.disp := by unfold State.wbit; cases b <;> rfl
@[simp] theorem State.wbit_vis (o i : Nat) (b : Bool) : (s.wbit o i b).vis = s.vis := by unfold State.wbit; cases b <;> rfl
@[simp] theorem State.wbit_sems (o i : Nat) (b : Bool) : (s.wbit o i b).sems = s.sems := by unfold State.wbit; cases b <;> rfl
@[simp] theorem State.wbit_out (o i : Nat) (b : Bool) : (s.wbit o i b).out = s.out := by unfold State.wbit; cases b <;> rfl
@[simp] theorem State.wbit_cal (o i : Nat) (b : Bool) : (s.wbit o i b).cal = s.cal := by unfold State.wbit; cases b <;> rfl
@[simp] theorem State.wbit_kl (o i : Nat) (b : Bool) : (s.wbit o i b).kl = s.kl := by unfold State.wbit; cases b <;> rfl
@[simp] theorem State.wbit_host (o i : Nat) (b : Bool) : (s.wbit o i b).host = s.host := by unfold State.wbit; cases b <;> rfl
@[simp] theorem State.wbit_tins (o i : Nat) (b : Bool) : (s.wbit o i b).tins = s.tins := by unfold State.wbit; cases b <;> rfl
@[simp] theorem State.wbit_acmps (o i : Nat) (b : Bool) : (s.wbit o i b).acmps = s.acmps := by unfold State.wbit; cases b <;> rfl
@[simp] theorem State.wbit_walk (o i : Nat) (b : Bool) : (s.wbit o i b).walk = s.walk := by unfold State.wbit; cases b <;> rfl
@[simp] theorem State.wbit_keys (o i : Nat) (b : Bool) : (s.wbit o i b).keys = s.keys := by unfold State.wbit; cases b <;> rfl
@[simp] theorem State.wbit_peakTaken (o i : Nat) (b : Bool) : (s.wbit o i b).peakTaken = s.peakTaken := by unfold State.wbit; cases b <;> rfl
@[simp] theorem State.wbit_refinHz (o i : Nat) (b : Bool) : (s.wbit o i b).refinHz = s.refinHz := by unfold State.wbit; cases b <;> rfl
@[simp] theorem State.wbit_hfxoHz (o i : Nat) (b : Bool) : (s.wbit o i b).hfxoHz = s.hfxoHz := by unfold State.wbit; cases b <;> rfl
@[simp] theorem State.wbit_free (o i : Nat) (b : Bool) : (s.wbit o i b).free = s.free := by unfold State.wbit; cases b <;> rfl
@[simp] theorem State.wbit_rdata (o i : Nat) (b : Bool) : (s.wbit o i b).rdata = s.rdata := by unfold State.wbit; cases b <;> rfl
@[simp] theorem State.wbit_burst (o i : Nat) (b : Bool) : (s.wbit o i b).burst = s.burst := by unfold State.wbit; cases b <;> rfl
@[simp] theorem State.wbit_pending (o i : Nat) (b : Bool) : (s.wbit o i b).pending = s.pending := by unfold State.wbit; cases b <;> rfl

@[simp] theorem State.wbitv_shadows (v o i : Nat) (b : Bool) : (s.wbitv v o i b).shadows = s.shadows := by unfold State.wbitv; cases b <;> rfl
@[simp] theorem State.wbitv_acts (v o i : Nat) (b : Bool) : (s.wbitv v o i b).acts = s.acts := by unfold State.wbitv; cases b <;> rfl
@[simp] theorem State.wbitv_agenda (v o i : Nat) (b : Bool) : (s.wbitv v o i b).agenda = s.agenda := by unfold State.wbitv; cases b <;> rfl
@[simp] theorem State.wbitv_time (v o i : Nat) (b : Bool) : (s.wbitv v o i b).time = s.time := by unfold State.wbitv; cases b <;> rfl
@[simp] theorem State.wbitv_fab (v o i : Nat) (b : Bool) : (s.wbitv v o i b).fab = s.fab := by unfold State.wbitv; cases b <;> rfl
@[simp] theorem State.wbitv_rind (v o i : Nat) (b : Bool) : (s.wbitv v o i b).rind = s.rind := by unfold State.wbitv; cases b <;> rfl
@[simp] theorem State.wbitv_mode (v o i : Nat) (b : Bool) : (s.wbitv v o i b).mode = s.mode := by unfold State.wbitv; cases b <;> rfl
@[simp] theorem State.wbitv_rst (v o i : Nat) (b : Bool) : (s.wbitv v o i b).rst = s.rst := by unfold State.wbitv; cases b <;> rfl
@[simp] theorem State.wbitv_syn (v o i : Nat) (b : Bool) : (s.wbitv v o i b).syn = s.syn := by unfold State.wbitv; cases b <;> rfl
@[simp] theorem State.wbitv_mem (v o i : Nat) (b : Bool) : (s.wbitv v o i b).mem = s.mem := by unfold State.wbitv; cases b <;> rfl
@[simp] theorem State.wbitv_seqs (v o i : Nat) (b : Bool) : (s.wbitv v o i b).seqs = s.seqs := by unfold State.wbitv; cases b <;> rfl
@[simp] theorem State.wbitv_aouts (v o i : Nat) (b : Bool) : (s.wbitv v o i b).aouts = s.aouts := by unfold State.wbitv; cases b <;> rfl
@[simp] theorem State.wbitv_pbs (v o i : Nat) (b : Bool) : (s.wbitv v o i b).pbs = s.pbs := by unfold State.wbitv; cases b <;> rfl
@[simp] theorem State.wbitv_trgs (v o i : Nat) (b : Bool) : (s.wbitv v o i b).trgs = s.trgs := by unfold State.wbitv; cases b <;> rfl
@[simp] theorem State.wbitv_disp (v o i : Nat) (b : Bool) : (s.wbitv v o i b).disp = s.disp := by unfold State.wbitv; cases b <;> rfl
@[simp] theorem State.wbitv_vis (v o i : Nat) (b : Bool) : (s.wbitv v o i b).vis = s.vis := by unfold State.wbitv; cases b <;> rfl
@[simp] theorem State.wbitv_sems (v o i : Nat) (b : Bool) : (s.wbitv v o i b).sems = s.sems := by unfold State.wbitv; cases b <;> rfl
@[simp] theorem State.wbitv_out (v o i : Nat) (b : Bool) : (s.wbitv v o i b).out = s.out := by unfold State.wbitv; cases b <;> rfl
@[simp] theorem State.wbitv_cal (v o i : Nat) (b : Bool) : (s.wbitv v o i b).cal = s.cal := by unfold State.wbitv; cases b <;> rfl
@[simp] theorem State.wbitv_kl (v o i : Nat) (b : Bool) : (s.wbitv v o i b).kl = s.kl := by unfold State.wbitv; cases b <;> rfl
@[simp] theorem State.wbitv_host (v o i : Nat) (b : Bool) : (s.wbitv v o i b).host = s.host := by unfold State.wbitv; cases b <;> rfl
@[simp] theorem State.wbitv_tins (v o i : Nat) (b : Bool) : (s.wbitv v o i b).tins = s.tins := by unfold State.wbitv; cases b <;> rfl
@[simp] theorem State.wbitv_acmps (v o i : Nat) (b : Bool) : (s.wbitv v o i b).acmps = s.acmps := by unfold State.wbitv; cases b <;> rfl
@[simp] theorem State.wbitv_walk (v o i : Nat) (b : Bool) : (s.wbitv v o i b).walk = s.walk := by unfold State.wbitv; cases b <;> rfl
@[simp] theorem State.wbitv_keys (v o i : Nat) (b : Bool) : (s.wbitv v o i b).keys = s.keys := by unfold State.wbitv; cases b <;> rfl
@[simp] theorem State.wbitv_peakTaken (v o i : Nat) (b : Bool) : (s.wbitv v o i b).peakTaken = s.peakTaken := by unfold State.wbitv; cases b <;> rfl
@[simp] theorem State.wbitv_refinHz (v o i : Nat) (b : Bool) : (s.wbitv v o i b).refinHz = s.refinHz := by unfold State.wbitv; cases b <;> rfl
@[simp] theorem State.wbitv_hfxoHz (v o i : Nat) (b : Bool) : (s.wbitv v o i b).hfxoHz = s.hfxoHz := by unfold State.wbitv; cases b <;> rfl
@[simp] theorem State.wbitv_free (v o i : Nat) (b : Bool) : (s.wbitv v o i b).free = s.free := by unfold State.wbitv; cases b <;> rfl
@[simp] theorem State.wbitv_rdata (v o i : Nat) (b : Bool) : (s.wbitv v o i b).rdata = s.rdata := by unfold State.wbitv; cases b <;> rfl
@[simp] theorem State.wbitv_burst (v o i : Nat) (b : Bool) : (s.wbitv v o i b).burst = s.burst := by unfold State.wbitv; cases b <;> rfl
@[simp] theorem State.wbitv_pending (v o i : Nat) (b : Bool) : (s.wbitv v o i b).pending = s.pending := by unfold State.wbitv; cases b <;> rfl

/-! ### Registers -/

theorem State.getKey_setKey (j k : Nat) (x : Word) : (s.setKey k x).getKey j = if j = k then x else s.getKey j :=
  Tab.get_set _ _ _ _ _

@[simp] theorem State.getKey_setKey_self (k : Nat) (x : Word) : (s.setKey k x).getKey k = x := by simp [State.getKey_setKey]

theorem State.getKey_setKey_ne {j k : Nat} (x : Word) (h : j ≠ k) : (s.setKey k x).getKey j = s.getKey j := by
  simp [State.getKey_setKey, h]

@[simp] theorem State.rd_wr_self (o : Nat) (x : Word) : (s.wr o x).rd o = x := s.getKey_setKey_self _ _

theorem State.rd_wr_ne {o p : Nat} (x : Word) (h : p ≠ o) : (s.wr o x).rd p = s.rd p := s.getKey_setKey_ne _ h

@[simp] theorem State.rdv_wrv_self (v o : Nat) (x : Word) : (s.wrv v o x).rdv v o = x := s.getKey_setKey_self _ _

theorem State.getKey_wr (o j : Nat) (x : Word) : (s.wr o x).getKey j = if j = o then x else s.getKey j := s.getKey_setKey _ _ _

theorem State.getKey_wrv (v o j : Nat) (x : Word) : (s.wrv v o x).getKey j = if j = viKey v o then x else s.getKey j :=
  s.getKey_setKey _ _ _

@[simp] theorem State.wbit_getKey (o i : Nat) (b : Bool) (k : Nat) :
    (s.wbit o i b).getKey k = if k = o then setBit (s.getKey o) i b else s.getKey k := by
  unfold State.wbit; cases b <;> exact s.getKey_setKey _ _ _

@[simp] theorem State.wbitv_getKey (v o i : Nat) (b : Bool) (k : Nat) :
    (s.wbitv v o i b).getKey k = if k = viKey v o then setBit (s.getKey (viKey v o)) i b else s.getKey k := by
  unfold State.wbitv; cases b <;> exact s.getKey_setKey _ _ _

theorem State.tally_getKey (k j : Nat) (f : Word → Word) :
    (s.tally k f).getKey j = if j = k then f (s.getKey k) else s.getKey j := s.getKey_setKey _ _ _

@[simp] theorem State.setCy_getKey (k : Nat) (c : Cyc) (j : Nat) : (s.setCy k c).getKey j = s.getKey j := rfl
@[simp] theorem State.touch_getKey (k : Nat) (m : Word) (j : Nat) : (s.touch k m).getKey j = s.getKey j := rfl
@[simp] theorem State.stage_getKey (k : Nat) (x : Word) (j : Nat) : (s.stage k x).getKey j = s.getKey j := rfl
@[simp] theorem State.dropShadows_getKey (p : Nat → Bool) (j : Nat) : (s.dropShadows p).getKey j = s.getKey j := rfl
@[simp] theorem State.setAct_getKey (a : ActId) (x : Act) (j : Nat) : (s.setAct a x).getKey j = s.getKey j := rfl
@[simp] theorem State.setSq_getKey (k : Nat) (x : SeqSt) (j : Nat) : (s.setSq k x).getKey j = s.getKey j := rfl
@[simp] theorem State.setAo_getKey (k : Nat) (x : AoutSt) (j : Nat) : (s.setAo k x).getKey j = s.getKey j := rfl
@[simp] theorem State.setPb_getKey (k : Nat) (x : PbSt) (j : Nat) : (s.setPb k x).getKey j = s.getKey j := rfl
@[simp] theorem State.setTrg_getKey (k : Nat) (x : TrgSt) (j : Nat) : (s.setTrg k x).getKey j = s.getKey j := rfl
@[simp] theorem State.setSy_getKey (k : Nat) (x : SynSt) (j : Nat) : (s.setSy k x).getKey j = s.getKey j := rfl
@[simp] theorem State.setVi_getKey (k : Nat) (x : ViSt) (j : Nat) : (s.setVi k x).getKey j = s.getKey j := rfl
@[simp] theorem State.setSem_getKey (k : Nat) (x : SemSt) (j : Nat) : (s.setSem k x).getKey j = s.getKey j := rfl
@[simp] theorem State.setRg_getKey (k : Nat) (x : RindSt) (j : Nat) : (s.setRg k x).getKey j = s.getKey j := rfl
@[simp] theorem State.setLde_getKey (k : Nat) (x : LdeSt) (j : Nat) : (s.setLde k x).getKey j = s.getKey j := rfl
@[simp] theorem State.setScan_getKey (k : Nat) (x : ScanFor) (j : Nat) : (s.setScan k x).getKey j = s.getKey j := rfl
@[simp] theorem State.setDom_getKey (d c : Nat) (j : Nat) : (s.setDom d c).getKey j = s.getKey j := rfl
@[simp] theorem State.wVat_getKey (a : Nat) (b : Byte) (j : Nat) : (s.wVat a b).getKey j = s.getKey j := rfl
@[simp] theorem State.wMem_getKey (a : Nat) (b : Byte) (j : Nat) : (s.wMem a b).getKey j = s.getKey j := rfl
@[simp] theorem State.wNvm_getKey (a : Nat) (b : Byte) (j : Nat) : (s.wNvm a b).getKey j = s.getKey j := rfl
@[simp] theorem State.after_getKey (tu : Nat) (c : Instr) (j : Nat) : (s.after tu c).getKey j = s.getKey j := rfl
@[simp] theorem State.atTime_getKey (t : Nat) (c : Instr) (j : Nat) : (s.at_ t c).getKey j = s.getKey j := rfl
@[simp] theorem State.cancel_getKey (c : Instr) (j : Nat) : (s.cancel c).getKey j = s.getKey j := rfl
@[simp] theorem State.fresh_getKey (j : Nat) : (s.fresh).getKey j = s.getKey j := rfl
@[simp] theorem State.answer_getKey (w : Word) (j : Nat) : (s.answer w).getKey j = s.getKey j := rfl

/-! ### Bits and fields -/

theorem tb_setBit {w : Nat} (x : BitVec w) (i j : Nat) (b : Bool) (h : i < w) :
    tb (setBit x i b) j = if j = i then b else tb x j := by
  have hp : (BitVec.ofNat w (1 <<< i)).getLsbD j = decide (j = i) := by
    rw [BitVec.getLsbD_ofNat, Nat.one_shiftLeft, Nat.testBit_two_pow]
    by_cases hji : j = i
    · subst hji; simp [h]
    · simp [hji, Ne.symm hji]
  unfold tb setBit
  cases b <;> by_cases hji : j = i
  · subst hji; simp only [Bool.false_eq_true, if_false, if_true, BitVec.getLsbD_and, BitVec.getLsbD_not, hp]; simp
  · simp only [Bool.false_eq_true, if_false, BitVec.getLsbD_and, BitVec.getLsbD_not, hp, hji, decide_false]
    by_cases hj : j < w
    · simp [hj]
    · simp [hj, BitVec.getLsbD_of_ge x j (by omega)]
  · subst hji; simp only [if_true, BitVec.getLsbD_or, hp]; simp
  · simp only [if_true, BitVec.getLsbD_or, hp, hji, decide_false, if_false]; simp

/-- A bit that has been written reads as written. -/
@[simp] theorem tb_setBit_self {w : Nat} (x : BitVec w) (i : Nat) (b : Bool) (h : i < w) : tb (setBit x i b) i = b := by
  simp [tb_setBit x i i b h]

/-- A field that has been written reads as written, modulo its width. -/
theorem bf_setFld {w : Nat} (x : BitVec w) (hi lo v : Nat) (h : hi < w) (hl : lo ≤ hi) :
    bf (setFld x hi lo v) hi lo = v % 2 ^ (hi + 1 - lo) := by
  unfold bf setFld
  apply Nat.eq_of_testBit_eq
  intro i
  by_cases hb : i < hi + 1 - lo
  · have h1 : lo + i < w := by omega
    simp [Nat.testBit_mod_two_pow, hb, Nat.testBit_shiftRight, BitVec.toNat_or, Nat.testBit_or, BitVec.toNat_and,
      Nat.testBit_and, BitVec.toNat_ofNat, Nat.testBit_shiftLeft, h1, BitVec.toNat_not]
    intro _ hx
    exfalso
    revert hx
    have hm : ((2 ^ (hi + 1 - lo) - 1) <<< lo) % 2 ^ w < 2 ^ w := Nat.mod_lt _ (by positivity)
    have : (2 ^ w - 1 - (2 ^ (hi + 1 - lo) - 1) <<< lo % 2 ^ w).testBit (lo + i) = false := by
      have e : 2 ^ w - 1 - (2 ^ (hi + 1 - lo) - 1) <<< lo % 2 ^ w
          = 2 ^ w - ((2 ^ (hi + 1 - lo) - 1) <<< lo % 2 ^ w + 1) := by omega
      rw [e, Nat.testBit_two_pow_sub_succ hm]
      simp [h1, Nat.testBit_mod_two_pow, Nat.testBit_shiftLeft, Nat.testBit_two_pow_sub_one, hb]
    simp [this]
  · simp [Nat.testBit_mod_two_pow, hb]

/-- Bit `i` of register `o` after it is written. -/
@[simp] theorem State.bit_wbit_self (o i : Nat) (b : Bool) (h : i < 32) : (s.wbit o i b).bit o i = b := by
  simp [State.bit, State.rd, devKey, tb_setBit_self _ _ _ h]

@[simp] theorem State.bitv_wbitv_self (v o i : Nat) (b : Bool) (h : i < 32) : (s.wbitv v o i b).bitv v o i = b := by
  simp [State.bitv, State.rdv, tb_setBit_self _ _ _ h]

/-- Field [hi:lo] of register `o` after it is written. -/
theorem State.fld_wfld_self (o hi lo x : Nat) (h : hi < 32) (hl : lo ≤ hi) :
    (s.wfld o hi lo x).fld o hi lo = x % 2 ^ (hi + 1 - lo) := by
  simp [State.fld, State.wfld, bf_setFld _ _ _ _ h hl]

/-! ### State held per unit -/

theorem State.sq_setSq (j k : Nat) (x : SeqSt) : (s.setSq k x).sq j = if j = k then x else s.sq j := Tab.get_set _ _ _ _ _
@[simp] theorem State.sq_setSq_self (k : Nat) (x : SeqSt) : (s.setSq k x).sq k = x := Tab.get_set_self _ _ _ _
theorem State.ao_setAo (j k : Nat) (x : AoutSt) : (s.setAo k x).ao j = if j = k then x else s.ao j := Tab.get_set _ _ _ _ _
@[simp] theorem State.ao_setAo_self (k : Nat) (x : AoutSt) : (s.setAo k x).ao k = x := Tab.get_set_self _ _ _ _
theorem State.pb_setPb (j k : Nat) (x : PbSt) : (s.setPb k x).pb j = if j = k then x else s.pb j := Tab.get_set _ _ _ _ _
@[simp] theorem State.pb_setPb_self (k : Nat) (x : PbSt) : (s.setPb k x).pb k = x := Tab.get_set_self _ _ _ _
theorem State.trg_setTrg (j k : Nat) (x : TrgSt) : (s.setTrg k x).trg j = if j = k then x else s.trg j := Tab.get_set _ _ _ _ _
@[simp] theorem State.trg_setTrg_self (k : Nat) (x : TrgSt) : (s.setTrg k x).trg k = x := Tab.get_set_self _ _ _ _
theorem State.sy_setSy (j k : Nat) (x : SynSt) : (s.setSy k x).sy j = if j = k then x else s.sy j := Tab.get_set _ _ _ _ _
@[simp] theorem State.sy_setSy_self (k : Nat) (x : SynSt) : (s.setSy k x).sy k = x := Tab.get_set_self _ _ _ _
theorem State.vi_setVi (j k : Nat) (x : ViSt) : (s.setVi k x).vi j = if j = k then x else s.vi j := Tab.get_set _ _ _ _ _
@[simp] theorem State.vi_setVi_self (k : Nat) (x : ViSt) : (s.setVi k x).vi k = x := Tab.get_set_self _ _ _ _
theorem State.sem_setSem (j k : Nat) (x : SemSt) : (s.setSem k x).sem j = if j = k then x else s.sem j := Tab.get_set _ _ _ _ _
@[simp] theorem State.sem_setSem_self (k : Nat) (x : SemSt) : (s.setSem k x).sem k = x := Tab.get_set_self _ _ _ _
theorem State.rg_setRg (j k : Nat) (x : RindSt) : (s.setRg k x).rg j = if j = k then x else s.rg j := Tab.get_set _ _ _ _ _
@[simp] theorem State.rg_setRg_self (k : Nat) (x : RindSt) : (s.setRg k x).rg k = x := Tab.get_set_self _ _ _ _
theorem State.lde_setLde (j k : Nat) (x : LdeSt) : (s.setLde k x).lde j = if j = k then x else s.lde j := Tab.get_set _ _ _ _ _
@[simp] theorem State.lde_setLde_self (k : Nat) (x : LdeSt) : (s.setLde k x).lde k = x := Tab.get_set_self _ _ _ _
theorem State.scanOf_setScan (j k : Nat) (x : ScanFor) : (s.setScan k x).scanOf j = if j = k then x else s.scanOf j := Tab.get_set _ _ _ _ _
@[simp] theorem State.scanOf_setScan_self (k : Nat) (x : ScanFor) : (s.setScan k x).scanOf k = x := Tab.get_set_self _ _ _ _

theorem State.cy_setCy (j k : Nat) (c : Cyc) : (s.setCy k c).cy j = if j = k then c else s.cy j := Tab.get_set _ _ _ _ _

@[simp] theorem State.act_setAct_self (a : ActId) (x : Act) : (s.setAct a x).act a = x := Tab.get_set_self _ _ _ _

@[simp] theorem State.dom_setDom_self (d c : Nat) (h : d ≠ 0) : (s.setDom d c).dom d = c := by
  simp [State.dom, State.setDom, h]

/-! ### Applying an operation to a list -/

@[simp] theorem State.each_nil {α : Type} (f : State → α → State) : s.each [] f = s := rfl

@[simp] theorem State.each_cons {α : Type} (a : α) (l : List α) (f : State → α → State) : s.each (a :: l) f = (f s a).each l f :=
  rfl

/-- What every application keeps, the whole does. -/
theorem State.each_keeps {α β : Type} (g : State → β) (f : State → α → State) (h : ∀ s a, g (f s a) = g s) (l : List α) :
    g (s.each l f) = g s := by
  induction l generalizing s with
  | nil => rfl
  | cons a l ih => rw [State.each_cons, ih, h]

end Sys2Proof.Machine
end

