-- ==== Sys2Proof/Laws/Units.lean ====
section
/-! SUPPORT. What the updates of a time input, a comparator, a link port and a VI's remote accesses leave. -/

namespace Sys2Proof.Machine

variable (s : State)

@[simp] theorem State.setTin_regs (n : Nat) (x : TinSt) : (s.setTin n x).regs = s.regs := rfl
@[simp] theorem State.setTin_shadows (n : Nat) (x : TinSt) : (s.setTin n x).shadows = s.shadows := rfl
@[simp] theorem State.setTin_cyc (n : Nat) (x : TinSt) : (s.setTin n x).cyc = s.cyc := rfl
@[simp] theorem State.setTin_acts (n : Nat) (x : TinSt) : (s.setTin n x).acts = s.acts := rfl
@[simp] theorem State.setTin_agenda (n : Nat) (x : TinSt) : (s.setTin n x).agenda = s.agenda := rfl
@[simp] theorem State.setTin_time (n : Nat) (x : TinSt) : (s.setTin n x).time = s.time := rfl
@[simp] theorem State.setTin_fab (n : Nat) (x : TinSt) : (s.setTin n x).fab = s.fab := rfl
@[simp] theorem State.setTin_rind (n : Nat) (x : TinSt) : (s.setTin n x).rind = s.rind := rfl
@[simp] theorem State.setTin_walk (n : Nat) (x : TinSt) : (s.setTin n x).walk = s.walk := rfl
@[simp] theorem State.setTin_mode (n : Nat) (x : TinSt) : (s.setTin n x).mode = s.mode := rfl
@[simp] theorem State.setTin_rst (n : Nat) (x : TinSt) : (s.setTin n x).rst = s.rst := rfl
@[simp] theorem State.setTin_syn (n : Nat) (x : TinSt) : (s.setTin n x).syn = s.syn := rfl
@[simp] theorem State.setTin_mem (n : Nat) (x : TinSt) : (s.setTin n x).mem = s.mem := rfl
@[simp] theorem State.setTin_seqs (n : Nat) (x : TinSt) : (s.setTin n x).seqs = s.seqs := rfl
@[simp] theorem State.setTin_aouts (n : Nat) (x : TinSt) : (s.setTin n x).aouts = s.aouts := rfl
@[simp] theorem State.setTin_pbs (n : Nat) (x : TinSt) : (s.setTin n x).pbs = s.pbs := rfl
@[simp] theorem State.setTin_trgs (n : Nat) (x : TinSt) : (s.setTin n x).trgs = s.trgs := rfl
@[simp] theorem State.setTin_disp (n : Nat) (x : TinSt) : (s.setTin n x).disp = s.disp := rfl
@[simp] theorem State.setTin_vis (n : Nat) (x : TinSt) : (s.setTin n x).vis = s.vis := rfl
@[simp] theorem State.setTin_sems (n : Nat) (x : TinSt) : (s.setTin n x).sems = s.sems := rfl
@[simp] theorem State.setTin_out (n : Nat) (x : TinSt) : (s.setTin n x).out = s.out := rfl
@[simp] theorem State.setTin_cal (n : Nat) (x : TinSt) : (s.setTin n x).cal = s.cal := rfl
@[simp] theorem State.setTin_kl (n : Nat) (x : TinSt) : (s.setTin n x).kl = s.kl := rfl
@[simp] theorem State.setTin_host (n : Nat) (x : TinSt) : (s.setTin n x).host = s.host := rfl
@[simp] theorem State.setTin_acmps (n : Nat) (x : TinSt) : (s.setTin n x).acmps = s.acmps := rfl
@[simp] theorem State.setTin_keys (n : Nat) (x : TinSt) : (s.setTin n x).keys = s.keys := rfl
@[simp] theorem State.setTin_peakTaken (n : Nat) (x : TinSt) : (s.setTin n x).peakTaken = s.peakTaken := rfl
@[simp] theorem State.setTin_refinHz (n : Nat) (x : TinSt) : (s.setTin n x).refinHz = s.refinHz := rfl
@[simp] theorem State.setTin_hfxoHz (n : Nat) (x : TinSt) : (s.setTin n x).hfxoHz = s.hfxoHz := rfl
@[simp] theorem State.setTin_free (n : Nat) (x : TinSt) : (s.setTin n x).free = s.free := rfl
@[simp] theorem State.setTin_rdata (n : Nat) (x : TinSt) : (s.setTin n x).rdata = s.rdata := rfl
@[simp] theorem State.setTin_burst (n : Nat) (x : TinSt) : (s.setTin n x).burst = s.burst := rfl
@[simp] theorem State.setTin_pending (n : Nat) (x : TinSt) : (s.setTin n x).pending = s.pending := rfl
theorem State.tin_setTin (j : Nat) (n : Nat) (x : TinSt) : (s.setTin n x).tin j = if j = n then x else s.tin j := Tab.get_set _ _ _ _ _
@[simp] theorem State.tin_setTin_self (n : Nat) (x : TinSt) : (s.setTin n x).tin n = x := Tab.get_set_self _ _ _ _

@[simp] theorem State.setAcmp_regs (n : Nat) (x : AcmpSt) : (s.setAcmp n x).regs = s.regs := rfl
@[simp] theorem State.setAcmp_shadows (n : Nat) (x : AcmpSt) : (s.setAcmp n x).shadows = s.shadows := rfl
@[simp] theorem State.setAcmp_cyc (n : Nat) (x : AcmpSt) : (s.setAcmp n x).cyc = s.cyc := rfl
@[simp] theorem State.setAcmp_acts (n : Nat) (x : AcmpSt) : (s.setAcmp n x).acts = s.acts := rfl
@[simp] theorem State.setAcmp_agenda (n : Nat) (x : AcmpSt) : (s.setAcmp n x).agenda = s.agenda := rfl
@[simp] theorem State.setAcmp_time (n : Nat) (x : AcmpSt) : (s.setAcmp n x).time = s.time := rfl
@[simp] theorem State.setAcmp_fab (n : Nat) (x : AcmpSt) : (s.setAcmp n x).fab = s.fab := rfl
@[simp] theorem State.setAcmp_rind (n : Nat) (x : AcmpSt) : (s.setAcmp n x).rind = s.rind := rfl
@[simp] theorem State.setAcmp_walk (n : Nat) (x : AcmpSt) : (s.setAcmp n x).walk = s.walk := rfl
@[simp] theorem State.setAcmp_mode (n : Nat) (x : AcmpSt) : (s.setAcmp n x).mode = s.mode := rfl
@[simp] theorem State.setAcmp_rst (n : Nat) (x : AcmpSt) : (s.setAcmp n x).rst = s.rst := rfl
@[simp] theorem State.setAcmp_syn (n : Nat) (x : AcmpSt) : (s.setAcmp n x).syn = s.syn := rfl
@[simp] theorem State.setAcmp_mem (n : Nat) (x : AcmpSt) : (s.setAcmp n x).mem = s.mem := rfl
@[simp] theorem State.setAcmp_seqs (n : Nat) (x : AcmpSt) : (s.setAcmp n x).seqs = s.seqs := rfl
@[simp] theorem State.setAcmp_aouts (n : Nat) (x : AcmpSt) : (s.setAcmp n x).aouts = s.aouts := rfl
@[simp] theorem State.setAcmp_pbs (n : Nat) (x : AcmpSt) : (s.setAcmp n x).pbs = s.pbs := rfl
@[simp] theorem State.setAcmp_trgs (n : Nat) (x : AcmpSt) : (s.setAcmp n x).trgs = s.trgs := rfl
@[simp] theorem State.setAcmp_disp (n : Nat) (x : AcmpSt) : (s.setAcmp n x).disp = s.disp := rfl
@[simp] theorem State.setAcmp_vis (n : Nat) (x : AcmpSt) : (s.setAcmp n x).vis = s.vis := rfl
@[simp] theorem State.setAcmp_sems (n : Nat) (x : AcmpSt) : (s.setAcmp n x).sems = s.sems := rfl
@[simp] theorem State.setAcmp_out (n : Nat) (x : AcmpSt) : (s.setAcmp n x).out = s.out := rfl
@[simp] theorem State.setAcmp_cal (n : Nat) (x : AcmpSt) : (s.setAcmp n x).cal = s.cal := rfl
@[simp] theorem State.setAcmp_kl (n : Nat) (x : AcmpSt) : (s.setAcmp n x).kl = s.kl := rfl
@[simp] theorem State.setAcmp_host (n : Nat) (x : AcmpSt) : (s.setAcmp n x).host = s.host := rfl
@[simp] theorem State.setAcmp_tins (n : Nat) (x : AcmpSt) : (s.setAcmp n x).tins = s.tins := rfl
@[simp] theorem State.setAcmp_keys (n : Nat) (x : AcmpSt) : (s.setAcmp n x).keys = s.keys := rfl
@[simp] theorem State.setAcmp_peakTaken (n : Nat) (x : AcmpSt) : (s.setAcmp n x).peakTaken = s.peakTaken := rfl
@[simp] theorem State.setAcmp_refinHz (n : Nat) (x : AcmpSt) : (s.setAcmp n x).refinHz = s.refinHz := rfl
@[simp] theorem State.setAcmp_hfxoHz (n : Nat) (x : AcmpSt) : (s.setAcmp n x).hfxoHz = s.hfxoHz := rfl
@[simp] theorem State.setAcmp_free (n : Nat) (x : AcmpSt) : (s.setAcmp n x).free = s.free := rfl
@[simp] theorem State.setAcmp_rdata (n : Nat) (x : AcmpSt) : (s.setAcmp n x).rdata = s.rdata := rfl
@[simp] theorem State.setAcmp_burst (n : Nat) (x : AcmpSt) : (s.setAcmp n x).burst = s.burst := rfl
@[simp] theorem State.setAcmp_pending (n : Nat) (x : AcmpSt) : (s.setAcmp n x).pending = s.pending := rfl
theorem State.acmp_setAcmp (j : Nat) (n : Nat) (x : AcmpSt) : (s.setAcmp n x).acmp j = if j = n then x else s.acmp j := Tab.get_set _ _ _ _ _
@[simp] theorem State.acmp_setAcmp_self (n : Nat) (x : AcmpSt) : (s.setAcmp n x).acmp n = x := Tab.get_set_self _ _ _ _

@[simp] theorem State.setKp_regs (n : Nat) (x : PortSt) : (s.setKp n x).regs = s.regs := rfl
@[simp] theorem State.setKp_shadows (n : Nat) (x : PortSt) : (s.setKp n x).shadows = s.shadows := rfl
@[simp] theorem State.setKp_cyc (n : Nat) (x : PortSt) : (s.setKp n x).cyc = s.cyc := rfl
@[simp] theorem State.setKp_acts (n : Nat) (x : PortSt) : (s.setKp n x).acts = s.acts := rfl
@[simp] theorem State.setKp_agenda (n : Nat) (x : PortSt) : (s.setKp n x).agenda = s.agenda := rfl
@[simp] theorem State.setKp_time (n : Nat) (x : PortSt) : (s.setKp n x).time = s.time := rfl
@[simp] theorem State.setKp_fab (n : Nat) (x : PortSt) : (s.setKp n x).fab = s.fab := rfl
@[simp] theorem State.setKp_rind (n : Nat) (x : PortSt) : (s.setKp n x).rind = s.rind := rfl
@[simp] theorem State.setKp_walk (n : Nat) (x : PortSt) : (s.setKp n x).walk = s.walk := rfl
@[simp] theorem State.setKp_mode (n : Nat) (x : PortSt) : (s.setKp n x).mode = s.mode := rfl
@[simp] theorem State.setKp_rst (n : Nat) (x : PortSt) : (s.setKp n x).rst = s.rst := rfl
@[simp] theorem State.setKp_syn (n : Nat) (x : PortSt) : (s.setKp n x).syn = s.syn := rfl
@[simp] theorem State.setKp_mem (n : Nat) (x : PortSt) : (s.setKp n x).mem = s.mem := rfl
@[simp] theorem State.setKp_seqs (n : Nat) (x : PortSt) : (s.setKp n x).seqs = s.seqs := rfl
@[simp] theorem State.setKp_aouts (n : Nat) (x : PortSt) : (s.setKp n x).aouts = s.aouts := rfl
@[simp] theorem State.setKp_pbs (n : Nat) (x : PortSt) : (s.setKp n x).pbs = s.pbs := rfl
@[simp] theorem State.setKp_trgs (n : Nat) (x : PortSt) : (s.setKp n x).trgs = s.trgs := rfl
@[simp] theorem State.setKp_disp (n : Nat) (x : PortSt) : (s.setKp n x).disp = s.disp := rfl
@[simp] theorem State.setKp_vis (n : Nat) (x : PortSt) : (s.setKp n x).vis = s.vis := rfl
@[simp] theorem State.setKp_sems (n : Nat) (x : PortSt) : (s.setKp n x).sems = s.sems := rfl
@[simp] theorem State.setKp_out (n : Nat) (x : PortSt) : (s.setKp n x).out = s.out := rfl
@[simp] theorem State.setKp_cal (n : Nat) (x : PortSt) : (s.setKp n x).cal = s.cal := rfl
@[simp] theorem State.setKp_host (n : Nat) (x : PortSt) : (s.setKp n x).host = s.host := rfl
@[simp] theorem State.setKp_tins (n : Nat) (x : PortSt) : (s.setKp n x).tins = s.tins := rfl
@[simp] theorem State.setKp_acmps (n : Nat) (x : PortSt) : (s.setKp n x).acmps = s.acmps := rfl
@[simp] theorem State.setKp_keys (n : Nat) (x : PortSt) : (s.setKp n x).keys = s.keys := rfl
@[simp] theorem State.setKp_peakTaken (n : Nat) (x : PortSt) : (s.setKp n x).peakTaken = s.peakTaken := rfl
@[simp] theorem State.setKp_refinHz (n : Nat) (x : PortSt) : (s.setKp n x).refinHz = s.refinHz := rfl
@[simp] theorem State.setKp_hfxoHz (n : Nat) (x : PortSt) : (s.setKp n x).hfxoHz = s.hfxoHz := rfl
@[simp] theorem State.setKp_free (n : Nat) (x : PortSt) : (s.setKp n x).free = s.free := rfl
@[simp] theorem State.setKp_rdata (n : Nat) (x : PortSt) : (s.setKp n x).rdata = s.rdata := rfl
@[simp] theorem State.setKp_burst (n : Nat) (x : PortSt) : (s.setKp n x).burst = s.burst := rfl
@[simp] theorem State.setKp_pending (n : Nat) (x : PortSt) : (s.setKp n x).pending = s.pending := rfl
theorem State.kp_setKp (j : Nat) (n : Nat) (x : PortSt) : (s.setKp n x).kp j = if j = n then x else s.kp j := Tab.get_set _ _ _ _ _
@[simp] theorem State.kp_setKp_self (n : Nat) (x : PortSt) : (s.setKp n x).kp n = x := Tab.get_set_self _ _ _ _

@[simp] theorem State.setRa_regs (n : Nat) (x : RaSt) : (s.setRa n x).regs = s.regs := rfl
@[simp] theorem State.setRa_shadows (n : Nat) (x : RaSt) : (s.setRa n x).shadows = s.shadows := rfl
@[simp] theorem State.setRa_cyc (n : Nat) (x : RaSt) : (s.setRa n x).cyc = s.cyc := rfl
@[simp] theorem State.setRa_acts (n : Nat) (x : RaSt) : (s.setRa n x).acts = s.acts := rfl
@[simp] theorem State.setRa_agenda (n : Nat) (x : RaSt) : (s.setRa n x).agenda = s.agenda := rfl
@[simp] theorem State.setRa_time (n : Nat) (x : RaSt) : (s.setRa n x).time = s.time := rfl
@[simp] theorem State.setRa_fab (n : Nat) (x : RaSt) : (s.setRa n x).fab = s.fab := rfl
@[simp] theorem State.setRa_rind (n : Nat) (x : RaSt) : (s.setRa n x).rind = s.rind := rfl
@[simp] theorem State.setRa_walk (n : Nat) (x : RaSt) : (s.setRa n x).walk = s.walk := rfl
@[simp] theorem State.setRa_mode (n : Nat) (x : RaSt) : (s.setRa n x).mode = s.mode := rfl
@[simp] theorem State.setRa_rst (n : Nat) (x : RaSt) : (s.setRa n x).rst = s.rst := rfl
@[simp] theorem State.setRa_syn (n : Nat) (x : RaSt) : (s.setRa n x).syn = s.syn := rfl
@[simp] theorem State.setRa_mem (n : Nat) (x : RaSt) : (s.setRa n x).mem = s.mem := rfl
@[simp] theorem State.setRa_seqs (n : Nat) (x : RaSt) : (s.setRa n x).seqs = s.seqs := rfl
@[simp] theorem State.setRa_aouts (n : Nat) (x : RaSt) : (s.setRa n x).aouts = s.aouts := rfl
@[simp] theorem State.setRa_pbs (n : Nat) (x : RaSt) : (s.setRa n x).pbs = s.pbs := rfl
@[simp] theorem State.setRa_trgs (n : Nat) (x : RaSt) : (s.setRa n x).trgs = s.trgs := rfl
@[simp] theorem State.setRa_disp (n : Nat) (x : RaSt) : (s.setRa n x).disp = s.disp := rfl
@[simp] theorem State.setRa_vis (n : Nat) (x : RaSt) : (s.setRa n x).vis = s.vis := rfl
@[simp] theorem State.setRa_sems (n : Nat) (x : RaSt) : (s.setRa n x).sems = s.sems := rfl
@[simp] theorem State.setRa_out (n : Nat) (x : RaSt) : (s.setRa n x).out = s.out := rfl
@[simp] theorem State.setRa_cal (n : Nat) (x : RaSt) : (s.setRa n x).cal = s.cal := rfl
@[simp] theorem State.setRa_host (n : Nat) (x : RaSt) : (s.setRa n x).host = s.host := rfl
@[simp] theorem State.setRa_tins (n : Nat) (x : RaSt) : (s.setRa n x).tins = s.tins := rfl
@[simp] theorem State.setRa_acmps (n : Nat) (x : RaSt) : (s.setRa n x).acmps = s.acmps := rfl
@[simp] theorem State.setRa_keys (n : Nat) (x : RaSt) : (s.setRa n x).keys = s.keys := rfl
@[simp] theorem State.setRa_peakTaken (n : Nat) (x : RaSt) : (s.setRa n x).peakTaken = s.peakTaken := rfl
@[simp] theorem State.setRa_refinHz (n : Nat) (x : RaSt) : (s.setRa n x).refinHz = s.refinHz := rfl
@[simp] theorem State.setRa_hfxoHz (n : Nat) (x : RaSt) : (s.setRa n x).hfxoHz = s.hfxoHz := rfl
@[simp] theorem State.setRa_free (n : Nat) (x : RaSt) : (s.setRa n x).free = s.free := rfl
@[simp] theorem State.setRa_rdata (n : Nat) (x : RaSt) : (s.setRa n x).rdata = s.rdata := rfl
@[simp] theorem State.setRa_burst (n : Nat) (x : RaSt) : (s.setRa n x).burst = s.burst := rfl
@[simp] theorem State.setRa_pending (n : Nat) (x : RaSt) : (s.setRa n x).pending = s.pending := rfl
theorem State.ra_setRa (j : Nat) (n : Nat) (x : RaSt) : (s.setRa n x).ra j = if j = n then x else s.ra j := Tab.get_set _ _ _ _ _
@[simp] theorem State.ra_setRa_self (n : Nat) (x : RaSt) : (s.setRa n x).ra n = x := Tab.get_set_self _ _ _ _

end Sys2Proof.Machine
end

