-- ==== Sys2Proof/Tests/Slice0.lean ====
section
/-! SUPPORT. Tests of the model's own: the well-formedness checks refuse, small worked values of the spec, and for every
statement with hypotheses a witness, one concrete state and operands for each clause. -/

namespace Sys2Proof.Tests

open Sys2Proof Sys2Proof.Machine

set_option Elab.async false

/-! ### Well-formedness: an ill-formed term for each check -/

theorem test_wf_refuses_actions : (Instr.deferredArming ⟨1, 16⟩).wf = false ∧ (Instr.primeWakePoint ⟨4, 8⟩).wf = false ∧
    (Instr.timedRunRaise ⟨6, 128⟩).wf = false ∧ (Instr.deferredArming ⟨8, 32⟩).wf = false ∧
    (Instr.deferredArming ⟨9, 192⟩).wf = false ∧ (Instr.deferredArming ⟨10, 0⟩).wf = false := by decide

theorem test_wf_refuses_lists : (Instr.channelEvent 0 []).wf = false ∧ (Instr.keyScan [1]).wf = false ∧
    (Instr.keyScan [0, 0, 0, 0, 0, -1]).wf = false ∧ (Instr.capSnap 0 [(1, 1)]).wf = false ∧
    (Instr.apertureWrite 0 0 [] .ok).wf = false ∧ (Instr.bar0Request 0 0 true []).wf = false ∧
    (Instr.affDacUpdate 0 [(67, none)] 0 0).wf = false ∧ (Instr.affDacUpdate 0 [(1, none), (1, none)] 0 0).wf = false ∧
    (Instr.calDone { fig1 := 0, fig2 := 0, trims := [(1, 0), (1, 1)] }).wf = false := by decide

theorem test_wf_refuses_ranges : (Instr.ldeDone 0 (.err 0 0)).wf = false ∧ (Instr.apertureRead 0 0x7FFFFFFF 2 .ok).wf = false ∧
    (Instr.apertureRead 0 0 0 .ok).wf = false ∧ (Instr.vatScrub [0x2000000] []).wf = false ∧
    (Instr.lineUnderrun 0 4096).wf = false ∧ (Instr.synLockWindow 0 0x100000000 true).wf = false ∧
    (Instr.bar0Request 0 0xFFFC true [(0, 0), (0, 0)]).wf = false := by decide

/-! ### Worked values of the spec -/

/-- CRC-8 of the SPI worked case (16_host_ports.md): the request 20 03 04 04 has CRC 0x3B. -/
theorem test_crc8_of_spi_request : crc8 [0x20, 0x03, 0x04, 0x04] = 0x3B := by decide +kernel

/-- CRC-32C of the ASCII digits 1 to 9, the check value of the Castagnoli polynomial (R156). -/
theorem test_crc32c_check_value : crc32c [0x31, 0x32, 0x33, 0x34, 0x35, 0x36, 0x37, 0x38, 0x39] = 0xE3069283 := by
  decide +kernel

/-- Decoding: no row of the table has bits, so no word spells a command. -/
theorem test_no_word_spells_a_command : decodeTableWord 32 0 = none ∧ decodeTableWord 0 0 = none := by decide

/-! ### Witnesses -/

/-- An awake device after start-up: FCLK runs, every domain is on. -/
def on : State := { State.reset with
  time := { fclk := true, fast := 100000, keep := 100000, mono := 1000000 }
  mode := { eff := .primed, doms := (List.range 28).map fun i => (i + 1, 2) }
  rst := { phase := 5 } }

/-- DEV_ID reads 0x0D960B01 in every VI (R1). -/
theorem test_dev_id : ∀ v ∈ [0, 31], ∃ t, exec (.rcRead v .pcie 0 0xF) on = .next t ∧ t.rdata = some (0x0D960B01, false) := by
  intro v hv
  fin_cases hv <;> exact ⟨_, rfl, by decide +kernel⟩

def src : Src := { prod := 98, stamp := 5, unit := 0, swf := false, swvi := 0, ch := 0, imp := false, late := false,
                   multi := false, prov := false }
def ent : TinEnt := { stamp := 5, edge := true, coarse := false, loss := false, prov := false }
def msg : Msg := { at_ := 0, vi := 1, seqr := none, epoch := 0, seq := 0, q := 0, payload := 7 }
def armed (s : State) (k i : Nat) (x : Act) : State := s.setAct (actId k i) { x with armed := true }

theorem witness_StepRunsTheFrontCommand : ({ on with pending := [.safeEnter] } : State).pending = [.safeEnter] := rfl

theorem witness_EveryStepKeepsTheCanonicalForm : Tab.wf regReset on.regs = true ∧ Memory.wf on.mem = true := by
  decide +kernel

theorem witness_OnlyStoringCommandsChangeTheStores : storing (.park 7) = false ∧
    exec (.park 7) on = .next (on.evPark 7 true) := ⟨rfl, rfl⟩

theorem witness_EachUnitChangesOnlyByItsCommands : movesSems (.park 7) = false ∧ movesTins (.park 7) = false ∧
    movesKeys (.park 7) = false ∧ movesRind (.park 7) = false ∧ movesDisp (.park 7) = false := by decide

theorem witness_CommandsThatKeepEveryRegister : keepsRegs (.rindOpen 31 false) = true := rfl

theorem witness_WritesReachTheirRegister :
    (∀ o ∈ [0x434, 0x4434, 0x8434, 0xC434], let off := BitVec.ofNat 16 o
      on.Serves 0 ∧ on.walkBlocks ⟨0, .pcie, off, 0xFFFFFFFF, true, 0xF⟩ = false ∧ off.toNat % 4 = 0 ∧
      (match on.slot 0 (o % 0x4000) with
      | .reg r i _ => !on.slotGated r i && storesOnly r i && canAlter 0 r i != 0 &&
          (0xFFFFFFFF : Word) &&& on.fields 0 r i &&& ~~~(canAlter 0 r i) == 0
      | _ => false) = true) ∧ ((0xE : BitVec 4) ≠ 0xF ∨ (0 : BitVec 16).toNat % 4 ≠ 0) ∧
    ((0xF : BitVec 4) ≠ 0xF ∨ (0xFFFF : BitVec 16).toNat % 4 ≠ 0) := by
  unfold State.Serves; decide +kernel

theorem witness_ReadsAnswerAndActOnWhatTheyRead : on.Serves 0 ∧ on.Serves 31 ∧ Port.pcie ≠ .internal ∧
    on.owns 0 .misc 0 = true ∧ on.physView 0 = true ∧ on.domOn 23 = true ∧ on.domOn 3 = true ∧ on.phys 0 .seq 15 = some 15 ∧
    on.bit 0x880 2 = false ∧ 0 < (on.setLogCount 1).logCount ∧ 0 < (on.setLogCount 4096).logCount ∧
    on.virt 0 .tin 15 = some 15 ∧ on.phys 0 .tin 15 = some 15 ∧ ((on.setTin 15 { fifo := [ent] }).tin 15).fifo = [ent] ∧
    ((on.setVi 31 { q3 := [msg] }).vi 31).queue 3 = [msg] ∧ (on.sem 63).owner = none ∧
    ((on.setSem 63 { owner := some (1, none) }).sem 63).owner = some (1, none) ∧
    (on.setVi 31 { fences := [⟨3, 0, false, [], [], [], .pcie⟩] }).fenceDone 31 = some ⟨3, 0, false, [], [], [], .pcie⟩ := by
  unfold State.Serves; decide +kernel

def tm (s : State) (f : TimeSt → TimeSt) : State := { s with time := f s.time }

theorem witness_TheTimeOfRecordIsKeptAndSet :
    let h (v : Option Time) := tm on fun t => { t with handoff := true, setAtEdge := v }
    let sl (b : Nat) (n : Int) := tm (on.wbit 0x504 b true) fun t => { t with slew := n }
    on.time.fclk = true ∧ on.time.handoff = false ∧
    (let l := (on.wfld 0x1A04 2 0 1).wsyn 0 0 true; l.trimmable = true ∧ l.bit 0x494 3 = false) ∧
    (25000 : Int).natAbs ≤ 25000 ∧ (-25000 : Int).natAbs ≤ 25000 ∧ 25000 < (25001 : Int).natAbs ∧ 25000 < (-25001 : Int).natAbs ∧
    (h none).time.fclk = true ∧ (h none).time.handoff = true ∧ (h none).time.setAtEdge = none ∧ (h (some 33)).time.setAtEdge = some 33 ∧
    on.bit 0x504 2 = false ∧ State.reset.bit 0x504 2 = false ∧ State.reset.time.fclk = false ∧
    (on.wbit 0x504 2 true).bit 0x504 2 = true ∧
    (let z := tm on fun t => { t with setAtEdge := some 32, fclk := false }
     z.time.setAtEdge = some 32 ∧ z.time.fclk = false) ∧
    (∀ b ∈ [2, 3], (sl b 1).bit 0x504 b = true ∧ (sl b 1).time.fclk = true ∧ (sl b 1).time.slew = 1 ∧ (sl b (-1)).time.slew = -1) := by
  decide +kernel

theorem witness_LateActionsAreDroppedOrPutOff :
    let s (t : Time) (d : Bool) := armed on 1 15 { target := t, drop := d, defer := true }
    let ok (x : State) : Prop := ActId.wf (actId 1 15) = true ∧ (x.act (actId 1 15)).armed = true ∧
      (x.act (actId 1 15)).defer = true ∧ x.actReady (actId 1 15) = true
    ok (s 102048 false) ∧ 2048 ≤ lead ((s 102048 false).act (actId 1 15)).target on.now ∧
    ok (s 102047 true) ∧ lead ((s 102047 true).act (actId 1 15)).target on.now < 2048 ∧
      ((s 102047 true).act (actId 1 15)).drop = true ∧
    ok (s 102047 false) ∧ ((s 102047 false).act (actId 1 15)).drop = false := by decide +kernel

theorem witness_AlarmsArmDisarmAndFire :
    let a := actId 1 15
    let s := on.wr64 (almR 15) (almR 15 + 4) 102048
    let u := s.settleAlarm 15
    let ev := (s.wbit (almR 15 + 8) 6 true).settleAlarm 15
    let no := (tm s fun t => { t with handoff := true }).settleAlarm 15
    let f := armed on 1 15 { target := 100000 }
    let p := ((f.wbit (almR 15 + 8) 3 true).wr (0x5C0 + 60) 2048)
    let z := { armed (on.wbit (almR 3 + 8) 4 false) 1 3 { target := 100000 } with time := { on.time with fclk := false } }
    u.actReady a = true ∧ 2048 ≤ lead (u.rd64 (almR 15) (almR 15 + 4)) u.now ∧ no.actReady a = false ∧
    ev.actReady a = true ∧ ev.bit (almR 15 + 8) 6 = true ∧ u.bit (almR 15 + 8) 6 = false ∧
    2048 ≤ lead (102048 + (ev.rd (0x5C0 + 60)).setWidth 64) ev.now ∧
    f.Due a ∧ f.bit (almR 15 + 8) 3 = false ∧ (∀ x < 4, f.bit (synR x) 4 = false) ∧ f.fab.heldP = [] ∧ f.aoAlarm a = false ∧
    p.Due a ∧ p.bit (almR 15 + 8) 3 = true ∧ 2048 ≤ lead ((p.act a).target + (p.rd (0x5C0 + 60)).setWidth 64) p.now ∧
    z.aoAlarm (actId 1 3) = true ∧ z.time.fclk = false ∧ (z.act (actId 1 3)).armed = true ∧
      (z.act (actId 1 3)).defer = false ∧ 0 ≤ lead z.time.keep (z.act (actId 1 3)).target ∧ z.bit (almR 3 + 8) 3 = false ∧
      (∀ e ∈ z.fab.heldP, e.1 ≠ .alm 3) ∧ (∀ x < 4, z.bit (synR x) 4 = false) := by
  unfold State.Due; decide +kernel

theorem witness_EventsAreHeldCountedAndFired :
    let h := { on with fab := { on.fab with heldP := [(.tin 3, 9)], heldC := [(191, src)] } }
    let c := { on.wr 0x908 (1 <<< 2) with fab := { on.fab with inflight := [(2, src)] } }
    h.time.fclk = true ∧ h.fab.heldP.find? (fun x => x.1 == .tin 3) = some (.tin 3, 9) ∧
    Tab.find h.fab.heldC 191 = some src ∧ h.conGated 191 = false ∧
    on.chFires 16 [src] (on.srcsAt 16 3) = true ∧ Tab.get (fun _ => 0) on.fab.quiet 16 ≤ on.time.mono ∧ c.chFires 63 [src] (c.srcsAt 63 3) = true ∧
    on.chPhys 0 63 = some 63 ∧ on.chPhys 31 0 = none := by decide +kernel

theorem witness_FabricSetsCommitAndCountsClear :
    (let n := { on with fab := { on.fab with next := [(0x900, 5), (0xA00, 1)] } }; (n.fab.next.map (·.1)).Nodup) ∧
    ((on.stage 0x800 1).shadows.map (·.1)).Nodup ∧ (Tab.find (on.stage 0x900 1).shadows 0x900).isSome = true ∧ fabShadow 0x900 = true ∧ on.physView 0 = true ∧ on.physView 1 = false ∧ on.chOwner 63 ≠ .vi 1 := by
  decide +kernel

theorem witness_TheLogReleasesSpillsAndClears :
    let e : LogEnt := { stamp := 0, seq := 0, order := 0, byte12 := 0, ch := 0, unit := 0, flags := 0, due := 0, behind := false, prov := false }
    let l := { on with fab := { on.fab with merge := [e] } }
    let s (n : Nat) := ((on.wfld 0x890 12 8 n).wbit 0x880 2 true).setLogCount 1
    l.logReady = [e] ∧ l.logCount < 4096 ∧ (l.setLogCount 4095).logCount < 4096 ∧
    (∀ n ∈ [16, 26], (s n).bit 0x880 2 = true ∧ 0 < (s n).logCount ∧ (s n).fld 0x890 12 8 = n ∧
      ((s n).fld 0x894 25 0 % 2 ^ n + 1) % 2 ^ n ≠ (s n).fld 0x898 25 0 % 2 ^ n) ∧
    (on.wfld 0x890 12 8 16).spillOk = true ∧ on.spillOk = false ∧ (on.wfld 0x890 12 8 27).spillOk = false := by
  decide +kernel
def md (s : State) (f : ModeSt → ModeSt) : State := { s with mode := f s.mode }
def rs (s : State) (f : RstSt → RstSt) : State := { s with rst := f s.rst }
def rd (s : State) (r : Rec) : State := rs s fun x => { x with phase := 3, recs := [r] }
def rec0 (t : Nat) (p : List Byte) : Rec := { idx := 0, ofs := 0, typ := t, flags := 0, pay := p }
def listen : State := md on fun m => { m with eff := .listen }
def quiet (s : State) : State := s.each (List.range 32) fun s v => s.wfldv v 0x400 2 0 1

theorem witness_LocksAndRindGuardTheConfiguration :
    let p := on.stage 0x3D00 1
    p.mayLock 0 .part = true ∧ p.pendingShadow (lockShadows .part) = true ∧
    on.mayLock 0 (.syn 0) = true ∧ on.mayLock 0 (.syn 3) = true ∧ on.mayLock 0 (.elec 7) = true ∧ on.mayLock 0 .rst = true ∧
    on.pendingShadow (lockShadows .rst) = false ∧ (lockField .rst).isSome = true ∧ (lockField (.elec 7)).isSome = true ∧
    on.mayLock 0 .trg = true ∧ on.pendingShadow (lockShadows .trg) = false ∧
    (∀ r ∈ [({ armed := true, ref := 1 } : RindSt), {}], let z := { (on.wbit 0x714 0 true).setRg 31 r with walk := { on := true, done := true, cur := 31, acc := 0 } }
      z.rindOn = true ∧ z.walkEnds 31 false = true ∧ z.walkCrc = 0xFFFFFFFF ∧ z.rg 31 = r) ∧
    (let z := { on.setRg 32 { wait := true } with walk := { on := true, done := true, out := true, cur := 32 } }
     (z.rg 32).wait = true ∧ z.walkEnds 32 true = true) ∧
    ({ armed := true, ref := 1 } : RindSt).armed = true ∧ (0xFFFFFFFF : Word) ≠ ({ armed := true, ref := 1 } : RindSt).ref := by
  decide +kernel

theorem witness_ModesAreRequestedAndScheduled :
    let a := actId 1 15
    let pr := armed on 1 15 { target := 100000 }
    let tm := on.wrv 31 0x434 102048
    on.rst.coreBusy = false ∧ (rs on fun r => { r with coreBusy := true }).rst.coreBusy = true ∧
    on.inService = false ∧ (md on fun m => { m with eff := .service }).inService = true ∧ (4 : BitVec 3) = 4 ∧ (1 : Fin 32) ≠ 0 ∧
    4 < (5 : BitVec 3).toNat ∧ 4 < (7 : BitVec 3).toNat ∧
    (∀ m ∈ [0, 4, 7], (on.wfldv 31 0x43C 2 0 m).fldv 31 0x43C 2 0 = m) ∧
    (∀ m ∈ [1, 3], (tm.wfldv 31 0x43C 2 0 m).fldv 31 0x43C 2 0 = m ∧ (tm.wfldv 31 0x43C 2 0 m).actReady (actId 8 31) = true ∧
      2048 ≤ lead (cat64 ((tm.wfldv 31 0x43C 2 0 m).rdv 31 0x438) ((tm.wfldv 31 0x43C 2 0 m).rdv 31 0x434)) on.now) ∧
    (armed on 8 31 { target := 100000, data := 3 }).Due (actId 8 31) ∧
    a.wf = true ∧ pr.primes (a.kind.val * 512 + a.inst.val) (pr.act a) = true ∧ (pr.act a).primed = false ∧
      pr.wakePoint (pr.act a).target ≤ pr.time.mono ∧
    (∀ k ∈ [3, 5, 6], let s := armed on k 7 { target := 100256 }
      (actId k 7).wf = true ∧ (s.act (actId k 7)).raised = false ∧ lead (s.act (actId k 7)).target s.now ≤ 256) ∧
    listen.rst.coreBusy = false ∧ on.rst.phase = 5 ∧ on.mode.trans = .none ∧ on.mode.eff = .primed ∧ on.wantedMode = 1 ∧ on.mayDescend = true ∧
    (on.wfldv 31 0x400 2 0 3).wantedMode = 3 ∧ on.mode.runAt ≤ on.time.mono ∧
    (md on fun m => { m with eff := .run }).wantedMode < 3 := by unfold State.Due; decide +kernel

theorem witness_ServiceIsEnteredAndLeft :
    on.rst.coreBusy = false ∧ (md on fun m => { m with eff := .safe }).mode.eff = .safe ∧ on.mode.eff ≠ .safe ∧
    (on.setSeqState 15 1).anyRunning = true ∧ on.anyRunning = false ∧
    (armed on 6 127 {}).timedPlayback = true ∧ (armed on 6 127 {}).anyRunning = false ∧ on.timedPlayback = false ∧
    on.mode.trans = .none ∧ (md on fun m => { m with trans := .toService }).mode.trans = .toService ∧
    (md on fun m => { m with trans := .leaveService }).serviceBusy = false := by decide +kernel

theorem witness_SafeHaltsEverythingUntilItsCausesClear :
    let f := md on fun m => { m with eff := .safe }
    on.rst.phase = 5 ∧ on.mode.trans = .none ∧ on.awake = true ∧ on.mode.eff ≠ .safe ∧ on.bit 0x414 0 = true ∧
    on.bit 0x414 1 = true ∧ (on.wbit 0x414 0 false).bit 0x414 0 = false ∧ (on.wbit 0x414 1 false).bit 0x414 1 = false ∧
    (rs on fun r => { r with coreBusy := true }).rst.coreBusy = true ∧ f.rst.coreBusy = false ∧
    on.time.fclk = true ∧ f.mode.eff = .safe ∧ f.fld 0x418 4 0 = 0 ∧ (f.wbit 0x418 4 true).fld 0x418 4 0 ≠ 0 := by
  decide +kernel

theorem witness_TheDeviceSleepsAndWakes :
    let q := quiet on
    let w := (md on fun m => { m with trans := .waking }).wsyn 0 0 true
    let x := md w fun m => { m with trans := .shelfExit, svc := true }
    listen.mode.eff = .listen ∧ listen.mode.trans = .none ∧ listen.rst.coreBusy = false ∧ listen.wakeAllowed .sched = true ∧
    (listen.wbit 0x42C 3 true).wakeAllowed (.tin 3) = true ∧ (md listen fun m => { m with doms := [(24, 6)] }).dom 24 = 6 ∧
    (listen.wbit 0x42C 9 true).bit 0x42C 9 = true ∧ listen.bit 0x42C 10 = true ∧
    (listen.wbit 0x42C 10 false).bit 0x42C 10 = false ∧
    (∀ t ∈ [Trans.descent true, .descent false, .toShelf, .shelfExit], (md on fun m => { m with trans := t }).mode.trans = t) ∧
    w.mode.trans = .waking ∧ w.synBit 0 0 = true ∧ w.time.fclk = true ∧ w.mem.training = false ∧ w.wakeDone = true ∧
    x.synBit 0 0 = true ∧ x.time.fclk = true ∧ x.wakeDone = true ∧ x.mode.svc = true ∧ x.safeConds = [] ∧ x.latchedOn = false ∧
    w.mode.svc = false ∧ (∀ c ∈ w.safeConds, w.bit 0x414 c = false ∨ w.bit 0x418 c = true) ∧
    w.latchedOn = false ∧ (md w fun m => { m with latched := 16 }).latchedOn = true ∧
    q.rst.coreBusy = false ∧ q.shelfWhy = none ∧ q.mode.eff = .primed ∧ (quiet listen).shelfWhy = none ∧
    (md on fun m => { m with eff := .safe }).shelfWhy = some 8 ∧ (on.wfldv 31 0x400 2 0 2).shelfWhy = some 3 := by
  decide +kernel

theorem witness_DomainsGateAndPowerUp :
    let d (n c u : Nat) : State := md on fun m => { m with doms := [(n, c)], unwanted := [(n, u)] }
    (d 21 2 1000001).dom 21 = 2 ∧ 0 < (d 21 2 1000001).unwanted 21 ∧
      (d 21 2 1000001).unwanted 21 ≤ (d 21 2 1000001).time.mono + 1 ∧ (d 21 2 1000001).wants 21 = false ∧
    (∀ c ∈ [1, 3, 4, 5], (d 28 c 0).dom 28 = c) := by decide +kernel

theorem witness_ResetSourcesAskForTheirLevel :
    let p (n : Nat) := rs on fun r => { r with phase := n }
    let l (t : Nat) := rs on fun r => { r with lastWdt := some t }
    on.rst.req = none ∧ on.resetLevel = none ∧ (on.rst.lastWdt.any fun w => decide (on.time.keep.toNat - w ≤ 25600000000)) = false ∧
    ((l 0).rst.lastWdt.any fun w => decide (on.time.keep.toNat - w ≤ 25600000000)) = true ∧ (2 : BitVec 2) ≠ 3 ∧
    (p 0).rst.phase = 0 ∧ (p 0).rst.req = none ∧ (p 0).rst.holdLow = false ∧ (p 0).rst.holdHot = false ∧ (p 1).rst.phase = 1 ∧
    (on.wbit 0x494 3 true).bit 0x494 3 = true := by decide +kernel

theorem witness_ResetsTakeEffect :
    let q (l : Nat) : ResetReq := { src := 255, level := l, time := 0, promoted := false, at_ := 0, due := 1000000, restart := false }
    let s (l : Nat) := rs on fun r => { r with req := some (q l) }
    on.resetLevel ≠ some 0 ∧ (∀ l < 4, (s l).rst.req = some (q l) ∧ (q l).due ≤ (s l).time.mono ∧ (q l).src < 256) ∧
    (rs on fun r => { r with coreBusy := true }).rst.coreBusy = true := by decide +kernel

theorem witness_TheStarterBeginsSteersAndEnds :
    let p (n : Nat) := rs on fun r => { r with phase := n }
    let w (k : Byte) := rec0 7 [k, 1, 0, 0, 0, 0, 0, 0]
    let s3 := rs on fun r => { r with phase := 3, lockWait := true, ready := true }
    (p 2).rst.phase = 2 ∧ (rs (p 2) fun r => { r with bare := true }).rst.bare = true ∧
    (∀ t ∈ [7, 8, 9, 15], (rd on (rec0 t [])).record t = some (rec0 t [])) ∧
    (rs on fun r => { r with waiting := some (w 0) }).waitMet (w 0) = true ∧ on.waitMet (w 1) = false ∧ on.rst.waitEnd ≤ on.time.mono ∧
    (rs on fun r => { r with waiting := some (w 1) }).rst.waiting = some (w 1) ∧
    ({ on with mem := { on.mem with training := true } } : State).mem.training = true ∧
    s3.rst.phase = 3 ∧ s3.rst.lockWait = true ∧ s3.rst.waitEnd ≤ s3.time.mono ∧ s3.rst.ready = true ∧ (p 4).rst.phase = 4 ∧
    (p 4).latchedOn = false ∧ (md (p 4) fun m => { m with latched := 8 }).latchedOn = true := by decide +kernel

theorem witness_RecordsWriteAndSegmentsLoad :
    let r1 := rec0 1 [0x34, 0x04, 0, 0, 7, 0, 0, 0]
    let r1b := rec0 1 [0, 0, 0, 0, 7, 0, 0, 0]
    let r2 := rec0 2 [0x34, 0x04, 0, 0, 1, 0, 0, 0, 4, 0, 0, 0, 7, 0, 0, 0]
    let b := rec0 6 [0, 1]
    let seg := rec0 3 (List.replicate 16 0 ++ [0, 0, 0, 0])
    let c := rs on fun r => { r with segCur := some seg }
    let x := (rd on r1).starterWrites (rec0 4 [0, 0x3D, 0, 0, 0x80, 0, 0, 0]).pairs
    (rd on r1).record 1 = some r1 ∧ ((rd on r1).starterWrites r1.pairs).2 = true ∧
    ((rd on r1b).starterWrites r1b.pairs).2 = false ∧
    (rd on r2).record 2 = some r2 ∧ ((rd on r2).starterWrites r2.fills).2 = true ∧
    (rd on b).record 6 = some b ∧ payNat b.pay 1 1 < 4 ∧ (rd on b).bindOk 0 0 1 = true ∧ (rd on b).bit 0x3C00 16 = false ∧
    (∀ t ∈ [3, 4, 5], (rd on (rec0 t [])).record t = some (rec0 t [])) ∧
    x.2 = true ∧ x.1.partWhy = none ∧ (x.1.shadows.map (·.1)).Nodup ∧ (x.1.shadows.map (·.1)) = [0x3D00] ∧
    c.rst.segCur = some seg ∧ crc32c (c.segData c.rst.base seg) = payNat seg.pay 16 4 ∧
    crc32c (c.segData c.rst.base (rec0 3 (List.replicate 16 0 ++ [1, 0, 0, 0]))) ≠ 1 := by decide +kernel

theorem witness_SynthesizersTakeSettingsAndGlide :
    let p (x : Nat) (src : Nat) := (on.stage (synR x + 4) (BitVec.ofNat 32 src))
    let a := on.setSy 0 { relock := true, applyAt := 0 }
    let late := { a with time := { a.time with mono := ms 10 } }
    on.pendingStaged (synShadow 3) = false ∧ (p 3 1).pendingStaged (synShadow 3) = true ∧ synSrcOk 3 1 = true ∧
    (p 3 1).staged (synR 3 + 4) = some 1 ∧ (p 3 1).bit (synR 3) 0 = false ∧ ((p 3 1).wbit (synR 3) 0 true).bit (synR 3) 0 = true ∧
    (p 3 2).pendingStaged (synShadow 3) = true ∧ (p 3 2).staged (synR 3 + 4) = some 2 ∧ synSrcOk 3 2 = false ∧
    (p 0 0).pendingStaged (synShadow 0) = true ∧ (p 0 0).mode.eff ≠ .service ∧
    (let z := md (p 0 0) fun m => { m with eff := .service }
     z.pendingStaged (synShadow 0) = true ∧ synSrcOk 0 0 = true ∧ z.mode.eff = .service ∧ z.mode.trans ≠ .leaveService) ∧
    late.synBit 0 0 = false ∧ (late.sy 0).relock = true ∧ (late.sy 0).restoring = false ∧
      (late.sy 0).applyAt + ms 10 ≤ late.time.mono ∧
    on.bit (synR 3) 0 = false ∧ (on.wbit (synR 3) 0 true).bit (synR 3) 0 = true ∧ (on.wbit 0x1B08 0 true).bit 0x1B08 0 = true ∧
    2000000 < ((2000001 : BitVec 24).toInt - on.effOfs 3).natAbs ∧ ((2000000 : BitVec 24).toInt - on.effOfs 3).natAbs ≤ 2000000 ∧
    ((0xE17B80 : BitVec 24).toInt - on.effOfs 3).natAbs ≤ 2000000 ∧ (on.wsyn 3 1 true).synBit 3 1 = true ∧
    (on.wsyn 3 1 false).synBit 3 1 = false ∧ (on.wsyn 3 2 true).synBit 3 2 = true ∧
    on.effOfs 3 = sext 24 (on.fld (synR 3 + 0x10) 23 0) := by decide +kernel

theorem witness_LockIsDeclaredAndLost :
    let a := on.setSy 0 { running := true, acquiring := true, windows := 255, retained := true }
    let l := (on.setSy 3 { running := true }).wsyn 3 0 true
    let n (s : State) (x : Nat) := 2 ^ s.fld (synR x + 0xC) 4 0 * s.synRatio x / (2 ^ 24 * 1000000000)
    (a.sy 0).running = true ∧ (a.sy 0).acquiring = true ∧ a.within 0 (n a 0) (a.lockTol 0) = true ∧
    a.fld (synR 0 + 0xC) 11 8 ≤ (a.sy 0).windows + 1 ∧ a.within 0 0 (a.lockTol 0) = false ∧
    (l.sy 3).acquiring = false ∧ l.synBit 3 0 = true ∧ l.synBit 3 4 = false ∧
    (l.sy 3).running = true ∧ l.within 3 (n l 3) (max (l.fld (synR 3 + 0xC) 31 24) (l.lockTol 3)) = true ∧
    l.within 3 0 (max (l.fld (synR 3 + 0xC) 31 24) (l.lockTol 3)) = false ∧
    (a.sy 0).retained = true ∧ (0 : Int).natAbs ≤ a.lockTol 0 ∧ a.coreOk 0 = true ∧ (a.wr (synR 0 + 8) 0).coreOk 0 = false ∧
    (a.sy 0).ranged = false ∧
    (md on fun m => { m with trans := .waking }).mode.trans = .waking ∧ on.synBit 0 0 = false := by decide +kernel

theorem witness_EnginesScansAndTheApertureReachTheStores :
    let good := (on.wr (ldeR 3 + 16) 32)
    let busy := on.setLde 3 { busy := true, len := 32 }
    let loc (n : Nat) := on.setLde 3 { busy := true, len := 32, next := n }
    (∀ n ∈ [0, 1000128], ((loc n).lde 3).busy = true ∧
      ((loc n).lde 3).local_ = true ∧ ((loc n).lde 3).done = 0 ∧
      (((loc n).lde 3).next = (loc n).time.mono + ((loc n).lde 3).blockTu ↔ n ≠ 0)) ∧
    (let h := on.setLde 3 { busy := true, len := 32, ctrl := 2 }; (h.lde 3).local_ = false ∧ 32 ≤ (h.lde 3).len) ∧ (busy.lde 3).nvmQ = [] ∧ (good.lde 3).stopAt ≠ some good.time.mono ∧
    (good.lde 3).busy = false ∧ on.ldeCheck 3 ≠ 0 ∧ good.ldeCheck 3 = 0 ∧
    (busy.lde 3).busy = true ∧ 32 ≤ (busy.lde 3).len ∧ (busy.lde 3).suspended = false ∧ busy.ldeNoBus 3 = false ∧
    1 ≤ (1 : BitVec 17).toNat ∧ (65536 : BitVec 17).toNat ≤ 65536 ∧ on.bitv 31 0x1888 0 = false ∧
    Tab.get (fun _ => none) [(31, some (0, 1))] 31 = some (0, 1) ∧ on.scanOf 15 = .idle ∧
    (on.setScan 15 .precheck).scanOf 15 = .precheck ∧
    on.starting = false ∧ on.time.fclk = true ∧ on.firstBad 0 true 0 8 = none ∧ (on.wfld 0x3C10 1 0 1).pcieBad 0 1 = false ∧ (∀ a ∈ on.mem.heldAper, a.vi ≠ 0) ∧
    (on.aper 0 0).1 = true ∧ on.inView 0 true 0 = true ∧ on.inView 0 true 0xFFFFFFFF = true ∧
    ((on.wbitv 0 0x18A0 0 true).aper 0 0).1 = false ∧ on.scanHolds 0 0 4 = false ∧ on.inView 0 false 0x1FFFFFF = true ∧
    on.vatAddr 0 0 = some 0 ∧ on.awake = true := by decide +kernel
/-- Sequencer 15 runs, binds every channel and bank, and is to commit step `w` of its table of six for boundary 4; directory
entry 0 holds `d`, VALID. -/
def stepping (w : BitVec 128) (d : List Byte) : State :=
  let s := (((on.setSeqState 15 2).wfld (seqR 15 + 0x14) 17 0 5).wfld (seqR 15 + 0xC) 15 0 0xFFFF).setSq 15 { target := some 4 }
  ((s.putBytes true 0 (natBytes 16 w.toNat)).putBytes true 0x400000 d).setDirState 0x400000 1
def op (n : Nat) (l : List (Nat × Nat)) : BitVec 128 :=
  BitVec.ofNat 128 (n * 2 ^ 120 + (l.map fun e => e.2 * 2 ^ e.1).sum)
def commitsB (s : State) (k op b : Nat) (w : BitVec 128) : Bool :=
  s.seqOn k && decide ((s.sq k).target = some b) && decide ((s.sq k).stopStep = 0) &&
    decide (s.stepWord (s.ownerVi .seq k) (s.sq k).pc = w) && decide (opOf w = op) && decide (s.mem.errs = [])
/-- A PARAM list of FA elements, and a segment of 64 samples with loop points. -/
def paramDesc : List Byte := [0x24, 0, 0, 0, 0, 0, 0, 6, 2, 0, 0, 0]
def sampleDesc : List Byte := [0x01, 0, 0, 0, 0, 0, 0, 6, 64, 0, 0, 0, 0, 0, 0, 0, 64, 0, 0, 0]
theorem commits_of {s : State} {k op b : Nat} {w : BitVec 128} (h : commitsB s k op b w = true) : s.Commits k op b w := by
  simp only [commitsB, Bool.and_eq_true, decide_eq_true_eq] at h
  obtain ⟨⟨⟨⟨⟨h1, h2⟩, h3⟩, h4⟩, h5⟩, h6⟩ := h
  exact ⟨h1, h2, .inl h3, h4, h5, fun p _ => by simp [State.badStep, State.errsIn, h6]⟩

theorem witness_AScanFindsADescriptorBad :
    let s := ((stepping (op 1 [(112, 7)]) paramDesc).setDirState 0x400000 2).setScan 15 .precheck
    s.scanOf 15 = .precheck ∧ (s.scan 15).2.1 = false ∧ (on.scan 15).2.1 = true := by decide +kernel

theorem witness_StepsThatSteerCommit :
    let s (w : BitVec 128) := stepping w []
    let b (src sel neg : Nat) := op 6 [(116, src), (115, neg), (104, sel), (64, 5)]
    let lp (w : BitVec 128) := ((s w).wbit (loopR 15 3 + 4) 31 true).wfld (loopR 15 3 + 4) 17 0 5
    let st (w : BitVec 128) (l : List Nat) := (s w).setSq 15 { target := some 4, stack := l }
    let c (m : Nat) := op 0x11 [(116, m), (112, 3)]
    (∀ x ∈ [(0, 0, 0), (0, 0, 1), (1, 3, 0), (2, 7, 0), (3, 7, 1), (4, 3, 0), (5, 3, 0), (6, 3, 0)],
      let w := b x.1 x.2.1 x.2.2
      commitsB (s w) 15 6 4 w = true ∧ bf w 119 116 < 7 ∧ bf w 111 108 < 6 ∧ ((s w).fetched 15 w).inTable 15 (bf w 81 64) = true ∧
      resBad w ([(119, 116), (115, 115), (107, 104), (81, 64)] ++
        (if bf w 119 116 = 1 ∨ bf w 119 116 = 2 then [(114, 114)] else []) ++
        if bf w 119 116 = 3 ∨ bf w 119 116 = 4 then [(111, 108), (31, 0)] else []) = false ∧
      bf w 107 104 < (if bf w 119 116 = 0 then 1 else if bf w 119 116 = 2 ∨ bf w 119 116 = 3 then 8 else 4) ∧
      ((s w).fetched 15 w).inTable 15 1 = true ∧ (((s w).fetched 15 w).own 0 .pb 7).isSome = true ∧
      (((s w).fetched 15 w).own 0 .acmp 3).isSome = true) ∧
    (let w := op 7 [(118, 3)]; commitsB (s w) 15 7 4 w = true ∧ resBad w [(119, 118), (31, 0)] = false ∧
      ((s w).fetched 15 w).inTable 15 1 = true) ∧
    (let w := op 8 [(118, 3)]; commitsB (lp w) 15 8 4 w = true ∧ resBad w [(119, 118)] = false ∧
      ((lp w).fetched 15 w).bit (loopR 15 3 + 4) 31 = true ∧ ((lp w).fetched 15 w).inTable 15 5 = true) ∧
    (let w := op 9 [(64, 5)]; commitsB (st w (List.replicate 7 1)) 15 9 4 w = true ∧ resBad w [(81, 64)] = false ∧
      ((st w (List.replicate 7 1)).fetched 15 w).inTable 15 5 = true ∧ ((st w (List.replicate 7 1)).sq 15).stack.length < 8 ∧
      commitsB (st w (List.replicate 8 1)) 15 9 4 w = true ∧ 8 ≤ ((st w (List.replicate 8 1)).sq 15).stack.length) ∧
    (let w := op 0xA []; resBad w [] = false ∧ ∀ l ∈ [[5], [6], []], commitsB (st w l) 15 0xA 4 w = true ∧
      ((st w l).sq 15).stack = l ∧ ((st w l).fetched 15 w).inTable 15 5 = true ∧
      ((st w l).fetched 15 w).inTable 15 6 = false) ∧
    (∀ m ≤ 2, commitsB (s (c m)) 15 0x11 4 (c m) = true ∧ resBad (c m) [(119, 116), (113, 112), (31, 0)] = false) ∧
    (∀ m ∈ [3, 4], commitsB (s (c m)) 15 0x11 4 (c m) = true ∧
      resBad (c m) [(119, 116), (113, 112), (109, 104)] = false ∧ ((s (c m)).fetched 15 (c m)).own 0 .pb 0 = some 0 ∧
      bf (c m) 109 104 < 8 ∧ ((s (c m)).fetched 15 (c m)).inTable 15 1 = true ∧
      ((s (c m)).fetched 15 (c m)).chOwn 0 0 = some 0) := by decide +kernel

theorem witness_StepsThatSetOutputsCommit :
    let s (w : BitVec 128) := stepping w paramDesc
    let f (w : BitVec 128) := (s w).fetched 15 w
    (∀ n ∈ [0, 1], let w := op 0xB [(118, 2 - 2 * n), (116, n), (112, 7), (64, n)]; commitsB (s w) 15 0xB 4 w = true ∧
      bf w 119 118 ≠ 3 ∧ (tb w 116 = true → bf w 95 64 ≠ 0) ∧ (f w).inTable 15 1 = true ∧ (f w).boundAout 0 15 7 = some 7 ∧
      resBad w ([(119, 118), (116, 116), (114, 112), (111, 64)] ++
        if bf w 119 118 = 2 then [(117, 117), (63, 0)] else []) = false ∧
      (((f w).validDesc 0 0).any fun d => d.typ == 4 && d.fmt != 1 && d.fmt != 0) = true) ∧
    (let w := op 0xC [(112, 7)]; commitsB (s w) 15 0xC 4 w = true ∧ resBad w [(116, 116), (114, 112), (15, 0)] = false ∧
      (f w).boundAout 0 15 7 = some 7) ∧
    (∀ n ∈ [0, 1], let w := op 0xD [(116, n), (112, 7), (0, n)]; commitsB (s w) 15 0xD 4 w = true ∧
      resBad w ([(116, 116), (114, 112), (63, 32)] ++ if tb w 116 then [(111, 96), (31, 0)] else [(79, 64)]) = false ∧
      (f w).boundAout 0 15 7 = some 7 ∧ (tb w 116 = true → bf w 31 0 ≠ 0)) ∧
    (let w := op 0xE [(116, 15), (112, 15), (111, 1), (0, 1)]; commitsB (s w) 15 0xE 4 w = true ∧
      resBad w ([(119, 116), (115, 112), (111, 111)] ++ if tb w 111 then [(31, 0)] else []) = false ∧
      bf w 115 112 &&& (15 - bf w 119 116) = 0 ∧ (tb w 111 = true → bf w 31 0 ≠ 0)) := by
  decide +kernel

theorem witness_StepsThatSetOutputsCommit_rest :
    let s (w : BitVec 128) := stepping w paramDesc
    let f (w : BitVec 128) := (s w).fetched 15 w
    let full (w : BitVec 128) := (s w).setLk 0 { q := List.replicate 8 { fb := 0, slot := none } }
    (let w := op 0x10 [(116, 3), (104, 31)]; commitsB (s w) 15 0x10 4 w = true ∧ bf w 119 118 = 0 ∧
      resBad w [(119, 118), (117, 116), (108, 104), (63, 0)] = false) ∧
    (let w := op 0x10 [(118, 1), (96, 63)]; commitsB (s w) 15 0x10 4 w = true ∧ bf w 119 118 = 1 ∧
      resBad w [(119, 118), (101, 96)] = false ∧ (f w).chOwn 0 63 = some 63) ∧
    (let w := op 0x13 [(112, 4), (104, 15), (100, 2)]; commitsB (s w) 15 0x13 4 w = true ∧
      resBad w [(114, 112), (107, 104), (101, 100)] = false ∧ bf w 114 112 + 2 ^ bf w 101 100 ≤ 8 ∧
      (f w).boundBanks 0 15 4 4 = some [4, 5, 6, 7]) ∧
    (let w := op 0x12 [(64, 63)]; commitsB (s w) 15 0x12 4 w = true ∧ commitsB (full w) 15 0x12 4 w = true ∧
      ((s w).sq 15).cur = .idle ∧ bf w 119 118 ≠ 3 ∧
      resBad w ([(119, 118), (116, 116), (115, 115), (69, 64)] ++ if tb w 116 then [(117, 117), (63, 0)] else []) = false ∧
      (f w).owns 0 .misc 0 = true ∧ tb w 115 = false ∧ (f w).flipFull 0 = false ∧
      ((full w).fetched 15 w).flipFull 0 = true) := by decide +kernel

theorem witness_StepsThatPlayOrHoldCommit :
    let s (w : BitVec 128) := stepping w sampleDesc
    let f (w : BitVec 128) := (s w).fetched 15 w
    (∀ r ∈ [0, 1], let w := op 1 [(112, 7), (64, r)]; commitsB (s w) 15 1 4 w = true ∧ (f w).inTable 15 1 = true ∧
      ((f w).validDesc 0 0).isSome = true ∧ resBad w [(119, 119), (114, 112), (111, 96), (95, 64)] = false ∧
      (∀ c ∈ (f w).playBad 0 15 w true, c.1 = false)) ∧
    (let w := op 2 [(112, 7), (64, 1), (63, 1), (60, 3)]; commitsB (s w) 15 2 4 w = true ∧
      resBad w ([(119, 119), (114, 112), (111, 96), (95, 64), (63, 63)] ++ if tb w 63 then [(61, 60)] else []) = false ∧
      (f w).inTable 15 1 = true ∧ (((f w).validDesc 0 0).any fun d => d.ls != 0 || d.le != 0) = true ∧ (∀ c ∈ (f w).playBad 0 15 w false, c.1 = false)) ∧
    (let w := op 3 [(0, 1)]; commitsB (s w) 15 3 4 w = true ∧ resBad w [(31, 0)] = false ∧ bf w 31 0 ≠ 0) ∧
    (∀ t ∈ [0, 1], let w := op 4 [(118, 3), (117, 1), (64, 5 * t), (0, t)]; commitsB (s w) 15 4 4 w = true ∧
      resBad w ([(119, 118), (117, 117), (31, 0)] ++ if bf w 31 0 = 0 then [] else [(81, 64)]) = false ∧
      (bf w 31 0 ≠ 0 → (f w).inTable 15 (bf w 81 64) = true)) ∧
    (let w := op 5 [(0, 102048)]; commitsB (s w) 15 5 4 w = true ∧ tb w 119 = false ∧
      resBad w ([(119, 119), (63, 0)] ++ if tb w 119 then [(81, 64)] else []) = false) ∧
    (∀ t ∈ [102047, 102048], let w := op 5 [(119, 1), (64, 5), (0, t)]; commitsB (s w) 15 5 4 w = true ∧
      resBad w ([(119, 119), (63, 0)] ++ if tb w 119 then [(81, 64)] else []) = false ∧
      (f w).inTable 15 (bf w 81 64) = true ∧ (s w).actReady (actId 2 15) = true ∧
      (lead (BitVec.ofNat 64 (bf w 63 0)) (s w).now < 2048 ↔ t = 102047)) ∧
    (let w := op 0xF [(116, 15), (96, 0x8001)]; commitsB (s w) 15 0xF 4 w = true ∧
      resBad w ([(119, 116), (111, 96), (31, 0)] ++ if bf w 31 0 = 0 then [] else [(81, 64)]) = false ∧
      (f w).virt 0 .seq 15 = some 15 ∧ (bf w 111 96).testBit 15 = true ∧
      (∀ i < 16, (bf w 111 96).testBit i = true → ((f w).own 0 .seq i).isSome = true)) ∧
    (let w := op 0x1F []; commitsB (s w) 15 0x1F 4 w = true ∧ resBad w [] = false) ∧
    (commitsB (s 0) 15 0 4 0 = true ∧ opcodes.contains 0 = false) ∧
    (let w := op 0x14 []; commitsB (s w) 15 0x14 4 w = true ∧ opcodes.contains 0x14 = false) := by decide +kernel

theorem witness_HoldsPassesAndPulsesEnd :
    let s (x : SeqSt) := (on.setSeqState 15 3).setSq 15 x
    let e (x : SeqSt) := (s x).wbit (seqR 15 + 0x44) 3 true
    let tm := armed (s { plan := .waitTime 5 }) 2 15 {}
    let sy := s { cur := .sync 15 0x8000 5 1, arrived := some 7 }
    let s2 := s { cur := .sync 15 0x8001 5 1, arrived := some 7 }
    let p := s { pulses := [(3, 9, true)] }
    let ph := (armed ((on.wfld (seqR 15 + 0xC) 15 0 0x80).setSeqState 15 2) 4 7 { target := 100000 }).setAo 7 { phaseRef := some (3, 1) }
    ((s { plan := .hold 1 }).sq 15).plan = .hold 1 ∧ ((s { plan := .hold 1 }).sq 15).target = none ∧
    ((e { plan := .waitEvent 3 5 1 }).sq 15).plan = .waitEvent 3 5 1 ∧ (e { plan := .waitEvent 3 5 1 }).ef 15 3 = true ∧
    (tm.sq 15).plan = .waitTime 5 ∧ (tm.act (actId 2 15)).armed = true ∧ (tm.act (actId 2 15)).defer = false ∧
    (sy.sq 15).arrived = some 7 ∧ sy.barrier 15 = some [15] ∧ s2.barrier 15 = none ∧ (s2.sq 15).target = none ∧
    ((e { plan := .loop false 7 0 0 (some 3) 1 1 1 0 }).sq 15).plan = .loop false 7 0 0 (some 3) 1 1 1 0 ∧
    (e { plan := .loop false 7 0 0 (some 3) 1 1 1 0 }).ef 15 3 = true ∧
    (∀ m < 2, ((s { plan := .loop false 7 0 2 (some 3) 1 1 1 m }).sq 15).plan = .loop false 7 0 2 (some 3) 1 1 1 m) ∧
    (s { plan := .loop false 7 0 2 (some 3) 1 1 1 0 }).ef 15 3 = false ∧ (s { plan := .waitEvent 3 5 1 }).ef 15 3 = false ∧
    (p.sq 15).pulses.find? (fun p => p.1 == 3) = some (3, 9, true) ∧
    ph.aoutSeq 7 = some 15 ∧ (ph.act (actId 4 7)).armed = true ∧ (ph.act (actId 4 7)).defer = false ∧
    (ph.phaseAt 7 15).any (fun j => decide ((ph.sq 15).at_ j < ph.time.mono + ph.cycleTu)) = true ∧ (ph.sq 15).queue = [] := by decide +kernel

theorem witness_StartsAreRefusedOrAdmitted :
    let e := (on.wbit (seqR 15) 0 true).wbit (0x1840 + 60) 16 true
    let n := (e.setScan 15 .entering).wbit (0x1840 + 60) 16 true
    let x := (e.wbit (seqR 15) 4 true).wfld (seqR 15) 6 5 3
    let safe := md on fun m => { m with eff := .safe }
    let g := armed e 3 15 { target := 100000 }
    on.startWhy 15 false = some 1 ∧ e.startWhy 15 false = none ∧ e.scanOf 15 = .idle ∧ e.bit (0x1840 + 60) 16 = true ∧
    on.bit (0x1840 + 60) 16 = false ∧ x.bit (seqR 15) 4 = true ∧ x.seqOn 15 = false ∧ x.fld (seqR 15) 6 5 = 3 ∧
    n.scanOf 15 = .entering ∧ n.admitWaits 15 = false ∧ n.startWhy 15 true = none ∧ n.fld 0x1824 15 0 + n.fld (0x1840 + 60) 15 0 ≤ n.fld 0x1820 15 0 ∧
    safe.noStart = true ∧ on.noStart = false ∧ on.actReady (actId 3 15) = true ∧
    2048 ≤ lead ((on.wr64 (seqR 15 + 0x1C) (seqR 15 + 0x20) 102048).rd64 (seqR 15 + 0x1C) (seqR 15 + 0x20)) on.now ∧
    g.stageDue 15 = true ∧ g.startWhy 15 true = none ∧ g.bit (0x1840 + 60) 16 = true ∧
    g.fld 0x1824 15 0 + g.fld (0x1840 + 60) 15 0 ≤ g.fld 0x1820 15 0 ∧ (armed on 3 15 { target := 100000 }).stageDue 15 = true ∧
    (armed on 3 15 { target := 100000 }).startWhy 15 true = some 1 := by decide +kernel

theorem witness_SequencersStepStopAndHalt :
    let s (x : SeqSt) := (on.setSeqState 15 2).setSq 15 x
    ((s { queue := [(4, 0, [], .hold 1)] }).sq 15).queue = [(4, 0, [], .hold 1)] ∧ (Cur.hold 1).holds = true ∧
    ((s { queue := [(4, 0, [], .halting 15)] }).sq 15).queue = [(4, 0, [], .halting 15)] ∧
    (s {}).seqOn 15 = true ∧ ((s {}).sq 15).halt = none ∧ ((s {}).sq 15).plan.holds = false ∧
    ((s { plan := .hold 1 }).sq 15).plan.holds = true ∧ ((s {}).wbit (seqR 15) 8 true).bit (seqR 15) 8 = true ∧
    on.seqOn 15 = false ∧ ((s {}).wfld (seqR 15) 10 9 2).fld (seqR 15) 10 9 ≠ 3 ∧ (s {}).bit (seqR 15) 8 = false ∧
    (s { halt := some (4, 3) }).haltDue 15 = some (4, 3) ∧ (s { halt := some (4, 3) }).seqOn 15 = true := by decide +kernel

theorem witness_UnderrunsSlipOrDrop :
    (let s := (on.setSeqState 15 2).setSq 15 { loose := true }
     2 ≤ s.seqState 15 ∧ (s.sq 15).underrun = none ∧ (s.sq 15).loose = true ∧ s.time.fclk = true) ∧
    ((on.setSq 15 { underrun := some 9 }).sq 15).underrun.isSome = true := by decide +kernel
/-- `s` with sequencer 15 running and bound to analog output 7 and bank 7. -/
def bound7 : State := ((on.wfld (seqR 15 + 0xC) 15 0 0x8080).setSeqState 15 2)
def ring0 : RingEnt := { stamp := 5, vec := 0, a := 1, b := 0, bank := 7, flags := 1, due := 5, prov := false }
/-- Display lines of 32 TU from now; link 1 runs, one line a frame's worth of each. -/
def lines (j : Nat) (x : LinkSt) : State :=
  { (((on.wsyn 3 1 false).wfld 0x2C14 23 16 1).wfld 0x2C14 12 0 4).wr 0x2C18 0x00020001 with
    disp := { tl := { base := 0, anchor := 1000000 - 32 * j, num := 32, den := 1 }, l0 := x, l1 := x } }

theorem witness_AnalogChannelsTakeModesParksAndTables :
    let d (b : Byte) := stepping 0 [b, 0, 0, 0, 0, 0, 0, 6, 0, 32, 0, 0]
    let ld (w : Option Nat) := (d 2).setAo 7 { loading := some (0, w) }
    on.domOn 13 = true ∧ (md on fun m => { m with doms := [] }).domOn 13 = false ∧
    ((on.setAo 7 { parkReq := some (9, true) }).ao 7).parkReq = some (9, true) ∧ on.aoutIdle 7 = true ∧
    (bound7.aoutSeq 7).isSome = true ∧ on.aoutSeq 7 = none ∧ bf (3 : Word) 1 0 = 3 ∧ bf (2 : Word) 1 0 ≠ 3 ∧
    (∀ m < 3, (on.wfld (aoutR 7) 5 4 m).fld (aoutR 7) 5 4 = m) ∧
    ((d 2).validDesc 0 0).any (fun x => x.typ == 2) = true ∧ (d 2).ownerVi .aout 7 = 0 ∧
    ((d 3).validDesc 0 0).all (fun x => x.typ != 2) = true ∧
    (∀ w ∈ [none, some 1000000, some 999999], ((ld w).ao 7).loading = some (0, w) ∧ ((ld w).validDesc 0 0).isSome = true) := by
  decide +kernel

theorem witness_FailsAreCountedAndLogged :
    let s (e : Bool) (n : Nat) := ((on.wfld (pbR 7 + 8) 1 0 2).setPb 7 { buf := List.replicate n ring0 }).wbit (pbR 7 + 0x44) 0 e
    let r (full keep : Bool) := ((((s true 1).wfld (pbR 7 + 0x44) 12 8 10).wbit (pbR 7 + 0x44) 1 keep).wr (pbR 7 + 0x4C) (if full then 1 else 0))
    let z (p : Bool) := on.setPb 7 { buf := [{ ring0 with prov := p }] }
    (∀ p, ((z p).pb 7).buf = [{ ring0 with prov := p }]) ∧ on.catchUpAll.strobed 7 0 = false ∧
    (s true 63).catchUpAll.strobed 7 (s true 63).time.mono = true ∧ (0x8001 : BitVec 16) &&& ~~~(((s true 63).rd (pbR 7 + 0x20)).setWidth 16) ≠ 0 ∧
    ((s true 63).catchUpAll.pb 7).firstArmed = true ∧ (s true 63).catchUpAll.bit (pbR 7 + 0x44) 0 = true ∧
    ((s true 63).catchUpAll.pb 7).buf.length < 64 ∧ (s true 64).catchUpAll.bit (pbR 7 + 0x44) 0 = true ∧
    64 ≤ ((s true 64).catchUpAll.pb 7).buf.length ∧
    (∀ f k, let x := r f k; (x.pb 7).buf = [ring0] ∧ x.bit (pbR 7 + 0x44) 0 = true ∧ x.bit (pbR 7 + 0x44) 1 = k ∧
      x.ringOk 0 (pbR 7 + 0x44) 20 = true ∧ 2 ^ x.fld (pbR 7 + 0x44) 12 8 = 1024 ∧ (x.rd (pbR 7 + 0x48)).toNat = 0 ∧
      (x.rd (pbR 7 + 0x4C)).toNat = if f then 1 else 0) ∧
    on.ownerVi .pb 7 = 0 ∧ on.ringOk 0 (pbR 7 + 0x44) 20 = false ∧ tb (on.cy (pbR 7 + 8)).raised 2 = false := by
  decide +kernel

theorem witness_BanksMeasureStartAndStop :
    let s := stepping 0 [3, 0, 0, 0, 0, 0, 0, 6, 64, 0, 0, 0, 0, 0, 0, 0, 64, 0, 0, 0]
    let f := (((((on.putBytes true 0x400000 [3, 0, 0, 0, 0, 0, 0, 6, 64, 0, 0, 0]).setDirState 0x400000 1).wbit (pbR 7) 0 true).wbit
      (pbR 7 + 0xC) 0 true).wfld (pbR 7 + 8) 21 20 1).wr (pbR 7 + 0x1C) 0
    let p (x : Option Nat) := (on.wfld (pbR 7 + 8) 1 0 2).setPb 7 { stopAt := x }
    (f.bit (pbR 7 + 0xC) 0 = true ∧ f.bit (pbR 7) 0 = true ∧ (1699 : BitVec 12).toNat < 1700 ∧ 3600 < (3601 : BitVec 12).toNat) ∧
    on.pbState 7 = 0 ∧ on.freeWhy 7 = some 2 ∧ s.bankBound 7 = true ∧ (p none).pbState 7 = 2 ∧ ((p none).pb 7).stopAt = none ∧
    ((p (some 1000000)).pb 7).stopAt = some (p none).time.mono ∧
    (∀ m < 3, (on.wfld (pbR 7) 5 4 m).fld (pbR 7) 5 4 = m) ∧ on.pbState 7 ≠ 1 ∧
    ((on.stage (pbR 7 + 0x18) 1).shadows.map (·.1)).Nodup ∧ f.staged (pbR 7 + 8) = none ∧ f.staged (pbR 7 + 0x34) = none ∧
    bankShadow 7 (pbR 7 + 0x18) = true ∧ ((on.stage (pbR 7 + 0x18) 1).catchUpFree 7).staged (pbR 7 + 0x18) = some 1 ∧
    f.pbState 7 = 0 ∧ f.freeWhy 7 = none := by decide +kernel

theorem witness_CapturesAreTakenAndWritten :
    let c := capR 15
    let s (n : Nat) := (((on.wbit c 0 true).wbit c 3 true).wbit c 31 true).setCapBuf 15 (List.replicate n ring0)
    let r (full keep : Bool) := (((((s 1).wfld c 12 8 10).wbit c 1 keep)).wr (c + 8) (if full then 1 else 0))
    (let z := on.setCapBuf 15 [{ ring0 with prov := true }]
     ((z.capBuf 15).filter fun e => decide (e.due ≤ z.time.mono)) = [{ ring0 with prov := true }]) ∧
    on.bit c 0 = false ∧ (∀ n ∈ [63, 64], (s n).bit c 0 = true ∧ (s n).bit c 3 = true ∧
      ((List.range 8).filter fun i => (s n).catchUpAll.bit c (24 + i)) = [7] ∧ ((s n).catchUpAll.capBuf 15).length = n) ∧
    (∀ f k, let x := r f k; ((x.capBuf 15).filter fun e => decide (e.due ≤ x.time.mono)) = [ring0] ∧ x.bit c 0 = true ∧
      x.bit c 1 = k ∧ x.ringOk 0 c 20 = true ∧ 2 ^ x.fld c 12 8 = 1024 ∧ (x.rd (c + 4)).toNat = 0 ∧
      (x.rd (c + 8)).toNat = if f then 1 else 0) := by decide +kernel

theorem witness_CapturesAreTakenAndWritten_sorted : ∀ p, [{ ring0 with prov := p }].mergeSort entLe = { ring0 with prov := p } :: [] :=
  fun _ => List.mergeSort_singleton _

theorem witness_TriggerOutputsPulse :
    let s := ((on.wsyn 2 1 false).wbit (trgR 7) 0 true).wbit (trgR 7) 2 true
    let c := armed s 5 7 { target := 100000 }
    let m := c.setTrg 7 { missed := true }
    let l (b : Bool) (t : Nat) := (s.wbit (trgR 7 + 8) 1 b).setTrg 7 { leads := [(1000031, 1000063)], trail := t }
    let safe := md on fun m => { m with eff := .safe }
    on.bit (trgR 7) 0 = false ∧ s.bit (trgR 7) 0 = true ∧ s.bit (trgR 7) 2 = true ∧ s.synBit 2 1 = false ∧
    (s.wsyn 2 1 true).synBit 2 1 = true ∧ s.trgBusy 7 = false ∧ (s.setTrg 7 { busyTo := 1000001 }).trgBusy 7 = true ∧
    safe.noStart = true ∧ on.noStart = false ∧ on.actReady (actId 5 7) = true ∧
    2048 ≤ lead ((on.wr64 (trgR 7 + 0x18) (trgR 7 + 0x1C) 102048).rd64 (trgR 7 + 0x18) (trgR 7 + 0x1C)) on.now ∧
    (c.act (actId 5 7)).armed = true ∧ (c.act (actId 5 7)).defer = false ∧ c.trgEdgeAt 7 < c.time.mono + 32 ∧
    (c.trg 7).missed = false ∧ (m.trg 7).missed = true ∧ lead (m.act (actId 5 7)).target m.now < 2048 ∧
    (m.act (actId 5 7)).drop = false ∧ ((armed s 5 7 { target := 100000, drop := true }).act (actId 5 7)).drop = true ∧
    (∀ t ∈ [1000030, 1000031], ((l true t).trg 7).leads.find? (fun e => decide (e.1 < (l true t).time.mono + 32)) =
      some (1000031, 1000063) ∧ (l true t).bit (trgR 7 + 8) 1 = true ∧ ((l true t).trg 7).trail = t) ∧
    ((l true 0).wsyn 2 1 true).synBit 2 1 = true ∧ (l true 0).synBit 2 1 = false ∧
    (l false 0).bit (trgR 7 + 8) 1 = false ∧ (l true 1000031).time.mono + 32 = 1000032 := by decide +kernel

theorem witness_InputEdgesAreStampedAndQueued :
    let s (n : Nat) := (on.wbit (tinR 15) 0 true).setTin 15 { fifo := List.replicate n ent }
    let h := { on.wbit (tinR 3) 0 true with fab := { on.fab with heldP := [(.tin 3, 9)] } }
    let z := (tm listen fun t => { t with fclk := false }).wbit 0x42C 3 true
    let a (uv t : Nat) := (on.wbit (acmpR 3) 0 true).setAcmp 3 { uv := uv, live := some t }
    let o (x : State) (uv : Nat) := (x.setAcmp 3 { x.acmp 3 with uv := uv, vccio := 0 }).acmpOut 3
    z.time.fclk = false ∧ z.awake = false ∧ z.tinWakes 3 true = true ∧ (z.tin 3).fifo.length < 64 ∧
    on.time.fclk = true ∧ (∀ m, on.mode.trans ≠ .descent m) ∧
    (∀ n ∈ [63, 64], (s n).fld (tinR 15) 13 8 = 0 ∧ (s n).bit (tinR 15 + 4) 7 = false ∧ (s n).bit (tinR 15) 0 = true ∧
      polCounts ((s n).fld (tinR 15) 3 2) true = true ∧ ((s n).tin 15).fifo.length = n ∧ (s n).fab.heldP = []) ∧
    ((s 0).wfld (tinR 15) 13 8 63).fld (tinR 15) 13 8 ≠ 0 ∧ on.bit (tinR 15) 0 = false ∧
    (h.bit (tinR 3) 0 = true ∧ ∃ e ∈ h.fab.heldP, e.1 = .tin (Fin.ofNat 4 3)) ∧
    on.acmpLive 3 = false ∧ (a 0 0).acmpLive 3 = true ∧ (a 0 0).fld (acmpR 3) 25 20 = 0 ∧ (a 0 0).bit (acmpR 3 + 4) 0 = false ∧
    o (a 0 0) 1000000 = true ∧ o (a 0 0) 0 = false ∧ polCounts ((a 0 0).fld (acmpR 3) 19 18) true = true ∧
    polCounts (((a 0 0).wfld (acmpR 3) 19 18 1).fld (acmpR 3) 19 18) true = false := by decide +kernel

theorem witness_TheMonitorConvertsAndKeysTouch :
    let k (d : Nat) (t o : Bool) := ((((on.wbit (keyR 5) 0 true).wfld (keyR 5) 31 16 100).wbit (keyR 5 + 4) 0 t).wbit
      (keyR 5 + 4) 1 o).setKeySt 5 { deb := d }
    (let c := { on.wbit 0x2B84 30 true with cal := { on.cal with run := some (0, 1, 7) } }
     c.bit 0x2B84 30 = true ∧ c.madcTaken = true) ∧ on.madcTaken = false ∧ on.mode.eff ≠ .shelf ∧
    (on.wbit 0x2B84 30 true).bit 0x2B84 30 = true ∧ on.bit 0x2B84 30 = false ∧ 27 ≤ (27 : BitVec 5).toNat ∧
    (26 : BitVec 5).toNat < 27 ∧ on.awake = true ∧ 2240 ≤ (2240 : BitVec 16).toInt ∧ sext 16 (on.fld 0x2B88 15 0) < 2240 ∧
    (2159 : BitVec 16).toInt < 2160 ∧ (on.wbit 0x418 0 true).bit 0x418 0 = true ∧
    (∀ m < 6, m ≠ 5 → (k 0 false false).bit (keyR m) 0 = false) ∧ on.bit (keyR 5) 0 = false ∧
    (∀ d ∈ [0, 3], (k d false false).bit (keyR 5) 0 = true ∧ (k d false false).bit (keyR 5 + 4) 1 = false ∧
      (k d false false).bit (keyR 5 + 4) 0 = false ∧ ((k d false false).fld (keyR 5) 31 16 : Int) ≤ 100 - ((k d false false).key 5).base ∧
      ((k d false false).fld 0x2BA0 2 1 ≤ ((k d false false).key 5).deb ↔ d = 3)) ∧
    (k 0 true false).bit (keyR 5 + 4) 0 = true ∧ (k 0 true false).bit (keyR 5 + 4) 1 = false ∧
    (let f := (k 0 true false).wfld 0x2BA0 28 16 0; f.bit (keyR 5 + 4) 0 = true ∧
      (f.key 5).since + f.fld 0x2BA0 28 16 * ms 1000 < f.time.mono) := by decide +kernel

theorem witness_FramesQueueAndStart :
    let q (n : Nat) := on.setDsiQ 1 (List.replicate n { fb := 63, slot := none })
    let lk (s : State) := s.wbit 0x2C00 12 true
    let g := on.setLk 1 { running := true }
    let te := (on.wbit (dsiR 1 + 0x34) 0 true)
    let x (go : Option Nat) (l : List QEnt) : LinkSt := { running := true, notional := false, go := go, q := l }
    let e : QEnt := { fb := 63, slot := none }
    let t : QEnt := { fb := 63, slot := some 7 }
    let tm := (lines 8 (x none [t])).setAct (qAct 1 7) { armed := true, target := 100000 }
    (q 8).dsiFull 1 = true ∧ (q 7).dsiFull 1 = false ∧ (lk on).lock2 = true ∧ on.lock2 = false ∧ (lk (q 7)).dsiFull 0 = false ∧
    (∀ i < 8, (q 7).actReady (qAct 1 i) = true) ∧ tb (0x100 : Word) 8 = true ∧ tb (0x3F : Word) 8 = false ∧
    2048 ≤ lead ((on.wr64 (dsiR 1 + 4) (dsiR 1 + 8) 102048).rd64 (dsiR 1 + 4) (dsiR 1 + 8)) on.now ∧
    (g.lk 1).running = true ∧ (g.lk 1).go = none ∧ (on.lk 1).running = false ∧ ((on.setLk 1 { go := some 0 }).lk 1).go.isSome = true ∧
    te.bit (dsiR 1 + 0x34) 0 = true ∧ true ≠ te.bit (dsiR 1 + 0x34) 1 ∧
    ({ on with disp := { tl := { anchor := 2000000 } } } : State).lineNow = none ∧
    (∀ j ∈ [5, 6, 7], (lines j (x none [])).lineNow = some j ∧
      (lines j (x none [])).disp.tl.at_ j = 1000000 ∧ (lines j (x none [])).staged (dsiR 1 + 0x18) = none ∧
      (lines j (x none [])).frameWhy 1 j 1000000 = if j = 7 then 3 else 0) ∧
    (lines 6 (x (some 999872) [e])).frameWhy 1 6 1000000 = 2 ∧ (lines 6 (x (some 999873) [e])).frameWhy 1 6 1000000 = 0 ∧
    (lines 6 (x (some 999872) [e])).frameHead 1 = some e ∧ (lines 6 (x (some 999872) [])).frameHead 1 = none ∧
    (lines 6 (x (some 999872) [])).frameWhy 1 6 1000000 = 2 ∧
    tm.frameWhy 1 8 1000000 = 1 ∧ tm.frameHead 1 = some t ∧
    (lines 5 (x none [])).lineNow = some 5 ∧ (lines 5 (x none [])).blanks 1 5 = true ∧
    (lines 5 (x none [])).fld 0x2C2C 7 0 = 0 := by decide +kernel
/-- A display ready to start: both links, 16 x 4 pixels, SYN-D locked at its reset ratio. -/
def disp0 : State := (((((on.wsyn 3 0 true).wr 0x2C00 0x10030001).wr 0x2C28 0x610000).wfld (synR 3 + 4) 11 8 1).wr 0x2C0C ((64 <<< 16) + 16)).wr 0x2C10 8
def disp1 : State := (((disp0.wfld 0x2C14 23 16 1).wfld 0x2C14 12 0 4).wr 0x2C18 0x00020001).wfld 0x1820 15 0 0xFFFF
def dispAt (n : Nat) (x y : LinkSt) (d : DispSt) : State :=
  { disp1.wfld 0x2C08 1 0 n with disp := { d with tl := { anchor := 1000000, num := 32, den := 1 }, l0 := x, l1 := y } }

theorem witness_ScanOutStartsAndStops :
    let run : LinkSt := { running := true, notional := false }
    let st (x : LinkSt) := dispAt 3 x { run with stopReq := some true } {}
    on.dispWhy = some 1 ∧ (disp1.wfld 0x1820 15 0 0).dispWhy = some 8 ∧ disp1.dispWhy = none ∧
    (dispAt 1 {} {} {}).dispState = 1 ∧ (dispAt 1 {} {} {}).firstLine = true ∧ (dispAt 3 {} {} {}).firstLine = true ∧
    (dispAt 1 {} {} {}).bit 0x2C00 17 = true ∧ on.dispState = 0 ∧ (dispAt 2 run run {}).dispState ≠ 0 ∧
    ((dispAt 2 run run {}).wsyn 3 1 false).synBit 3 1 = false ∧ ((dispAt 2 run run {}).wsyn 3 1 true).synBit 3 1 = true ∧
    (∀ x ∈ [run, {}], (st x).lineNow = some 0 ∧ (st x).stopsHere 1 0 = true ∧ (st x).dispState ≠ 0 ∧ (st x).lk 0 = x) := by
  decide +kernel

theorem witness_LinesPresetsRectanglesAndPackets :
    let run : LinkSt := { running := true, notional := false }
    let a := (dispAt 2 run {} {}).wfld 0x2C1C 15 0 0
    let u (f : Bool) := { (disp1.wsyn 3 1 false).wfld 0x2C08 1 0 2 with
      disp := { tl := { anchor := 999968 }, l1 := { run with urFrame := f } } }
    let r : RectRun := { n := 3, link := 1, x := 0, y := 0, w := 0, h := 1, chk := true, crc := 0xFFFFFFFF, done := 1 }
    let early (s : State) : State := { s with disp := { s.disp with tl := { anchor := 900000 } } }
    let b (x : Nat) := early <| dispAt 2 {} { run with bufOk := true, desc := List.replicate 44 0 ++ [BitVec.ofNat 8 x, 0, 0, 0] } { rects := [r] }
    let v : Word := 0x80014039
    let p := dispAt 2 {} { run with line0 := 0 } { packet := some (v, []) }
    let q := dispAt 0 {} {} { packet := some (v, []) }
    on.dispState = 0 ∧ a.lineNow = some 0 ∧ (a.lk a.applyLink).line 0 = a.fld 0x2C1C 15 0 ∧ (1 : BitVec 2) ≠ 0 ∧ (3 : BitVec 2) ≠ 0 ∧
    dispShadow 0x2C34 = true ∧ (on.stage 0x2C34 1).staged 0x2C34 = some 1 ∧
    (∀ f, (u f).linkActive 1 = true ∧ ((u f).lk ((u f).qLink 1)).urFrame = f) ∧ (u true).time.fclk = true ∧
    (∀ x ∈ [0, 1], (b x).disp.rects.find? (fun r => r.n == 3 && (b x).rectDue r) = some r ∧ r.chk = true ∧
      ((b x).lk ((b x).qLink 1)).bufOk = true ∧ ((b x).lk ((b x).qLink 1)).bg = false ∧ (b x).mode.eff ≠ .safe ∧
      (BitVec.ofNat 32 (r.crc ^^^ 0xFFFFFFFF) = (0 : Word)) ∧
      ((parseFb ((b x).lk ((b x).qLink 1)).desc).exp[3]?).getD 0 = x) ∧
    (let bad (s : State) (v : Word) : Prop := s.bit 0x2C08 13 = true ∨ bf v 5 0 ∈ [0x04, 0x06, 0x14, 0x24] ∨ 64 < bf v 15 8
     bad on 0x00004139 ∧ bad on 0x00000004 ∧ bad (on.wbit 0x2C08 13 true) v ∧ ¬ bad on v ∧ ¬ bad p v) ∧
    (p.lk (bf v 16 16)).running = true ∧ (on.lk (bf v 16 16)).running = false ∧ p.disp.packet = some (v, []) ∧
    q.disp.packet = some (v, []) ∧ (q.lk (bf v 16 16)).running = false ∧
    (let z := { p with disp := { p.disp with tl := { anchor := 1000000 - 32 * 5 } } }; z.lineNow = some 5 ∧
      z.blankLine (z.qLink (bf v 16 16)) 5 = true) := by decide +kernel

theorem witness_CalibrationsRunEndAndAbort :
    let go (k i : Nat) : Prop := on.calWhy 0 k i = some 4 ∧ on.calWhy 1 k i = some 1
    let kl := on.wbit (0x3500 + 0xC0) 0 true
    let run (k : Nat) (s : State) := { s with cal := { s.cal with run := some (0, k, 7) } }
    let r (x : BitVec 16) : CalRes := { fig1 := x, fig2 := 0xFFFF, trims := [] }
    (rs on fun r => { r with coreBusy := true }).rst.coreBusy = true ∧ on.rst.coreBusy = false ∧ go 1 7 ∧ go 2 7 ∧ go 3 1 ∧ go 5 3 ∧
    on.calWhy 0 4 0 = none ∧ on.calWhy 1 4 0 = some 1 ∧ kl.calWhy 0 5 3 = none ∧ (kl.calInst 0 5 3) = some 3 ∧
    (((on.wbit (aoutR 7) 0 true).wsyn 1 0 true).calWhy 0 1 7 = none) ∧
    (((((on.wbit (pbR 7) 0 true).wbit (pbR 7 + 0xC) 0 true).wfld (pbR 7 + 8) 21 20 1).wsyn 2 0 true).calWhy 0 2 7 = none) ∧
    (((disp0).calWhy 0 3 1 = none)) ∧
    (∀ k ∈ [1, 2], (run k on).cal.run = some (0, k, 7)) ∧ (run 2 (on.wfld 0x302C 15 0 10)).calLimit 2 (r 11) ≠ 0 ∧
    (run 2 (on.wfld 0x302C 15 0 10)).calLimit 2 (r 10) = 0 ∧ (run 2 on).abortHolds .sw = true ∧ on.abortHolds .sw = false ∧
    (run 2 (on.wfld (pbR 7 + 8) 1 0 2)).abortHolds .start = true ∧
    (run 2 (md on fun m => { m with eff := .safe })).abortHolds .safe = true ∧
    (run 2 (on.wsyn 2 0 false)).abortHolds .clock = true ∧
    (run 2 (on.setVi 0 { inReset := true })).abortHolds .reset = true := by decide +kernel

theorem witness_AffinageAndCalibrationSets :
    let s := ((on.wr 0x3010 0xF).wsyn 3 0 true)
    let h (a b : Nat) := [a, b] ++ List.replicate 30 ((1048576 - a - b) / 30) 
    let d := ((((bound7.wr 0x3010 0xF).wbit (aoutR 7) 0 true).wbit (aoutR 7) 1 true).waout 7 2 false).wr 0x3020 100
    let e := (d.wr 0x3024 50).wr 0x3038 4
    let c (t : Int) := { on with cal := { on.cal with sets := [(7, some { temp := t, words := [] })] } }
    (∀ i ∈ [0, 1, 3], s.affOn i = true) ∧ (on.wr 0x3010 0).affOn 3 = false ∧
    (h 16384 49152).length = 32 ∧ (h 16384 49152).sum = 1048576 ∧ (∀ x ∈ h 16384 49152, 1048576 ≤ x * 64 ∧ x * 64 ≤ 3 * 1048576) ∧
    (h 16383 49153).sum = 1048576 ∧ 16383 * 64 < 1048576 ∧ 3 * 1048576 < 49153 * 64 ∧
    (s.wfld 0x3028 15 0 5).fld 0x3028 15 0 = 5 ∧ s.synBit 3 0 = true ∧
    ((s.wfld (synR 3 + 8) 23 0 1).fld (synR 3 + 8) 23 0 ≠ 0) ∧ 1000 < (-1001 : Int).natAbs ∧ (-1000 : Int).natAbs ≤ 1000 ∧
    100 < (101 : Int).natAbs ∧ (-100 : Int).natAbs ≤ 100 ∧ on.dacTracked 7 = false ∧ d.dacTracked 7 = true ∧ e.dacTracked 7 = true ∧
    d.fld 0x3020 15 0 = 100 ∧ e.fld 0x3024 15 0 = 50 ∧
    (∃ j < 8, j ≠ 0 ∧ ((c 16).calSet j).any (fun d => decide ((d.temp - (c 16).tempNow).natAbs ≤ 16)) = true) ∧
    (∀ j < 8, ((c 17).calSet j).all (fun d => decide (16 < (d.temp - (c 17).tempNow).natAbs)) = true) := by decide +kernel

theorem witness_AffinageAndCalibrationSets_cells : ∀ (s : State) (c : Nat), c = 0 ∨ c = 66 →
    let k := itemKey 1 (7 * 128 + c)
    inRange k (s.working k) = true ∧ (s.working k - s.working k).natAbs ≤ s.fld 0x3038 15 0 := by
  intro s c h
  have hr : (itemRange (itemKey 1 (7 * 128 + c))).1 ≤ (itemRange (itemKey 1 (7 * 128 + c))).2 := by
    rcases h with rfl | rfl <;> decide
  refine ⟨?_, by simp⟩
  unfold inRange State.working clampItem
  simp only [Bool.and_eq_true, decide_eq_true_eq]
  omega

theorem witness_MailboxesAndSemaphores :
    let w : Word := 0x8003001F
    let s := on.wbitv 31 0x290 0 true
    let full := s.setVi 31 { q3 := List.replicate 32 msg }
    let m := { on with out := [(0, .msix 31 0)], time := { on.time with mono := ms 10 } }
    let g : Word := 0x80000F3F
    let h := (on.setSem 63 { owner := some (0, none) }).setSeqState 15 2
    bf w 4 0 = 31 ∧ bf w 17 16 = 3 ∧ tb w 31 = true ∧ tb (0x1F : Word) 31 = false ∧ (on.wbitv 31 0x290 0 false).bitv 31 0x290 0 = false ∧
    s.bitv 31 0x290 0 = true ∧ ((s.setVi 31 { inReset := true }).vi 31).inReset = true ∧ (full.vi 31).inReset = false ∧
    32 ≤ ((full.vi 31).queue 3).length ∧ full.bitv 31 0x290 0 = true ∧
    (((s.setVi 31 { q3 := List.replicate 31 msg }).vi 31).queue 3).length < 32 ∧
    tb g 31 = true ∧ bf g 5 0 = 63 ∧ bf g 11 8 = 15 ∧ h.phys 0 .seq 15 = some 15 ∧ (h.sem 63).owner = some (0, none) ∧
    h.seqOn 15 = true ∧ h.haltsNow 15 = false ∧ (h.setSq 15 { halt := some (0, 3) }).haltsNow 15 = true ∧ on.seqOn 15 = false ∧ (on.sem 63).owner = none ∧
    m.out.find? (m.rspLate 31) = some (0, .msix 31 0) := by decide +kernel

theorem witness_BindingsAndPartitionsChange :
    let svc := md on fun m => { m with eff := .service }
    let p := svc.stage 0x3D00 1
    on.bit 0x3C00 16 = false ∧ (on.wbit 0x3C00 16 true).bit 0x3C00 16 = true ∧ (1 : Word) ≠ on.rd (0x3C10 + 4) ∧
    on.bindOk 0 0 3 = true ∧ on.bindOk 0 0 0 = false ∧ on.bindOk 1 15 1 = false ∧ (on.wbit 0x3C00 0 true).bit 0x3C00 16 = false ∧
    (rs on fun r => { r with coreBusy := true }).rst.coreBusy = true ∧ on.rst.coreBusy = false ∧
    (on.wbit 0x3C08 2 true).bit 0x3C08 2 = true ∧ on.bit 0x3C08 2 = false ∧ on.rst.phase ≠ 3 ∧ on.mode.eff ≠ .service ∧
    svc.mode.eff = .service ∧ p.partWhy = none ∧ (svc.stage 0x3C80 0x10000).partWhy = some 3 ∧ p.cal.run = none ∧
    partShadow 0x3D00 = true ∧ p.staged 0x3D00 = some 1 ∧ (on.wbit 0x3C08 2 true).cal.run = none ∧
    ({ on with cal := { on.cal with run := some (0, 4, 0) } }).cal.run.isSome = true := by decide +kernel

theorem witness_ViResetsRunAndEnd :
    let p (n : Nat) := rs on fun r => { r with phase := n }
    (p 3).rst.phase = 3 ∧ (p 4).rst.req = none ∧ (p 4).resetLevel = none ∧ on.rst.phase ≠ 3 ∧ on.rst.phase ≠ 4 ∧
    ((on.setVi 31 { inReset := true }).vi 31).inReset = true ∧ (on.vi 31).inReset = false := by decide +kernel

theorem witness_PcieRequestsAreAnswered :
    let b := on.wfld 0x3C10 1 0 1
    let p (n : Nat) := rs on fun r => { r with phase := n }
    (p 4).starting = true ∧ b.starting = false ∧ b.mode.eff ≠ .shelf ∧
    (rs on fun r => { r with req := some ⟨2, 1, 0, false, 0, 0, false⟩ }).starting = true ∧ b.pcieBad 0 0 = true ∧ b.pcieBad 0 17 = true ∧ b.pcieBad 0 16 = false ∧
    b.pcieBad 31 1 = true ∧ b.pcieBad 0 1 = false ∧ b.fnEnabled 31 = false ∧ b.fnEnabled 0 = true ∧ (b.vi 0).inReset = false ∧
    ({ b with host := { b.host with vfs := 31 } }).fnEnabled 31 = true := by decide +kernel

theorem witness_SpiFramesAreAnswered :
    let b := on.wfld 0x3C10 9 8 2
    let f (w c : Bool) (o : Nat) := { b with host := { b.host with
      spi := some { vi := 4, off := o, write := w, crc := c, inc := true, wait := false, at_ := 0, resp := [] } } }
    let t : SpiSt := { vi := 4, off := 0, write := true, crc := false, inc := false, wait := true, at_ := 0, resp := [] }
    let late := { b with host := { b.host with spi := some t }, time := { b.time with mono := ms 2 } }
    let sh := md on fun m => { m with eff := .shelf }
    sh.rst.phase = 5 ∧ sh.mode.eff = .shelf ∧ (rs on fun r => { r with phase := 4 }).starting = true ∧ b.starting = false ∧ b.mode.eff ≠ .shelf ∧
    (0x20 : Byte).getLsbD 5 = true ∧ crc8 (spiBytes 0x20 0x030404 0 false) ≠ 0x3C ∧ (0x00 : Byte).getLsbD 5 = false ∧
    crc8 (spiBytes 0x20 0x030404 0 false) = 0x3B ∧ b.spiCmdBad 0x80 0 = true ∧ b.spiCmdBad 0x40 0x1FFFFE = true ∧
    b.spiCmdBad 0x40 0x200000 = true ∧ b.spiCmdBad 0x40 0x04FFFC = false ∧ b.spiCmdBad 0x40 0x1FFFFC = false ∧
    b.portOf 31 ≠ 2 ∧ b.portOf 4 = 2 ∧ (0x04FFFC : BitVec 24).toNat / 65536 = 4 ∧ b.host.spi = none ∧
    (∀ w c, ∀ o ∈ [0, 0xFFF8, 0xFFFC], (f w c o).host.spi.any (fun x => !x.wait && x.inc && x.write == w && x.crc == c &&
      (decide (0xFFFC < x.off + 4) == (o == 0xFFFC))) = true) ∧ crc8 (beBytes 4 7) ≠ crc8 (beBytes 4 8) ∧
    late.host.spi = some t ∧ t.wait = true ∧ t.at_ + ms 2 ≤ late.time.mono := by decide +kernel

theorem witness_NvmErasesAndDebugAccesses :
    let svc := (md on fun m => { m with eff := .service }).wfld 0x3820 31 24 24
    on.eraseWhy 0 1 = some 1 ∧ svc.eraseWhy 0 (2 ^ 24) = none ∧ svc.eraseWhy 0 (2 ^ 24 + 1) = some 2 ∧
    ({ on with host := { on.host with erase := some (0, 4096) } }).host.erase = some (0, 4096) ∧
    (0 : BitVec 64).getLsbD 63 = false ∧ (0x8000000000000000 : BitVec 64).getLsbD 63 = true ∧
    (0xC000000000000000 : BitVec 64).getLsbD 62 = true ∧ (0x8000000000000000 : BitVec 64).getLsbD 62 = false ∧
    bf (0xDF00000000000000 : BitVec 64) 60 56 = 31 ∧ bf (0xC000000000000000 : BitVec 64) 60 56 = 0 ∧
    listen.rst.phase = 5 ∧ listen.mode.eff = .listen ∧ on.mode.eff ≠ .listen ∧ on.mode.eff ≠ .shelf ∧ on.dbgWaits = false ∧
    (tm on fun t => { t with fclk := false }).dbgWaits = true := by decide +kernel
/-- A unit of a tree: address 9, upstream port 3, and a downstream port 0 below which unit 254 is. -/
def tree : State :=
  let s := ((((on.wr 0x3404 0x09000381).wfld (klR 3 + 4) 2 0 2).setRole 3 1 0).wfld (klR 0 + 4) 2 0 2).setRole 0 2 0
  { (s.setKp 0 { subtree := [254] }) with kl := { (s.setKp 0 { subtree := [254] }).kl with serial := 77, parent := 5 } }
/-- The root of a tree of one port. -/
def root : State := (on.wr 0x3404 0x00000003).wfld (klR 3 + 4) 2 0 2
def kl (s : State) (f : KlSt → KlSt) : State := { s with kl := f s.kl }

theorem witness_LinkPortsTrainAndGoDown :
    let e (n : Nat) := (on.wbit (klR 3) 0 true).wfld (klR 3 + 4) 2 0 n
    let q (s : State) (x : PortSt) := s.setKp 3 x
    let r : OutPkt := { hops := 0, since := 0, pkt := .timeReq }
    ((q tree { rsp := [r] }).kp 3).rsp ≠ [] ∧ (tree.kp 3).rsp = [] ∧ tree.klState 3 = 2 ∧
    (on.time.mono < ((q (e 3) { closeAt := 1000001 }).kp 3).closeAt) ∧ ((e 3).kp 3).closeAt ≤ on.time.mono ∧
    (∀ n ≤ 4, (e n).bit (klR 3) 0 = true ∧ (e n).domOn 27 = true ∧ (e n).klState 3 = n) ∧ tree.inTree = true ∧
    (e 1).inTree = false := by decide +kernel

theorem witness_AnnouncesFormTheTree :
    let b (s : State) (prio : Byte) (r parent : BitVec 64) :=
      betterRoot prio.toNat r s.rootKnown.1 s.rootKnown.2 && parent != s.kl.serial
    let last (s : State) : Prop := s.inTree = true ∧ s.upPort = none ∧
      ∀ q ∈ s.portsUp, q ≠ 3 → s.klRole q = 3 ∧ s.fld (klR q + 4) 11 8 = 2
    let t := (tree.wr 0x3418 4).wr64 0x3410 0x3414 8
    let lone := ((t.wr 0x3404 0x09000001))
    let rt := ((t.wr 0x3404 0x00000003))
    let ann (n : Nat) := t.setKp 3 { ann := some { root := 8, prio := 4, depth := 0, epoch := 0, sender := 5, parent := 0, at_ := n } }
    on.klState 3 ≠ 2 ∧ t.klState 3 = 2 ∧ b t 5 9 0 = true ∧ b t 4 7 0 = true ∧ b t 4 8 0 = false ∧ b t 3 7 0 = false ∧ b t 5 9 77 = false ∧
    8 ≤ (8 : Byte).toNat ∧ (7 : Byte).toNat < 8 ∧ (9 : BitVec 64) ≠ t.rootKnown.2 ∧ (8 : BitVec 64) = t.rootKnown.2 ∧ t.inTree = true ∧
    last root ∧ ¬ last t ∧ (t.wbit 0x3404 0 false).inTree = false ∧ (t.wbit 0x3404 0 false).klState 3 = 2 ∧ on.portsUp = [] ∧
    t.upPort = some 3 ∧ t.upPort ≠ some 0 ∧ (77 : BitVec 64) = t.kl.serial ∧ (5 : BitVec 64) ≠ t.kl.serial ∧
    rt.isRoot = true ∧ rt.upPort = none ∧ rt.klState 3 = 2 ∧ t.upPort.isSome = true ∧ lone.upPort = none ∧ lone.isRoot = false ∧
    lone.klState 3 = 2 ∧ t.portsUp = [0, 3] ∧
    ((ann 0).kp 3).ann.any (fun a => decide (a.at_ + us 400 ≤ (ann 0).time.mono)) = decide (us 400 ≤ 1000000) ∧
    (let z := { ann 0 with time := { on.time with mono := us 400 } }
     (z.kp 3).ann.any (fun a => decide (a.at_ + us 400 ≤ z.time.mono)) = true) ∧
    (let z := { ann 1 with time := { on.time with mono := us 400 } }
     (z.kp 3).ann.any (fun a => decide (a.at_ + us 400 ≤ z.time.mono)) = false) := by decide +kernel

theorem witness_UnitsJoinAndDepart :
    let full := kl root fun k => { k with roster := (List.range 254).map fun u => (u + 1, some { serial := 0, depth := 1, parent := 0 }) }
    let j := kl tree fun k => { k with joining := true, joins := [(6, 2)] }
    let rv := kl on fun k => { k with resv := [(254, some { serial := 6, until_ := 1000000 })] }
    let rw := kl on fun k => { k with resv := [(254, some { serial := 6, until_ := 1000001 })] }
    (∀ s ∈ [root, tree, j], s.hears 3 = true ∧ s.hearsRsp 3 = true) ∧ on.hears 3 = false ∧ on.hearsRsp 3 = false ∧
    (15 : Fin 16) = 15 ∧ (14 : Fin 16) ≠ 15 ∧ root.isRoot = true ∧ root.grant 6 254 = some 254 ∧ root.grant 6 255 = some 1 ∧ full.isRoot = true ∧ full.grant 6 254 = none ∧
    tree.isRoot = false ∧ tree.upPort = some 3 ∧ (77 : BitVec 64) = j.kl.serial ∧ j.kl.joining = true ∧ (6 : BitVec 64) ≠ j.kl.serial ∧
    j.kl.joins.find? (fun j => j.1 == 6) = some (6, 2) ∧ j.upPort = some 3 ∧
    Tab.get (fun _ => none) rv.kl.resv 254 = some { serial := 6, until_ := rv.time.mono } ∧
    Tab.get (fun _ => none) rw.kl.resv 254 = some { serial := 6, until_ := rw.time.mono + 1 } ∧
    full.ros 254 = some { serial := 0, depth := 1, parent := 0 } := by decide +kernel

theorem witness_TheTreesTimeAligns :
    let t (b : Bool) (al : Bool) (n : Nat) (x : Int) := kl (tree.wbit 0x504 2 b) fun k =>
      { k with t1 := some 7, aligned := al, thetas := List.replicate n x }
    tree.upPort = some 3 ∧ tree.hears 0 = true ∧ tree.hears 1 = false ∧ (t true true 7 0).kl.t1 = some 7 ∧
    (t true true 7 0).kl.thetas.length < 8 ∧ 8 ≤ (t true true 8 2047).kl.thetas.length ∧ (t true true 8 2047).bit 0x504 2 = true ∧
    (t true true 8 2047).time.fclk = true ∧ (t true true 8 2047).time.handoff = false ∧ (t true true 8 2047).kl.aligned = true ∧
    (2047 : Int).natAbs < 2048 ∧ (8 * 2047 - (t true true 8 2047).kl.thetas.sum).natAbs < 8 ∧ 2048 ≤ (2048 : Int).natAbs ∧
    (8 * -2048 - (t true true 8 (-2048)).kl.thetas.sum).natAbs < 8 ∧ (t true false 8 0).kl.aligned = false ∧
    (t false true 8 0).bit 0x504 2 = false := by decide +kernel

theorem witness_EventsCrossTheLink :
    let ex (s : State) (d : Nat) := s.wr (expR 31) (BitVec.ofNat 32 (2 ^ 31 + d * 256 + 3))
    let im := (tree.wr (impR 31) 0x80008003)
    let dl : Deliv := { slot := 0, due := some 1000000, stamp := 5, unit := 1, srcp := 3, info := 0, multi := false, swf := false }
    let q (n : Nat) := im.setImpQ 31 (List.replicate n dl)
    let irq := tree.wr (impR 31) 0xB0008000
    tree.hears 3 = true ∧ tree.hearsRsp 3 = true ∧ on.hears 3 = false ∧ on.hearsRsp 3 = false ∧ src.prov = false ∧
    (tm on fun t => { t with handoff := true }).time.handoff = true ∧ (kl on fun k => { k with lostAt := some 1000000 }).kl.lostAt = some 1000000 ∧
    tb (on.rd (expR 31)) 31 = false ∧ tb ((ex on 7).rd (expR 31)) 31 = true ∧ (ex on 7).inTree = false ∧
    bf ((ex on 7).rd (expR 31)) 15 8 = 7 ∧ bf ((ex on 255).rd (expR 31)) 15 8 = 255 ∧ (ex tree 254).inTree = true ∧
    bf ((ex tree 254).rd (expR 31)) 15 8 = 254 ∧ 254 ≠ tree.addr ∧ ((ex tree 254).expQ 31).length < 4 ∧
    4 ≤ (((ex tree 254).setExpQ 31 (List.replicate 4 src)).expQ 31).length ∧ (9 : Byte).toNat = tree.addr ∧
    (254 : Byte).toNat ≠ tree.addr ∧ (254 : Byte) ≠ 255 ∧ im.linesFor 0 1 (some 3) = [31] ∧ ((q 15).impWaiting 31).length < 16 ∧
    16 ≤ ((q 16).impWaiting 31).length ∧ tree.linesFor 3 1 none = [] ∧
    ((irq.linesFor 3 1 none).filter fun m => irq.owns (0 % 32) .evg (m / 2)) = [31] ∧
    tree.impDue 31 = [] ∧ (q 2).impDue 31 = [dl, dl] ∧ (q 2).time.fclk = true := by decide +kernel

theorem witness_RemoteAccessesRunAndEnd :
    let a := (tree.wrv 31 0x3600 0xFE01FFFC).wbit (0x3440 + 4 * 7) 30 true
    let w : RaWrite := { rid := 7, unit := 254, rvi := 1, ofs := 0, port := 0 }
    let n (k : Nat) := a.setRa 31 { writes := List.replicate k w, read := some w }
    let b := tree.wfld 0x3C14 31 30 3
    tree.raGood (tree.raTarget 31 1 0).unit = false ∧ (a.raGood (a.raTarget 31 1 0).unit = true) ∧ a.bitv 31 0x360C 9 = false ∧
    16 ≤ ((n 16).ra 31).writes.length ∧ ((n 15).ra 31).writes.length < 16 ∧ a.routeOf (a.raTarget 31 1 0).unit none = [0] ∧
    (n 15).routeOf ((n 15).raTarget 31 1 0).unit none = [0] ∧ (n 15).raGood ((n 15).raTarget 31 1 0).unit = true ∧
    (n 16).raGood ((n 16).raTarget 31 1 0).unit = true ∧ (a.wbitv 31 0x360C 9 true).bitv 31 0x360C 9 = true ∧
    ((9 : Byte).toNat == tree.addr) = true ∧ ((8 : Byte).toNat == tree.addr) = false ∧ root.routeOf 8 (some 3) = [] ∧
    root.hears 3 = true ∧ root.hearsRsp 3 = true ∧ 8 ≠ root.addr ∧ tree.hears 3 = true ∧ tree.hearsRsp 3 = true ∧ on.hears 3 = false ∧
    on.hearsRsp 3 = false ∧ tree.routeOf 254 (some 3) = [0] ∧ ((254 : Byte).toNat == tree.addr) = false ∧ tree.serveWhy 31 = 1 ∧ b.serveWhy 31 = 0 ∧
    ((n 1).ra 31).read.any (fun y => y.rid == 7) = true ∧ (tree.ra 31).read.any (fun y => y.rid == 7) = false ∧
    ((n 1).ra 31).writes.find? (fun y => y.rid == 7) = some w ∧ ((n 1).ra 31).waiting = [] ∧
    (tree.ra 31).writes.find? (fun y => y.rid == 7) = none := by decide +kernel

theorem witness_PacketsAreAcknowledgedAndResetsAsked :
    let p (k : Nat) := tree.setKp 3 { air := [{ lseq := 4095, hops := 0, pkt := .timeReq, tries := k }] }
    on.sends 3 = false ∧ tree.sends 3 = true ∧ on.ackLate 3 = false ∧ (p 7).ackLate 3 = true ∧ on.klState 3 ≠ 2 ∧
    tree.hears 3 = true ∧ on.hears 3 = false ∧ tree.klState 3 = 2 ∧ (tree.kp 3).evt = [] ∧ (tree.kp 3).rsp = [] ∧ (tree.kp 3).req = [] ∧
    (∀ n < 32, tree.expQ n = []) ∧ (tree.kp 3).air = [] ∧ (p 7).klState 3 = 2 ∧ ((p 7).kp 3).air ≠ [] ∧
    (∀ a ∈ ((p 7).kp 3).air, a.tries < 8) ∧ (∃ a ∈ ((p 8).kp 3).air, 8 ≤ a.tries) ∧
    (((p 7).kp 3).air.filter fun a => 8 < (((100 : BitVec 12).toNat + 4095) % 4096 + 4096 - a.lseq) % 4096) ≠ [] ∧
    on.inTree = false ∧ tree.inTree = true ∧ bf (0x02000000 : Word) 25 24 = 2 ∧ bf (0x03000000 : Word) 25 24 = 3 ∧
    254 ≠ tree.addr ∧ tree.upPort = some 3 ∧ (tree.wbit 0x3400 16 true).bit 0x3400 16 = true ∧ (tree.wbit 0x3400 16 false).bit 0x3400 16 = false ∧
    tree.rst.req = none ∧ tree.resetLevel = none ∧ tree.upPort ≠ some 0 := by decide +kernel

end Sys2Proof.Tests
end

section
/-! SUPPORT. Frames: what an operation leaves alone, said once for each operation. `Frame P K s t` says that `t` differs
from `s` at most in the aspects `P` and in the registers `K`; frames compose, so that the frame of an operation follows
from those of the operations it is made of. -/

namespace Sys2Proof.Machine

-- Proofs one after another: many that wait in threads of their own would pass the check's memory limit.
set_option Elab.async false

/-- What an operation may leave alone beside the registers: the parts of the state, parts of those parts, and lists that
only grow. -/
inductive Aspect
  | shadows | cyc | acts | agenda | agendaGrows | time | fclk | fab | inflight | heldP | rind | walk | mode | eff | trans | doms
  | heldAcc | svc | supplyBad | rst | syn | mem | stores | seqs | aouts | phaseRefs | pbs | trgs | disp | vis | sems | out | cal | kl | host
  | tins | acmps | keys | board | free | rdata | burst | pending
  deriving DecidableEq

/-- Aspect `p` is in `t` as it is in `s`. -/
def State.Keeps (s t : State) : Aspect → Prop
  | .shadows => t.shadows = s.shadows
  | .cyc => t.cyc = s.cyc
  | .acts => t.acts = s.acts
  | .agenda => t.agenda = s.agenda
  | .agendaGrows => s.agenda <+: t.agenda
  | .time => t.time = s.time
  | .fclk => t.time.fclk = s.time.fclk
  | .fab => t.fab = s.fab
  | .inflight => t.fab.inflight = s.fab.inflight
  | .heldP => t.fab.heldP = s.fab.heldP
  | .rind => t.rind = s.rind
  | .walk => t.walk = s.walk
  | .mode => t.mode = s.mode
  | .eff => t.mode.eff = s.mode.eff
  | .trans => t.mode.trans = s.mode.trans
  | .doms => t.mode.doms = s.mode.doms
  | .heldAcc => t.mode.heldAcc = s.mode.heldAcc
  | .svc => t.mode.svc = s.mode.svc
  | .supplyBad => t.mode.supplyBad = s.mode.supplyBad
  | .rst => t.rst = s.rst
  | .syn => t.syn = s.syn
  | .mem => t.mem = s.mem
  | .stores => t.mem.vat = s.mem.vat ∧ t.mem.mem = s.mem.mem ∧ t.mem.nvm = s.mem.nvm ∧
      t.mem.nvmRanges = s.mem.nvmRanges ∧ t.mem.lost = s.mem.lost
  | .seqs => t.seqs = s.seqs
  | .aouts => t.aouts = s.aouts
  | .phaseRefs => ∀ n, (Tab.get (fun _ => {}) t.aouts n).phaseRef = (Tab.get (fun _ => {}) s.aouts n).phaseRef
  | .pbs => t.pbs = s.pbs
  | .trgs => t.trgs = s.trgs
  | .disp => t.disp = s.disp
  | .vis => t.vis = s.vis
  | .sems => t.sems = s.sems
  | .out => t.out = s.out
  | .cal => t.cal = s.cal
  | .kl => t.kl = s.kl
  | .host => t.host = s.host
  | .tins => t.tins = s.tins
  | .acmps => t.acmps = s.acmps
  | .keys => t.keys = s.keys
  | .board => t.peakTaken = s.peakTaken ∧ t.refinHz = s.refinHz ∧ t.hfxoHz = s.hfxoHz
  | .free => t.free = s.free
  | .rdata => t.rdata = s.rdata
  | .burst => t.burst = s.burst
  | .pending => t.pending = s.pending

theorem State.Keeps.refl (s : State) (p : Aspect) : s.Keeps s p := by cases p <;> simp [State.Keeps]

theorem State.Keeps.trans {s t u : State} {p : Aspect} (h : s.Keeps t p) (h' : t.Keeps u p) : s.Keeps u p := by
  cases p
  case agendaGrows => exact List.IsPrefix.trans h h'
  all_goals simp_all [State.Keeps]

/-- `t` differs from `s` at most in the aspects `P` and in the registers with keys `K`. -/
structure Frame (P : List Aspect) (K : Nat → Prop) (s t : State) : Prop where
  keeps : ∀ p, p ∉ P → s.Keeps t p
  reg : ∀ k, ¬ K k → t.getKey k = s.getKey k

/-- No register. -/
abbrev noKey : Nat → Prop := fun k => k < 0

variable {P Q : List Aspect} {K L : Nat → Prop} {s t u : State}

theorem Frame.refl : Frame P K s s := ⟨fun p _ => State.Keeps.refl s p, fun _ _ => rfl⟩

theorem Frame.mono (h : Frame Q L s t) (hP : Q ⊆ P := by decide)
    (hK : ∀ k, L k → K k := by
      intros; simp -failIfUnchanged only [devKey, viKey, seqR, aoutR, pbR, trgR, synR, synSt, almR, tinR,
      acmpR, klR, capR] at * <;> omega) :
    Frame P K s t :=
  ⟨fun p hp => h.keeps p fun hq => hp (hP hq), fun k hk => h.reg k fun hl => hk (hK k hl)⟩

theorem Frame.trans (h : Frame P K s t) (h' : Frame P K t u) : Frame P K s u :=
  ⟨fun p hp => (h.keeps p hp).trans (h'.keeps p hp), fun k hk => (h'.reg k hk).trans (h.reg k hk)⟩

/-- One operation more, whose own frame lies within the frame so far. -/
theorem Frame.then (h : Frame P K s t) (h' : Frame Q L t u) (hP : Q ⊆ P := by decide)
    (hK : ∀ k, L k → K k := by
      intros; simp -failIfUnchanged only [devKey, viKey, seqR, aoutR, pbR, trgR, synR, synSt, almR, tinR,
      acmpR, klR, capR] at * <;> omega) :
    Frame P K s u :=
  h.trans (h'.mono hP hK)

theorem Frame.ite {c : Prop} [Decidable c] (h : c → Frame P K s t) (h' : ¬ c → Frame P K s u) :
    Frame P K s (if c then t else u) := by
  split
  · exact h ‹_›
  · exact h' ‹_›

/-- An operation applied to each element of a list has the frame that each application has. -/
theorem Frame.each {α : Type} {f : State → α → State} {l : List α} (h : ∀ a ∈ l, ∀ s, Frame P K s (f s a)) :
    ∀ s, Frame P K s (s.each l f) := by
  induction l with
  | nil => exact fun _ => Frame.refl
  | cons a l ih =>
    intro s
    exact (h a (by simp) s).trans (ih (fun b hb => h b (by simp [hb])) (f s a))

/-- A change of one part of the state beside the registers. -/
theorem Frame.part (hr : t.regs = s.regs)
    (hp : ∀ p, p ∉ P → s.Keeps t p := by intro p hp; cases p <;> simp [State.Keeps] at hp ⊢) : Frame P noKey s t :=
  ⟨hp, fun k _ => by simp [State.getKey, hr]⟩

/-- A frame that leaves every register named in `l` out of `K` leaves the others. -/
theorem Frame.sameRegs (h : Frame P K s t) (l : List Nat) (hl : ∀ k, K k → k ∈ l) : SameRegs l s t :=
  fun k hk => h.reg k fun hK => hk (hl k hK)

theorem Frame.rd (h : Frame P K s t) (o : Nat)
    (ho : ¬ K o := by
      simp -failIfUnchanged only [devKey, viKey, seqR, aoutR, pbR, trgR, synR, synSt, almR, tinR,
      acmpR, klR, capR] at * <;> omega) :
    t.rd o = s.rd o := h.reg o ho
theorem Frame.bit (h : Frame P K s t) (o i : Nat)
    (ho : ¬ K o := by
      simp -failIfUnchanged only [devKey, viKey, seqR, aoutR, pbR, trgR, synR, synSt, almR, tinR,
      acmpR, klR, capR] at * <;> omega) :
    t.bit o i = s.bit o i := by
  simp only [State.bit, h.rd o ho]
theorem Frame.fld (h : Frame P K s t) (o hi lo : Nat)
    (ho : ¬ K o := by
      simp -failIfUnchanged only [devKey, viKey, seqR, aoutR, pbR, trgR, synR, synSt, almR, tinR,
      acmpR, klR, capR] at * <;> omega) :
    t.fld o hi lo = s.fld o hi lo := by
  simp only [State.fld, h.rd o ho]
theorem Frame.rdv (h : Frame P K s t) (v o : Nat)
    (ho : ¬ K (viKey v o) := by
      simp -failIfUnchanged only [devKey, viKey, seqR, aoutR, pbR, trgR, synR, synSt, almR, tinR,
      acmpR, klR, capR] at * <;> omega) :
    t.rdv v o = s.rdv v o := h.reg _ ho
theorem Frame.bitv (h : Frame P K s t) (v o i : Nat)
    (ho : ¬ K (viKey v o) := by
      simp -failIfUnchanged only [devKey, viKey, seqR, aoutR, pbR, trgR, synR, synSt, almR, tinR,
      acmpR, klR, capR] at * <;> omega) :
    t.bitv v o i = s.bitv v o i := by
  simp only [State.bitv, h.rdv v o ho]
theorem Frame.fldv (h : Frame P K s t) (v o hi lo : Nat)
    (ho : ¬ K (viKey v o) := by
      simp -failIfUnchanged only [devKey, viKey, seqR, aoutR, pbR, trgR, synR, synSt, almR, tinR,
      acmpR, klR, capR] at * <;> omega) :
    t.fldv v o hi lo = s.fldv v o hi lo := by
  simp only [State.fldv, h.rdv v o ho]

/-- The stores read as before where their contents stand. -/
theorem Frame.sameStores (h : Frame P K s t) (hs : Aspect.stores ∉ P := by decide) : SameStores s t := by
  obtain ⟨hv, hm, hn, hr, hl⟩ := h.keeps .stores hs
  have hb : t.mem.blank = s.mem.blank := by funext a; simp [MemSt.blank, hl]
  have hnb : t.mem.nvmBlank = s.mem.nvmBlank := by funext a; simp [MemSt.nvmBlank, hr]
  exact ⟨fun a => by simp [State.vatB, hv, hb], fun a => by simp [State.memB, hm, hb], fun a => by simp [State.nvmB, hn, hnb]⟩

theorem Frame.act (h : Frame P K s t) (a : ActId) (ha : Aspect.acts ∉ P := by decide) : t.act a = s.act a := by
  simp only [State.act, show t.acts = s.acts from h.keeps .acts ha]

/-! ### The frames of the named updates -/

variable (s)

theorem State.setKey_frame (k : Nat) (x : Word) : Frame [] (· = k) s (s.setKey k x) :=
  ⟨fun p _ => by cases p <;> simp [State.Keeps], fun _ hj => s.getKey_setKey_ne x hj⟩

theorem State.wr_frame (o : Nat) (x : Word) : Frame [] (· = o) s (s.wr o x) := s.setKey_frame o x
theorem State.wrv_frame (v o : Nat) (x : Word) : Frame [] (· = viKey v o) s (s.wrv v o x) := s.setKey_frame _ x
theorem State.wfld_frame (o hi lo x : Nat) : Frame [] (· = o) s (s.wfld o hi lo x) := s.setKey_frame o _
theorem State.wfldv_frame (v o hi lo x : Nat) : Frame [] (· = viKey v o) s (s.wfldv v o hi lo x) := s.setKey_frame _ _

theorem State.setCy_frame (k : Nat) (c : Cyc) : Frame [.cyc] noKey s (s.setCy k c) :=
  .part rfl fun p hp => by cases p <;> simp [State.Keeps, State.setCy] at hp ⊢
theorem State.touch_frame (k : Nat) (m : Word) : Frame [.cyc] noKey s (s.touch k m) := s.setCy_frame _ _

theorem State.wbit_frame (o i : Nat) (b : Bool) : Frame [.cyc] (· = o) s (s.wbit o i b) := by
  unfold State.wbit
  cases b
  · exact (s.wr_frame _ _).mono
  · exact ((s.wr_frame o _).mono).then (State.touch_frame _ _ _)

theorem State.wbitv_frame (v o i : Nat) (b : Bool) : Frame [.cyc] (· = viKey v o) s (s.wbitv v o i b) := by
  unfold State.wbitv
  cases b
  · exact (s.wrv_frame _ _ _).mono
  · exact ((s.wrv_frame v o _).mono).then (State.touch_frame _ _ _)

theorem State.tally_frame (k : Nat) (f : Word → Word) : Frame [.cyc] (· = k) s (s.tally k f) :=
  ((s.setKey_frame k _).mono).then (State.setCy_frame _ _ _)

theorem State.after_frame (tu : Nat) (c : Instr) : Frame [.agenda] noKey s (s.after tu c) :=
  .part rfl fun p hp => by cases p <;> simp [State.Keeps, State.after] at hp ⊢
theorem State.at_frame (t : Nat) (c : Instr) : Frame [.agenda] noKey s (s.at_ t c) :=
  .part rfl fun p hp => by cases p <;> simp [State.Keeps, State.at_] at hp ⊢


/-- What changes one part beside the registers has the frame of that part. -/
theorem State.fresh_frame : Frame [.free] noKey s s.fresh :=
  .part rfl fun p hp => by cases p <;> simp [State.Keeps, State.fresh] at hp ⊢
theorem State.answer_frame (w : Word) : Frame [.rdata] noKey s (s.answer w) :=
  .part rfl fun p hp => by cases p <;> simp [State.Keeps, State.answer] at hp ⊢
theorem State.makeReady_frame (l : List OutMsg) : Frame [.out] noKey s (s.makeReady l) :=
  .part rfl fun p hp => by cases p <;> simp [State.Keeps, State.makeReady] at hp ⊢
theorem State.cancel_frame (c : Instr) : Frame [.agenda, .agendaGrows] noKey s (s.cancel c) :=
  .part rfl fun p hp => by cases p <;> simp [State.Keeps, State.cancel] at hp ⊢
theorem State.setAct_frame (a : ActId) (x : Act) : Frame [.acts] noKey s (s.setAct a x) :=
  .part rfl fun p hp => by cases p <;> simp [State.Keeps, State.setAct] at hp ⊢
theorem State.setSq_frame (k : Nat) (x : SeqSt) : Frame [.seqs] noKey s (s.setSq k x) :=
  .part rfl fun p hp => by cases p <;> simp [State.Keeps, State.setSq] at hp ⊢
theorem State.setAo_frame (n : Nat) (x : AoutSt) : Frame [.aouts, .phaseRefs] noKey s (s.setAo n x) :=
  .part rfl fun p hp => by cases p <;> simp [State.Keeps, State.setAo] at hp ⊢
theorem State.setPb_frame (k : Nat) (x : PbSt) : Frame [.pbs] noKey s (s.setPb k x) :=
  .part rfl fun p hp => by cases p <;> simp [State.Keeps, State.setPb] at hp ⊢
theorem State.setTrg_frame (n : Nat) (x : TrgSt) : Frame [.trgs] noKey s (s.setTrg n x) :=
  .part rfl fun p hp => by cases p <;> simp [State.Keeps, State.setTrg] at hp ⊢
theorem State.setSy_frame (x : Nat) (y : SynSt) : Frame [.syn] noKey s (s.setSy x y) :=
  .part rfl fun p hp => by cases p <;> simp [State.Keeps, State.setSy] at hp ⊢
theorem State.setVi_frame (v : Nat) (x : ViSt) : Frame [.vis] noKey s (s.setVi v x) :=
  .part rfl fun p hp => by cases p <;> simp [State.Keeps, State.setVi] at hp ⊢
theorem State.setSem_frame (n : Nat) (x : SemSt) : Frame [.sems] noKey s (s.setSem n x) :=
  .part rfl fun p hp => by cases p <;> simp [State.Keeps, State.setSem] at hp ⊢
theorem State.setLde_frame (e : Nat) (x : LdeSt) : Frame [.mem] noKey s (s.setLde e x) :=
  .part rfl fun p hp => by cases p <;> simp [State.Keeps, State.setLde] at hp ⊢
theorem State.setTin_frame (n : Nat) (x : TinSt) : Frame [.tins] noKey s (s.setTin n x) :=
  .part rfl fun p hp => by cases p <;> simp [State.Keeps, State.setTin] at hp ⊢
theorem State.setAcmp_frame (n : Nat) (x : AcmpSt) : Frame [.acmps] noKey s (s.setAcmp n x) :=
  .part rfl fun p hp => by cases p <;> simp [State.Keeps, State.setAcmp] at hp ⊢
theorem State.setKp_frame (p : Nat) (x : PortSt) : Frame [.kl] noKey s (s.setKp p x) :=
  .part rfl fun p hp => by cases p <;> simp [State.Keeps, State.setKp] at hp ⊢
theorem State.emit_frame (p hops : Nat) (k : Pkt) : Frame [.kl] noKey s (s.emit p hops k) :=
  .part rfl fun p hp => by cases p <;> simp [State.Keeps, State.emit] at hp ⊢
theorem State.setDom_frame (d c : Nat) : Frame [.mode, .doms] noKey s (s.setDom d c) :=
  .part rfl fun p hp => by cases p <;> simp [State.Keeps, State.setDom] at hp ⊢
theorem State.setTrans_frame (t : Trans) : Frame [.mode, .trans] noKey s (s.setTrans t) :=
  .part rfl fun p hp => by cases p <;> simp [State.Keeps, State.setTrans] at hp ⊢
theorem State.assertSrc_frame (x : Src) : Frame [.fab, .inflight] noKey s (s.assertSrc x) := by
  unfold State.assertSrc
  exact .ite (fun _ => .part rfl) fun _ => .refl
theorem State.fireP_frame (p : Nat) : Frame [.fab, .inflight] noKey s (s.fireP p) := s.assertSrc_frame _

/-! ### Interrupts and fault records -/

/-- VI_IRQ_PEND of some VI. -/
abbrev pendKey : Nat → Prop := fun k => 0x4000 ≤ k ∧ k % 0x4000 = 0x180

theorem State.pend_frame (v i : Nat) : Frame [.cyc, .out] pendKey s (s.pend v i) :=
  ((s.wbitv_frame v 0x180 i true).mono).then (State.makeReady_frame _ _)

theorem State.pendAll_frame (i : Nat) : Frame [.cyc, .out] pendKey s (s.pendAll i) :=
  Frame.each (fun v _ s => s.pend_frame v i) s

theorem State.pendOwner_frame (c : Kind) (r i : Nat) : Frame [.cyc, .out] pendKey s (s.pendOwner c r i) := by
  unfold State.pendOwner
  split
  · exact s.pend_frame _ _
  · exact .refl

end Sys2Proof.Machine
end

section
/-! SUPPORT. Frames of the shared operations: the late rule, halting and parking, the modes and domains, the synthesizers,
and the releases of what waits. -/

namespace Sys2Proof.Machine

-- Proofs one after another: many that wait in threads of their own would pass the check's memory limit.
set_option Elab.async false

variable {P : List Aspect} {K : Nat → Prop} (s : State)

/-! ### The late rule -/

/-- The registers that record a late judgement: device registers from ALM_LATE0 on, among them none that ends in 0x10 or 0x50 above
the display's, and registers of the VIs. -/
abbrev lateKey : Nat → Prop := fun k => 0x580 ≤ k ∧ (k < 0x3000 ∨ k % 0x40 ≠ 0x10)

theorem State.lateRecord_frame (v inst kind : Nat) (l : Word) (dropped : Bool) :
    Frame [.cyc, .out] (fun k => 0x4000 ≤ k ∧ (k % 0x4000 = 0x180 ∨ k % 0x4000 = 0x52C ∨ k % 0x4000 = 0x530 ∨ k % 0x4000 = 0x534)) s
      (s.lateRecord v inst kind l dropped) := by
  unfold State.lateRecord
  exact ((((State.tally_frame s (viKey v 0x52C) _).mono).then (State.wrv_frame _ v 0x530 l)).then
    (State.wrv_frame _ v 0x534 _)).then (State.pend_frame _ v 13)

/-- The flags and the lateness register of an action lie among the late registers. -/
theorem lateRegs_lateKey {kind i k lb db lr : Nat} (hi : i < 512) (h : lateRegs kind i = some (k, lb, db, lr)) :
    lateKey k ∧ (lr ≠ 0 → lateKey lr) := by
  unfold lateRegs at h
  simp only [devKey, viKey] at h
  split_ifs at h <;> simp only [Option.some.injEq, Prod.mk.injEq] at h <;> omega

theorem armedBit_lateKey {kind i k b : Nat} (hi : i < 512) (h : armedBit kind i = some (k, b)) : lateKey k := by
  unfold armedBit at h
  simp only [devKey, viKey] at h
  split_ifs at h <;> simp only [Option.some.injEq, Prod.mk.injEq] at h <;> omega

theorem State.markArmed_frame (a : ActId) (b : Bool) : Frame [] lateKey s (s.markArmed a b) := by
  unfold State.markArmed
  split
  · next k i h =>
    have := armedBit_lateKey a.inst.isLt h
    exact (s.setKey_frame k _).mono
  · exact .refl

/-- The flags of an action's own that a late judgement sets. -/
def State.lateFlags (s : State) (a : ActId) (l : Word) (dropped : Bool) : State :=
  match lateRegs a.kind.val a.inst.val with
  | some (k, lb, db, lr) =>
    let s := s.setKey k (setBit (s.getKey k) lb true)
    let s := if dropped then s.setKey k (setBit (s.getKey k) db true) else s
    if lr = 0 then s else s.setKey lr l
  | none => s

theorem State.recordLate_eq (a : ActId) (l : Word) (dropped : Bool) :
    s.recordLate a l dropped = (s.lateFlags a l dropped).lateRecord ((s.lateFlags a l dropped).actVi a.kind.val a.inst.val).1
      ((s.lateFlags a l dropped).actVi a.kind.val a.inst.val).2 a.kind.val l dropped := rfl

theorem State.lateFlags_frame (a : ActId) (l : Word) (dropped : Bool) : Frame [] lateKey s (s.lateFlags a l dropped) := by
  unfold State.lateFlags
  split
  · next k lb db lr h =>
    obtain ⟨hk, hlr⟩ := lateRegs_lateKey a.inst.isLt h
    have h1 : Frame [] lateKey s (s.setKey k (setBit (s.getKey k) lb true)) := (s.setKey_frame k _).mono
    have h2 : Frame [] lateKey s (if dropped then (s.setKey k (setBit (s.getKey k) lb true)).setKey k
        (setBit ((s.setKey k (setBit (s.getKey k) lb true)).getKey k) db true) else s.setKey k (setBit (s.getKey k) lb true)) :=
      .ite (fun _ => h1.then (State.setKey_frame _ k _)) fun _ => h1
    exact .ite (fun _ => h2) fun hne => h2.then (State.setKey_frame _ lr l) (hK := fun j hj => hj ▸ hlr hne)
  · exact .refl

theorem State.recordLate_frame (a : ActId) (l : Word) (dropped : Bool) :
    Frame [.cyc, .out] lateKey s (s.recordLate a l dropped) := by
  rw [State.recordLate_eq]
  exact ((s.lateFlags_frame a l dropped).mono).then (State.lateRecord_frame _ _ _ _ _ _)

theorem State.judgeAt_frame (ahead : Nat) (a : ActId) (x : Act) (now : Time) :
    Frame [.cyc, .out, .acts] lateKey s (State.judgeAt ahead s a x now) := by
  have hr := s.recordLate_frame a (sat32 (2048 - lead x.target now).toNat) x.drop
  unfold State.judgeAt
  refine .ite (fun _ => .ite (fun _ => ?_) fun _ => ?_) fun _ => ?_
  · exact ((hr.mono).then (State.setAct_frame _ a _)).then (State.markArmed_frame _ a false)
  · exact (hr.mono).then (State.setAct_frame _ a _)
  · exact (s.setAct_frame a _).mono

theorem State.judge_frame (a : ActId) (x : Act) (now : Time) : Frame [.cyc, .out, .acts] lateKey s (s.judge a x now) :=
  s.judgeAt_frame 0 a x now

theorem State.disarm_frame (a : ActId) : Frame [.acts] lateKey s (s.disarm a) :=
  ((s.setAct_frame a _).mono).then (State.markArmed_frame _ a false)

theorem State.reexamine_frame (ahead : Nat) (now : Time) (p : Nat → Bool) :
    Frame [.cyc, .out, .acts] lateKey s (s.reexamine ahead now p) :=
  Frame.each (fun _ _ s => s.judgeAt_frame _ _ _ _) s

theorem State.deferredNow_frame : Frame [.agenda] noKey s s.deferredNow := Frame.each (fun _ _ s => s.after_frame _ _) s

theorem State.recordStep_frame (d : Time) : Frame [.cyc] (fun k => k = 0x504 ∨ k = 0x51C ∨ k = 0x520) s (s.recordStep d) :=
  (((s.wr_frame 0x51C _).mono).then (State.wr_frame _ 0x520 _)).then (State.wbit_frame _ 0x504 8 true)

/-! ### Releases of what waits -/

theorem State.releaseAcc_frame (p : HostAcc → Bool) : Frame [.agenda, .mode, .heldAcc] noKey s (s.releaseAcc p) := by
  unfold State.releaseAcc
  have h : Frame [.agenda, .mode, .heldAcc] noKey s
      { s with mode := { s.mode with heldAcc := s.mode.heldAcc.filter fun a => !p a } } := .part rfl
  exact h.trans (Frame.each (fun _ _ s => (s.after_frame _ _).mono) _)

theorem State.releaseAper_frame : Frame [.agenda, .mode, .heldAcc, .mem] noKey s s.releaseAper := by
  have h : Frame [.agenda, .mode, .heldAcc, .mem] noKey s { s with mem := { s.mem with heldAper := [] } } := .part rfl
  unfold State.releaseAper
  exact .ite (fun _ => h) fun _ => (h.trans (Frame.each (fun _ _ s => (s.after_frame _ _).mono) _)).then (State.releaseAcc_frame _ _)

theorem State.releaseAll_frame : Frame [.agenda, .mode, .heldAcc, .mem] noKey s s.releaseAll :=
  s.releaseAper_frame.then (State.releaseAcc_frame _ _)

/-! ### The modes -/

/-- An update of the mode's own state that leaves the mode, the transition, the domains and what is held. -/
theorem State.modeRest_frame {m : ModeSt} (he : m.eff = s.mode.eff := by rfl) (ht : m.trans = s.mode.trans := by rfl)
    (hd : m.doms = s.mode.doms := by rfl) (ha : m.heldAcc = s.mode.heldAcc := by rfl) (hv : m.svc = s.mode.svc := by rfl)
    (hb : m.supplyBad = s.mode.supplyBad := by rfl) : Frame [.mode] noKey s { s with mode := m } :=
  .part rfl fun p hp => by cases p <;> simp_all [State.Keeps]

theorem State.setEff_frame (m : Mode) : Frame [.cyc, .out, .mode, .eff] pendKey s (s.setEff m) := by
  have h : Frame [.cyc, .out, .mode, .eff] noKey s { s with mode := { s.mode with eff := m } } := .part rfl
  unfold State.setEff
  exact .ite (fun _ => .refl) fun _ => h.mono.then (State.pendAll_frame _ 24)

theorem State.startHold_frame : Frame [.agenda, .mode] noKey s s.startHold := by
  have h (t : Nat) : Frame [.agenda, .mode] noKey s
      (({ s with mode := { s.mode with holdUntil := t } } : State).at_ t .holdExpiry) :=
    (s.modeRest_frame.mono).then (State.at_frame _ _ _)
  exact h _

theorem State.wakeDoms_frame : Frame [.agenda, .mode, .doms] noKey s s.wakeDoms := by
  unfold State.wakeDoms
  refine Frame.trans (Frame.each (fun _ _ s => (s.setDom_frame _ _).mono) s) (Frame.each (fun d _ s => ?_) _)
  refine .ite (fun _ => .ite (fun _ => (s.setDom_frame _ _).mono) fun _ => ?_) fun _ => (s.setDom_frame _ _).mono
  exact ((s.setDom_frame _ _).mono).then (State.after_frame _ _ _)

theorem State.wakeTry_frame (x : Nat) : Frame [.agenda] noKey s (s.wakeTry x) := by
  unfold State.wakeTry
  exact .ite (fun _ => s.after_frame _ _) fun _ => .refl

theorem State.startWake_frame (src : List WakeSrc) (t : Trans) :
    Frame [.cyc, .agenda, .mode, .trans, .doms, .syn] (· = 0x430) s (s.startWake src t) := by
  unfold State.startWake
  extract_lets s1 m s2 s3 s4
  have h1 : Frame [.cyc, .agenda, .mode, .trans, .doms, .syn] (· = 0x430) s s1 :=
    ((((s.wr_frame 0x430 _).mono).then (State.touch_frame _ _ _)).then (State.setTrans_frame _ t)).then (State.wakeDoms_frame _)
  clear_value s1
  have h2 : Frame [.mode] noKey s1 s2 := s1.modeRest_frame
  clear_value s2
  have h3 : Frame [.agenda, .mode] noKey s2 s3 := s2.startHold_frame
  have h4 : Frame [.agenda, .syn] noKey s3 s4 :=
    Frame.each (fun x _ s => ((s.setSy_frame x _).mono).then (State.wakeTry_frame _ x)) s3
  exact (((h1.then h2).then h3).then h4).then (State.after_frame _ _ _)

/-- What a review of the effective mode leaves alone (R104). -/
theorem State.reviewMode_frame : Frame [.cyc, .out, .agenda, .mode, .eff, .trans, .doms, .syn] (fun k => pendKey k ∨ k = 0x430) s
    s.reviewMode := by
  unfold State.reviewMode
  refine .ite (fun _ => .refl) fun _ => ?_
  split
  · exact .ite (fun _ => .ite (fun _ => (s.setEff_frame _).mono) fun _ => .refl)
      fun _ => .ite (fun _ => (s.after_frame _ _).mono) fun _ => .refl
  · exact .ite (fun _ => .refl) fun _ => (s.after_frame _ _).mono
  · exact .ite (fun _ => (s.startWake_frame _ _).mono) fun _ => .refl
  · exact .refl

/-! ### Shadows -/

theorem State.stage_frame (k : Nat) (v : Word) : Frame [.shadows] noKey s (s.stage k v) :=
  .part rfl fun p hp => by cases p <;> simp [State.Keeps, State.stage] at hp ⊢

theorem State.applyKey_frame (k : Nat) : Frame [.cyc, .shadows] (· = k) s (s.applyKey k) := by
  unfold State.applyKey
  split
  · exact .refl
  · next x _ =>
    have h : Frame [.cyc, .shadows] (· = k) s
        (if (s.cy k).was.isSome then s.setCy k { s.cy k with was := some none } else s) :=
      .ite (fun _ => (s.setCy_frame k _).mono) fun _ => .refl
    exact (h.then (State.setKey_frame _ k x)).then (State.stage_frame _ k _)

/-- A boundary changes only the registers whose shadows it applies. -/
theorem State.boundary_frame (p : Nat → Bool) : Frame [.cyc, .shadows] (p · = true) s (s.boundary p) := by
  refine Frame.each (fun k hk s => (s.applyKey_frame k).mono (hK := ?_)) s
  rintro j rfl
  exact (List.mem_filter.mp hk).2

/-! ### Synthesizers -/

/-- The registers of sequencers, segment memory, synthesizers, channels, banks, triggers, inputs and the scan-out. -/
abbrev playKey : Nat → Prop := fun k => 0x1000 ≤ k ∧ k < 0x3000

theorem State.cutTrg_frame {n : Nat} (hn : n < 8) : Frame [.cyc, .trgs] playKey s (s.cutTrg n) :=
  ((s.setTrg_frame n _).mono).then (State.wbit_frame _ _ 1 false)

theorem State.mute_frame {x : Nat} (hx : x < 4) : Frame [.cyc, .agenda, .syn, .seqs, .trgs] playKey s (s.mute x) := by
  unfold State.mute
  refine .ite (fun _ => .refl) fun _ => ?_
  extract_lets src s1 s2
  have h1 : Frame [.cyc, .agenda, .syn, .seqs, .trgs] playKey s s1 :=
    ((s.wbit_frame (synSt x) 1 true).mono).then (State.setSy_frame _ x _)
  have h2 : Frame [.cyc, .agenda, .syn, .seqs, .trgs] playKey s s2 := by
    refine h1.trans (Frame.each (fun k hk s => ?_) s1)
    have hk' : k < 16 := List.mem_range.mp (List.mem_filter.mp hk).1
    exact ((s.wbit_frame (seqR k + 8) 18 true).mono).then (State.setSq_frame _ k _)
  refine .ite (fun _ => h2.trans (Frame.each (fun n hn s => ?_) s2)) fun _ => .ite (fun _ => ?_) fun _ => h2
  · have hn' : n < 8 := List.mem_range.mp (List.mem_filter.mp hn).1
    exact ((s.cutTrg_frame hn').mono).then (State.wbit_frame _ (trgR n + 8) 5 true)
  · exact (h2.then (State.wbit_frame _ 0x2C08 12 true)).then (State.after_frame _ 0 _)

theorem State.noWindows_frame (x : Nat) : Frame [.agenda, .agendaGrows] noKey s (s.noWindows x) :=
  .part rfl fun p hp => by cases p <;> simp [State.Keeps, State.noWindows] at hp ⊢

theorem State.startLoop_frame {x : Nat} (hx : x < 4) : Frame [.cyc, .agenda, .agendaGrows, .syn] playKey s (s.startLoop x) := by
  unfold State.startLoop
  extract_lets s1 y s2 src
  have h1 : Frame [.cyc, .agenda, .agendaGrows, .syn] playKey s s1 :=
    (((s.wbit_frame (synSt x) 0 false).mono).then (State.wbit_frame _ (synSt x) 4 false)).then (State.noWindows_frame _ x)
  have h2 : Frame [.cyc, .agenda, .agendaGrows, .syn] playKey s s2 := h1.then (State.setSy_frame _ x _)
  exact .ite (fun _ => h2.then (State.after_frame _ _ _)) fun _ => h2

theorem State.startFresh_frame {x : Nat} (hx : x < 4) : Frame [.cyc, .agenda, .agendaGrows, .syn] playKey s (s.startFresh x) :=
  ((s.setSy_frame x _).mono).then (State.startLoop_frame _ hx)

theorem State.refStops_frame (src : Nat) : Frame [.agenda] noKey s (s.refStops src) :=
  Frame.each (fun _ _ s => s.after_frame _ _) s

theorem State.stopFclk_frame : Frame [.cyc, .time, .fclk] (· = 0x504) s s.stopFclk := by
  unfold State.stopFclk
  have h : Frame [.cyc, .time, .fclk] noKey s { s with time := { s.time with
      fclk := false, handoff := false, setNext := none, setAtEdge := (s.time.setNext <|> s.time.setAtEdge) } } := .part rfl
  exact (h.mono.then (State.wbit_frame _ 0x504 5 true)).then (State.wbit_frame _ 0x504 6 false)

/-- What an apply of a divider may change (R185, R186). -/
theorem State.applySyn_frame {x : Nat} (hx : x < 4) :
    Frame [.shadows, .cyc, .agenda, .agendaGrows, .time, .fclk, .syn, .seqs, .trgs] (fun k => playKey k ∨ k = 0x504) s (s.applySyn x) := by
  unfold State.applySyn
  extract_lets r d en s1 s2 y s3 s4 s5 y' s6
  have h1 : Frame [.cyc, .agenda, .syn, .seqs, .trgs] playKey s s1 := .ite (fun _ => s.mute_frame hx) fun _ => .refl
  have h2 : Frame [.cyc, .agenda, .syn, .seqs, .trgs] playKey s s2 :=
    (h1.then (State.wr_frame _ (synR x + 0x10) 0)).then (State.wbit_frame _ (synSt x) 2 false)
  have h3 : Frame [.shadows, .cyc, .agenda, .agendaGrows, .syn, .seqs, .trgs] playKey s s3 :=
    (h2.mono).then (State.setSy_frame s2 x _)
  have h4 : Frame [.shadows, .cyc, .agenda, .agendaGrows, .syn, .seqs, .trgs] playKey s s4 := by
    refine h3.then (State.boundary_frame s3 _) (hK := fun k hk => ?_)
    simp only [synShadow, synR, Bool.or_eq_true, decide_eq_true_eq] at hk
    omega
  have h5 : Frame [.shadows, .cyc, .agenda, .agendaGrows, .syn, .seqs, .trgs] playKey s s5 :=
    (h4.then (State.startFresh_frame s4 hx)).then (State.wbit_frame _ (synSt x) 5 false)
  have h6 : Frame [.shadows, .cyc, .agenda, .agendaGrows, .time, .fclk, .syn, .seqs, .trgs] (fun k => playKey k ∨ k = 0x504) s s6 :=
    (h5.mono).then (State.setSy_frame s5 x _)
  refine .ite (fun _ => (h4.then (State.wbit_frame _ (synSt x) 5 false)).mono) fun _ => .ite (fun _ => ?_) fun _ => h6
  exact ((h6.then (State.stopFclk_frame s6)).then (State.refStops_frame _ 4)).then (State.after_frame _ _ _)

theorem State.synBoundary_frame {x : Nat} (hx : x < 4) :
    Frame [.shadows, .cyc, .agenda, .agendaGrows, .time, .fclk, .syn, .seqs, .trgs] (fun k => playKey k ∨ k = 0x504) s
      (s.synBoundary x) := by
  unfold State.synBoundary
  refine .ite (fun _ => .refl) fun _ => .ite (fun _ => (s.wbit_frame (synSt x) 10 true).mono) fun _ =>
    .ite (fun _ => (s.wbit_frame (synSt 0) 10 true).mono) fun _ => s.applySyn_frame hx

theorem State.almSynths_frame (n : Nat) :
    Frame [.shadows, .cyc, .agenda, .agendaGrows, .time, .fclk, .syn, .seqs, .trgs] (fun k => playKey k ∨ k = 0x504) s
      (s.almSynths n) :=
  Frame.each (fun _ hx s => s.synBoundary_frame (List.mem_range.mp (List.mem_filter.mp hx).1)) s

/-- An alarm with no divider bound to it applies none (R184). -/
theorem State.almSynths_unbound (n : Nat) (h : ∀ x < 4, s.bit (synR x) 4 = false) : s.almSynths n = s := by
  have he : (List.range 4).filter (fun x => s.bit (synR x) 4 && s.fld (synR x) 11 8 == n) = [] := by
    simp only [List.filter_eq_nil_iff, List.mem_range]
    intro x hx
    simp [h x hx]
  simp [State.almSynths, he, State.each]

end Sys2Proof.Machine
end

section
/-! Settles O11: the late rule at the arming moment, and the clearing of the late records (R40 to R44, R514). -/

namespace Sys2Proof.Machine

-- Proofs one after another: many that wait in threads of their own would pass the check's memory limit.
set_option Elab.async false

variable (s : State)

/-! ### The VI that keeps the record -/

/-- The owner of a resource stands in the partition's registers. -/
theorem Frame.ownerVi {P : List Aspect} {K : Nat → Prop} {s t : State} (h : Frame P K s t) (c : Kind) (i : Nat)
    (hf : ¬ K 0x3C08) (hb : ¬ K (c.base + 4 * (i / 4))) : t.ownerVi c i = s.ownerVi c i := by
  have ho : t.owner c i = s.owner c i := by
    unfold State.owner State.inForce
    rw [h.bit _ _ hf, h.rd _ hb]
  simp only [State.ownerVi, ho]

/-- The registers outside the partition and what lies about it. -/
abbrev lateOwnKey : Nat → Prop := fun k => k < 0x3000 ∨ 0x4000 ≤ k

theorem lateRegs_lateOwnKey {a : ActId} (hw : a.wf = true) {k lb db lr : Nat}
    (h : lateRegs a.kind.val a.inst.val = some (k, lb, db, lr)) : lateOwnKey k ∧ lateOwnKey lr := by
  unfold lateRegs at h
  unfold ActId.wf at hw
  simp only [devKey, viKey] at h
  split_ifs at h with h1 h3 h4 h5 h6 h8 <;> simp only [Option.some.injEq, Prod.mk.injEq] at h <;>
    simp_all only [decide_eq_true_eq] <;> omega

theorem State.lateFlags_own_frame {a : ActId} (hw : a.wf = true) (l : Word) (dropped : Bool) :
    Frame [] lateOwnKey s (s.lateFlags a l dropped) := by
  unfold State.lateFlags
  split
  · next k lb db lr h =>
    obtain ⟨hk, hlr⟩ := lateRegs_lateOwnKey hw h
    have h1 : Frame [] lateOwnKey s (s.setKey k (setBit (s.getKey k) lb true)) := (s.setKey_frame k _).mono
    have h2 : Frame [] lateOwnKey s (if dropped then (s.setKey k (setBit (s.getKey k) lb true)).setKey k
        (setBit ((s.setKey k (setBit (s.getKey k) lb true)).getKey k) db true) else s.setKey k (setBit (s.getKey k) lb true)) :=
      .ite (fun _ => h1.then (State.setKey_frame _ k _)) fun _ => h1
    exact .ite (fun _ => h2) fun _ => h2.then (State.setKey_frame _ lr l)
  · exact .refl

/-- An action's own late flags leave the VI that keeps its record. -/
theorem State.lateFlags_actVi {a : ActId} (hw : a.wf = true) (l : Word) (dropped : Bool) :
    ((s.lateFlags a l dropped).actVi a.kind.val a.inst.val).1 = (s.actVi a.kind.val a.inst.val).1 := by
  have hf := s.lateFlags_own_frame hw l dropped
  have own (c : Kind) (h : a.inst.val < 16) : (s.lateFlags a l dropped).ownerVi c a.inst.val = s.ownerVi c a.inst.val :=
    hf.ownerVi c _ (by omega) (by cases c <;> simp only [Kind.base] <;> omega)
  cases hr : lateRegs a.kind.val a.inst.val with
  | none => simp [State.lateFlags, hr]
  | some r =>
    have hk : a.kind.val = 1 ∨ a.kind.val = 3 ∨ a.kind.val = 4 ∨ a.kind.val = 5 ∨ a.kind.val = 6 ∨ a.kind.val = 8 := by
      unfold lateRegs at hr
      split_ifs at hr <;> omega
    have hm : (s.lateFlags a l dropped).ownerVi .misc 0 = s.ownerVi .misc 0 :=
      hf.ownerVi .misc 0 (by omega) (by simp [Kind.base])
    rcases hk with h | h | h | h | h | h <;> simp [ActId.wf, h] at hw <;> simp [State.actVi, h, hm]
    all_goals exact own _ (by omega)

/-- A late record in VI `v` shows the lateness in LATE_LAST. -/
theorem State.lateRecord_lateness (v inst kind : Nat) (l : Word) (dropped : Bool) :
    (s.lateRecord v inst kind l dropped).rdv v 0x530 = l := by
  unfold State.lateRecord
  rw [(State.pend_frame _ v 13).rdv v 0x530, (State.wrv_frame _ v 0x534 _).rdv v 0x530, State.rdv_wrv_self]

/-! ### The judgement -/

/-- An action with 2,048 TU or more to go is in time (R41). -/
theorem State.judge_inTime (a : ActId) (x : Act) (now : Time) (h : 2048 ≤ lead x.target now) :
    s.judge a x now = s.setAct a { x with defer := false } := by
  simp [State.judge, State.judgeAt, Int.not_lt.mpr h]

/-- A late action under LATE_DROP is dropped (R42). -/
theorem State.judge_late_drop (a : ActId) (x : Act) (now : Time) (h : lead x.target now < 2048) (hd : x.drop = true) :
    (s.judge a x now).act a = {} := by
  simp only [State.judge, State.judgeAt, h, hd, if_true]
  rw [(State.markArmed_frame _ a false).act, State.act_setAct_self]

/-- A late action under LATE_FIRE acts no earlier than its earliest moment (R43), and its lateness is in its VI's record (R44). -/
theorem State.judge_late_fire (a : ActId) (x : Act) (now : Time) (hw : a.wf = true) (h : lead x.target now < 2048)
    (hd : x.drop = false) :
    (s.judge a x now).act a = { x with defer := false, late := true, earliest := s.time.mono + earliestDelay a.kind.val } ∧
      (s.judge a x now).rdv (s.actVi a.kind.val a.inst.val).1 0x530 = sat32 (2048 - lead x.target now).toNat := by
  have ht : (s.recordLate a (sat32 (2048 - lead x.target now).toNat) false).time = s.time :=
    (s.recordLate_frame a _ _).keeps .time (by decide)
  have he : s.judge a x now = (s.recordLate a (sat32 (2048 - lead x.target now).toNat) false).setAct a
      { x with defer := false, late := true, earliest := s.time.mono + earliestDelay a.kind.val } := by
    simp [State.judge, State.judgeAt, h, hd, ht]
  rw [he]
  refine ⟨State.act_setAct_self _ _ _, ?_⟩
  rw [(State.setAct_frame _ a _).rdv _ _, State.recordLate_eq, ← s.lateFlags_actVi hw]
  exact State.lateRecord_lateness _ _ _ _ _ _

/-- At its arming moment a deferred action is judged (R40). -/
theorem exec_deferredArming {a : ActId} (ha : (s.act a).armed = true) (hf : (s.act a).defer = true) (hr : s.actReady a = true) :
    exec (.deferredArming a) s = .next (s.judge a (s.act a) s.now) := by
  rw [show exec (.deferredArming a) s = execDeferredArming a s from rfl]
  simp [execDeferredArming, ha, hf, hr, ok]

theorem lateClr_clears (v : Fin 32) : Does (.lateClr v) s fun t =>
    t.rdv v 0x52C = (s.cy (viKey v 0x52C)).added ∧ t.rdv v 0x530 = 0 ∧ t.rdv v 0x534 = 0 ∧
      SameRegs [viKey v 0x52C, viKey v 0x530, viKey v 0x534] s t ∧ SameStores s t := by
  have h : Frame [] (fun k => k = viKey v 0x52C ∨ k = viKey v 0x530 ∨ k = viKey v 0x534) s
      (((s.clrCnt (viKey v 0x52C)).wrv v 0x530 0).wrv v 0x534 0) :=
    (((s.setKey_frame (viKey v 0x52C) _).mono).then (State.wrv_frame _ v 0x530 0)).then (State.wrv_frame _ v 0x534 0)
  refine ⟨_, rfl, ?_, ?_, State.rdv_wrv_self _ _ _ _, h.sameRegs _ (by simp), h.sameStores⟩
  · rw [(State.wrv_frame _ v 0x534 _).rdv _ _, (State.wrv_frame _ v 0x530 _).rdv _ _]
    exact State.getKey_setKey_self _ _ _
  · rw [(State.wrv_frame _ v 0x534 _).rdv _ _, State.rdv_wrv_self]

/-- Settles O11, by the three outcomes of the late judgement; the record's VI is the one the state names before the judgement, as the
action's own late flags lie outside the partition. -/
theorem lateActionsAreDroppedOrPutOff : Obligations.LateActionsAreDroppedOrPutOff := by
  refine ⟨fun s a hw ha hf hr => ⟨fun hl => ?_, fun hl hd => ?_, fun hl hd => ?_⟩, fun s v => lateClr_clears s v⟩
  · refine ⟨_, exec_deferredArming s ha hf hr, ?_⟩
    rw [s.judge_inTime a _ _ hl]
    have h := s.setAct_frame a { s.act a with defer := false }
    exact ⟨State.act_setAct_self _ _ _, h.sameRegs _ (by omega), h.sameStores⟩
  · exact ⟨_, exec_deferredArming s ha hf hr, s.judge_late_drop a _ _ hl hd⟩
  · refine ⟨_, exec_deferredArming s ha hf hr, ?_⟩
    obtain ⟨hact, hrec⟩ := s.judge_late_fire a (s.act a) s.now hw hl hd
    exact ⟨by rw [hact, ha], by rw [hact], by rw [hact], hrec⟩

end Sys2Proof.Machine
end

section
/-! SUPPORT. What a bit or a field reads after a write to another bit or field of the same register, and a 64-bit value after it is
written to its pair of registers. -/

namespace Sys2Proof.Machine

-- Proofs one after another: many that wait in threads of their own would pass the check's memory limit.
set_option Elab.async false

theorem tb_setFld {w : Nat} (x : BitVec w) (hi lo v j : Nat) (h : hi < w) (hl : lo ≤ hi) :
    tb (setFld x hi lo v) j = if lo ≤ j ∧ j ≤ hi then v.testBit (j - lo) else tb x j := by
  have hv : (BitVec.ofNat w ((v % 2 ^ (hi + 1 - lo)) <<< lo)).getLsbD j = (decide (lo ≤ j ∧ j ≤ hi) && v.testBit (j - lo)) := by
    by_cases hr : lo ≤ j ∧ j ≤ hi
    · have hj : j < w ∧ j - lo < hi + 1 - lo := by omega
      rw [BitVec.getLsbD_ofNat, Nat.testBit_shiftLeft, Nat.testBit_mod_two_pow]
      simp [hr, hj]
    · simp only [BitVec.getLsbD_ofNat, Nat.testBit_shiftLeft, Nat.testBit_mod_two_pow, hr, decide_false, Bool.false_and]
      by_cases hlo : lo ≤ j
      · have : ¬ j - lo < hi + 1 - lo := by omega
        simp [this]
      · simp [hlo]
  have hm : (BitVec.ofNat w ((2 ^ (hi + 1 - lo) - 1) <<< lo)).getLsbD j = decide (lo ≤ j ∧ j ≤ hi) := by
    rw [BitVec.getLsbD_ofNat, Nat.testBit_shiftLeft, Nat.testBit_two_pow_sub_one]
    by_cases hr : lo ≤ j ∧ j ≤ hi
    · have hj : j < w ∧ j - lo < hi + 1 - lo := by omega
      simp [hr, hj]
    · by_cases hlo : lo ≤ j
      · have : ¬ j - lo < hi + 1 - lo := by omega
        simp [hr, this]
      · simp [hlo]
  unfold tb setFld
  simp only [BitVec.getLsbD_or, BitVec.getLsbD_and, BitVec.getLsbD_not, hv, hm]
  by_cases hr : lo ≤ j ∧ j ≤ hi
  · simp [hr]
  · by_cases hj : j < w
    · simp [hr, hj]
    · simp [hr, BitVec.getLsbD_of_ge x j (by omega)]

/-- Words with the same bits in a field have the same field. -/
theorem bf_congr {w : Nat} {x y : BitVec w} {hi lo : Nat} (h : ∀ i, lo ≤ i → i ≤ hi → tb x i = tb y i) :
    bf x hi lo = bf y hi lo := by
  unfold bf
  apply Nat.eq_of_testBit_eq
  intro i
  by_cases hi' : i < hi + 1 - lo
  · have := h (lo + i) (by omega) (by omega)
    simpa [Nat.testBit_mod_two_pow, Nat.testBit_shiftRight, hi', tb, BitVec.getLsbD] using this
  · simp [Nat.testBit_mod_two_pow, hi']

theorem bf_setFld_ne {w : Nat} (x : BitVec w) {hi lo hi' lo' : Nat} (v : Nat) (h : hi < w) (hl : lo ≤ hi) (hd : hi < lo' ∨ hi' < lo) :
    bf (setFld x hi lo v) hi' lo' = bf x hi' lo' :=
  bf_congr fun i h1 h2 => by rw [tb_setFld x hi lo v i h hl, if_neg (by omega)]

theorem bf_setBit_ne {w : Nat} (x : BitVec w) {i hi lo : Nat} (b : Bool) (h : i < w) (hd : i < lo ∨ hi < i) :
    bf (setBit x i b) hi lo = bf x hi lo :=
  bf_congr fun j h1 h2 => by rw [tb_setBit x i j b h, if_neg (by omega)]

theorem tb_setFld_ne {w : Nat} (x : BitVec w) {hi lo i : Nat} (v : Nat) (h : hi < w) (hl : lo ≤ hi) (hd : i < lo ∨ hi < i) :
    tb (setFld x hi lo v) i = tb x i := by rw [tb_setFld x hi lo v i h hl, if_neg (by omega)]

variable (s : State)

theorem State.rd_wbit_self (o i : Nat) (b : Bool) : (s.wbit o i b).rd o = setBit (s.rd o) i b := by
  simp [State.rd, devKey]

theorem State.bit_wbit_ne (o : Nat) {i j : Nat} (b : Bool) (h : i < 32) (hd : j ≠ i) : (s.wbit o i b).bit o j = s.bit o j := by
  simp only [State.bit, s.rd_wbit_self, tb_setBit _ i j b h, if_neg hd]

theorem State.fld_wbit_ne (o : Nat) {i hi lo : Nat} (b : Bool) (h : i < 32) (hd : i < lo ∨ hi < i) :
    (s.wbit o i b).fld o hi lo = s.fld o hi lo := by
  simp only [State.fld, s.rd_wbit_self, bf_setBit_ne _ b h hd]

theorem State.bit_wfld_ne (o : Nat) {hi lo i : Nat} (v : Nat) (h : hi < 32) (hl : lo ≤ hi) (hd : i < lo ∨ hi < i) :
    (s.wfld o hi lo v).bit o i = s.bit o i := by
  simp only [State.bit, State.wfld, State.rd_wr_self, tb_setFld_ne _ v h hl hd]

theorem State.fld_wfld_ne (o : Nat) {hi lo hi' lo' : Nat} (v : Nat) (h : hi < 32) (hl : lo ≤ hi) (hd : hi < lo' ∨ hi' < lo) :
    (s.wfld o hi lo v).fld o hi' lo' = s.fld o hi' lo' := by
  simp only [State.fld, State.wfld, State.rd_wr_self, bf_setFld_ne _ v h hl hd]

/-- A 64-bit value is its two words. -/
theorem cat64_hi32_lo32 (v : BitVec 64) : cat64 (hi32 v) (lo32 v) = v := by
  unfold cat64 hi32 lo32
  apply BitVec.eq_of_getLsbD_eq
  intro i hi
  by_cases h : i < 32
  · simp [h, hi]
  · have h2 : i - 32 < 32 := by omega
    have h3 : 32 + (i - 32) = i := by omega
    simp [h, hi, h2, h3]

theorem State.rd64_wr64_self {lo hi : Nat} (v : BitVec 64) (h : lo ≠ hi) : (s.wr64 lo hi v).rd64 lo hi = v := by
  simp only [State.rd64, State.wr64, State.rd_wr_self, State.rd_wr_ne _ _ h, cat64_hi32_lo32]

theorem Frame.rd64 {P : List Aspect} {K : Nat → Prop} {s t : State} (h : Frame P K s t) (lo hi : Nat)
    (hl : ¬ K lo) (hh : ¬ K hi) : t.rd64 lo hi = s.rd64 lo hi := by
  simp only [State.rd64, h.rd lo hl, h.rd hi hh]

end Sys2Proof.Machine
end

section
/-! Settles O10: the keeper's reload and trim, the handoff, and the setting and slewing of the time (R12 to R27). -/

namespace Sys2Proof.Machine

-- Proofs one after another: many that wait in threads of their own would pass the check's memory limit.
set_option Elab.async false

variable (s : State)

/-- A change of the time's own state alone. -/
theorem State.withTime_frame (x : TimeSt) : Frame [.time, .fclk] noKey s { s with time := x } := .part rfl

theorem State.recordStep_bit (d : Time) : (s.recordStep d).bit 0x504 8 = true := State.bit_wbit_self _ _ _ _ (by omega)

theorem State.recordStep_rd64 (d : Time) : (s.recordStep d).rd64 0x51C 0x520 = d := by
  unfold State.recordStep
  rw [(State.wbit_frame _ 0x504 8 true).rd64 0x51C 0x520 (by omega) (by omega), State.rd64_wr64_self _ d (by omega)]

/-! ### The keeper -/

theorem keeperReload_reloads (ofs : Fin 32) (hf : s.time.fclk = true) (hh : s.time.handoff = false) :
    Does (.keeperReload ofs) s fun t => t.time.keep = s.time.fast + BitVec.ofNat 64 ofs.val ∧ t.time.frac = 0 ∧
      SameRegs [] s t ∧ SameStores s t := by
  unfold Does
  rw [show exec (.keeperReload ofs) s = execKeeperReload ofs s from rfl]
  simp only [execKeeperReload, hf, hh, Bool.not_false, Bool.and_self, if_true]
  generalize (if (s.trimmable && !s.bit 0x494 3) = true then s.time.keepEdges + 1 else 0) = n
  by_cases hn : n = 1025
  · simp only [hn, if_true]
    have h (x : TimeSt) (c : Instr) : Frame [.time, .fclk, .agenda] noKey s (({ s with time := x } : State).after 0 c) :=
      ((s.withTime_frame x).mono).then (State.after_frame _ 0 c)
    refine ⟨_, rfl, ?_⟩
    exact ⟨rfl, rfl, (h _ _).sameRegs _ (by omega), (h _ _).sameStores⟩
  · simp only [hn, if_false]
    refine ⟨_, rfl, ?_⟩
    exact ⟨rfl, rfl, (s.withTime_frame _).sameRegs _ (by omega), (s.withTime_frame _).sameStores⟩

/-- The state with a window's measurement `m`, of 16 bits, in the history (R14 to R16). -/
def State.withWindow (s : State) (m : Nat) : State :=
  let i := if s.bit 0x528 17 then (s.fld 0x528 31 28 + 1) % 16 else 0
  (((s.wfld 0x528 31 28 i).wbit 0x528 17 true).wfld 0x528 15 0 m).wr (0x540 + 4 * i)
    (BitVec.ofNat 32 ((BitVec.ofInt 8 (sext 16 (s.fld 0x2B88 15 0) / 16)).toNat * 0x10000 + m))

theorem State.withWindow_reads (m : Nat) (hm : m < 65536) :
    (s.withWindow m).fld 0x528 15 0 = m ∧ (s.withWindow m).bit 0x528 17 = true ∧
      (s.withWindow m).fld 0x528 31 28 = (if s.bit 0x528 17 then (s.fld 0x528 31 28 + 1) % 16 else 0) ∧
      (s.withWindow m).rd 0x524 = s.rd 0x524 := by
  unfold State.withWindow
  extract_lets i
  obtain ⟨hi, hv⟩ : i < 16 ∧ i = if s.bit 0x528 17 then (s.fld 0x528 31 28 + 1) % 16 else 0 :=
    ⟨by simp only [i]; split <;> omega, rfl⟩
  clear_value i
  have hw {u : State} (x : Word) : Frame [] (fun k => k = 0x540 + 4 * i) u (u.wr (0x540 + 4 * i) x) := u.wr_frame _ x
  refine ⟨?_, ?_, ?_, ?_⟩
  · rw [(hw _).fld 0x528 15 0, State.fld_wfld_self _ _ _ _ _ (by omega) (by omega)]
    omega
  · rw [(hw _).bit 0x528 17, State.bit_wfld_ne _ _ _ (by omega) (by omega) (by omega), State.bit_wbit_self _ _ _ _ (by omega)]
  · rw [(hw _).fld 0x528 31 28, State.fld_wfld_ne _ _ _ (by omega) (by omega) (by omega), State.fld_wbit_ne _ _ _ (by omega) (by omega),
      State.fld_wfld_self _ _ _ _ _ (by omega) (by omega), ← hv]
    omega
  · rw [(hw _).rd 0x524, (State.wfld_frame _ 0x528 15 0 m).rd 0x524, (State.wbit_frame _ 0x528 17 true).rd 0x524,
      (State.wfld_frame _ 0x528 31 28 i).rd 0x524]

/-- A window in range is recorded, and with AUTO moves TRIM. -/
theorem exec_keepTrimWindow_inRange (m : Int) (ht : s.trimmable = true) (hb : s.bit 0x494 3 = false) (hm : m.natAbs ≤ 25000) :
    exec (.keepTrimWindow m) s = .next (
      let u := s.withWindow (BitVec.ofInt 16 m).toNat
      if u.bit 0x524 16 then
        (u.wfld 0x524 15 0 (BitVec.ofInt 16 (u.keepTrim + tdiv (m - u.keepTrim) 8)).toNat).touch 0x524 0xFFFF
      else u) := by
  rw [show exec (.keepTrimWindow m) s = execKeepTrimWindow m s from rfl]
  simp only [execKeepTrimWindow, ht, hb, Bool.not_true, Bool.or_self, Bool.false_eq_true, if_false, if_neg (show ¬ 25000 < m.natAbs by omega)]
  exact (apply_ite ok _ _ _).symm

theorem keepTrimWindow_records (m : Int) (ht : s.trimmable = true) (hb : s.bit 0x494 3 = false) (hm : m.natAbs ≤ 25000) :
    Does (.keepTrimWindow m) s fun t =>
      t.fld 0x528 15 0 = (BitVec.ofInt 16 m).toNat ∧ t.bit 0x528 17 = true ∧
      t.fld 0x528 31 28 = (if s.bit 0x528 17 then (s.fld 0x528 31 28 + 1) % 16 else 0) ∧
      t.fld 0x524 15 0 = (if s.bit 0x524 16 then (BitVec.ofInt 16 (s.keepTrim + tdiv (m - s.keepTrim) 8)).toNat
        else s.fld 0x524 15 0) := by
  refine ⟨_, exec_keepTrimWindow_inRange s m ht hb hm, ?_⟩
  obtain ⟨h1, h2, h3, h4⟩ := s.withWindow_reads (BitVec.ofInt 16 m).toNat (BitVec.isLt _)
  have hk : (s.withWindow (BitVec.ofInt 16 m).toNat).keepTrim = s.keepTrim := by simp only [State.keepTrim, State.fld, h4]
  have ha : (s.withWindow (BitVec.ofInt 16 m).toNat).bit 0x524 16 = s.bit 0x524 16 := by simp only [State.bit, h4]
  generalize s.withWindow (BitVec.ofInt 16 m).toNat = u at h1 h2 h3 h4 hk ha ⊢
  simp only [ha, hk]
  split
  · have hf := ((u.wfld_frame 0x524 15 0 (BitVec.ofInt 16 (s.keepTrim + tdiv (m - s.keepTrim) 8)).toNat).mono
      (P := [.cyc]) (K := (· = 0x524))).then (State.touch_frame _ 0x524 0xFFFF)
    refine ⟨by rw [hf.fld 0x528 15 0, h1], by rw [hf.bit 0x528 17, h2], by rw [hf.fld 0x528 31 28, h3], ?_⟩
    rw [(State.touch_frame _ _ _).fld 0x524 15 0, State.fld_wfld_self _ _ _ _ _ (by omega) (by omega)]
    exact Nat.mod_eq_of_lt (BitVec.isLt _)
  · exact ⟨h1, h2, h3, by simp only [State.fld, h4]⟩

/-- A window out of range sets RANGE and nothing else. -/
theorem keepTrimWindow_outOfRange (m : Int) (ht : s.trimmable = true) (hb : s.bit 0x494 3 = false) (hm : 25000 < m.natAbs) :
    Does (.keepTrimWindow m) s fun t =>
      t.bit 0x528 16 = true ∧ SameRegs [devKey 0x528] s t ∧ t.fld 0x528 15 0 = s.fld 0x528 15 0 := by
  refine ⟨s.wbit 0x528 16 true, ?_, State.bit_wbit_self _ _ _ _ (by omega), (s.wbit_frame _ _ _).sameRegs _ (by simp [devKey]),
    s.fld_wbit_ne _ _ (by omega) (by omega)⟩
  rw [show exec (.keepTrimWindow m) s = execKeepTrimWindow m s from rfl]
  simp [execKeepTrimWindow, ht, hb, hm, ok]

/-! ### The handoff -/

/-- What the time is after a handoff's own part: the actions are judged anew and what waits is released, with no effect on the time. -/
theorem State.afterHandoff_frame (t : Time) (p : Nat → Bool) :
    Frame [.cyc, .out, .acts, .agenda, .mode, .heldAcc, .mem] lateKey s ((s.reexamine 0 t p).deferredNow.releaseAll) :=
  (((s.reexamine_frame 0 t p).mono).then (State.deferredNow_frame _)).then (State.releaseAll_frame _)

theorem handoff_takesKeeper (e : Time) (hf : s.time.fclk = true) (hh : s.time.handoff = true) :
    Does (.handoff e) s fun t => t.time.handoff = false ∧
      (s.time.setAtEdge = none →
        t.time.fast = (e + (if 0 ≤ lead s.time.keep e then s.time.keep - e else 0) + 31) &&& ~~~31#64 ∧ t.time.keep = s.time.keep) ∧
      (∀ v, s.time.setAtEdge = some v → t.time.fast = (v + 31) &&& ~~~31#64 ∧ t.time.keep = v ∧ t.time.setAtEdge = none ∧
        t.bit 0x504 8 = true) := by
  unfold Does
  rw [show exec (.handoff e) s = execHandoff e s from rfl]
  simp only [execHandoff, hf, hh, Bool.and_self, Bool.not_true, Bool.false_eq_true, if_false]
  refine ⟨_, rfl, ?_⟩
  have after (u : State) (t : Time) (p : Nat → Bool) := u.afterHandoff_frame t p
  have time (u : State) (t : Time) (p : Nat → Bool) : ((u.reexamine 0 t p).deferredNow.releaseAll).time = u.time :=
    (after u t p).keeps .time (by decide)
  rw [time, (after _ _ _).bit 0x504 8]
  have hc : (s.convertStamps (if 0 ≤ lead s.time.keep e then s.time.keep - e else 0)).time = s.time := rfl
  generalize s.convertStamps (if 0 ≤ lead s.time.keep e then s.time.keep - e else 0) = c at hc ⊢
  cases hset : s.time.setAtEdge with
  | none => simp [hc, hset]
  | some v =>
    have hr (u : State) (d : Time) : (u.recordStep d).time = u.time := (u.recordStep_frame d).keeps .time (by decide)
    have he : e + (v - e) = v := by bv_omega
    simp [hc, hset, hr, State.recordStep_bit, he]

/-! ### Setting and slewing -/

/-- The deferral of armed actions changes the actions alone. -/
theorem State.deferAll_frame (l : List (Nat × Act)) : Frame [.acts] noKey s
    (s.each l fun s e => s.setAct (actId (e.1 / 512) (e.1 % 512)) { e.2 with defer := true }) :=
  Frame.each (fun _ _ s => s.setAct_frame _ _) s

theorem timeSet_sets (hs : s.bit 0x504 2 = false) (hf : s.time.fclk = true) :
    let v := s.rd64 0x510 0x514 &&& ~~~31#64
    Does .timeSet s fun t => t.time = { s.time with setNext := some v } ∧ t.takeSet.time.fast = v ∧ SameRegs [] s t ∧ SameStores s t := by
  intro v
  refine ⟨{ s with time := { s.time with setNext := some v } }, ?_, rfl, ?_, (s.withTime_frame _).sameRegs _ (by omega),
    (s.withTime_frame _).sameStores⟩
  · rw [show exec .timeSet s = execTimeSet s from rfl]
    simp [execTimeSet, hs, hf, ok, v]
  · have hr (u : State) (d : Time) : (u.recordStep d).time = u.time := (u.recordStep_frame d).keeps .time (by decide)
    have he (u : State) (t : Time) (p : Nat → Bool) : (u.reexamine 0 t p).time = u.time :=
      (u.reexamine_frame 0 t p).keeps .time (by decide)
    have hd (u : State) (l : List (Nat × Act)) : (u.each l fun s e =>
        s.setAct (actId (e.1 / 512) (e.1 % 512)) { e.2 with defer := true }).time = u.time :=
      (u.deferAll_frame l).keeps .time (by decide)
    simp only [State.takeSet]
    split
    · rw [hd, hr]
    · rw [he, hr]

theorem timeSet_waits (hs : s.bit 0x504 2 = false) (hf : s.time.fclk = false) :
    Does .timeSet s fun t => t.time = { s.time with setAtEdge := some (s.rd64 0x510 0x514 &&& ~~~31#64) } ∧ SameRegs [] s t ∧
      SameStores s t := by
  refine ⟨{ s with time := { s.time with setAtEdge := some (s.rd64 0x510 0x514 &&& ~~~31#64) } }, ?_, rfl,
    (s.withTime_frame _).sameRegs _ (by omega), (s.withTime_frame _).sameStores⟩
  rw [show exec .timeSet s = execTimeSet s from rfl]
  simp [execTimeSet, hs, hf, ok]

theorem timeSet_slaved (hs : s.bit 0x504 2 = true) :
    Does .timeSet s fun t => t.bit 0x504 9 = true ∧ t.time = s.time ∧ SameRegs [devKey 0x504] s t := by
  refine ⟨s.wbit 0x504 9 true, ?_, State.bit_wbit_self _ _ _ _ (by omega), State.wbit_time _ _ _ _,
    (s.wbit_frame _ _ _).sameRegs _ (by simp [devKey])⟩
  rw [show exec .timeSet s = execTimeSet s from rfl]
  simp [execTimeSet, hs, ok]

theorem timeSetKeeper_sets (x : Time) (hx : s.time.setAtEdge = some x) (hf : s.time.fclk = false) :
    Does .timeSetKeeper s fun t => t.time.keep = x ∧ t.time.fast = x ∧ t.time.frac = 0 ∧ t.time.setAtEdge = none ∧
      t.bit 0x504 8 = true ∧ t.rd64 0x51C 0x520 = x - s.now := by
  unfold Does
  rw [show exec .timeSetKeeper s = execTimeSetKeeper s from rfl]
  simp only [execTimeSetKeeper, hx, hf, Bool.false_eq_true, if_false]
  refine ⟨_, rfl, ?_⟩
  have after (u : State) : Frame [.cyc, .out, .acts] lateKey u
      (State.each (u.reexamine 0 x u.aoKey) ((u.reexamine 0 x u.aoKey).acts.filter fun e =>
        e.2.armed && !e.2.late && !(u.reexamine 0 x u.aoKey).aoKey e.1) fun s e =>
        s.setAct (actId (e.1 / 512) (e.1 % 512)) { e.2 with defer := true }) :=
    (u.reexamine_frame 0 x u.aoKey).then (State.deferAll_frame _ _)
  have hr (u : State) (d : Time) : (u.recordStep d).time = u.time := (u.recordStep_frame d).keeps .time (by decide)
  have ht (u : State) := ((after u).keeps .time (by decide) : _ = _)
  rw [ht, hr, (after _).bit 0x504 8, (after _).rd64 0x51C 0x520 (by omega) (by omega), State.recordStep_bit, State.recordStep_rd64]
  exact ⟨rfl, rfl, rfl, rfl, rfl, rfl⟩

theorem timeSlew_steps (hs : s.bit 0x504 2 = true ∨ s.bit 0x504 3 = true) (hf : s.time.fclk = true) :
    (0 < s.time.slew → Does .timeSlew s fun t => t.time = { s.time with shift := -1, slew := s.time.slew - 1 }) ∧
      (s.time.slew < 0 → Does .timeSlew s fun t => t.time = { s.time with shift := 1, slew := s.time.slew + 1 }) := by
  have hb : (s.bit 0x504 2 || s.bit 0x504 3) = true := by simpa using hs
  constructor
  · intro hp
    refine ⟨{ s with time := { s.time with shift := -1, slew := s.time.slew - 1 } }, ?_, rfl⟩
    rw [show exec .timeSlew s = execTimeSlew s from rfl]
    simp [execTimeSlew, hb, hf, hp, ok, show s.time.slew ≠ 0 by omega]
  · intro hn
    refine ⟨{ s with time := { s.time with shift := 1, slew := s.time.slew + 1 } }, ?_, rfl⟩
    rw [show exec .timeSlew s = execTimeSlew s from rfl]
    simp [execTimeSlew, hb, hf, ok, show s.time.slew ≠ 0 by omega, show ¬ 0 < s.time.slew by omega]

/-- Settles O10, command by command; what follows a handoff or a step of the time leaves the time and its status bits. -/
theorem theTimeOfRecordIsKeptAndSet : Obligations.TheTimeOfRecordIsKeptAndSet :=
  ⟨fun s ofs hf hh => keeperReload_reloads s ofs hf hh,
   fun s m ht hb => ⟨keepTrimWindow_records s m ht hb, keepTrimWindow_outOfRange s m ht hb⟩,
   fun s e hf hh => handoff_takesKeeper s e hf hh,
   fun s => ⟨timeSet_sets s, timeSet_waits s, timeSet_slaved s, fun x hx hf => timeSetKeeper_sets s x hx hf, timeSlew_steps s⟩⟩

end Sys2Proof.Machine
end

section
/-! Settles O57: the time exchanges of the tree and what a slaved unit does with the offset (R11, R22 to R24, R482). -/

namespace Sys2Proof.Machine

-- Proofs one after another: many that wait in threads of their own would pass the check's memory limit.
set_option Elab.async false

variable (s : State)

/-! ### Arithmetic -/

/-- A division of open rounding misses the exact quotient by less than one. -/
theorem openDiv_near (a : Int) {b : Nat} (hb : 0 < b) (n : Nat) : (b * openDiv a b n - a).natAbs < b := by
  have hm := Int.emod_nonneg a (show (b : Int) ≠ 0 by omega)
  have hlt := Int.emod_lt_of_pos a (show (0 : Int) < b by omega)
  have hd := Int.mul_ediv_add_emod a b
  unfold openDiv
  split
  · omega
  · rw [Int.mul_add]
    have h01 : (Config.openWord 6 n).toNat % 2 = 0 ∨ (Config.openWord 6 n).toNat % 2 = 1 := by omega
    rcases h01 with h | h <;> simp only [h] <;> omega

/-- The next multiple of 32 (R11): less than 32 on, with its low five bits clear. -/
theorem nextGrid_spec (v : Time) : ((v + 31 &&& ~~~31#64) - v).toNat < 32 ∧ (v + 31 &&& ~~~31#64) &&& 31#64 = 0#64 := by
  have hz (x : Time) : (x &&& ~~~31#64) &&& (x &&& 31#64) = 0#64 := by
    apply BitVec.eq_of_getLsbD_eq
    intro i _
    simp only [BitVec.getLsbD_and, BitVec.getLsbD_not, BitVec.getLsbD_zero]
    cases x.getLsbD i <;> cases (31#64).getLsbD i <;> simp
  have hs (x : Time) : (x &&& ~~~31#64) + (x &&& 31#64) = x := by
    rw [BitVec.add_eq_or_of_and_eq_zero _ _ (hz x), ← BitVec.and_or_distrib_left,
      show ~~~31#64 ||| 31#64 = BitVec.allOnes 64 from rfl, BitVec.and_allOnes]
  have hl : (v + 31 &&& 31#64).toNat ≤ 31 := by
    rw [BitVec.toNat_and]
    exact Nat.and_le_right
  constructor
  · have h := hs (v + 31)
    generalize v + 31 &&& ~~~31#64 = g at h ⊢
    generalize v + 31 &&& 31#64 = r at h hl
    have : g - v = 31#64 - r := by bv_omega
    rw [this]
    bv_omega
  · rw [BitVec.and_assoc]
    simp

/-! ### Exchanges -/

theorem timeReqSend_asks (t1 : Time) (p : Nat) (hu : s.upPort = some p) : Does (.timeReqSend t1) s fun t =>
    t.kl.t1 = some t1 ∧ t.kl.sent = s.kl.sent ++ [(p, 0, .timeReq)] ∧ t.kl.nextReq = s.time.mono + us 125 ∧ SameRegs [] s t := by
  refine ⟨({ s with kl := { s.kl with t1 := some t1, nextReq := s.time.mono + us 125 } } : State).emit p 0 .timeReq, ?_, rfl, rfl, rfl,
    fun _ _ => rfl⟩
  rw [show exec (.timeReqSend t1) s = execTimeReqSend t1 s from rfl]
  simp [execTimeReqSend, hu, ok]

theorem timeReq_answers (t2 t3 : Time) (r : Fin 4) :
    (s.hears r = true → Does (.timeReq r t2 t3) s fun t => t.kl.sent = s.kl.sent ++ [(r.val, 0, .timeRsp t2 t3)] ∧ SameRegs [] s t) ∧
      (s.hears r = false → Does (.timeReq r t2 t3) s (· = s)) := by
  constructor <;> intro h
  · refine ⟨s.emit r 0 (.timeRsp t2 t3), ?_, rfl, fun _ _ => rfl⟩
    rw [show exec (.timeReq r t2 t3) s = execTimeReq r t2 t3 s from rfl]
    simp [execTimeReq, h, ok]
  · refine ⟨s, ?_, rfl⟩
    rw [show exec (.timeReq r t2 t3) s = execTimeReq r t2 t3 s from rfl]
    simp [execTimeReq, h, ok]

theorem timeRsp_measures (t1 t2 t3 t4 : Time) (p : Nat) (hu : s.upPort = some p) (ht : s.kl.t1 = some t1) :
    Does (.timeRsp t2 t3 t4) s fun t => ∃ th dl : Int,
      (2 * th - ((t2 - t1).toInt - (t4 - t3).toInt - sext 16 (s.fld (klR p + 8) 15 0))).natAbs ≤ 1 ∧
      (2 * dl - ((t4 - t1).toInt - (t3 - t2).toInt)).natAbs ≤ 1 ∧ t.rd (klR p + 0xC) = wordOfInt dl ∧
      t.kl.t1 = none ∧ t.kl.thetas = (s.kl.thetas ++ [th]).drop (s.kl.thetas.length - 7) ∧
      SameRegs [devKey (klR p + 0xC)] s t := by
  unfold Does
  rw [show exec (.timeRsp t2 t3 t4) s = execTimeRsp t2 t3 t4 s from rfl]
  simp only [execTimeRsp, hu, ht]
  refine ⟨_, rfl, _, _, Nat.le_of_lt_succ (openDiv_near _ (b := 2) (by omega) s.free),
    Nat.le_of_lt_succ (openDiv_near _ (b := 2) (by omega) (s.free + 1)), State.getKey_setKey_self _ _ _, rfl, ?_, ?_⟩
  · rw [List.length_append]
    rfl
  · intro k hk
    exact State.getKey_setKey_ne _ _ (by simpa using hk)

/-! ### The offset applied -/

/-- The state at an application of the offset: its next moment, and in holdover the last slew made again (R24). -/
def State.offsetDue (s : State) : State :=
  let s := { s with kl := { s.kl with nextOfs := s.time.mono + ms 1 } }
  if s.bit 0x504 3 then { s with time := { s.time with slew := s.time.rate } } else s

theorem State.offsetDue_spec : s.offsetDue.time = (if s.bit 0x504 3 then { s.time with slew := s.time.rate } else s.time) ∧
    s.offsetDue.kl = { s.kl with nextOfs := s.time.mono + ms 1 } := by
  have hb (k : KlSt) : State.bit { s with kl := k } 0x504 3 = s.bit 0x504 3 := rfl
  unfold State.offsetDue
  simp only [hb]
  split <;> exact ⟨rfl, rfl⟩

theorem State.offsetDue_frame : Frame [.time, .kl] noKey s s.offsetDue := by
  have h (x : TimeSt) (hx : x.fclk = s.time.fclk) : Frame [.time, .kl] noKey s
      { s with kl := { s.kl with nextOfs := s.time.mono + ms 1 }, time := x } :=
    .part rfl fun p hp => by cases p <;> simp_all [State.Keeps]
  unfold State.offsetDue
  exact .ite (fun _ => h _ rfl) fun _ => h s.time rfl

/-- A slaved unit slews by the offset `m`, or steps by it (R23). -/
def State.follow (s : State) (m : Int) : State :=
  if !s.bit 0x504 2 || !s.time.fclk || s.time.handoff then s
  else if s.kl.aligned ∧ m.natAbs < 2048 then { s with time := { s.time with slew := m, rate := m } }
  else { s with time := { s.time with slew := 0 }, kl := { s.kl with aligned := true, thetas := [] } }.stepTime (BitVec.ofInt 64 m)

/-- A unit that is slaved and whose FCLK runs past its handoff. -/
abbrev State.Follows (s : State) : Prop := s.bit 0x504 2 = true ∧ s.time.fclk = true ∧ s.time.handoff = false

theorem State.follow_not (m : Int) (h : ¬ s.Follows) : s.follow m = s := by
  have hc : (!s.bit 0x504 2 || !s.time.fclk || s.time.handoff) = true := by
    revert h
    cases h2 : s.bit 0x504 2 <;> cases hf : s.time.fclk <;> cases hh : s.time.handoff <;> simp [State.Follows, h2, hf, hh]
  rw [State.follow, if_pos hc]

theorem State.follow_slew (m : Int) (h : s.Follows) (ha : s.kl.aligned = true) (hm : m.natAbs < 2048) :
    s.follow m = { s with time := { s.time with slew := m, rate := m } } := by
  obtain ⟨h2, hf, hh⟩ := h
  rw [State.follow, if_neg (by simp [h2, hf, hh]), if_pos ⟨ha, hm⟩]

/-- The state aligned anew, as a step begins. -/
def State.realigned (s : State) : State :=
  { s with time := { s.time with slew := 0 }, kl := { s.kl with aligned := true, thetas := [] } }

theorem State.realigned_frame : Frame [.time, .kl] noKey s s.realigned :=
  .part rfl fun p hp => by cases p <;> simp [State.Keeps, State.realigned] at hp ⊢

theorem State.follow_step (m : Int) (h : s.Follows) (hm : s.kl.aligned = false ∨ 2048 ≤ m.natAbs) : s.follow m =
    s.realigned.stepTime (BitVec.ofInt 64 m) := by
  obtain ⟨h2, hf, hh⟩ := h
  rw [State.follow, if_neg (by simp [h2, hf, hh]), if_neg]
  · rfl
  rintro ⟨ha, hlt⟩
  rcases hm with hm | hm
  · simp [ha] at hm
  · omega

/-- With eight offsets their mean is shown and followed; else the unit waits for more (R482). -/
def State.applyMean (s : State) : State :=
  match s.upPort with
  | none => s
  | some p =>
    if s.kl.thetas.length < 8 then s
    else (s.fresh.wr (klR p + 0x10) (wordOfInt (openDiv s.kl.thetas.sum 8 s.free))).follow (openDiv s.kl.thetas.sum 8 s.free)

theorem exec_offsetApply : exec .offsetApply s = .next s.offsetDue.applyMean := by
  rw [show exec .offsetApply s = execOffsetApply s from rfl]
  unfold execOffsetApply
  extract_lets _ _ _ u m
  rw [show s.offsetDue = u from rfl]
  clear_value u
  unfold State.applyMean State.follow
  cases u.upPort with
  | none => rfl
  | some p =>
    simp only [ok]
    split_ifs <;> rfl

theorem State.offsetDue_upPort : s.offsetDue.upPort = s.upPort := by
  simp only [State.upPort, s.offsetDue_frame.bit 0x3404 7, s.offsetDue_frame.fld 0x3404 10 8]

theorem offsetApply_waits (h : s.upPort = none ∨ s.kl.thetas.length < 8) : Does .offsetApply s fun t =>
    SameRegs [] s t ∧ t.time = (if s.bit 0x504 3 then { s.time with slew := s.time.rate } else s.time) ∧
      t.kl.nextOfs = s.time.mono + ms 1 := by
  have he : s.offsetDue.applyMean = s.offsetDue := by
    rw [State.applyMean, s.offsetDue_upPort, s.offsetDue_spec.2]
    cases hp : s.upPort with
    | none => rfl
    | some p => simp only [hp, reduceCtorEq, false_or] at h; simp [h]
  exact ⟨_, (exec_offsetApply s).trans (by rw [he]), ⟨s.offsetDue_frame.sameRegs _ (by omega), s.offsetDue_spec.1, by rw [s.offsetDue_spec.2]⟩⟩

/-- A step of the running time (R23): to the next multiple of 32 TU, with the cycle in progress longer by what is added (R11). -/
theorem State.stepTime_spec (d : Time) :
    let t := s.stepTime d
    let up := (t.time.fast - (s.time.fast + d)).toNat
    Frame [.cyc, .out, .acts, .time] (fun k => k = 0x504 ∨ k = 0x51C ∨ k = 0x520 ∨ lateKey k) s t ∧ up < 32 ∧
      t.time.fast &&& 31 = 0 ∧ t.time.mono = s.time.mono + up ∧ t.time.slew = s.time.slew ∧ t.bit 0x504 8 = true ∧
      t.rd64 0x51C 0x520 = d := by
  intro t up
  have hr (u : State) (d : Time) : (u.recordStep d).time = u.time := (u.recordStep_frame d).keeps .time (by decide)
  have hj (u : State) (n : Time) (p : Nat → Bool) := u.reexamine_frame 0 n p
  have hjt (u : State) (n : Time) (p : Nat → Bool) : (u.reexamine 0 n p).time = u.time := (hj u n p).keeps .time (by decide)
  have ht : t.time = { s.time with
      fast := (s.time.fast + d + 31) &&& ~~~31#64
      mono := s.time.mono + (((s.time.fast + d + 31) &&& ~~~31#64) - (s.time.fast + d)).toNat } := by
    simp only [t, State.stepTime, hjt, hr]
  have h1 : Frame [.cyc, .out, .acts, .time] (fun k => k = 0x504 ∨ k = 0x51C ∨ k = 0x520 ∨ lateKey k) s
      { s with time := { s.time with
        fast := (s.time.fast + d + 31) &&& ~~~31#64
        mono := s.time.mono + (((s.time.fast + d + 31) &&& ~~~31#64) - (s.time.fast + d)).toNat } } :=
    Frame.mono (Q := [.time]) (L := noKey) (.part rfl)
  obtain ⟨hlt, hz⟩ := nextGrid_spec (s.time.fast + d)
  have h2 := h1.then (State.recordStep_frame _ d)
  have h3 := h2.then (hj _ ((s.time.fast + d + 31) &&& ~~~31#64) fun _ => true)
  refine ⟨h3, ?_⟩
  have hb := State.recordStep_bit { s with time := t.time } d
  have hd := State.recordStep_rd64 { s with time := t.time } d
  rw [ht] at hb hd
  exact ⟨by simpa only [up, ht] using hlt, by rw [ht]; exact hz, by simp only [up, ht], by rw [ht],
    ((hj _ _ _).bit 0x504 8).trans hb, ((hj _ _ _).rd64 0x51C 0x520 (by omega) (by omega)).trans hd⟩

theorem offsetApply_follows (q : Nat) (hu : s.upPort = some q) (hq : q < 4) (hl : 8 ≤ s.kl.thetas.length) :
    Does .offsetApply s fun t => ∃ m : Int,
      (8 * m - s.kl.thetas.sum).natAbs < 8 ∧ t.rd (klR q + 0x10) = wordOfInt m ∧ SameStores s t ∧
      (s.bit 0x504 2 = false ∨ s.time.fclk = false ∨ s.time.handoff = true →
        t.time = if s.bit 0x504 3 then { s.time with slew := s.time.rate } else s.time) ∧
      (s.bit 0x504 2 = true → s.time.fclk = true → s.time.handoff = false →
        (s.kl.aligned = true → m.natAbs < 2048 → t.time = { s.time with slew := m, rate := m } ∧
          SameRegs [devKey (klR q + 0x10)] s t) ∧
        (s.kl.aligned = false ∨ 2048 ≤ m.natAbs →
          let up := (t.time.fast - (s.time.fast + BitVec.ofInt 64 m)).toNat
          up < 32 ∧ t.time.fast &&& 31 = 0 ∧ t.time.mono = s.time.mono + up ∧ t.time.slew = 0 ∧
          t.kl.aligned = true ∧ t.kl.thetas = [] ∧ t.bit 0x504 8 = true ∧ t.rd64 0x51C 0x520 = BitVec.ofInt 64 m)) := by
  have he := exec_offsetApply s
  have hth : s.offsetDue.kl.thetas = s.kl.thetas := by rw [s.offsetDue_spec.2]
  simp only [State.applyMean, s.offsetDue_upPort, hu, hth, if_neg (show ¬ s.kl.thetas.length < 8 by omega)] at he
  refine ⟨_, he, openDiv s.kl.thetas.sum 8 s.offsetDue.free, openDiv_near _ (b := 8) (by omega) _, ?_⟩
  generalize openDiv s.kl.thetas.sum 8 s.offsetDue.free = m
  have hf : Frame [.time, .kl, .free] (· = klR q + 0x10) s (s.offsetDue.fresh.wr (klR q + 0x10) (wordOfInt m)) :=
    ((s.offsetDue_frame.mono).then (State.fresh_frame _)).then (State.wr_frame _ _ _)
  have hv : (s.offsetDue.fresh.wr (klR q + 0x10) (wordOfInt m)).rd (klR q + 0x10) = wordOfInt m := State.rd_wr_self _ _ _
  have ht : (s.offsetDue.fresh.wr (klR q + 0x10) (wordOfInt m)).time = _ := s.offsetDue_spec.1
  have hk : (s.offsetDue.fresh.wr (klR q + 0x10) (wordOfInt m)).kl = _ := s.offsetDue_spec.2
  generalize s.offsetDue.fresh.wr (klR q + 0x10) (wordOfInt m) = u at hf hv ht hk ⊢
  have hfast : u.time.fast = s.time.fast := by rw [ht]; split <;> rfl
  have hmono : u.time.mono = s.time.mono := by rw [ht]; split <;> rfl
  have hset : { u.time with slew := m, rate := m } = { s.time with slew := m, rate := m } := by rw [ht]; split <;> rfl
  have hal : u.kl.aligned = s.kl.aligned := by rw [hk]
  have hfol : u.Follows ↔ s.Follows := by
    rw [State.Follows, hf.bit 0x504 2, show u.time.fclk = s.time.fclk by rw [ht]; split <;> rfl,
      show u.time.handoff = s.time.handoff by rw [ht]; split <;> rfl]
  by_cases hc : s.Follows
  · have hnot : ¬ (s.bit 0x504 2 = false ∨ s.time.fclk = false ∨ s.time.handoff = true) := by simp [hc.1, hc.2.1, hc.2.2]
    by_cases hm : s.kl.aligned = false ∨ 2048 ≤ m.natAbs
    · rw [u.follow_step m (hfol.mpr hc) (hal ▸ hm)]
      obtain ⟨hfr, hlt, hgrid, hmon, hslew, hbit, hstep⟩ := u.realigned.stepTime_spec (BitVec.ofInt 64 m)
      rw [show u.realigned.time.fast = s.time.fast from hfast] at hlt hmon
      rw [show u.realigned.time.mono = s.time.mono from hmono] at hmon
      have hkl : (u.realigned.stepTime (BitVec.ofInt 64 m)).kl = u.realigned.kl := hfr.keeps .kl (by decide)
      have hall := ((hf.mono (P := [.cyc, .out, .acts, .time, .kl, .free]) (K := fun _ => True)).then u.realigned_frame).then hfr
      refine ⟨(hfr.rd (klR q + 0x10)).trans hv, hall.sameStores, fun h => absurd h hnot, fun _ _ _ => ⟨fun ha hlt => ?_, fun _ =>
        ⟨hlt, hgrid, hmon, hslew, by rw [hkl]; rfl, by rw [hkl]; rfl, hbit, hstep⟩⟩⟩
      rcases hm with hm | hm
      · simp [ha] at hm
      · omega
    · rw [not_or, Bool.not_eq_false] at hm
      obtain ⟨ha, hlt⟩ := hm
      rw [u.follow_slew m (hfol.mpr hc) (hal ▸ ha) (by omega)]
      exact ⟨hv, hf.sameStores, fun h => absurd h hnot,
        fun _ _ _ => ⟨fun _ _ => ⟨hset, hf.sameRegs _ (by simp [devKey])⟩, fun h => absurd h (by simp [ha]; omega)⟩⟩
  · rw [u.follow_not m (mt hfol.mp hc)]
    exact ⟨hv, hf.sameStores, fun _ => ht, fun h1 h2 h3 => absurd ⟨h1, h2, h3⟩ hc⟩

/-- Settles O57. -/
theorem theTreesTimeAligns : Obligations.TheTreesTimeAligns :=
  fun s t1 t2 t3 t4 p q => ⟨timeReqSend_asks s t1 p, timeReq_answers s t2 t3, timeRsp_measures s t1 t2 t3 t4 p, offsetApply_waits s,
    offsetApply_follows s q⟩

end Sys2Proof.Machine
end

section
/-! Settles O12: alarms arm, disarm, re-arm and fire (R34 to R39, R112). -/

namespace Sys2Proof.Machine

-- Proofs one after another: many that wait in threads of their own would pass the check's memory limit.
set_option Elab.async false

variable (s : State) {n : Nat}

/-! ### The parts of a firing -/

theorem State.wakeOvr_frame (i : Nat) : Frame [.cyc] (· = 0x448) s (s.wakeOvr i) := by
  unfold State.wakeOvr State.incFld
  exact (s.wbit_frame 0x448 i true).then (State.tally_frame _ (devKey 0x448) _)

theorem State.holdProd_frame (h : HeldSrc) (stamp : Time) (ovr : Nat) :
    Frame [.cyc, .fab, .heldP] (· = 0x448) s (s.holdProd h stamp ovr) := by
  have hp : Frame [.cyc, .fab, .heldP] noKey s { s with fab := { s.fab with heldP := s.fab.heldP ++ [(h, stamp)] } } := .part rfl
  unfold State.holdProd
  exact .ite (fun _ => (s.wakeOvr_frame ovr).mono) fun _ => hp.mono

theorem State.almEvent_frame : Frame [.cyc, .fab, .heldP, .inflight] (· = 0x448) s (s.almEvent n) := by
  unfold State.almEvent
  exact .ite (fun _ => (s.wakeOvr_frame _).mono) fun _ => .ite (fun _ => (s.holdProd_frame _ _ _).mono) fun _ => (s.fireP_frame _).mono

theorem State.almNext_frame (now : Time) : Frame [.cyc, .out, .acts] lateKey s (s.almNext n now) := by
  unfold State.almNext
  exact .ite (fun _ => s.judge_frame _ _ _) fun _ => (s.disarm_frame _).mono

/-- What a firing changes before the alarm's next state: its own FIRED flag, the fabric and the wake's records, and what an apply of the
dividers bound to it changes. -/
abbrev fireKey (n : Nat) : Nat → Prop := fun k => playKey k ∨ k = 0x504 ∨ k = 0x448 ∨ k = 0x60C + 0x10 * n

abbrev fireParts : List Aspect :=
  [.shadows, .cyc, .agenda, .agendaGrows, .time, .fclk, .fab, .inflight, .heldP, .syn, .seqs, .trgs]

/-- A firing, up to the alarm's next state. -/
theorem State.fireAlarm_spec (hn : n < 16) : ∃ u, s.fireAlarm n = (u.almNext n s.now).reviewMode ∧
    Frame fireParts (fireKey n) s u ∧ u.bit (almR n + 0xC) 1 = true ∧
    ((∀ x < 4, s.bit (synR x) 4 = false) → u.fab = ((s.wbit (almR n + 0xC) 1 true).almEvent n).fab) := by
  unfold State.fireAlarm
  extract_lets a b
  have ha : Frame [.cyc, .fab, .heldP, .inflight] (fun k => k = 0x448 ∨ k = 0x60C + 0x10 * n) s a :=
    ((s.wbit_frame (almR n + 0xC) 1 true).mono).then (State.almEvent_frame _)
  have ha1 : a.bit (almR n + 0xC) 1 = true :=
    ((State.almEvent_frame _).bit (almR n + 0xC) 1).trans (State.bit_wbit_self _ _ _ _ (by omega))
  have hfab : a.fab = ((s.wbit (almR n + 0xC) 1 true).almEvent n).fab := rfl
  clear_value a
  have hb : Frame [.agenda] noKey a b := by
    simp only [b]
    split
    · exact .ite (fun _ => a.after_frame _ _) fun _ => .refl
    · exact .refl
  clear_value b
  have hs := b.almSynths_frame n
  have hnow : b.now = s.now := by
    simp only [State.now, show b.time = s.time from Eq.trans (hb.keeps .time (by decide)) (ha.keeps .time (by decide))]
  refine ⟨b.almSynths n, by rw [hnow], ((ha.mono).then hb).then hs, ?_, fun h => ?_⟩
  · rw [hs.bit (almR n + 0xC) 1, hb.bit _ _, ha1]
  · have hub : ∀ x < 4, b.bit (synR x) 4 = false := fun x hx => by
      rw [hb.bit _ _, ha.bit (synR x) 4, h x hx]
    rw [b.almSynths_unbound n hub, ← hfab]
    exact hb.keeps .fab (by decide)

theorem State.fireAlarm_stores (hn : n < 16) : SameStores s (s.fireAlarm n) := by
  obtain ⟨u, he, hf, -, -⟩ := s.fireAlarm_spec hn
  rw [he]
  exact (((hf.mono (P := .out :: .acts :: .mode :: .eff :: .trans :: .doms :: fireParts) (K := fun _ => True)).then
    (u.almNext_frame _)).then (State.reviewMode_frame _)).sameStores

theorem State.settleAlarm_stores (hn : n < 16) : SameStores s (s.settleAlarm n) := by
  unfold State.settleAlarm
  split
  · exact s.fireAlarm_stores hn
  · exact ⟨fun _ => rfl, fun _ => rfl, fun _ => rfl⟩

/-! ### An alarm's ARMED bit and its readiness -/

theorem actId_alarm_inst (hn : n < 16) : (actId 1 n).inst.val = n := by
  simp only [actId, Fin.ofNat_eq_cast, Fin.val_natCast]
  omega

theorem State.markArmed_alarm (hn : n < 16) (b : Bool) :
    s.markArmed (actId 1 n) b = s.wr (almR n + 0xC) (setBit (s.rd (almR n + 0xC)) 0 b) := by
  have hk : devKey (0x60C + 0x10 * n) = almR n + 0xC := by simp only [devKey, almR]; omega
  simp only [State.markArmed, armedBit, actId_alarm_inst hn, show (actId 1 n).kind.val = 1 from rfl, if_true, hk]
  rfl

/-- An alarm's readiness stands in the time, the domains and its own mode register. -/
theorem Frame.alarmReady {P : List Aspect} {K : Nat → Prop} {s t : State} (h : Frame P K s t) (hn : n < 16)
    (hk : ¬ K (0x608 + 0x10 * n)) (ht : Aspect.time ∉ P) (hd : Aspect.doms ∉ P) :
    t.actReady (actId 1 n) = s.actReady (actId 1 n) := by
  have hao : t.aoAlarm (actId 1 n) = s.aoAlarm (actId 1 n) := by
    unfold State.aoAlarm
    rw [actId_alarm_inst hn, h.bit _ 4 hk]
  have hdom : t.domOn = s.domOn := by
    funext d
    simp only [State.domOn, State.dom, show t.mode.doms = s.mode.doms from h.keeps .doms hd]
  have htime : t.time = s.time := h.keeps .time ht
  simp only [State.actReady, State.actDoms, show (actId 1 n).kind.val = 1 from rfl, hao, hdom, htime]

/-- The state with alarm `n` armed as `x`, before the judgement. -/
theorem State.armAlarm_spec (hn : n < 16) (x : Act) :
    let t := (s.setAct (actId 1 n) x).markArmed (actId 1 n) true
    Frame [.acts] (· = 0x60C + 0x10 * n) s t ∧ t.act (actId 1 n) = x ∧ t.bit (almR n + 0xC) 0 = true := by
  simp only [State.markArmed_alarm _ hn]
  refine ⟨((s.setAct_frame _ x).mono).then (State.wr_frame _ _ _), ?_, ?_⟩
  · rw [(State.wr_frame _ _ _).act]
    exact State.act_setAct_self _ _ _
  · simp [State.bit, State.rd_wr_self]

/-- An alarm armed in time stands as armed, judged (R34, R41). -/
theorem State.armAct_alarm_inTime (hn : n < 16) (x : Act) (hr : s.actReady (actId 1 n) = true) (hl : 2048 ≤ lead x.target s.now) :
    let t := s.armAct (actId 1 n) x
    Frame [.acts] (· = 0x60C + 0x10 * n) s t ∧ t.act (actId 1 n) = { x with defer := false } ∧ t.bit (almR n + 0xC) 0 = true := by
  obtain ⟨hf, -, hb⟩ := s.armAlarm_spec hn x
  have hr' := (hf.alarmReady hn (by omega) (by decide) (by decide)).trans hr
  unfold State.armAct
  generalize (s.setAct (actId 1 n) x).markArmed (actId 1 n) true = u at hf hb hr'
  have hnow : u.now = s.now := by simp only [State.now, show u.time = s.time from hf.keeps .time (by decide)]
  rw [if_pos hr', hnow, u.judge_inTime _ _ _ hl]
  exact ⟨hf.then (State.setAct_frame _ _ _), State.act_setAct_self _ _ _, hb⟩

/-- An alarm armed before its arming moment waits for it (R40). -/
theorem State.armAct_alarm_waits (hn : n < 16) (x : Act) (hr : s.actReady (actId 1 n) = false) :
    let t := s.armAct (actId 1 n) x
    Frame [.acts] (· = 0x60C + 0x10 * n) s t ∧ t.act (actId 1 n) = x ∧ t.bit (almR n + 0xC) 0 = true := by
  obtain ⟨hf, ha, hb⟩ := s.armAlarm_spec hn x
  have hr' := (hf.alarmReady hn (by omega) (by decide) (by decide)).trans hr
  unfold State.armAct
  rw [if_neg (by simp [hr'])]
  exact ⟨hf, ha, hb⟩

/-- A disarmed alarm holds nothing; its other flags stay. -/
theorem State.disarm_alarm (hn : n < 16) : let t := s.disarm (actId 1 n)
    Frame [.acts] (· = 0x60C + 0x10 * n) s t ∧ t.act (actId 1 n) = {} ∧ t.bit (almR n + 0xC) 0 = false ∧
      ∀ i, i ≠ 0 → t.bit (almR n + 0xC) i = s.bit (almR n + 0xC) i := by
  simp only [State.disarm, State.markArmed_alarm _ hn]
  refine ⟨((s.setAct_frame _ _).mono).then (State.wr_frame _ _ _), ?_, ?_, fun i hi => ?_⟩
  · rw [(State.wr_frame _ _ _).act]
    exact State.act_setAct_self _ _ _
  · simp [State.bit, State.rd_wr_self]
  · simp only [State.bit, State.rd_wr_self, tb_setBit _ 0 i false (show 0 < 32 by omega), if_neg hi]
    rfl

/-- A late judgement of an alarm leaves FIRED. -/
theorem State.judge_alarm_fired (hn : n < 16) (x : Act) (now : Time) :
    (s.judge (actId 1 n) x now).bit (almR n + 0xC) 1 = s.bit (almR n + 0xC) 1 := by
  have hrec (l : Word) (d : Bool) : (s.recordLate (actId 1 n) l d).bit (almR n + 0xC) 1 = s.bit (almR n + 0xC) 1 := by
    rw [State.recordLate_eq, (State.lateRecord_frame _ _ _ _ _ _).bit (almR n + 0xC) 1]
    have hk : devKey (0x60C + 0x10 * n) = almR n + 0xC := by simp only [devKey, almR]; omega
    have hl : almR n + 0xC ≠ devKey (0x580 + 4 * n) ∧ devKey (0x580 + 4 * n) ≠ 0 := by simp only [devKey, almR]; omega
    simp only [State.lateFlags, lateRegs, show (actId 1 n).kind.val = 1 from rfl, actId_alarm_inst hn, if_true, hk, if_neg hl.2,
      State.bit, State.rd, show devKey (almR n + 0xC) = almR n + 0xC from rfl, State.getKey_setKey_ne _ _ hl.1]
    split
    · simp only [State.getKey_setKey_self]
      rw [tb_setBit _ 3 1 true (by omega), tb_setBit _ 2 1 true (by omega)]
      rfl
    · simp only [State.getKey_setKey_self]
      rw [tb_setBit _ 2 1 true (by omega)]
      rfl
  simp only [State.judge, State.judgeAt]
  have hr := hrec (sat32 (2048 - lead x.target now).toNat) x.drop
  generalize s.recordLate (actId 1 n) (sat32 (2048 - lead x.target now).toNat) x.drop = r at hr ⊢
  split
  · split
    · obtain ⟨-, -, -, hb⟩ := r.disarm_alarm hn
      exact (hb 1 (by omega)).trans hr
    · exact hr
  · rfl

/-! ### The alarm's next state -/

theorem State.almNext_disarms (now : Time) (h : s.bit (almR n + 8) 3 = false) :
    s.almNext n now = s.disarm (actId 1 n) := by
  simp [State.almNext, h]

theorem State.almNext_rearms (now : Time) (h : s.bit (almR n + 8) 3 = true)
    (hl : 2048 ≤ lead ((s.act (actId 1 n)).target + (s.rd (0x5C0 + 4 * n)).setWidth 64) now) :
    s.almNext n now = s.setAct (actId 1 n)
      { armed := true, target := (s.act (actId 1 n)).target + (s.rd (0x5C0 + 4 * n)).setWidth 64, drop := s.bit (almR n + 8) 2 } := by
  simp only [State.almNext, h, if_true]
  rw [State.judge_inTime]
  exact hl

theorem State.almNext_fired (hn : n < 16) (now : Time) : (s.almNext n now).bit (almR n + 0xC) 1 = s.bit (almR n + 0xC) 1 := by
  unfold State.almNext
  split
  · exact s.judge_alarm_fired hn _ _
  · exact (s.disarm_alarm hn).2.2.2 1 (by omega)

theorem SameStores.trans {s t u : State} (h : SameStores s t) (h' : SameStores t u) : SameStores s u :=
  ⟨fun a => (h'.1 a).trans (h.1 a), fun a => (h'.2.1 a).trans (h.2.1 a), fun a => (h'.2.2 a).trans (h.2.2 a)⟩

/-! ### The commands -/

theorem exec_almArm (n : Fin 16) : exec (.almArm n) s = .next ((s.settleAlarm n).armAct (actId 1 n)
    { armed := true, target := (s.settleAlarm n).rd64 (almR n) (almR n + 4), drop := (s.settleAlarm n).bit (almR n + 8) 2,
      defer := true }) := rfl

theorem exec_almRearmEvent (n : Fin 16) (e : Time) (pr : Bool) : exec (.almRearmEvent n ⟨e, pr⟩) s =
    .next ((s.settleAlarm n).armAct (actId 1 n)
      { armed := true
        target := if (s.settleAlarm n).bit (almR n + 8) 6 then e + ((s.settleAlarm n).rd (0x5C0 + 4 * n)).setWidth 64
          else (s.settleAlarm n).rd64 (almR n) (almR n + 4)
        drop := (s.settleAlarm n).bit (almR n + 8) 2, defer := true, prov := pr && (s.settleAlarm n).bit (almR n + 8) 6 }) := rfl

theorem almDisarm_disarms (n : Fin 16) : Does (.almDisarm n) s fun t =>
    t.act (actId 1 n) = {} ∧ t.bit (almR n + 0xC) 0 = false ∧ SameStores s t := by
  refine ⟨((s.settleAlarm n).disarm (actId 1 n)).reviewMode, rfl, ?_⟩
  obtain ⟨hf, ha, hb, -⟩ := (s.settleAlarm n).disarm_alarm n.isLt
  have hr := State.reviewMode_frame ((s.settleAlarm n).disarm (actId 1 n))
  exact ⟨hr.act _ ▸ ha, (hr.bit (almR n + 0xC) 0).trans hb, ((s.settleAlarm_stores n.isLt).trans hf.sameStores).trans hr.sameStores⟩

theorem exec_almFire (n : Fin 16) (h : s.Due (actId 1 n)) : exec (.almFire n) s = .next (s.fireAlarm n) := by
  rw [show exec (.almFire n) s = execAlmFire n s from rfl]
  simp [execAlmFire, h.1, h.2, ok]

theorem almFire_disarms (n : Fin 16) (h : s.Due (actId 1 n)) (hr : s.bit (almR n + 8) 3 = false) : Does (.almFire n) s fun t =>
    t.act (actId 1 n) = {} ∧ t.bit (almR n + 0xC) 1 = true ∧ t.bit (almR n + 0xC) 0 = false ∧ SameStores s t := by
  refine ⟨_, exec_almFire s n h, ?_⟩
  obtain ⟨u, he, hf, hb, -⟩ := s.fireAlarm_spec n.isLt
  have hs := s.fireAlarm_stores n.isLt
  rw [he] at hs ⊢
  rw [u.almNext_disarms s.now ((hf.bit (almR n + 8) 3).trans hr)] at hs ⊢
  obtain ⟨-, ha, hb0, hbi⟩ := u.disarm_alarm n.isLt
  have hv := State.reviewMode_frame (u.disarm (actId 1 n))
  exact ⟨(hv.act _).trans ha, (hv.bit (almR n + 0xC) 1).trans ((hbi 1 (by omega)).trans hb), (hv.bit (almR n + 0xC) 0).trans hb0, hs⟩

theorem almFire_rearms (n : Fin 16) (h : s.Due (actId 1 n)) (hr : s.bit (almR n + 8) 3 = true)
    (hl : 2048 ≤ lead ((s.act (actId 1 n)).target + (s.rd (0x5C0 + 4 * n)).setWidth 64) s.now) : Does (.almFire n) s fun t =>
    t.bit (almR n + 0xC) 1 = true ∧ t.act (actId 1 n) =
      { armed := true, target := (s.act (actId 1 n)).target + (s.rd (0x5C0 + 4 * n)).setWidth 64, drop := s.bit (almR n + 8) 2 } := by
  refine ⟨_, exec_almFire s n h, ?_⟩
  obtain ⟨u, he, hf, hb, -⟩ := s.fireAlarm_spec n.isLt
  have hv := State.reviewMode_frame (u.almNext n s.now)
  rw [he, hv.act, hv.bit (almR n + 0xC) 1]
  refine ⟨(u.almNext_fired n.isLt _).trans hb, ?_⟩
  have ha := hf.act (actId 1 n)
  have h5 := hf.rd (0x5C0 + 4 * n)
  rw [u.almNext_rearms s.now ((hf.bit (almR n + 8) 3).trans hr) (by rw [ha, h5]; exact hl), State.act_setAct_self, ha, h5,
    hf.bit (almR n + 8) 2]

theorem almFire_asserts (n : Fin 16) (h : s.Due (actId 1 n))
    (hheld : ∀ e ∈ s.fab.heldP, ∀ m, e.1 = .alm m → m.val ≠ n.val) (hao : s.aoAlarm (actId 1 n) = false ∨ s.domOn 2 = true)
    (hsyn : ∀ x < 4, s.bit (synR x) 4 = false) : Does (.almFire n) s fun t =>
      t.fab.inflight = s.fab.inflight ++ [(0, s.srcOf (98 + n) s.now)] := by
  refine ⟨_, exec_almFire s n h, ?_⟩
  obtain ⟨u, he, -, -, hfab⟩ := s.fireAlarm_spec n.isLt
  have hi : (s.fireAlarm n).fab = u.fab := by
    rw [he]
    exact Eq.trans ((State.reviewMode_frame _).keeps .fab (by decide)) ((u.almNext_frame _).keeps .fab (by decide))
  rw [hi, hfab hsyn]
  have hw := s.wbit_frame (almR n + 0xC) 1 true
  generalize s.wbit (almR n + 0xC) 1 true = w at hw ⊢
  have hwt : w.time = s.time := hw.keeps .time (by decide)
  have hwf : w.fab = s.fab := hw.keeps .fab (by decide)
  have hnone : (decide (n.val < 4) && w.fab.heldP.any fun e => e.1 == .alm (Fin.ofNat 4 n)) = false := by
    rw [Bool.and_eq_false_imp]
    intro hlt
    rw [decide_eq_true_eq] at hlt
    rw [hwf, List.any_eq_false]
    intro e hmem
    have hne : e.1 ≠ .alm (Fin.ofNat 4 n) := fun hc => hheld e hmem _ hc (by simp only [Fin.ofNat_eq_cast, Fin.val_natCast]; omega)
    simpa using hne
  have hgo : (w.aoAlarm (actId 1 n) && !w.domOn 2) = false := by
    have h1 : w.aoAlarm (actId 1 n) = s.aoAlarm (actId 1 n) := by
      unfold State.aoAlarm
      rw [actId_alarm_inst n.isLt, hw.bit (0x608 + 0x10 * n) 4]
    have h2 : w.domOn 2 = s.domOn 2 := by
      simp only [State.domOn, State.dom, show w.mode = s.mode from hw.keeps .mode (by decide)]
    rw [h1, h2]
    rcases hao with h | h <;> simp [h]
  have hev : w.almEvent n = w.fireP (98 + n) := by
    simp only [State.almEvent, hnone, hgo, Bool.false_eq_true, if_false]
  rw [hev]
  simp only [State.fireP, State.assertSrc, hwt, h.1, if_true, hwf, State.srcOf, State.unit, hw.fld 0x3404 31 24, State.now]

theorem almFireSleep_fires (n : Fin 16) (m : Fin 4) (hm : n.val = m.val) (hao : s.aoAlarm (actId 1 n) = true)
    (hf : s.time.fclk = false) (ha : (s.act (actId 1 n)).armed = true) (hd : (s.act (actId 1 n)).defer = false)
    (hl : 0 ≤ lead s.time.keep (s.act (actId 1 n)).target) : Does (.almFireSleep m) s fun t =>
      t.bit (almR n + 0xC) 1 = true ∧ SameStores s t ∧
        (s.bit (almR n + 8) 3 = false → t.act (actId 1 n) = {} ∧ t.bit (almR n + 0xC) 0 = false) ∧
        ((∀ e ∈ s.fab.heldP, e.1 ≠ .alm m) → (∀ x < 4, s.bit (synR x) 4 = false) →
          t.fab.heldP = s.fab.heldP ++ [(.alm m, s.time.keep)]) := by
  unfold Does
  rw [show exec (.almFireSleep m) s = execAlmFireSleep m s from rfl]
  simp only [execAlmFireSleep, ← hm, hao, hf, ha, hd, decide_eq_true hl, Bool.not_false, Bool.true_or, Bool.and_self, if_true]
  have hw := s.wbit_frame (almR n + 0xC) 1 true
  have hw1 : (s.wbit (almR n + 0xC) 1 true).bit (almR n + 0xC) 1 = true := State.bit_wbit_self _ _ _ _ (by omega)
  generalize s.wbit (almR n + 0xC) 1 true = w at hw hw1 ⊢
  have hh := w.holdProd_frame (.alm m) w.time.keep (4 + n)
  have hheld : (∀ e ∈ s.fab.heldP, e.1 ≠ .alm m) →
      (w.holdProd (.alm m) w.time.keep (4 + n)).fab.heldP = s.fab.heldP ++ [(.alm m, s.time.keep)] := by
    intro hnone
    have hwf : w.fab = s.fab := hw.keeps .fab (by decide)
    have hwt : w.time = s.time := hw.keeps .time (by decide)
    have hany : (w.fab.heldP.any fun e => e.1 == .alm m) = false := by
      rw [hwf, List.any_eq_false]
      intro e he
      simpa using hnone e he
    unfold State.holdProd
    rw [if_neg (by simp [hany]), hwf, hwt]
  generalize w.holdProd (.alm m) w.time.keep (4 + n) = a at hh hheld ⊢
  have hs := a.almSynths_frame n
  have hf : Frame fireParts (fireKey n) s (a.almSynths n) :=
    ((hw.mono (P := fireParts) (K := fireKey n)).then hh).then hs
  have hb : (a.almSynths n).bit (almR n + 0xC) 1 = true :=
    (hs.bit (almR n + 0xC) 1).trans ((hh.bit (almR n + 0xC) 1).trans hw1)
  have hp : (a.almSynths n).fab = a.fab := hs.keeps .fab (by decide)
  generalize a.almSynths n = u at hs hf hb hp ⊢
  have hn := u.almNext_frame (n := n) a.time.keep
  have ht : ∃ t, (if ((u.almNext n a.time.keep).bit (almR n + 8) 5 && !(u.almNext n a.time.keep).awake) = true then
      ok ((u.almNext n a.time.keep).after 0 (.wake (.alm m))) else ok (u.almNext n a.time.keep)) = .next t ∧
      Frame [.agenda] noKey (u.almNext n a.time.keep) t := by
    split
    · exact ⟨_, rfl, State.after_frame _ _ _⟩
    · exact ⟨_, rfl, .refl⟩
  obtain ⟨t, he, hg⟩ := ht
  refine ⟨t, he, ?_, ?_, fun hr => ?_, fun hnone _ => ?_⟩
  · rw [hg.bit (almR n + 0xC) 1, u.almNext_fired n.isLt, hb]
  · exact (((hf.mono (P := .out :: .acts :: fireParts) (K := fun _ => True)).then hn).then hg).sameStores
  · have he := u.almNext_disarms a.time.keep ((hf.bit (almR n + 8) 3).trans hr)
    obtain ⟨-, ha, hb0, -⟩ := u.disarm_alarm n.isLt
    rw [hg.act, hg.bit (almR n + 0xC) 0, he]
    exact ⟨ha, hb0⟩
  · have hfab : t.fab = u.fab := Eq.trans (hg.keeps .fab (by decide)) (hn.keeps .fab (by decide))
    rw [hfab, hp, hheld hnone]

/-- Settles O12: an arm, disarm or re-arm acts on the state in which a firing due has completed; a firing is followed through the
synthesizers it applies, which leave the alarm's own registers. -/
theorem alarmsArmDisarmAndFire : Obligations.AlarmsArmDisarmAndFire := by
  intro s n a r u drop tgt armed
  have arms {c : Instr} {x : Act} (y : Act) (he : exec c s = .next (u.armAct a x))
      (h : let t := u.armAct a x; Frame [.acts] (· = 0x60C + 0x10 * n) u t ∧ t.act a = y ∧ t.bit (almR n + 0xC) 0 = true) :
      Does c s (armed y) :=
    ⟨_, he, h.2.1, h.2.2, (s.settleAlarm_stores n.isLt).trans h.1.sameStores⟩
  refine ⟨fun hr hl => arms _ (exec_almArm s n) (u.armAct_alarm_inTime n.isLt _ hr hl),
    fun hr => arms _ (exec_almArm s n) (u.armAct_alarm_waits n.isLt _ hr), almDisarm_disarms s n, fun e pr =>
    ⟨fun hr hl => arms _ (exec_almRearmEvent s n e pr) (u.armAct_alarm_inTime n.isLt _ hr hl),
      fun hr => arms _ (exec_almRearmEvent s n e pr) (u.armAct_alarm_waits n.isLt _ hr)⟩, fun hd =>
    ⟨almFire_disarms s n hd, almFire_rearms s n hd, almFire_asserts s n hd⟩, almFireSleep_fires s n⟩

end Sys2Proof.Machine
end

section
/-! SUPPORT. Frames of the wakes (R102, R109, R115) and of the time inputs' operations (R342 to R347). -/

namespace Sys2Proof.Machine

-- Proofs one after another: many that wait in threads of their own would pass the check's memory limit.
set_option Elab.async false

variable (s : State)

/-! ### Wakes -/

theorem State.orWait_frame {P : List Aspect} {K : Nat → Prop} (c : Instr) {f : State → State} (hP : Aspect.rst ∈ P)
    (hf : Frame P K s (f s)) : Frame P K s (s.orWait c f) := by
  have h (r : RstSt) : Frame [.rst] noKey s { s with rst := r } := .part rfl
  unfold State.orWait
  exact .ite (fun _ => (h _).mono (by simpa using hP) (by omega)) fun _ => hf

theorem State.training_frame : Frame [.mem] noKey s { s with mem := { s.mem with training := true } } :=
  .part rfl

theorem State.wakeShelf_frame (l : List WakeSrc) :
    Frame [.cyc, .agenda, .mode, .trans, .doms, .syn, .host, .mem] (· = 0x430) s (s.wakeShelf l) := by
  have hh (u : State) (x : HostSt) : Frame [.host] noKey u { u with host := x } := .part rfl
  unfold State.wakeShelf
  extract_lets s1 src s2
  have h1 : Frame [.cyc, .agenda, .mode, .trans, .doms, .syn, .host, .mem] (· = 0x430) s s1 := (s.startWake_frame l _).mono
  clear_value s1
  have h2 : Frame [.cyc, .agenda, .mode, .trans, .doms, .syn, .host, .mem] (· = 0x430) s s2 := h1.then (hh s1 _)
  clear_value s2
  exact (h2.then (State.training_frame s2)).then (State.after_frame _ _ _)

theorem State.wakeBy_frame (src : WakeSrc) :
    Frame [.cyc, .agenda, .mode, .trans, .doms, .syn, .rst, .host, .mem] (· = 0x430) s (s.wakeBy src) := by
  have hold : Frame [.cyc, .agenda, .mode] (· = 0x430) s
      (((s.wr 0x430 (s.rd 0x430 ||| wakeSrcWord [src])).touch (devKey 0x430) (wakeSrcWord [src])).startHold) :=
    (((s.wr_frame 0x430 _).mono).then (State.touch_frame _ _ _)).then (State.startHold_frame _)
  have wait : Frame [.mode] noKey s { s with mode := { s.mode with wakeAfter := s.mode.wakeAfter ++ [src] } } := s.modeRest_frame
  have start : Frame [.cyc, .agenda, .mode, .trans, .doms, .syn, .host, .mem] (· = 0x430) s
      (if s.mode.eff = .listen then s.startWake [src] .waking
        else if s.mode.eff = .shelf ∧ s.rst.phase = 5 then s.wakeShelf [src] else s) :=
    .ite (fun _ => (s.startWake_frame _ _).mono) fun _ => .ite (fun _ => s.wakeShelf_frame _) fun _ => .refl
  unfold State.wakeBy
  apply s.orWait_frame _ (by decide)
  split
  · exact hold.mono
  · exact hold.mono
  · exact wait.mono
  · exact wait.mono
  · exact start.mono

/-! ### Time inputs -/

theorem State.showTin_frame (n : Nat) : Frame [.cyc] (· = tinR n + 4) s (s.showTin n) := by
  have hw := s.wfld_frame (tinR n + 4) 6 0 (s.tin n).fifo.length
  unfold State.showTin
  dsimp only
  split
  · exact ((((hw.mono).then (State.wbit_frame _ _ 31 true)).then (State.wbit_frame _ _ 30 _)).then (State.wbit_frame _ _ 29 _)).then
      (State.wbit_frame _ _ 28 _)
  · exact (hw.mono).then (State.wfld_frame _ _ 31 28 0)

theorem State.pushTin_frame (n : Nat) (stamp : Time) (edge coarse prov : Bool) :
    Frame [.cyc, .tins, .out] (fun k => k = tinR n + 4 ∨ pendKey k) s (s.pushTin n stamp edge coarse prov) := by
  unfold State.pushTin
  extract_lets x e s1
  have h1 : Frame [.cyc, .tins, .out] (fun k => k = tinR n + 4 ∨ pendKey k) s s1 :=
    .ite (fun _ => (s.setTin_frame n _).mono) fun _ => ((s.setTin_frame n _).mono).then (State.tally_frame _ (devKey (tinR n + 4)) _)
  clear_value s1
  exact (h1.then (s1.showTin_frame n)).then (State.pendOwner_frame _ _ _ _)

theorem State.tinEvent_frame (n : Nat) (stamp : Time) (prov : Bool) :
    Frame [.cyc, .fab, .inflight] (· = 0x448) s (s.tinEvent n stamp prov) := by
  unfold State.tinEvent
  exact .ite (fun _ => (s.wakeOvr_frame n).mono) fun _ => (s.assertSrc_frame _).mono

/-- The registers a time input's edge may change: its FIFO status, WAKE_OVR and the interrupt of its owner. -/
abbrev tinKey (n : Nat) : Nat → Prop := fun k => k = 0x2A44 + 0x10 * n ∨ k = 0x448 ∨ pendKey k

theorem State.tinCounts_frame (n : Nat) (stamp : Time) (rising prov : Bool) :
    Frame [.cyc, .tins, .out, .fab, .inflight] (tinKey n) s (s.tinCounts n stamp rising prov) :=
  (((s.tinEvent_frame n stamp prov).mono).then (State.pushTin_frame _ n stamp rising false prov)).then (State.setTin_frame _ _ _)

theorem State.tinFiltered_frame (n : Nat) (rising : Bool) (stamp : Option (Time × Bool)) :
    Frame [.cyc, .tins, .out, .fab, .inflight] (tinKey n) s (s.tinFiltered n rising stamp) := by
  have h : Frame [.cyc, .tins, .out, .fab, .inflight] (tinKey n) s
      ((s.setTin n { s.tin n with run := 0 }).wbit (tinR n + 4) 7 rising) :=
    ((s.setTin_frame n _).mono).then (State.wbit_frame _ _ 7 rising)
  unfold State.tinFiltered
  dsimp only
  split
  · exact .ite (fun _ => h.trans (State.tinCounts_frame _ _ _ _ _)) fun _ => h
  · exact h

theorem State.tinRaw_frame (n : Nat) (rising : Bool) (stamp : Time) :
    Frame [.cyc, .tins, .out, .fab, .inflight] (tinKey n) s (s.tinRaw n rising stamp) := by
  have h (x : TinSt) : Frame [.cyc, .tins, .out, .fab, .inflight] (tinKey n) s (s.setTin n x) := (s.setTin_frame n x).mono
  unfold State.tinRaw
  exact .ite (fun _ => (h _).trans (State.tinFiltered_frame _ _ _ _)) fun _ => h _

end Sys2Proof.Machine
end

section
/-! Settles O41: the edges of time inputs, their FIFO and its clears, wake edges, and the crossings of comparators (R341 to R351). -/

namespace Sys2Proof.Machine

-- Proofs one after another: many that wait in threads of their own would pass the check's memory limit.
set_option Elab.async false

variable (s : State)

/-! ### The FIFO -/

/-- A saturating count in a field counts, and leaves the bits beside it. -/
theorem State.incFld_reads (o hi lo n : Nat) (h : hi < 32) (hl : lo ≤ hi) :
    (s.incFld o hi lo n).fld o hi lo = min (s.fld o hi lo + n) (2 ^ (hi + 1 - lo) - 1) ∧
      ∀ i, i < lo ∨ hi < i → (s.incFld o hi lo n).bit o i = s.bit o i := by
  have he : (s.incFld o hi lo n).rd o = satFld (s.rd o) hi lo n := State.getKey_setKey_self _ _ _
  constructor
  · rw [State.fld, he, satFld, bf_setFld _ _ _ _ h hl]
    have := Nat.two_pow_pos (hi + 1 - lo)
    exact Nat.mod_eq_of_lt (by omega)
  · intro i hi'
    rw [State.bit, he, satFld, tb_setFld_ne _ _ h hl hi', State.bit]

/-- TINn_FIFO shows the count and, with an entry in the window, its flags; level and LOST stay. -/
theorem State.showTin_reads (n : Nat) :
    (s.showTin n).fld (tinR n + 4) 6 0 = (s.tin n).fifo.length % 128 ∧
      (s.showTin n).bit (tinR n + 4) 7 = s.bit (tinR n + 4) 7 ∧
      (s.showTin n).fld (tinR n + 4) 23 16 = s.fld (tinR n + 4) 23 16 ∧
      ((s.tin n).win = none → (s.showTin n).fld (tinR n + 4) 31 28 = 0) := by
  unfold State.showTin
  dsimp only
  split
  · next e he =>
    refine ⟨?_, ?_, ?_, fun h => by simp [h] at he⟩
    · rw [State.fld_wbit_ne _ _ _ (by omega) (by omega), State.fld_wbit_ne _ _ _ (by omega) (by omega),
        State.fld_wbit_ne _ _ _ (by omega) (by omega), State.fld_wbit_ne _ _ _ (by omega) (by omega),
        State.fld_wfld_self _ _ _ _ _ (by omega) (by omega)]
      rfl
    · rw [State.bit_wbit_ne _ _ _ (by omega) (by omega), State.bit_wbit_ne _ _ _ (by omega) (by omega),
        State.bit_wbit_ne _ _ _ (by omega) (by omega), State.bit_wbit_ne _ _ _ (by omega) (by omega),
        State.bit_wfld_ne _ _ _ (by omega) (by omega) (by omega)]
    · rw [State.fld_wbit_ne _ _ _ (by omega) (by omega), State.fld_wbit_ne _ _ _ (by omega) (by omega),
        State.fld_wbit_ne _ _ _ (by omega) (by omega), State.fld_wbit_ne _ _ _ (by omega) (by omega),
        State.fld_wfld_ne _ _ _ (by omega) (by omega) (by omega)]
  · refine ⟨?_, ?_, ?_, fun _ => ?_⟩
    · rw [State.fld_wfld_ne _ _ _ (by omega) (by omega) (by omega), State.fld_wfld_self _ _ _ _ _ (by omega) (by omega)]
      rfl
    · rw [State.bit_wfld_ne _ _ _ (by omega) (by omega) (by omega), State.bit_wfld_ne _ _ _ (by omega) (by omega) (by omega)]
    · rw [State.fld_wfld_ne _ _ _ (by omega) (by omega) (by omega), State.fld_wfld_ne _ _ _ (by omega) (by omega) (by omega)]
    · rw [State.fld_wfld_self _ _ _ _ _ (by omega) (by omega)]
      rfl

theorem Frame.tin {P : List Aspect} {K : Nat → Prop} {s t : State} (h : Frame P K s t) (n : Nat) (ht : Aspect.tins ∉ P := by decide) :
    t.tin n = s.tin n := by
  simp only [State.tin, show t.tins = s.tins from h.keeps .tins ht]

/-- The input after a push: the entry queued in a FIFO of fewer than 64, else lost (R346). -/
def TinSt.pushed (x : TinSt) (stamp : Time) (edge coarse prov : Bool) : TinSt :=
  if x.fifo.length < 64 then
    { x with fifo := x.fifo ++ [{ stamp := stamp, edge := edge, coarse := coarse, loss := x.loss, prov := prov }], loss := false }
  else { x with loss := true }

theorem State.pushTin_reads {n : Nat} (hn : n < 16) (stamp : Time) (edge coarse prov : Bool) :
    let t := s.pushTin n stamp edge coarse prov
    t.tin n = (s.tin n).pushed stamp edge coarse prov ∧ t.bit (tinR n + 4) 7 = s.bit (tinR n + 4) 7 ∧
      ((s.tin n).fifo.length < 64 → t.fld (tinR n + 4) 6 0 = (s.tin n).fifo.length + 1) ∧
      (64 ≤ (s.tin n).fifo.length → t.fld (tinR n + 4) 23 16 = min (s.fld (tinR n + 4) 23 16 + 1) 255) := by
  intro t
  have hp (u : State) := (u.showTin n).pendOwner_frame .tin n 26
  have ht (u : State) : ((u.showTin n).pendOwner .tin n 26).tin n = u.tin n :=
    ((hp u).tin n).trans ((u.showTin_frame n).tin n)
  by_cases hl : (s.tin n).fifo.length < 64
  · have he : t = ((s.setTin n ((s.tin n).pushed stamp edge coarse prov)).showTin n).pendOwner .tin n 26 := by
      simp only [t, State.pushTin, TinSt.pushed, if_pos hl]
    have hx : (s.setTin n ((s.tin n).pushed stamp edge coarse prov)).tin n = (s.tin n).pushed stamp edge coarse prov :=
      State.tin_setTin_self _ _ _
    rw [he, ht, (hp _).bit (tinR n + 4) 7, (hp _).fld (tinR n + 4) 6 0, (State.showTin_reads _ n).1, (State.showTin_reads _ n).2.1, hx]
    refine ⟨rfl, rfl, fun _ => ?_, fun h => by omega⟩
    rw [TinSt.pushed, if_pos hl, List.length_append, List.length_singleton]
    omega
  · have he : t = (((s.setTin n ((s.tin n).pushed stamp edge coarse prov)).incFld (tinR n + 4) 23 16 1).showTin n).pendOwner .tin n 26 := by
      simp only [t, State.pushTin, TinSt.pushed, if_neg hl]
    obtain ⟨hf, hb⟩ := (s.setTin n ((s.tin n).pushed stamp edge coarse prov)).incFld_reads (tinR n + 4) 23 16 1 (by omega) (by omega)
    obtain ⟨-, hs7, hs16, -⟩ := ((s.setTin n ((s.tin n).pushed stamp edge coarse prov)).incFld (tinR n + 4) 23 16 1).showTin_reads n
    refine ⟨?_, ?_, fun h => by omega, fun _ => ?_⟩
    · rw [he, ht]
      exact State.tin_setTin_self _ _ _
    · rw [he, (hp _).bit (tinR n + 4) 7, hs7, hb 7 (by omega)]
      rfl
    · rw [he, (hp _).fld (tinR n + 4) 23 16, hs16, hf]
      rfl

/-! ### Edges while FCLK runs -/

/-- The event of a counted edge: an assertion, or lost and counted in WAKE_OVR while a wake edge of the pin is held (R112). -/
theorem State.tinEvent_spec {n : Nat} (hn : n < 16) (stamp : Time) (prov : Bool) (hf : s.time.fclk = true) :
    (¬ (n < 4 ∧ ∃ e ∈ s.fab.heldP, e.1 = .tin (Fin.ofNat 4 n)) →
      (0, { s.srcOf (64 + n) stamp with prov := prov }) ∈ (s.tinEvent n stamp prov).fab.inflight) ∧
    (n < 4 ∧ (∃ e ∈ s.fab.heldP, e.1 = .tin (Fin.ofNat 4 n)) →
      (s.tinEvent n stamp prov).bit 0x448 n = true ∧ (s.tinEvent n stamp prov).fab = s.fab) := by
  have hcond : (decide (n < 4) && s.fab.heldP.any fun e => e.1 == .tin (Fin.ofNat 4 n)) = true ↔
      n < 4 ∧ ∃ e ∈ s.fab.heldP, e.1 = .tin (Fin.ofNat 4 n) := by
    simp [List.any_eq_true]
  constructor
  · intro h
    have he : s.tinEvent n stamp prov = s.assertSrc { s.srcOf (64 + n) stamp with prov := prov } := by
      unfold State.tinEvent
      exact if_neg (mt hcond.mp h)
    rw [he]
    simp [State.assertSrc, hf]
  · intro h
    have he : s.tinEvent n stamp prov = s.wakeOvr n := by
      unfold State.tinEvent
      exact if_pos (hcond.mpr h)
    rw [he]
    refine ⟨?_, (s.wakeOvr_frame n).keeps .fab (by decide)⟩
    rw [State.wakeOvr, (State.incFld_reads _ 0x448 31 16 1 (by omega) (by omega)).2 n (by omega), State.bit_wbit_self _ _ _ _ (by omega)]

/-- An edge that counts, in its cycle (R344). -/
theorem State.tinCounts_spec {n : Nat} (hn : n < 16) (stamp : Time) (rising prov : Bool) (hf : s.time.fclk = true) :
    let t := s.tinCounts n stamp rising prov
    let x := s.tin n
    let held := n < 4 ∧ ∃ e ∈ s.fab.heldP, e.1 = .tin (Fin.ofNat 4 n)
    t.tin n = { x.pushed stamp rising false prov with cnt := x.cnt + 1 } ∧ t.bit (tinR n + 4) 7 = s.bit (tinR n + 4) 7 ∧
      (¬ held → (0, { s.srcOf (64 + n) stamp with prov := prov }) ∈ t.fab.inflight) ∧
      (held → t.bit 0x448 n = true ∧ t.fab = s.fab) ∧
      (x.fifo.length < 64 → t.fld (tinR n + 4) 6 0 = x.fifo.length + 1) ∧
      (64 ≤ x.fifo.length → t.fld (tinR n + 4) 23 16 = min (s.fld (tinR n + 4) 23 16 + 1) 255) := by
  intro t x held
  have hev := s.tinEvent_frame n stamp prov
  obtain ⟨hgo, hlost⟩ := s.tinEvent_spec hn stamp prov hf
  have htin := hev.tin n
  obtain ⟨hx, h7, h6, h16⟩ := (s.tinEvent n stamp prov).pushTin_reads hn stamp rising false prov
  have hpush := (s.tinEvent n stamp prov).pushTin_frame n stamp rising false prov
  have he : t = ((s.tinEvent n stamp prov).pushTin n stamp rising false prov).setTin n
      { ((s.tinEvent n stamp prov).pushTin n stamp rising false prov).tin n with
        cnt := (((s.tinEvent n stamp prov).pushTin n stamp rising false prov).tin n).cnt + 1 } := rfl
  generalize s.tinEvent n stamp prov = a at hev hgo hlost htin hx h7 h6 h16 hpush he
  generalize a.pushTin n stamp rising false prov = b at hx h7 h6 h16 hpush he
  have hset := b.setTin_frame n { b.tin n with cnt := (b.tin n).cnt + 1 }
  rw [← he] at hset
  have hfab : t.fab = a.fab := Eq.trans (hset.keeps .fab (by decide)) (hpush.keeps .fab (by decide))
  rw [htin] at hx h6 h16
  refine ⟨?_, ?_, fun h => hfab ▸ hgo h, fun h => ⟨?_, hfab.trans (hlost h).2⟩, fun h => ?_, fun h => ?_⟩
  · rw [he, State.tin_setTin_self, hx]
    simp only [TinSt.pushed]
    split <;> rfl
  · rw [hset.bit, h7, hev.bit (tinR n + 4) 7]
  · rw [hset.bit, hpush.bit 0x448 n, (hlost h).1]
  · rw [hset.fld, h6 h]
  · rw [hset.fld, h16 h, hev.fld (tinR n + 4) 23 16]

/-- A raw edge that leaves the filtered level (R342). -/
theorem State.tinRaw_level (n : Nat) (rising : Bool) (stamp : Time)
    (h : s.fld (tinR n) 13 8 ≠ 0 ∨ s.bit (tinR n + 4) 7 = rising) :
    s.tinRaw n rising stamp = s.setTin n { s.tin n with raw := rising, rawAt := some (stamp, s.time.handoff) } := by
  unfold State.tinRaw
  refine if_neg ?_
  rintro ⟨h0, hne⟩
  rcases h with h | h
  · exact h h0
  · exact hne h.symm

/-- The state with a new raw and filtered level of an input, before it counts. -/
def State.tinLevel (s : State) (n : Nat) (rising : Bool) (stamp : Time) : State :=
  ((s.setTin n { s.tin n with raw := rising, rawAt := some (stamp, s.time.handoff) }).setTin n
    { (s.setTin n { s.tin n with raw := rising, rawAt := some (stamp, s.time.handoff) }).tin n with run := 0 }).wbit (tinR n + 4) 7 rising

theorem State.tinLevel_spec (n : Nat) (rising : Bool) (stamp : Time) :
    let t := s.tinLevel n rising stamp
    Frame [.cyc, .tins] (· = tinR n + 4) s t ∧ t.bit (tinR n + 4) 7 = rising ∧
      t.fld (tinR n + 4) 23 16 = s.fld (tinR n + 4) 23 16 ∧
      t.tin n = { s.tin n with raw := rising, rawAt := some (stamp, s.time.handoff), run := 0 } := by
  refine ⟨(((s.setTin_frame n _).mono).then (State.setTin_frame _ n _)).then (State.wbit_frame _ _ 7 rising),
    State.bit_wbit_self _ _ _ _ (by omega), State.fld_wbit_ne _ _ _ (by omega) (by omega), ?_⟩
  simp only [State.tinLevel, (State.wbit_frame _ (tinR n + 4) 7 rising).tin, State.tin_setTin_self]

/-- A raw edge into another filtered level with FILT = 0 changes it in its cycle, and counts with EN and its polarity (R342, R344). -/
theorem State.tinRaw_filtered (n : Nat) (rising : Bool) (stamp : Time) (h0 : s.fld (tinR n) 13 8 = 0)
    (h7 : s.bit (tinR n + 4) 7 ≠ rising) : s.tinRaw n rising stamp =
      if s.bit (tinR n) 0 && polCounts (s.fld (tinR n) 3 2) rising then
        (s.tinLevel n rising stamp).tinCounts n stamp rising s.time.handoff
      else s.tinLevel n rising stamp := by
  have hf := (s.tinLevel_spec n rising stamp).1
  rw [← hf.bit (tinR n) 0, ← hf.fld (tinR n) 3 2]
  unfold State.tinRaw
  exact if_pos ⟨h0, fun h => h7 h.symm⟩

theorem State.tinRaw_raw {n : Nat} (hn : n < 16) (rising : Bool) (stamp : Time) (hf : s.time.fclk = true) :
    ((s.tinRaw n rising stamp).tin n).raw = rising := by
  by_cases h : s.fld (tinR n) 13 8 ≠ 0 ∨ s.bit (tinR n + 4) 7 = rising
  · rw [s.tinRaw_level n rising stamp h, State.tin_setTin_self]
  · rw [not_or, not_not] at h
    obtain ⟨hfr, -, -, ht⟩ := s.tinLevel_spec n rising stamp
    rw [s.tinRaw_filtered n rising stamp h.1 h.2]
    split
    · have hc := ((s.tinLevel n rising stamp).tinCounts_spec hn stamp rising s.time.handoff
        (by rw [show (s.tinLevel n rising stamp).time = s.time from hfr.keeps .time (by decide), hf])).1
      rw [hc, ht]
      simp only [TinSt.pushed]
      split <;> rfl
    · rw [ht]

/-! ### The commands of a time input -/

theorem tinEdge_stopped (n : Fin 16) (rising : Bool) (stamp : Time) (back : Option Time) (hf : s.time.fclk = false) :
    Does (.tinEdge n rising ⟨stamp, back⟩) s fun t => t.tin n = { s.tin n with raw := rising != back.isSome, rawAt := none } ∧
      t.fab = s.fab ∧ SameRegs [] s t ∧ SameStores s t := by
  have h := s.setTin_frame n { s.tin n with raw := rising != back.isSome, rawAt := none }
  refine ⟨_, ?_, State.tin_setTin_self _ _ _, h.keeps .fab (by decide), h.sameRegs _ (by omega), h.sameStores⟩
  rw [show exec (.tinEdge n rising ⟨stamp, back⟩) s = execTinEdge n rising ⟨stamp, back⟩ s from rfl]
  simp [execTinEdge, hf, ok]

/-- With FCLK running, and no descent that the edge may turn into a wake, an edge is a raw edge, or begins a short pulse (R345). -/
theorem exec_tinEdge_running (n : Fin 16) (rising : Bool) (stamp : Time) (back : Option Time) (hf : s.time.fclk = true)
    (ha : (∀ m, s.mode.trans ≠ .descent m) ∨ s.tinWakes n rising = false) :
    exec (.tinEdge n rising ⟨stamp, back⟩) s = match back with
      | none => .next (s.tinRaw n rising stamp)
      | some b =>
        if s.fld (tinR n) 13 8 = 0 ∧ (Config.openWord 11 s.free).toNat % 2 = 0 then .next s.fresh
        else .next ((s.fresh.tinRaw n rising stamp).after ((b - s.now).toNat / 32 % 4 * s.cycleTu) (.tinEdge n (!rising) ⟨b, none⟩)) := by
  rw [show exec (.tinEdge n rising ⟨stamp, back⟩) s = execTinEdge n rising ⟨stamp, back⟩ s from rfl]
  simp only [execTinEdge, hf, Bool.not_true, Bool.false_eq_true, if_false]
  cases hd : s.mode.trans with
  | descent m =>
    cases back <;> simp only [ha.resolve_left fun h => h m hd, Bool.false_eq_true, if_false]
  | _ => cases back <;> rfl

theorem tinEdge_pulse (n : Fin 16) (rising : Bool) (stamp b : Time) (hf : s.time.fclk = true)
    (ha : (∀ m, s.mode.trans ≠ .descent m) ∨ s.tinWakes n rising = false) :
    Does (.tinEdge n rising ⟨stamp, some b⟩) s fun t => t = s.fresh ∨
      ((t.tin n).raw = rising ∧ ∃ d, (s.time.mono + d, Instr.tinEdge n (!rising) ⟨b, none⟩) ∈ t.agenda) := by
  unfold Does
  rw [exec_tinEdge_running s n rising stamp (some b) hf ha]
  dsimp only
  split
  · exact ⟨_, rfl, .inl rfl⟩
  · have hm : (s.fresh.tinRaw n rising stamp).time = s.time := (s.fresh.tinRaw_frame n rising stamp).keeps .time (by decide)
    refine ⟨_, rfl, .inr ⟨s.fresh.tinRaw_raw n.isLt rising stamp hf, (b - s.now).toNat / 32 % 4 * s.cycleTu, ?_⟩⟩
    simp [State.after, hm]

theorem fifoClr_empties (n : Fin 16) : Does (.fifoClr n) s fun t => (t.tin n).fifo = [] ∧ (t.tin n).win = none ∧
    t.fld (tinR n + 4) 6 0 = 0 ∧ t.fld (tinR n + 4) 31 28 = 0 ∧ SameRegs [devKey (tinR n + 4)] s t := by
  have hx : (s.setTin n { s.tin n with fifo := [], win := none }).tin n = { s.tin n with fifo := [], win := none } :=
    State.tin_setTin_self _ _ _
  have hf := ((s.setTin_frame n { s.tin n with fifo := [], win := none }).mono (P := [.tins, .cyc]) (K := (· = tinR n + 4))).then
    (State.showTin_frame _ n)
  obtain ⟨h6, -, -, h28⟩ := (s.setTin n { s.tin n with fifo := [], win := none }).showTin_reads n
  have ht := (State.showTin_frame (s.setTin n { s.tin n with fifo := [], win := none }) n).tin n
  rw [hx] at h6 h28 ht
  exact ⟨_, rfl, by rw [ht], by rw [ht], h6, h28 rfl, hf.sameRegs _ (by simp [devKey])⟩

theorem State.clrFld_frame (k hi lo : Nat) : Frame [] (· = k) s (s.clrFld k hi lo) := s.setKey_frame k _

theorem tinCntClr_clears (n : Fin 16) : Does (.tinCntClr n) s fun t => (t.tin n).cnt = 0 ∧
    t.fld (tinR n + 4) 23 16 = bf (s.cy (tinR n + 4)).added 23 16 ∧ (t.tin n).fifo = (s.tin n).fifo ∧
      SameRegs [devKey (tinR n + 4)] s t := by
  have hc := (s.setTin n { s.tin n with cnt := 0 }).clrFld_frame (tinR n + 4) 23 16
  have ht := (hc.tin n).trans (s.tin_setTin_self n _)
  have hf := ((s.setTin_frame n { s.tin n with cnt := 0 }).mono (P := [.tins]) (K := (· = tinR n + 4))).then hc
  refine ⟨_, rfl, by rw [ht], ?_, by rw [ht], hf.sameRegs _ (by simp [devKey])⟩
  rw [State.fld, State.rd, State.clrFld, State.getKey_setKey_self, bf_setFld _ _ _ _ (by omega) (by omega)]
  exact Nat.mod_eq_of_lt (Nat.mod_lt _ (by decide))

theorem tinEdge_level (n : Fin 16) (rising : Bool) (stamp : Time) (hf : s.time.fclk = true)
    (ha : (∀ m, s.mode.trans ≠ .descent m) ∨ s.tinWakes n rising = false)
    (hl : s.fld (tinR n) 13 8 ≠ 0 ∨ s.bit (tinR n + 4) 7 = rising) : Does (.tinEdge n rising ⟨stamp, none⟩) s fun t =>
      t.tin n = { s.tin n with raw := rising, rawAt := some (stamp, s.time.handoff) } ∧ t.fab = s.fab ∧ SameRegs [] s t ∧
        SameStores s t := by
  refine ⟨_, exec_tinEdge_running s n rising stamp none hf ha, ?_⟩
  rw [s.tinRaw_level n rising stamp hl]
  have h := s.setTin_frame n { s.tin n with raw := rising, rawAt := some (stamp, s.time.handoff) }
  exact ⟨State.tin_setTin_self _ _ _, h.keeps .fab (by decide), h.sameRegs _ (by omega), h.sameStores⟩

theorem tinEdge_counts (n : Fin 16) (rising : Bool) (stamp : Time) (hf : s.time.fclk = true)
    (ha : (∀ m, s.mode.trans ≠ .descent m) ∨ s.tinWakes n rising = false) (h0 : s.fld (tinR n) 13 8 = 0)
    (h7 : s.bit (tinR n + 4) 7 ≠ rising) (hen : s.bit (tinR n) 0 = true) (hpol : polCounts (s.fld (tinR n) 3 2) rising = true) :
    let x := s.tin n
    let r := tinR n + 4
    let held : Prop := n.val < 4 ∧ ∃ e ∈ s.fab.heldP, e.1 = .tin (Fin.ofNat 4 n)
    Does (.tinEdge n rising ⟨stamp, none⟩) s fun t => t.bit r 7 = rising ∧ (t.tin n).cnt = x.cnt + 1 ∧ SameStores s t ∧
      (¬held → (0, { s.srcOf (64 + n) stamp with prov := s.time.handoff }) ∈ t.fab.inflight) ∧
      (held → t.bit 0x448 n = true ∧ t.fab = s.fab) ∧
      (x.fifo.length < 64 → (t.tin n).fifo = x.fifo ++
          [{ stamp := stamp, edge := rising, coarse := false, loss := x.loss, prov := s.time.handoff }] ∧
        t.fld r 6 0 = x.fifo.length + 1 ∧ (t.tin n).loss = false) ∧
      (64 ≤ x.fifo.length → (t.tin n).fifo = x.fifo ∧ (t.tin n).loss = true ∧
        t.fld r 23 16 = min (s.fld r 23 16 + 1) 255) := by
  intro x r held
  refine ⟨_, exec_tinEdge_running s n rising stamp none hf ha, ?_⟩
  have hst := (s.tinRaw_frame n rising stamp).sameStores
  rw [s.tinRaw_filtered n rising stamp h0 h7, if_pos (by rw [hen, hpol]; rfl)] at hst ⊢
  obtain ⟨hl, hl7, hl16, hlt⟩ := s.tinLevel_spec n rising stamp
  have hlf : (s.tinLevel n rising stamp).fab = s.fab := hl.keeps .fab (by decide)
  have hsrc : (s.tinLevel n rising stamp).srcOf (64 + n) stamp = s.srcOf (64 + n) stamp := by
    simp only [State.srcOf, State.unit, hl.fld 0x3404 31 24, show (s.tinLevel n rising stamp).time = s.time from hl.keeps .time (by decide)]
  obtain ⟨ht, h7', hgo, hlost, h6, h16⟩ := (s.tinLevel n rising stamp).tinCounts_spec n.isLt stamp rising s.time.handoff
    (by rw [show (s.tinLevel n rising stamp).time = s.time from hl.keeps .time (by decide), hf])
  rw [hlf] at hgo hlost
  rw [hsrc] at hgo
  rw [hlt] at ht h6 h16
  refine ⟨h7'.trans hl7, by rw [ht], hst, hgo, hlost, fun h => ⟨?_, h6 h, ?_⟩, fun h => ⟨?_, ?_, (h16 h).trans (by rw [hl16])⟩⟩
  · rw [ht, TinSt.pushed, if_pos h]
  · rw [ht, TinSt.pushed, if_pos h]
  · rw [ht, TinSt.pushed, if_neg (Nat.not_lt.mpr h)]
  · rw [ht, TinSt.pushed, if_neg (Nat.not_lt.mpr h)]

theorem tinEdge_uncounted (n : Fin 16) (rising : Bool) (stamp : Time) (hf : s.time.fclk = true)
    (ha : (∀ m, s.mode.trans ≠ .descent m) ∨ s.tinWakes n rising = false) (h0 : s.fld (tinR n) 13 8 = 0)
    (h7 : s.bit (tinR n + 4) 7 ≠ rising)
    (hno : s.bit (tinR n) 0 = false ∨ polCounts (s.fld (tinR n) 3 2) rising = false) :
    Does (.tinEdge n rising ⟨stamp, none⟩) s fun t => t.bit (tinR n + 4) 7 = rising ∧ SameRegs [devKey (tinR n + 4)] s t ∧
      t.tin n = { s.tin n with raw := rising, rawAt := some (stamp, s.time.handoff), run := 0 } ∧ t.fab = s.fab := by
  refine ⟨_, exec_tinEdge_running s n rising stamp none hf ha, ?_⟩
  obtain ⟨hl, hl7, -, hlt⟩ := s.tinLevel_spec n rising stamp
  have hc : (s.bit (tinR n) 0 && polCounts (s.fld (tinR n) 3 2) rising) = false := by
    rcases hno with h | h <;> simp [h]
  rw [s.tinRaw_filtered n rising stamp h0 h7, hc, if_neg Bool.false_ne_true]
  exact ⟨hl7, hl.sameRegs _ (by simp [devKey]), hlt, hl.keeps .fab (by decide)⟩

/-! ### Wake edges -/

theorem tinWakeEdge_ignored (m : Fin 4) (rising : Bool) {lasts : Nat} (hl : lasts < 2560) :
    Does (.tinWakeEdge m ⟨rising, lasts⟩) s (· = s) := by
  refine ⟨s, ?_, rfl⟩
  rw [show exec (.tinWakeEdge m ⟨rising, lasts⟩) s = execTinWakeEdge m ⟨rising, lasts⟩ s from rfl]
  simp [execTinWakeEdge, hl, ok]

/-- After a hold the event is held, now or from before. -/
theorem State.holdProd_holds (h : HeldSrc) (stamp : Time) (ovr : Nat) : ∃ y, (h, y) ∈ (s.holdProd h stamp ovr).fab.heldP := by
  unfold State.holdProd
  split
  · next hany =>
    obtain ⟨⟨a, y⟩, hmem, heq⟩ := List.any_eq_true.mp hany
    rw [beq_iff_eq] at heq
    rw [show (s.wakeOvr ovr).fab = s.fab from (s.wakeOvr_frame ovr).keeps .fab (by decide)]
    exact ⟨y, by rw [← heq]; exact hmem⟩
  · exact ⟨stamp, by simp⟩

theorem tinWakeEdge_wakes (m : Fin 4) (rising : Bool) (lasts : Nat) (ha : s.awake = false) (hf : s.time.fclk = false)
    (hw : s.tinWakes m rising = true) (hl : 2560 ≤ lasts) : Does (.tinWakeEdge m ⟨rising, lasts⟩) s fun t =>
      (∃ y, (HeldSrc.tin m, y) ∈ t.fab.heldP) ∧ (t.tin m).raw = rising ∧ SameStores s t ∧
        ((s.tin m).fifo.length < 64 → (t.tin m).fifo = (s.tin m).fifo ++
          [{ stamp := s.keepNext, edge := rising, coarse := true, loss := (s.tin m).loss, prov := false }]) := by
  have hraw := s.setTin_frame m { s.tin m with raw := rising, rawAt := none }
  have hx : (s.setTin m { s.tin m with raw := rising, rawAt := none }).tin m = { s.tin m with raw := rising, rawAt := none } :=
    State.tin_setTin_self _ _ _
  have he : exec (.tinWakeEdge m ⟨rising, lasts⟩) s = .next ((((((s.setTin m { s.tin m with raw := rising, rawAt := none }).pushTin m
      s.keepNext rising true false).holdProd (.tin m) s.keepNext m).wbit 0x504 7 true)).wakeBy (.tin m)) := by
    rw [show exec (.tinWakeEdge m ⟨rising, lasts⟩) s = execTinWakeEdge m ⟨rising, lasts⟩ s from rfl]
    simp only [execTinWakeEdge, ha, hf, hw, decide_eq_false (show ¬ lasts < 2560 by omega), Bool.not_true, Bool.or_self,
      Bool.false_eq_true, if_false]
    rfl
  generalize s.setTin m { s.tin m with raw := rising, rawAt := none } = a at hraw hx he
  have hpush := a.pushTin_frame m s.keepNext rising true false
  obtain ⟨hp, -⟩ := a.pushTin_reads (show m.val < 16 by omega) s.keepNext rising true false
  generalize a.pushTin m s.keepNext rising true false = b at hpush hp he
  have hhold := b.holdProd_frame (.tin m) s.keepNext m
  obtain ⟨y, hy⟩ := b.holdProd_holds (.tin m) s.keepNext m
  generalize b.holdProd (.tin m) s.keepNext m = c at hhold hy he
  have hbit := c.wbit_frame 0x504 7 true
  generalize c.wbit 0x504 7 true = d at hbit he
  have hwake := d.wakeBy_frame (.tin m)
  refine ⟨_, he, ⟨y, ?_⟩, ?_⟩
  · rw [show (d.wakeBy (.tin m)).fab = c.fab from Eq.trans (hwake.keeps .fab (by decide)) (hbit.keeps .fab (by decide))]
    exact hy
  have ht : (d.wakeBy (.tin m)).tin m = ({ s.tin m with raw := rising, rawAt := none } : TinSt).pushed s.keepNext rising true false := by
    rw [hwake.tin, hbit.tin, hhold.tin, hp, hx]
  have hall := ((((hraw.mono (P := [.tins, .cyc, .out, .fab, .heldP, .agenda, .mode, .trans, .doms, .syn, .rst, .host, .mem])
    (K := fun _ => True)).then hpush).then hhold).then hbit).then hwake
  refine ⟨?_, hall.sameStores, fun h => ?_⟩
  · rw [ht, TinSt.pushed]
    split <;> rfl
  · rw [ht, TinSt.pushed, if_pos h]

/-! ### Comparators -/

theorem Frame.acmp {P : List Aspect} {K : Nat → Prop} {s t : State} (h : Frame P K s t) (n : Nat)
    (ht : Aspect.acmps ∉ P := by decide) : t.acmp n = s.acmp n := by
  simp only [State.acmp, show t.acmps = s.acmps from h.keeps .acmps ht]

/-- The voltages at a comparator's pin do not bear on whether it runs. -/
theorem State.acmpLive_volts (m : Nat) (uv vccio : Nat) :
    (s.setAcmp m { s.acmp m with uv := uv, vccio := vccio }).acmpLive m = s.acmpLive m := by
  unfold State.acmpLive
  rw [State.acmp_setAcmp_self]
  rfl

/-- A filtered output that changes while its crossing counts fires and counts (R350). -/
theorem State.acmpFiltered_spec {m : Nat} (hm : m < 4) (o : Bool) :
    let t := s.acmpFiltered m o
    t.bit (acmpR m + 4) 0 = o ∧
      (polCounts (s.fld (acmpR m) 19 18) o = false → t.fab = s.fab ∧ SameRegs [devKey (acmpR m + 4)] s t) ∧
      (polCounts (s.fld (acmpR m) 19 18) o = true → s.time.fclk = true → t.rd (acmpR m + 8) = s.rd (acmpR m + 8) + 1 ∧
        (0, s.srcOf (80 + m) s.now) ∈ t.fab.inflight ∧ SameRegs [devKey (acmpR m + 4), devKey (acmpR m + 8)] s t) := by
  have hset := s.setAcmp_frame m { s.acmp m with run := 0 }
  have hw := (s.setAcmp m { s.acmp m with run := 0 }).wbit_frame (acmpR m + 4) 0 o
  have hb : ((s.setAcmp m { s.acmp m with run := 0 }).wbit (acmpR m + 4) 0 o).bit (acmpR m + 4) 0 = o :=
    State.bit_wbit_self _ _ _ _ (by omega)
  have hall : Frame [.acmps, .cyc] (· = acmpR m + 4) s ((s.setAcmp m { s.acmp m with run := 0 }).wbit (acmpR m + 4) 0 o) :=
    (hset.mono).then hw
  unfold State.acmpFiltered
  dsimp only
  generalize (s.setAcmp m { s.acmp m with run := 0 }).wbit (acmpR m + 4) 0 o = a at hb hall ⊢
  rw [hall.fld (acmpR m) 19 18]
  cases hp : polCounts (s.fld (acmpR m) 19 18) o with
  | false => exact ⟨hb, fun _ => ⟨hall.keeps .fab (by decide), hall.sameRegs _ (by simp [devKey])⟩, fun h => by simp at h⟩
  | true =>
    have hfire := a.fireP_frame (80 + m)
    have hinc := (a.fireP (80 + m)).tally_frame (devKey (acmpR m + 8)) (· + BitVec.ofNat 32 1)
    have hi : (a.fireP (80 + m)).incWrap (acmpR m + 8) 1 = (a.fireP (80 + m)).tally (devKey (acmpR m + 8)) (· + BitVec.ofNat 32 1) := rfl
    have hat : a.time = s.time := hall.keeps .time (by decide)
    have hfab : a.fab = s.fab := hall.keeps .fab (by decide)
    have h8 : a.rd (acmpR m + 8) = s.rd (acmpR m + 8) := hall.rd (acmpR m + 8)
    simp only [if_true, hi]
    refine ⟨?_, fun h => by simp at h, fun _ hf => ⟨?_, ?_, ?_⟩⟩
    · rw [hinc.bit (acmpR m + 4) 0, hfire.bit _ _, hb]
    · have hr : (a.fireP (80 + m)).getKey (devKey (acmpR m + 8)) = s.rd (acmpR m + 8) := (hfire.rd (acmpR m + 8)).trans h8
      exact (State.getKey_setKey_self _ _ _).trans (by rw [hr]; rfl)
    · rw [show ((a.fireP (80 + m)).tally (devKey (acmpR m + 8)) (· + BitVec.ofNat 32 1)).fab = (a.fireP (80 + m)).fab from
        hinc.keeps .fab (by decide)]
      simp [State.fireP, State.assertSrc, hat, hf, hfab, State.srcOf, State.unit, hall.fld 0x3404 31 24, State.now]
    · have h := ((hall.mono (P := [.acmps, .cyc, .fab, .inflight]) (K := fun k => k = acmpR m + 4 ∨ k = acmpR m + 8)).then hfire).then hinc
      exact h.sameRegs _ (by simp [devKey])

/-- A new voltage at the pin of a comparator that runs moves its output, and the filtered output with FILT = 0 (R349, R350). -/
theorem exec_acmpCrossing (m : Fin 4) (uv vccio : Nat) :
    let w := s.setAcmp m { s.acmp m with uv := uv, vccio := vccio }
    let o := w.acmpOut m
    let u := w.setAcmp m { w.acmp m with out := o }
    exec (.acmpCrossing m ⟨uv, vccio⟩) s =
      if !s.acmpLive m then .next w
      else if s.fld (acmpR m) 25 20 ≠ 0 ∨ o = s.bit (acmpR m + 4) 0 then .next u
      else if s.time.fclk then .next (u.acmpFiltered m o) else .next (u.wbit (acmpR m + 4) 0 o) := by
  intro w o u
  rw [show exec (.acmpCrossing m ⟨uv, vccio⟩) s = execAcmpCrossing m ⟨uv, vccio⟩ s from rfl, ← s.acmpLive_volts m uv vccio]
  rfl

theorem acmpCrossing_crosses (m : Fin 4) (uv vccio : Nat) :
    let w := s.setAcmp m { s.acmp m with uv := uv, vccio := vccio }
    let o := w.acmpOut m
    let c := acmpR m + 4
    (s.acmpLive m = false → Does (.acmpCrossing m ⟨uv, vccio⟩) s (· = w)) ∧
    (s.acmpLive m = true → s.fld (acmpR m) 25 20 ≠ 0 ∨ o = s.bit c 0 → Does (.acmpCrossing m ⟨uv, vccio⟩) s fun t =>
      t.acmp m = { w.acmp m with out := o } ∧ t.fab = s.fab ∧ SameRegs [] s t) ∧
    (s.acmpLive m = true → s.fld (acmpR m) 25 20 = 0 → o ≠ s.bit c 0 →
      (s.time.fclk = false ∨ polCounts (s.fld (acmpR m) 19 18) o = false → Does (.acmpCrossing m ⟨uv, vccio⟩) s fun t =>
        t.bit c 0 = o ∧ t.fab = s.fab ∧ SameRegs [devKey c] s t) ∧
      (s.time.fclk = true → polCounts (s.fld (acmpR m) 19 18) o = true → Does (.acmpCrossing m ⟨uv, vccio⟩) s fun t =>
        t.bit c 0 = o ∧ t.rd (acmpR m + 8) = s.rd (acmpR m + 8) + 1 ∧ (0, s.srcOf (80 + m) s.now) ∈ t.fab.inflight ∧
        SameRegs [devKey c, devKey (acmpR m + 8)] s t)) := by
  intro w o c
  have he := exec_acmpCrossing s m uv vccio
  have hu : Frame [.acmps] noKey s (w.setAcmp m { w.acmp m with out := o }) :=
    (s.setAcmp_frame m _).trans (w.setAcmp_frame m _)
  have hua : (w.setAcmp m { w.acmp m with out := o }).acmp m = { w.acmp m with out := o } := State.acmp_setAcmp_self _ _ _
  change exec (.acmpCrossing m ⟨uv, vccio⟩) s = if !s.acmpLive m then .next w
      else if s.fld (acmpR m) 25 20 ≠ 0 ∨ o = s.bit c 0 then .next (w.setAcmp m { w.acmp m with out := o })
      else if s.time.fclk then .next ((w.setAcmp m { w.acmp m with out := o }).acmpFiltered m o)
      else .next ((w.setAcmp m { w.acmp m with out := o }).wbit c 0 o) at he
  generalize w.setAcmp m { w.acmp m with out := o } = u at he hu hua
  have hfab : u.fab = s.fab := hu.keeps .fab (by decide)
  have htime : u.time = s.time := hu.keeps .time (by decide)
  obtain ⟨hb, hquiet, hfire⟩ := u.acmpFiltered_spec m.isLt o
  refine ⟨fun hl => ⟨w, by rw [he, hl]; rfl, rfl⟩, fun hl hc => ⟨u, by rw [he, hl, if_neg (by simp), if_pos hc], hua, hfab,
    hu.sameRegs _ (by omega)⟩, fun hl h0 hne => ?_⟩
  rw [hl, if_neg (by simp), if_neg (by simp [h0, hne])] at he
  have hall {l : List Nat} {t : State} (h : SameRegs l u t) : SameRegs l s t :=
    fun k hk => (h k hk).trans (hu.reg k (by omega))
  have hsrc : u.srcOf (80 + m) u.now = s.srcOf (80 + m) s.now := by
    simp only [State.srcOf, State.unit, hu.fld 0x3404 31 24, State.now, htime]
  rw [hu.fld (acmpR m) 19 18] at hquiet hfire
  refine ⟨fun hno => ?_, fun hf hp => ?_⟩
  · cases hf : s.time.fclk with
    | false =>
      have hw := u.wbit_frame c 0 o
      rw [hf, if_neg Bool.false_ne_true] at he
      exact ⟨_, he, State.bit_wbit_self _ _ _ _ (by omega), Eq.trans (hw.keeps .fab (by decide)) hfab,
        hall (hw.sameRegs _ (by simp [devKey]))⟩
    | true =>
      obtain ⟨h1, h2⟩ := hquiet (hno.resolve_left (by simp [hf]))
      rw [hf, if_pos rfl] at he
      exact ⟨_, he, hb, h1.trans hfab, hall h2⟩
  · obtain ⟨h1, h2, h3⟩ := hfire hp (htime ▸ hf)
    rw [hf, if_pos rfl] at he
    exact ⟨_, he, hb, h1.trans (by rw [hu.rd (acmpR m + 8)]), hsrc ▸ h2, hall h3⟩

/-- Settles O41, edge by edge: what a raw edge, a counted edge and a wake edge make of the input, its FIFO and the fabric. -/
theorem inputEdgesAreStampedAndQueued : Obligations.InputEdgesAreStampedAndQueued := by
  intro s n rising stamp x r awake held at_
  refine ⟨fun back hf => tinEdge_stopped s n rising stamp back hf, fun b ⟨hf, ha⟩ => tinEdge_pulse s n rising stamp b hf ha,
    fun ⟨hf, ha⟩ hl => tinEdge_level s n rising stamp hf ha hl, fun ⟨hf, ha⟩ h0 h7 =>
      ⟨tinEdge_counts s n rising stamp hf ha h0 h7, tinEdge_uncounted s n rising stamp hf ha h0 h7⟩,
    fun m lasts ha hf hw => ⟨tinWakeEdge_ignored s m rising, tinWakeEdge_wakes s m rising lasts ha hf hw⟩, fifoClr_empties s n,
    tinCntClr_clears s n, acmpCrossing_crosses s⟩

end Sys2Proof.Machine
end

section
/-! SUPPORT. Frames of halting, parking and SAFE (R120 to R122, R282, R302), of sleep (R126, R178), and of a segment's copy (R164). -/

namespace Sys2Proof.Machine

-- Proofs one after another: many that wait in threads of their own would pass the check's memory limit.
set_option Elab.async false

variable (s : State)

/-- Any register. -/
abbrev anyKey : Nat → Prop := fun k => 0 ≤ k

/-! ### Halting and parking -/

/-- What a halt may change beside registers. -/
abbrev haltParts : List Aspect := [.cyc, .agenda, .fab, .inflight, .seqs, .aouts, .phaseRefs, .pbs, .trgs, .sems, .out]

theorem State.setLevel_frame (p : Nat) (b : Bool) : Frame [.fab, .inflight] noKey s (s.setLevel p b) := by
  have h : Frame [.fab, .inflight] noKey s { s with fab := { s.fab with lv0 := setBit s.fab.lv0 p b } } := .part rfl
  unfold State.setLevel
  exact .ite (fun _ => h.trans (State.fireP_frame _ p)) fun _ => h

theorem State.parkAout_frame (n : Nat) : Frame [.cyc, .aouts, .phaseRefs] anyKey s (s.parkAout n) :=
  ((s.wbit_frame _ 2 true).mono).then (State.setAo_frame _ _ _)

theorem State.stopBank_frame (k : Nat) : Frame [.pbs] anyKey s (s.stopBank k) := by
  unfold State.stopBank State.parkBank
  exact (((s.wfld_frame _ 1 0 0).mono).then (State.setPb_frame _ k _)).then (State.setPb_frame _ k _)

theorem State.releaseSems_frame (p : SemSt → Bool) (ab : Bool) : Frame [.cyc, .out, .sems] anyKey s (s.releaseSems p ab) := by
  refine Frame.each (fun e _ s => ?_) s
  have h : Frame [.cyc, .out, .sems] anyKey s (s.setSem e.1 { owner := none, epoch := 0, abandoned := ab }) := (s.setSem_frame _ _).mono
  dsimp only
  split
  · exact .ite (fun _ => h.then (State.pend_frame _ _ 8)) fun _ => h
  · exact h

theorem State.releaseHeads_frame (k : Nat) : Frame [.cyc, .seqs] noKey s (s.releaseHeads k) := by
  unfold State.releaseHeads State.addWhey
  exact (((s.setSq_frame k _).mono).then (State.setSq_frame _ k _)).then (State.setCy_frame _ _ _)

theorem State.clearMarkers_frame (k : Nat) : Frame [.fab, .inflight, .seqs] anyKey s (s.clearMarkers k) := by
  have h : Frame [.fab, .inflight] noKey s (s.each (List.range 4) fun s m => s.setLevel (4 * k + m) false) :=
    Frame.each (fun m _ s => s.setLevel_frame _ false) s
  exact ((h.mono).then (State.wfld_frame _ (seqR k + 0x44) 11 8 0)).then (State.setSq_frame _ k _)

theorem State.noteStop_frame : Frame [.agenda] noKey s s.noteStop := by
  unfold State.noteStop
  exact .ite (fun _ => .refl) fun _ => s.after_frame _ _

theorem State.haltSeq_frame (k why : Nat) : Frame haltParts anyKey s (s.haltSeq k why) := by
  unfold State.haltSeq
  refine .ite (fun _ => .refl) fun _ => ?_
  extract_lets x plays s1 s2 s3 s4 s5 s6 s7 y s8 s9
  have h2 : Frame haltParts anyKey s s2 :=
    (((s.wfld_frame _ 1 0 0).mono).then (State.wfld_frame _ _ 27 24 why)).then (State.wbit_frame s1 _ 18 false)
  have h3 : Frame haltParts anyKey s2 s3 := by
    refine Frame.each (fun n _ u => ?_) s2
    have h : Frame haltParts anyKey u (((u.endLists n).parkAout n).wbit (aoutR n + 0x2C) 0 false) :=
      (((u.setAo_frame n _).mono).then (State.parkAout_frame _ n)).then (State.wbit_frame _ _ 0 false)
    exact .ite (fun _ => h.then (State.setAo_frame _ n _)) fun _ => h
  have h4 : Frame haltParts anyKey s3 s4 := Frame.each (fun b _ u => (u.stopBank_frame b).mono) s3
  have h5 : Frame haltParts anyKey s4 s5 := ((s4.clearMarkers_frame k).mono).then (State.fireP_frame _ _)
  have h7 : Frame haltParts anyKey s5 s7 :=
    (((s5.wr_frame _ _).mono).then (State.wbit_frame s6 _ 17 false)).then (State.releaseHeads_frame _ k)
  have h9 : Frame haltParts anyKey s7 s9 := ((s7.setSq_frame k _).mono).then (State.releaseSems_frame s8 _ _)
  have h := ((((h2.trans h3).trans h4).trans h5).trans h7).trans h9
  exact (h.then (State.pendOwner_frame s9 _ _ _)).then (State.noteStop_frame _)

theorem State.parkAll_frame (why : Nat) : Frame haltParts anyKey s (s.parkAll why) := by
  unfold State.parkAll
  extract_lets s1 s2 s3
  have h1 : Frame haltParts anyKey s s1 := Frame.each (fun k _ u => u.haltSeq_frame k why) s
  have h2 : Frame haltParts anyKey s1 s2 := Frame.each (fun n _ u => (u.parkAout_frame n).mono) s1
  have h3 : Frame haltParts anyKey s2 s3 := Frame.each (fun k _ u => (u.stopBank_frame k).mono) s2
  have h4 : Frame haltParts anyKey s3 (s3.each (List.range 8) fun s n => s.cutTrg n) :=
    Frame.each (fun n hn u => (u.cutTrg_frame (List.mem_range.mp hn)).mono) s3
  exact ((h1.trans h2).trans h3).trans h4

/-! ### SAFE -/

theorem State.safeDisarm_frame : Frame [.cyc, .acts] anyKey s s.safeDisarm := by
  refine Frame.each (fun e _ u => ?_) s
  have h : Frame [.cyc, .acts] anyKey u ((u.disarm (actId (e.1 / 512) (e.1 % 512))).incSat 0x420 1) :=
    ((u.disarm_frame _).mono).then (State.tally_frame _ (devKey 0x420) _)
  dsimp only
  split
  · exact (h.then (State.setKey_frame _ _ _)).then (State.touch_frame _ _ _)
  · exact h

/-- What SAFE may change beside registers. -/
abbrev safeParts : List Aspect := .acts :: .mode :: .eff :: .trans :: .svc :: haltParts

theorem State.safePosture_frame : Frame safeParts anyKey s s.safePosture := by
  have hm (u : State) : Frame [.mode, .svc] noKey u { u with mode := { u.mode with safeN := false, wakeAfter := [], svc := false } } :=
    .part rfl
  unfold State.safePosture State.wr64
  extract_lets s1 m s2 s3
  have h1 : Frame safeParts anyKey s s1 := ((s.parkAll_frame 6).mono).then (State.setTrans_frame _ _)
  clear_value s1
  have h2 : Frame safeParts anyKey s s2 := (h1.then (hm s1)).then (State.setEff_frame _ _)
  clear_value s2
  have h3 : Frame safeParts anyKey s s3 := (((h2.then (s2.fireP_frame 173)).then (State.tally_frame _ (devKey 0x41C) _)).then
    (State.wr_frame _ 0x424 _)).then (State.wr_frame _ 0x428 _)
  clear_value s3
  exact ((h3.then s3.safeDisarm_frame).then (State.pendAll_frame _ 12)).then (State.after_frame _ _ _)

theorem State.setEff_eff (m : Mode) : (s.setEff m).mode.eff = m := by
  have hp (u : State) : (u.pendAll 24).mode = u.mode := (u.pendAll_frame 24).keeps .mode (by decide)
  unfold State.setEff
  split
  · assumption
  · rw [hp]

/-- In the SAFE posture the device is in SAFE with no transition and no service requested (R121). -/
theorem State.safePosture_mode : s.safePosture.mode.eff = .safe ∧ s.safePosture.mode.trans = .none ∧ s.safePosture.mode.svc = false := by
  unfold State.safePosture State.wr64
  extract_lets s1 m s2 s3
  have ht1 : s1.mode.trans = .none := rfl
  clear_value s1
  obtain ⟨he, ht, hv⟩ : s2.mode.eff = .safe ∧ s2.mode.trans = .none ∧ s2.mode.svc = false := by
    have h := State.setEff_frame { s1 with mode := { s1.mode with safeN := false, wakeAfter := [], svc := false } } .safe
    exact ⟨State.setEff_eff _ _, Eq.trans (h.keeps .trans (by decide)) ht1, h.keeps .svc (by decide)⟩
  clear_value s2
  have h3 : Frame [.cyc, .fab, .inflight] anyKey s2 s3 :=
    ((((s2.fireP_frame 173).mono).then (State.tally_frame _ (devKey 0x41C) _)).then (State.wr_frame _ 0x424 _)).then
      (State.wr_frame _ 0x428 _)
  clear_value s3
  have h4 : Frame [.cyc, .acts, .out, .agenda] anyKey s3 ((s3.safeDisarm.pendAll 12).after 0 (.calAbort .safe)) :=
    (((s3.safeDisarm_frame).mono).then (State.pendAll_frame _ 12)).then (State.after_frame _ _ _)
  have hm : ((s3.safeDisarm.pendAll 12).after 0 (.calAbort .safe)).mode = s2.mode :=
    Eq.trans (h4.keeps .mode (by decide)) (h3.keeps .mode (by decide))
  rw [hm]
  exact ⟨he, ht, hv⟩

/-- What a SAFE cause may change: SAFE itself, or the wake it starts from LISTEN (R120). -/
abbrev causeParts : List Aspect := .doms :: .syn :: safeParts

theorem State.safeCause_frame (c : Nat) : Frame causeParts anyKey s (s.safeCause c) := by
  unfold State.safeCause
  extract_lets s1
  have h1 : Frame causeParts anyKey s s1 :=
    (Frame.ite (fun _ => .refl) fun _ => (s.wbit_frame 0x418 c true).mono).then (State.wbit_frame _ 0x418 (8 + c) true)
  clear_value s1
  refine .ite (fun _ => h1) fun _ => .ite (fun _ => h1.then s1.modeRest_frame) fun _ => ?_
  split
  · exact h1.then s1.modeRest_frame
  · exact h1.then s1.modeRest_frame
  · exact .ite (fun _ => (h1.then s1.modeRest_frame).then (State.startWake_frame _ _ _)) fun _ => h1.then s1.safePosture_frame

/-- In SAFE a further cause is only recorded (R122). -/
theorem State.safeCause_inSafe (c : Nat) (h : s.mode.eff = .safe) : (s.safeCause c).mode = s.mode := by
  unfold State.safeCause
  extract_lets s1
  have h1 : s1.mode = s.mode := by
    simp only [s1]
    split <;> simp
  rw [if_pos (h1 ▸ h), h1]

theorem State.safeEval_frame : Frame causeParts anyKey s s.safeEval := by
  unfold State.safeEval
  exact .ite (fun _ => Frame.each (fun c _ u => u.safeCause_frame c) s) fun _ => .refl

theorem State.safeEval_inSafe (h : s.mode.eff = .safe) : s.safeEval.mode = s.mode := by
  have hall (l : List Nat) : ∀ u : State, u.mode.eff = .safe → (u.each l fun s c => s.safeCause c).mode = u.mode := by
    induction l with
    | nil => exact fun _ _ => rfl
    | cons c l ih =>
      intro u hu
      have hc := u.safeCause_inSafe c hu
      rw [State.each_cons, ih _ (hc ▸ hu), hc]
  unfold State.safeEval
  split
  · exact hall _ s h
  · rfl

/-- With no condition that its enable lets through, or with every such one active already, nothing is evaluated (R120). -/
theorem State.safeEval_none (h : ∀ c ∈ s.safeConds, s.bit 0x414 c = false ∨ s.bit 0x418 c = true) : s.safeEval = s := by
  have hl : (s.safeConds.filter fun c => s.bit 0x414 c && !s.bit 0x418 c) = [] := by
    rw [List.filter_eq_nil_iff]
    intro c hc
    rcases h c hc with h | h <;> simp [h]
  unfold State.safeEval
  rw [hl]
  exact ite_self _

/-! ### Sleep -/

theorem State.sleepSyn_frame {x : Nat} (hx : x < 4) : Frame [.cyc, .agenda, .syn, .seqs, .trgs] anyKey s (s.sleepSyn x) :=
  ((((s.mute_frame hx).mono).then (State.wbit_frame _ (synSt x) 0 false)).then (State.wbit_frame _ (synSt x) 4 false)).then
    (State.setSy_frame _ x _)

theorem State.sleepDoms_frame (shelf : Bool) : Frame [.mode, .doms] noKey s (s.sleepDoms shelf) :=
  Frame.trans (s.modeRest_frame.mono) (Frame.each (fun _ _ u => u.setDom_frame _ _) _)

theorem State.stopFclk_fclk : s.stopFclk.time.fclk = false := by
  unfold State.stopFclk
  rw [State.wbit_time, State.wbit_time]

/-- A change of the fabric that leaves the held producers' events. -/
theorem State.withFab_frame {f : FabSt} (h : f.heldP = s.fab.heldP := by rfl) : Frame [.fab, .inflight] noKey s { s with fab := f } :=
  .part rfl fun p hp => by cases p <;> simp_all [State.Keeps]

/-- FCLK stops in sleep, and what travels in the fabric stops with it (R13). -/
theorem State.enterSleep_spec : Frame [.cyc, .agenda, .syn, .seqs, .trgs, .time, .fclk, .mode, .doms, .fab, .inflight, .mem] anyKey s
    s.enterSleep ∧ s.enterSleep.time.fclk = false ∧ s.enterSleep.fab.inflight = [] := by
  unfold State.enterSleep
  extract_lets s1 s2 f s3 s4
  have h1 : Frame [.cyc, .agenda, .syn, .seqs, .trgs, .time, .fclk, .mode, .doms, .fab, .inflight, .mem] anyKey s s1 :=
    Frame.each (fun x hx u => (u.sleepSyn_frame (List.mem_range.mp (List.mem_filter.mp hx).1)).mono) s
  clear_value s1
  have h2 : Frame [.cyc, .agenda, .syn, .seqs, .trgs, .time, .fclk, .mode, .doms, .fab, .inflight, .mem] anyKey s s2 :=
    (h1.then s1.stopFclk_frame).then (State.sleepDoms_frame _ false)
  have hf : s2.time.fclk = false := Eq.trans ((State.sleepDoms_frame _ false).keeps .fclk (by decide)) s1.stopFclk_fclk
  clear_value s2
  have h3 : Frame [.fab, .inflight] noKey s2 s3 := s2.withFab_frame
  have hf3 : s3.time.fclk = false := hf
  have hi3 : s3.fab.inflight = [] := rfl
  clear_value s3
  have h4 : Frame [.mem] noKey s3 s4 := Frame.each (fun e _ u => u.setLde_frame e _) s3
  have h5 : Frame [.mem, .cyc] anyKey s3 (s4.wbit 0x2B88 31 true) := (h4.mono).then (State.wbit_frame s4 _ 31 true)
  exact ⟨(h2.then h3).then h5, Eq.trans (h5.keeps .fclk (by decide)) hf3, Eq.trans (h5.keeps .inflight (by decide)) hi3⟩

/-- In LISTEN a review of the mode may only start a wake (R104). -/
theorem State.reviewMode_inListen (h : s.mode.eff = .listen) :
    Frame [.cyc, .agenda, .mode, .trans, .doms, .syn] (· = 0x430) s s.reviewMode := by
  unfold State.reviewMode
  refine .ite (fun _ => .refl) fun _ => ?_
  simp only [h]
  exact .ite (fun _ => s.startWake_frame _ _) fun _ => .refl

theorem State.linkOff_frame : Frame [.cyc] anyKey s s.linkOff := by
  have h : Frame [.cyc] anyKey s ((s.wbit 0x3800 31 false).wfld 0x3800 10 0 0) :=
    ((s.wbit_frame _ 31 false).mono).then (State.wfld_frame _ _ 10 0 0)
  unfold State.linkOff
  exact .ite (fun _ => .ite (fun _ => h) fun _ => h.then (State.tally_frame _ (devKey 0x3808) _)) fun _ => .refl

theorem State.withWalk_frame (w : WalkSt) : Frame [.walk] noKey s { s with walk := w } := .part rfl

theorem State.freshWalk_frame : Frame [.walk] noKey s s.freshWalk := by
  unfold State.freshWalk State.walkFrom State.walkLook
  exact .ite (fun _ => (s.withWalk_frame _).trans (State.withWalk_frame _ _)) fun _ => s.withWalk_frame _

/-! ### A segment's copy -/

theorem State.putBytes_frame (vat : Bool) (a : Nat) (l : List Byte) : Frame [.mem, .stores] noKey s (s.putBytes vat a l) := by
  induction l generalizing s a with
  | nil => exact .refl
  | cons b l ih =>
    have h : Frame [.mem, .stores] noKey s (if vat then s.wVat a b else s.wMem a b) :=
      .ite (fun _ => .part rfl fun p hp => by cases p <;> simp [State.Keeps, State.wVat] at hp ⊢)
        fun _ => .part rfl fun p hp => by cases p <;> simp [State.Keeps, State.wMem] at hp ⊢
    exact h.trans (ih _ _)

theorem State.withMem_frame (m : MemSt) : Frame [.mem, .stores] noKey s { s with mem := m } := .part rfl

theorem State.restartScan_frame (k : Nat) : Frame [.mem, .stores, .agenda, .agendaGrows] noKey s (s.restartScan k) := by
  unfold State.restartScan
  refine .ite (fun _ => .refl) fun _ => ?_
  extract_lets m u
  have h : Frame [.mem, .stores, .agenda, .agendaGrows] noKey s u := (s.withMem_frame _).mono
  clear_value u
  exact (h.then (u.cancel_frame _)).then (State.after_frame _ _ _)

theorem State.dropTables_frame (vat : Bool) (p n : Nat) : Frame [] anyKey s (s.dropTables vat p n) :=
  Frame.each (fun _ _ u => (u.wr_frame _ _).mono) s

/-- What a store into the Vat or the memory may change beside registers. -/
abbrev storeParts : List Aspect := [.mem, .stores, .cyc, .agenda, .agendaGrows]

theorem State.vatWritten_frame (p n : Nat) : Frame storeParts anyKey s (s.vatWritten p n) := by
  unfold State.vatWritten
  refine .ite (fun _ => .refl) fun _ => ?_
  extract_lets gs s1 lo hi m s2 s3
  have h1 : Frame storeParts anyKey s s1 := Frame.each (fun g _ u => (u.withMem_frame _).mono) s
  have h2 : Frame storeParts anyKey s1 s2 := .ite (fun _ => (s1.withMem_frame _).mono) fun _ => .refl
  have h3 : Frame storeParts anyKey s2 s3 := by
    refine Frame.each (fun g _ u => Frame.each (fun k _ u => ?_) u) s2
    exact ((u.wbit_frame (0x1840 + 4 * k) 16 false).mono).then (State.restartScan_frame _ k)
  exact ((h1.trans h2).trans h3).then (State.dropTables_frame _ _ _ _)

theorem State.segCopy_frame (b : Nat) (r : Rec) : Frame storeParts anyKey s (s.segCopy b r) := by
  unfold State.segCopy State.store State.mend
  extract_lets m s1
  have h1 : Frame storeParts anyKey s s1 :=
    .ite (fun _ => (s.putBytes_frame _ _ _).mono) fun _ => ((s.putBytes_frame _ _ _).mono).then (State.withMem_frame _ _)
  clear_value s1
  exact .ite (fun _ => h1.trans (s1.vatWritten_frame _ _)) fun _ => h1.then (s1.dropTables_frame _ _ _)

end Sys2Proof.Machine
end

section
/-! SUPPORT. Refused accesses and posted-write fault records: what they set and what they leave (R84, R416, R419, R420). -/

namespace Sys2Proof.Machine

-- Proofs one after another: many that wait in threads of their own would pass the check's memory limit.
set_option Elab.async false

variable (s : State)

theorem State.bitv_pend_self (v : Nat) {i : Nat} (h : i < 32) : (s.pend v i).bitv v 0x180 i = true :=
  s.bitv_wbitv_self v 0x180 i true h

/-- The registers a refused access of VI `v` sets, beside interrupts. -/
abbrev refuseKey (v : Nat) : Nat → Prop := fun k => k = (v + 1) * 0x4000 + 0x10C ∨ k = (v + 1) * 0x4000 + 0x110 ∨ pendKey k

theorem State.accErr_frame (v i ofs port : Nat) (write : Bool) :
    Frame [.cyc, .out, .host] (refuseKey v) s (s.accErr v i ofs port write) := by
  have hh (u : State) (x : HostSt) : Frame [.host] noKey u { u with host := x } := .part rfl
  exact ((((s.wbitv_frame v 0x10C i true).mono).then (hh _ _)).then (State.wrv_frame _ v 0x110 _)).then (State.pend_frame _ v 1)

theorem State.accErr_bitv (v : Nat) {i : Nat} (ofs port : Nat) (write : Bool) (h : i < 32) :
    (s.accErr v i ofs port write).bitv v 0x10C i = true := by
  have hf (u : State) (x : Word) : Frame [.cyc, .out] (fun k => k = (v + 1) * 0x4000 + 0x110 ∨ pendKey k) u ((u.wrv v 0x110 x).pend v 1) :=
    ((u.wrv_frame v 0x110 x).mono).then (State.pend_frame _ v 1)
  exact ((hf _ _).bitv v 0x10C i).trans (s.bitv_wbitv_self v 0x10C i true h)

theorem State.nextTag_frame (v : Nat) : Frame [] (· = viKey v 0x118) s (s.nextTag v) := s.wrv_frame v 0x118 _

/-- The registers of the fault records of VI `v`, beside interrupts. -/
abbrev faultKey (v : Nat) : Nat → Prop := fun k =>
  k = (v + 1) * 0x4000 + 0x124 ∨ ((v + 1) * 0x4000 + 0x200 ≤ k ∧ k < (v + 1) * 0x4000 + 0x280) ∨ pendKey k

theorem State.faultRecord_frame (v : Nat) {r : Nat} (hr : r < 8) (a b c d : Word) : Frame [] (faultKey v) s
    ((((s.wrv v (0x200 + 0x10 * r) a).wrv v (0x200 + 0x10 * r + 4) b).wrv v (0x200 + 0x10 * r + 8) c).wrv v (0x200 + 0x10 * r + 12) d) :=
  ((((s.wrv_frame v _ a).mono).then (State.wrv_frame _ v _ b)).then (State.wrv_frame _ v _ c)).then (State.wrv_frame _ v _ d)

/-- What a posted-write fault record may change beside registers. -/
abbrev faultParts : List Aspect := [.cyc, .out, .fab, .inflight, .vis]

theorem mem_slot {p : Nat → Bool} {r : Nat} (h : (List.range 8).find? p = some r) : r < 8 :=
  List.mem_range.mp (List.mem_of_find?_eq_some h)

theorem State.pwf_frame (v ofs tag port reason : Nat) (remote : Option (Nat × Nat)) :
    Frame faultParts (faultKey v) s (s.pwf v ofs tag port reason remote) := by
  have hv (x : ViSt) : Frame faultParts (faultKey v) s (s.setVi v x) := (s.setVi_frame v x).mono
  unfold State.pwf
  refine .ite (fun _ => .refl) fun _ => ?_
  dsimp only
  split
  · exact (hv _).then (State.wrv_frame _ v 0x124 _)
  · next r h =>
    exact ((((hv _).then (State.faultRecord_frame _ v (mem_slot h) _ _ _ _)).then (State.wbitv_frame _ v 0x124 r true)).then
      (State.fireP_frame _ 177)).then (State.pend_frame _ v 0)

/-- A posted-write fault record faults the VI's writes (R419, R420). -/
theorem State.pwf_faulted (v ofs tag port reason : Nat) (remote : Option (Nat × Nat)) :
    s.Faulted (s.pwf v ofs tag port reason remote) v := by
  unfold State.Faulted
  intro free hno
  have hfree : free = (List.range 8).find? fun r => !(s.setVi v { s.vi v with faulted := true }).bitv v 0x124 r := rfl
  have hv : ((s.setVi v { s.vi v with faulted := true }).vi v).faulted = true := congrArg ViSt.faulted (s.vi_setVi_self v _)
  have hw : (s.setVi v { s.vi v with faulted := true }).fldv v 0x124 31 16 = s.fldv v 0x124 31 16 := rfl
  unfold State.pwf
  rw [if_neg (by simp [hno]), hfree, ← hw]
  dsimp only
  generalize s.setVi v { s.vi v with faulted := true } = u at hv
  split
  · next h =>
    refine ⟨hv, fun r hr => absurd (h.symm.trans hr) (by simp), fun _ => ?_⟩
    simp only [State.fldv, State.rdv_wrv_self, satFld, bf_setFld _ 31 16 _ (by decide : 31 < 32) (by decide)]
    exact (Nat.mod_eq_of_lt (by omega)).trans (Nat.min_comm _ _)
  · next r h =>
    generalize hu : ((((u.wrv v (0x200 + 0x10 * r) _).wrv v (0x200 + 0x10 * r + 4) _).wrv v (0x200 + 0x10 * r + 8) _).wrv v
      (0x200 + 0x10 * r + 12) _) = u1
    have hv1 : u1.vis = u.vis := by rw [← hu]; rfl
    have h2 : Frame [.cyc, .out, .fab, .inflight] pendKey (u1.wbitv v 0x124 r true) (((u1.wbitv v 0x124 r true).fireP 177).pend v 0) :=
      ((State.fireP_frame _ 177).mono).then (State.pend_frame _ v 0)
    refine ⟨?_, fun q hq => ?_, fun hn => absurd (h.symm.trans hn) (by simp)⟩
    · rw [State.vi, show (((u1.wbitv v 0x124 r true).fireP 177).pend v 0).vis = (u1.wbitv v 0x124 r true).vis from
        h2.keeps .vis (by decide), State.wbitv_vis, hv1]
      exact hv
    · obtain rfl : r = q := Option.some.inj (h.symm.trans hq)
      refine ⟨?_, State.bitv_pend_self _ v (by decide)⟩
      exact (h2.bitv v 0x124 r).trans (State.bitv_wbitv_self _ v 0x124 r true (by have := mem_slot h; omega))

/-- The fault of a write is one of the state before, where nothing that it reads was changed between. -/
theorem Frame.faulted {P : List Aspect} {K : Nat → Prop} {s u t : State} {v : Nat} (h : Frame P K s u) (ht : u.Faulted t v)
    (hv : Aspect.vis ∉ P) (hk : ¬ K (viKey v 0x124)) : s.Faulted t v := by
  have hr : u.rdv v 0x124 = s.rdv v 0x124 := h.rdv v 0x124 hk
  have hs : u.vi v = s.vi v := by rw [State.vi, State.vi, show u.vis = s.vis from h.keeps .vis hv]
  simpa only [State.Faulted, State.bitv, State.fldv, hr, hs] using ht

/-- A write refused faults the VI's writes (R84, R419). -/
theorem State.refuseWrite_faulted (v i ofs port : Nat) : s.Faulted (s.refuseWrite v i ofs port) v :=
  (s.accErr_frame v i ofs port true).faulted (State.pwf_faulted _ v _ _ _ _ _) (by decide)
    (by simp only [refuseKey, viKey, pendKey]; omega)

theorem State.refuseWrite_bitv (v : Nat) {i : Nat} (ofs port : Nat) (h : i < 32) :
    (s.refuseWrite v i ofs port).bitv v 0x10C i = true :=
  ((State.pwf_frame _ v ofs _ port (i - 2) none).bitv v 0x10C i).trans (s.accErr_bitv v ofs port true h)

theorem State.refuseWrite_frame (v i ofs port : Nat) :
    Frame (.host :: faultParts) (fun k => refuseKey v k ∨ faultKey v k) s (s.refuseWrite v i ofs port) :=
  ((s.accErr_frame v i ofs port true).mono).then (State.pwf_frame _ v _ _ _ _ _)

theorem State.refuseRead_frame (v i ofs port : Nat) :
    Frame [.cyc, .out, .host, .rdata] (refuseKey v) s (s.refuseRead v i ofs port) := by
  have hd (u : State) (d : Option (Word × Bool)) : Frame [.rdata] noKey u { u with rdata := d } := .part rfl
  exact ((s.accErr_frame v i ofs port false).mono).then (hd _ _)

theorem State.refuseRead_reads (v : Nat) {i : Nat} (ofs port : Nat) (h : i < 32) :
    (s.refuseRead v i ofs port).rdata = some (0, true) ∧ (s.refuseRead v i ofs port).bitv v 0x10C i = true := by
  have hd (u : State) (d : Option (Word × Bool)) : ({ u with rdata := d } : State).bitv v 0x10C i = u.bitv v 0x10C i := rfl
  exact ⟨rfl, (hd _ _).trans (s.accErr_bitv v ofs port false h)⟩

end Sys2Proof.Machine
end

section
/-! SUPPORT. The device sleeps and begins to wake (R101, R102, R108 to R110, R115, R117, R165, R206). -/

namespace Sys2Proof.Machine

-- Proofs one after another: many that wait in threads of their own would pass the check's memory limit.
set_option Elab.async false

variable (s : State)

/-! ### Wakes out of LISTEN -/

/-- A wake that starts is under way, and WAKE_SRC holds its sources (R109). -/
theorem State.startWake_starts (src : List WakeSrc) (t : Trans) :
    (s.startWake src t).mode.trans = t ∧ (s.startWake src t).rd 0x430 = wakeSrcWord src := by
  unfold State.startWake
  extract_lets s1 m s2 s3 s4
  have hd := State.wakeDoms_frame (((s.wr 0x430 (wakeSrcWord src)).touch (devKey 0x430) (wakeSrcWord src)).setTrans t)
  have ht : s1.mode.trans = t := hd.keeps .trans (by decide)
  have hr : s1.rd 0x430 = wakeSrcWord src := (hd.rd 0x430).trans (s.rd_wr_self _ _)
  clear_value s1
  have h2 : Frame [.agenda, .mode, .syn] noKey s1 s2 := s1.modeRest_frame.mono
  have h3 : Frame [.agenda, .mode, .syn] noKey s2 s3 := s2.startHold_frame.mono
  have h4 : Frame [.agenda, .mode, .syn] noKey s3 s4 :=
    Frame.each (fun x _ s => ((s.setSy_frame x _).mono).then (State.wakeTry_frame _ x)) s3
  have h : Frame [.agenda, .mode, .syn] noKey s1 (s4.after (us 18) .wakeSlow) :=
    ((h2.trans h3).trans h4).then (State.after_frame _ _ _)
  exact ⟨Eq.trans (h.keeps .trans (by decide)) ht, (h.rd 0x430).trans hr⟩

theorem State.wakeBy_listen (w : WakeSrc) (he : s.mode.eff = .listen) (ht : s.mode.trans = .none) (hc : s.rst.coreBusy = false) :
    s.wakeBy w = s.startWake [w] .waking := by
  simp [State.wakeBy, State.orWait, hc, ht, he]

theorem wake_wakes (w : WakeSrc) (he : s.mode.eff = .listen) (ht : s.mode.trans = .none) (hc : s.rst.coreBusy = false)
    (hw : s.wakeAllowed w = true) : Does (.wake w) s fun t => t.mode.trans = .waking ∧ t.rd 0x430 = wakeSrcWord [w] := by
  refine ⟨s.wakeBy w, ?_, s.wakeBy_listen w he ht hc ▸ s.startWake_starts _ _⟩
  rw [show exec (.wake w) s = execWake w s from rfl]
  exact if_pos hw

theorem kl0Activity_wakes (he : s.mode.eff = .listen) (ht : s.mode.trans = .none) (hc : s.rst.coreBusy = false)
    (hd : s.dom 24 = 6) (hb : s.bit 0x42C 9 = true) :
    Does .kl0Activity s fun t => t.mode.trans = .waking ∧ t.rd 0x430 = wakeSrcWord [.kl0] := by
  refine ⟨s.wakeBy .kl0, ?_, s.wakeBy_listen .kl0 he ht hc ▸ s.startWake_starts _ _⟩
  rw [show exec .kl0Activity s = execKl0Activity s from rfl]
  exact if_pos ⟨hd, by simp [State.wakeAllowed, he, hb]⟩

/-- An access that arrives in LISTEN. -/
theorem exec_hostAccessWake (a : HostAcc) (he : s.mode.eff = .listen) :
    exec (.hostAccessWake a) s = .next (s.sleepAccess a) := by
  rw [show exec (.hostAccessWake a) s = execHostAccessWake a s from rfl]
  exact if_pos (.inl he)

theorem hostAccessWake_holds (a : HostAcc) (he : s.mode.eff = .listen) (ht : s.mode.trans = .none) (hc : s.rst.coreBusy = false)
    (hb : s.bit 0x42C 10 = true) : Does (.hostAccessWake a) s fun t =>
      t.mode.trans = .waking ∧ t.mode.heldAcc = s.mode.heldAcc ++ [a] ∧ t.rd 0x430 = wakeSrcWord [.host] := by
  refine ⟨_, exec_hostAccessWake s a he, ?_⟩
  rw [State.sleepAccess, if_neg (by simp [he]), if_pos hb,
    State.wakeBy_listen { s with mode := { s.mode with heldAcc := s.mode.heldAcc ++ [a] } } .host he ht hc]
  have h := State.startWake_starts { s with mode := { s.mode with heldAcc := s.mode.heldAcc ++ [a] } } [.host] .waking
  exact ⟨h.1, (State.startWake_frame _ _ _).keeps .heldAcc (by decide), h.2⟩

theorem hostAccessWake_refuses_read (a : HostAcc) (he : s.mode.eff = .listen) (hb : s.bit 0x42C 10 = false)
    (hw : a.write = false) : Does (.hostAccessWake a) s fun t =>
      t.mode = s.mode ∧ t.rdata = some (0, true) ∧ t.bitv a.vi 0x10C 3 = true := by
  refine ⟨_, exec_hostAccessWake s a he, ?_⟩
  rw [State.sleepAccess, if_neg (by simp [he]), if_neg (by simp [hb]), if_neg (by simp [hw])]
  exact ⟨(State.refuseRead_frame _ _ _ _ _).keeps .mode (by decide), s.refuseRead_reads _ _ _ (by decide)⟩

theorem hostAccessWake_refuses_write (a : HostAcc) (he : s.mode.eff = .listen) (hb : s.bit 0x42C 10 = false)
    (hw : a.write = true) : Does (.hostAccessWake a) s fun t =>
      t.mode = s.mode ∧ t.bitv a.vi 0x10C 3 = true ∧ s.Faulted t a.vi := by
  refine ⟨_, exec_hostAccessWake s a he, ?_⟩
  rw [State.sleepAccess, if_neg (by simp [he]), if_neg (by simp [hb]), if_pos hw]
  have h := s.nextTag_frame a.vi
  exact ⟨Eq.trans ((State.refuseWrite_frame _ _ _ _ _).keeps .mode (by decide)) (h.keeps .mode (by decide)),
    State.refuseWrite_bitv _ _ _ _ (by decide),
    h.faulted (State.refuseWrite_faulted _ _ _ _ _) (by decide) (by simp)⟩

/-! ### The descent to LISTEN and to SHELF -/

theorem listenReached_listens (sh : Bool) (ht : s.mode.trans = .descent sh) : Does .listenReached s fun t =>
    t.mode.eff = .listen ∧ t.time.fclk = false ∧ t.fab.inflight = [] ∧ (sh = true → t.mode.trans = .toShelf) ∧ SameStores s t := by
  have hx : exec .listenReached s = execListenReached s := rfl
  obtain ⟨hf, hclk, hfl⟩ := s.enterSleep_spec
  have hse := s.enterSleep.setEff_frame .listen
  have he : (s.enterSleep.setEff .listen).mode.eff = .listen := State.setEff_eff _ _
  have hclk' := Eq.trans (hse.keeps .fclk (by decide)) hclk
  have hfl' := Eq.trans (hse.keeps .inflight (by decide)) hfl
  have hst := (hf.sameStores).trans hse.sameStores
  simp only [execListenReached, ht] at hx
  generalize s.enterSleep.setEff .listen = u at *
  -- what follows LISTEN leaves what is said of it
  have fin {P : List Aspect} {K : Nat → Prop} {t : State} (h : Frame P K u t)
      (hP : Aspect.eff ∉ P ∧ Aspect.fclk ∉ P ∧ Aspect.inflight ∉ P ∧ Aspect.stores ∉ P) :
      t.mode.eff = .listen ∧ t.time.fclk = false ∧ t.fab.inflight = [] ∧ SameStores s t :=
    ⟨Eq.trans (h.keeps .eff hP.1) he, Eq.trans (h.keeps .fclk hP.2.1) hclk', Eq.trans (h.keeps .inflight hP.2.2.1) hfl',
      hst.trans (h.sameStores hP.2.2.2)⟩
  cases sh
  case true =>
    have h := fin (((u.setTrans_frame .toShelf).mono (P := [.mode, .trans, .agenda])).then (State.after_frame _ (us 100) .shelfReached))
      (by decide)
    exact ⟨_, hx, h.1, h.2.1, h.2.2.1, fun _ => rfl, h.2.2.2⟩
  case false =>
    have hn := u.setTrans_frame .none
    have hl : (u.setTrans .none).mode.eff = .listen := he
    generalize u.setTrans .none = v at *
    by_cases hw : v.mode.wakeAfter ≠ []
    · have h := fin (((hn.mono).then (v.startWake_frame v.mode.wakeAfter .waking)) :
        Frame [.cyc, .agenda, .mode, .trans, .doms, .syn] (· = 0x430) u _) (by decide)
      exact ⟨_, hx.trans (if_pos hw), h.1, h.2.1, h.2.2.1, by simp, h.2.2.2⟩
    · have h := fin (((hn.mono).then (v.reviewMode_inListen hl)) :
        Frame [.cyc, .agenda, .mode, .trans, .doms, .syn] (· = 0x430) u _) (by decide)
      exact ⟨_, hx.trans (if_neg hw), h.1, h.2.1, h.2.2.1, by simp, h.2.2.2⟩

theorem State.loseStores_eff : s.loseStores.mode.eff = s.mode.eff := rfl
theorem State.loseStores_nvmB (a : Nat) : s.loseStores.nvmB a = s.nvmB a := rfl

/-- SHELF begins: the memory's contents are lost, the link is down, and no walk runs (R101). -/
def State.shelved (s : State) : State := { s.loseStores.linkOff.wbit 0x1800 0 false with walk := {} }

theorem State.shelved_frame : Frame [.cyc, .walk] anyKey s.loseStores s.shelved :=
  (((State.linkOff_frame _).mono).then (State.wbit_frame _ 0x1800 0 false)).then (State.withWalk_frame _ _)

theorem exec_shelfReached (ht : s.mode.trans = .toShelf) : exec .shelfReached s =
    let t := (((s.setTrans .none).setEff .shelf).sleepDoms true).shelved
    .next (if t.wakesShelf then t.wakeShelf (t.mode.wakeAfter ++ if t.shelfPending then [.sched] else []) else t) := by
  rw [show exec .shelfReached s = execShelfReached s from rfl, execShelfReached, if_pos ht]
  exact (apply_ite ok _ _ _).symm

theorem shelfReached_forgets (ht : s.mode.trans = .toShelf) : Does .shelfReached s fun t =>
    t.mode.eff = .shelf ∧ t.mem.vat = [] ∧ t.mem.mem = [] ∧ ∀ a, t.nvmB a = s.nvmB a := by
  have h1 : Frame [.cyc, .out, .mode, .eff, .trans, .doms] pendKey s (((s.setTrans .none).setEff .shelf).sleepDoms true) :=
    (((s.setTrans_frame .none).mono).then (State.setEff_frame _ .shelf)).then (State.sleepDoms_frame _ true)
  have he : (((s.setTrans .none).setEff .shelf).sleepDoms true).mode.eff = .shelf :=
    Eq.trans ((State.sleepDoms_frame _ true).keeps .eff (by decide)) (State.setEff_eff _ _)
  refine ⟨_, exec_shelfReached s ht, ?_⟩
  dsimp only
  generalize ((s.setTrans .none).setEff .shelf).sleepDoms true = u at h1 he ⊢
  have hl : u.loseStores.mode.eff = .shelf ∧ u.loseStores.mem.vat = [] ∧ u.loseStores.mem.mem = [] ∧
      ∀ a, u.loseStores.nvmB a = s.nvmB a :=
    ⟨u.loseStores_eff.trans he, rfl, rfl, fun a => (u.loseStores_nvmB a).trans (h1.sameStores.2.2 a)⟩
  have fin {P : List Aspect} {K : Nat → Prop} {t : State} (h : Frame P K u.loseStores t)
      (hP : Aspect.eff ∉ P ∧ Aspect.stores ∉ P) :
      t.mode.eff = .shelf ∧ t.mem.vat = [] ∧ t.mem.mem = [] ∧ ∀ a, t.nvmB a = s.nvmB a := by
    obtain ⟨hv, hm, -⟩ := h.keeps .stores hP.2
    exact ⟨Eq.trans (h.keeps .eff hP.1) hl.1, hv.trans hl.2.1, hm.trans hl.2.2.1,
      fun a => ((h.sameStores hP.2).2.2 a).trans (hl.2.2.2 a)⟩
  have hw (l : List WakeSrc) : Frame [.cyc, .walk, .agenda, .mode, .trans, .doms, .syn, .host, .mem] anyKey u.loseStores
      (u.shelved.wakeShelf l) := (u.shelved_frame.mono).then (u.shelved.wakeShelf_frame l)
  split
  · exact fin (hw _) (by decide)
  · exact fin u.shelved_frame (by decide)

/-! ### The way out of SHELF -/

/-- SHELF is left: memory is trained, and every granule is to be loaded (R102, R206). -/
def State.trained (s : State) : State :=
  { s.wbit 0x1800 0 true with mem := { s.mem with training := false, dir := [], notLoaded := BitVec.allOnes 128 } }

theorem State.trained_frame : Frame [.cyc, .mem] (· = 0x1800) s s.trained := by
  have h (u : State) (hu : u.mem = s.mem) : Frame [.mem] noKey u
      { u with mem := { s.mem with training := false, dir := [], notLoaded := BitVec.allOnes 128 } } :=
    .part rfl fun p hp => by cases p <;> simp_all [State.Keeps]
  exact ((s.wbit_frame 0x1800 0 true).mono).then (h _ (s.wbit_mem _ _ _))

theorem State.trained_bit : s.trained.bit 0x1800 0 = true := s.bit_wbit_self 0x1800 0 true (by decide)

theorem exec_shelfExit (ht : s.mode.trans = .shelfExit) : exec .shelfExit s =
    .next (s.trained.freshWalk.after 0 (if s.bit 0x410 24 then .shelfReload else .primedReached)) := by
  have h24 : s.trained.freshWalk.bit 0x410 24 = s.bit 0x410 24 :=
    (s.trained.freshWalk_frame.bit 0x410 24).trans (s.trained_frame.bit 0x410 24)
  have hx : exec .shelfExit s = if s.trained.freshWalk.bit 0x410 24 then ok (s.trained.freshWalk.after 0 .shelfReload)
      else ok (s.trained.freshWalk.after 0 .primedReached) := by
    rw [show exec .shelfExit s = execShelfExit s from rfl, execShelfExit, if_pos ht]
    rfl
  rw [hx, h24]
  split <;> rfl

theorem shelfExit_unloads (ht : s.mode.trans = .shelfExit) : Does .shelfExit s fun t =>
    t.mem.training = false ∧ t.mem.notLoaded = BitVec.allOnes 128 ∧ t.mem.dir = [] ∧ t.bit 0x1800 0 = true ∧
      (s.time.mono, if s.bit 0x410 24 then Instr.shelfReload else Instr.primedReached) ∈ t.agenda ∧ SameStores s t := by
  have h : Frame [.walk, .agenda] noKey s.trained
      (s.trained.freshWalk.after 0 (if s.bit 0x410 24 then .shelfReload else .primedReached)) :=
    ((s.trained.freshWalk_frame).mono).then (State.after_frame _ _ _)
  have hm := h.keeps .mem (by decide)
  refine ⟨_, exec_shelfExit s ht, congrArg MemSt.training hm, congrArg MemSt.notLoaded hm, congrArg MemSt.dir hm,
    (h.bit 0x1800 0).trans s.trained_bit, ?_, s.trained_frame.sameStores.trans h.sameStores⟩
  have htime : s.trained.freshWalk.time = s.time :=
    Eq.trans (s.trained.freshWalk_frame.keeps .time (by decide)) (s.trained_frame.keeps .time (by decide))
  rw [State.after, htime]
  simp

theorem shelfReload_reloads (ht : s.mode.trans = .shelfExit) : Does .shelfReload s fun t =>
    (s.time.mono + 64 * (s.rst.segs.map Rec.segLen).sum, Instr.primedReached) ∈ t.agenda ∧
      ∀ a, t.vatB a = (s.each s.rst.segs fun s r => s.segCopy s.rst.base r).vatB a ∧
        t.memB a = (s.each s.rst.segs fun s r => s.segCopy s.rst.base r).memB a := by
  have hx : exec .shelfReload s = execShelfReload s := rfl
  rw [execShelfReload, if_pos ht] at hx
  have h : Frame storeParts anyKey s (s.each s.rst.segs fun s r => s.segCopy s.rst.base r) :=
    Frame.each (fun r _ u => u.segCopy_frame _ r) s
  refine ⟨_, hx, ?_, fun a => ⟨rfl, rfl⟩⟩
  rw [State.after, show (s.each s.rst.segs fun s r => s.segCopy s.rst.base r).time = s.time from h.keeps .time (by decide)]
  simp

/-! ### The SHELF command -/

theorem exec_shelf (hc : s.rst.coreBusy = false) : exec .shelf s = .next s.askShelf := by
  rw [show exec .shelf s = execShelf s from rfl]
  simp [execShelf, State.orWait, hc, ok]

theorem shelf_descends (hc : s.rst.coreBusy = false) (hw : s.shelfWhy = none) (he : s.mode.eff = .primed)
    (ht : s.mode.trans = .none) : Does .shelf s fun t => t.mode.trans = .descent true := by
  have h (u : State) : (u.startDescent true).mode.trans = .descent true := by
    have hp : Frame [.agenda] noKey (u.setTrans (.descent true)) (u.startDescent true) :=
      (Frame.each (fun _ _ v => v.after_frame _ _) _).then (State.at_frame _ _ _)
    exact hp.keeps .trans (by decide)
  refine ⟨_, exec_shelf s hc, ?_⟩
  simp only [State.askShelf, hw, he, ht]
  exact h _

theorem shelf_goesOn (hc : s.rst.coreBusy = false) (hw : s.shelfWhy = none) (he : s.mode.eff = .listen)
    (ht : s.mode.trans = .none) : Does .shelf s fun t =>
      t.mode.trans = .toShelf ∧ (s.time.mono + us 100, Instr.shelfReached) ∈ t.agenda := by
  refine ⟨_, exec_shelf s hc, ?_⟩
  simp only [State.askShelf, hw, he, ht]
  exact ⟨rfl, by simp [State.after, State.setTrans]⟩

/-- The reason of a refusal is one of the codes of R108. -/
theorem State.shelfWhy_lt {w : Nat} (h : s.shelfWhy = some w) : w < 16 := by
  unfold State.shelfWhy at h
  split_ifs at h <;> simp_all <;> omega

theorem shelf_refuses (hc : s.rst.coreBusy = false) {w : Nat} (hw : s.shelfWhy = some w) : Does .shelf s fun t =>
    t.mode = s.mode ∧ t.bitv 0 0x404 16 = true ∧ t.fldv 0 0x40C 3 0 = w := by
  refine ⟨_, exec_shelf s hc, ?_⟩
  simp only [State.askShelf, hw]
  have h := (s.wbitv 0 0x404 16 true).wfldv_frame 0 0x40C 3 0 w
  refine ⟨Eq.trans (h.keeps .mode (by decide)) (s.wbitv_mode _ _ _ _), (h.bitv 0 0x404 16).trans (s.bitv_wbitv_self _ _ _ _ (by decide)), ?_⟩
  simp only [State.refuseMode, State.fldv, State.wfldv, State.rdv_wrv_self]
  exact (bf_setFld _ 3 0 w (by decide) (by decide)).trans (Nat.mod_eq_of_lt (s.shelfWhy_lt hw))

end Sys2Proof.Machine
end

section
/-! PROOF. O20: PRIMED is reached (R114, R117, R120), and with it the sleep and the wake of the device. -/

namespace Sys2Proof.Machine

-- Proofs one after another: many that wait in threads of their own would pass the check's memory limit.
set_option Elab.async false

variable (s : State)

/-! ### What a review and a release leave -/

theorem State.reviewMode_inSafe (h : s.mode.eff = .safe) : s.reviewMode = s := by
  unfold State.reviewMode
  split
  · rfl
  · simp only [h]

theorem State.reviewMode_inTransition (h : s.mode.trans ≠ .none) : s.reviewMode = s := if_pos (.inl h)

/-- A review of PRIMED leaves it or raises it to RUN (R104, R106). -/
theorem State.reviewMode_primed (he : s.mode.eff = .primed) (ht : s.mode.trans = .none) :
    s.reviewMode.mode.trans = .none ∧ (s.reviewMode.mode.eff = .primed ∨ s.reviewMode.mode.eff = .run) := by
  unfold State.reviewMode
  split
  · exact ⟨ht, .inl he⟩
  · simp only [he]
    split_ifs
    · exact ⟨Eq.trans ((s.setEff_frame .run).keeps .trans (by decide)) ht, .inr (s.setEff_eff .run)⟩
    · exact ⟨ht, .inl he⟩
    · exact ⟨ht, .inl he⟩
    · exact ⟨ht, .inl he⟩

/-- Every held access is released. -/
theorem State.releaseAll_heldAcc : s.releaseAll.mode.heldAcc = [] := by
  have h (u : State) (l : List HostAcc) : (u.each l fun s a => s.after 0 (accCmd a)).mode = u.mode :=
    u.each_keeps State.mode (fun s a => s.after 0 (accCmd a)) (fun _ _ => rfl) l
  unfold State.releaseAll State.releaseAcc
  rw [h]
  simp

theorem State.deliverHeld_frame : Frame [.agenda] noKey s s.deliverHeld := Frame.each (fun _ _ u => u.after_frame _ _) s

/-! ### PRIMED is reached -/

/-- PRIMED begins, held (R104). -/
def State.primedIn (s : State) : State := ((s.setTrans .none).setEff .primed).startHold

/-- The temperature is evaluated from now on, and the domains that are always wanted are on. -/
def State.basicsOn (s : State) : State :=
  ({ s with cal := { s.cal with nextEval := s.time.mono } } : State).each [1, 2, 4, 5] fun s d => s.setDom d 2

/-- The load engines resume (R219). -/
def State.loadsResume (s : State) : State :=
  s.each ((List.range 4).filter fun e => (s.lde e).busy) fun s e =>
    s.setLde e { s.lde e with suspended := false, next := max (s.lde e).next (s.time.mono + 32) }

/-- The causes latched while asleep take the device into SAFE (R120). -/
def State.settleLatched (s : State) : State :=
  if s.latchedOn then ({ s with mode := { s.mode with latched := 0 } } : State).safePosture
  else { s with mode := { s.mode with latched := 0 } }

/-- A change to SERVICE that waited for the wake begins (R118). -/
def State.serveNext (s : State) : State :=
  if s.mode.svc then
    (({ s with mode := { s.mode with svc := false } } : State).setTrans .toService).after (us 1) .serviceReached
  else s

/-- The held accesses and the held events proceed (R111, R114). -/
def State.letGo (s : State) : State := s.releaseAll.deliverHeld

/-- Conditions held for consumers whose domain is on are delivered. -/
def State.deliverConds (s : State) : State :=
  s.each (s.fab.heldC.filter fun e => s.domOn (conDom e.1)) fun s e =>
    s.after 0 (.consumerHeldDeliver (Fin.ofNat 192 e.1))

theorem exec_primedReached (ht : s.mode.trans = .waking ∨ s.mode.trans = .shelfExit) (hl : s.synBit 0 0 = true)
    (hf : s.time.fclk = true) (hm : s.mem.training = false) (hw : s.wakeDone = true) :
    exec .primedReached s =
      .next s.primedIn.basicsOn.loadsResume.settleLatched.serveNext.letGo.safeEval.deferredNow.deliverConds.reviewMode := by
  rw [show exec .primedReached s = execPrimedReached s from rfl]
  exact if_pos ⟨ht, hl, hf, hm, hw⟩

/-- What the beginning of PRIMED may change beside registers. -/
abbrev primedParts : List Aspect := [.cyc, .out, .agenda, .mode, .eff, .trans, .doms, .cal, .mem]

theorem State.setEff_latched (m : Mode) : (s.setEff m).mode.latched = s.mode.latched := by
  have hp (u : State) : (u.pendAll 24).mode = u.mode := (u.pendAll_frame 24).keeps .mode (by decide)
  unfold State.setEff
  split
  · rfl
  · rw [hp]

theorem State.startHold_latched : s.startHold.mode.latched = s.mode.latched := by
  have h (t : Nat) : (({ s with mode := { s.mode with holdUntil := t } } : State).at_ t .holdExpiry).mode.latched = s.mode.latched :=
    rfl
  exact h _

theorem State.primedIn_spec : Frame primedParts pendKey s s.primedIn ∧ s.primedIn.mode.eff = .primed ∧
    s.primedIn.mode.trans = .none ∧ s.primedIn.mode.latched = s.mode.latched := by
  have hh := State.startHold_frame ((s.setTrans .none).setEff .primed)
  refine ⟨(((s.setTrans_frame .none).mono).then (State.setEff_frame _ .primed)).then hh, ?_, ?_, ?_⟩
  · exact Eq.trans (hh.keeps .eff (by decide)) (State.setEff_eff _ _)
  · exact Eq.trans (hh.keeps .trans (by decide)) ((State.setEff_frame _ .primed).keeps .trans (by decide))
  · exact (State.startHold_latched _).trans ((s.setTrans .none).setEff_latched .primed)

theorem State.basicsOn_frame : Frame [.cal, .mode, .doms] noKey s s.basicsOn := by
  have hc (x : CalSt) : Frame [.cal] noKey s { s with cal := x } := .part rfl
  exact ((hc _).mono).trans (Frame.each (fun d _ u => (u.setDom_frame d 2).mono) _)

theorem State.basicsOn_latched : s.basicsOn.mode.latched = s.mode.latched :=
  State.each_keeps _ (fun u => u.mode.latched) (fun s d => s.setDom d 2) (fun _ _ => rfl) [1, 2, 4, 5]

theorem State.loadsResume_frame : Frame [.mem] noKey s s.loadsResume := Frame.each (fun e _ u => u.setLde_frame e _) s

/-- PRIMED with its domains on and its engines running. -/
theorem State.primedUp_spec : let u := s.primedIn.basicsOn.loadsResume
    Frame primedParts pendKey s u ∧ u.mode.eff = .primed ∧ u.mode.trans = .none ∧ u.mode.latched = s.mode.latched := by
  obtain ⟨h1, he, ht, hl⟩ := s.primedIn_spec
  have h2 := s.primedIn.basicsOn_frame
  have h3 := s.primedIn.basicsOn.loadsResume_frame
  have hm := h3.keeps .mode (by decide)
  refine ⟨(h1.then h2).then h3, ?_, ?_, ?_⟩
  · exact Eq.trans (congrArg ModeSt.eff hm) (Eq.trans (h2.keeps .eff (by decide)) he)
  · exact Eq.trans (congrArg ModeSt.trans hm) (Eq.trans (h2.keeps .trans (by decide)) ht)
  · exact Eq.trans (congrArg ModeSt.latched hm) (s.primedIn.basicsOn_latched.trans hl)

/-- The latched causes that are enabled are those before, where the enables and the latch stand. -/
theorem Frame.latchedOn {P : List Aspect} {s t : State} (h : Frame P pendKey s t) (hl : t.mode.latched = s.mode.latched) :
    t.latchedOn = s.latchedOn := by
  simp only [State.latchedOn, hl, fun c => h.bit 0x414 c]

/-- The conditions of SAFE are those before, where the registers that show them stand. -/
theorem Frame.safeConds {P : List Aspect} {s t : State} (h : Frame P pendKey s t) (hb : Aspect.supplyBad ∉ P) :
    t.safeConds = s.safeConds := by
  simp only [State.safeConds, State.synBit, h.fld 0x2B88 15 0, h.bit (synSt 0) 3,
    show t.mode.supplyBad = s.mode.supplyBad from h.keeps .supplyBad hb]
  rfl

/-! ### What follows -/

theorem State.settleLatched_frame : Frame (.cal :: .mem :: .doms :: safeParts) anyKey s s.settleLatched := by
  have h : Frame [.mode] noKey s { s with mode := { s.mode with latched := 0 } } := s.modeRest_frame
  exact .ite (fun _ => (h.mono).then (State.safePosture_frame _)) fun _ => h.mono

theorem State.serveNext_frame : Frame [.mode, .svc, .trans, .agenda] noKey s s.serveNext := by
  have h : Frame [.mode, .svc] noKey s { s with mode := { s.mode with svc := false } } := .part rfl
  exact .ite (fun _ => ((h.mono).then (State.setTrans_frame _ _)).then (State.after_frame _ _ _)) fun _ => .refl

theorem State.letGo_frame : Frame [.agenda, .mode, .heldAcc, .mem] noKey s s.letGo :=
  s.releaseAll_frame.then (State.deliverHeld_frame _)

theorem State.letGo_heldAcc : s.letGo.mode.heldAcc = [] :=
  Eq.trans (s.releaseAll.deliverHeld_frame.keeps .heldAcc (by decide)) s.releaseAll_heldAcc

theorem State.deliver_frame : Frame [.agenda] noKey s s.deferredNow.deliverConds :=
  s.deferredNow_frame.trans (Frame.each (fun _ _ u => u.after_frame _ _) _)

/-- Once PRIMED is up, the held accesses are released and the stores stand. -/
theorem State.wakeEnd_keeps : let t := s.settleLatched.serveNext.letGo.safeEval.deferredNow.deliverConds.reviewMode
    t.mode.heldAcc = [] ∧ SameStores s t := by
  have h1 := s.settleLatched_frame
  have h2 := s.settleLatched.serveNext_frame
  have h3 := s.settleLatched.serveNext.letGo_frame
  have h4 := s.settleLatched.serveNext.letGo.safeEval_frame
  have h5 := s.settleLatched.serveNext.letGo.safeEval.deliver_frame
  have h6 := s.settleLatched.serveNext.letGo.safeEval.deferredNow.deliverConds.reviewMode_frame
  refine ⟨?_, ((((h1.sameStores.trans h2.sameStores).trans h3.sameStores).trans h4.sameStores).trans h5.sameStores).trans
    h6.sameStores⟩
  exact Eq.trans (h6.keeps .heldAcc (by decide)) (Eq.trans (h5.keeps .heldAcc (by decide))
    (Eq.trans (h4.keeps .heldAcc (by decide)) (State.letGo_heldAcc _)))

/-- With a latched cause the wake ends in SAFE (R120). -/
theorem State.wakeEnd_safe (hl : s.latchedOn = true) :
    let t := s.settleLatched.serveNext.letGo.safeEval.deferredNow.deliverConds.reviewMode
    t.mode.trans = .none ∧ t.mode.eff = .safe := by
  have hs : s.settleLatched = ({ s with mode := { s.mode with latched := 0 } } : State).safePosture := if_pos hl
  obtain ⟨he, ht, hv⟩ := State.safePosture_mode { s with mode := { s.mode with latched := 0 } }
  rw [← hs] at he ht hv
  generalize s.settleLatched = u at *
  have hn : u.serveNext = u := if_neg (by simp [hv])
  rw [hn]
  have he1 : u.letGo.mode.eff = .safe := Eq.trans (u.letGo_frame.keeps .eff (by decide)) he
  have ht1 : u.letGo.mode.trans = .none := Eq.trans (u.letGo_frame.keeps .trans (by decide)) ht
  have hm := Eq.trans (u.letGo.safeEval.deliver_frame.keeps .mode (by decide)) (u.letGo.safeEval_inSafe he1)
  have he2 := (congrArg ModeSt.eff hm).trans he1
  rw [State.reviewMode_inSafe _ he2]
  exact ⟨(congrArg ModeSt.trans hm).trans ht1, he2⟩

/-- With no cause latched, and no condition that SAFE would take up, the wake ends in PRIMED or RUN, or goes on to SERVICE. -/
theorem State.wakeEnd_primed (hl : s.latchedOn = false) (he : s.mode.eff = .primed) (ht : s.mode.trans = .none)
    (hc : ∀ c ∈ s.safeConds, s.bit 0x414 c = false ∨ s.bit 0x418 c = true) :
    let t := s.settleLatched.serveNext.letGo.safeEval.deferredNow.deliverConds.reviewMode
    (s.mode.svc = false → t.mode.trans = .none ∧ (t.mode.eff = .primed ∨ t.mode.eff = .run)) ∧
    (s.mode.svc = true → t.mode.trans = .toService ∧ t.mode.eff = .primed ∧
      (s.time.mono + us 1, Instr.serviceReached) ∈ t.agenda) := by
  have hs : s.settleLatched = { s with mode := { s.mode with latched := 0 } } := if_neg (by simp [hl])
  have h1 : Frame [.mode] noKey s s.settleLatched := hs ▸ s.modeRest_frame
  have h3 : Frame [.mode, .svc, .trans, .agenda, .heldAcc, .mem] noKey s s.settleLatched.serveNext.letGo :=
    ((h1.mono).then (State.serveNext_frame _)).then (State.letGo_frame _)
  have hev : s.settleLatched.serveNext.letGo.safeEval = s.settleLatched.serveNext.letGo := by
    refine State.safeEval_none _ fun c hm => ?_
    rw [h3.bit 0x414 c, h3.bit 0x418 c]
    exact hc c ((h3.mono : Frame [.mode, .svc, .trans, .agenda, .heldAcc, .mem] pendKey s _).safeConds (by decide) ▸ hm)
  rw [hev]
  have he1 : s.settleLatched.mode.eff = .primed := Eq.trans (h1.keeps .eff (by decide)) he
  have ht1 : s.settleLatched.mode.trans = .none := Eq.trans (h1.keeps .trans (by decide)) ht
  have hv1 : s.settleLatched.mode.svc = s.mode.svc := h1.keeps .svc (by decide)
  have hm1 : s.settleLatched.time = s.time := h1.keeps .time (by decide)
  rw [← hv1, ← hm1]
  clear h1 h3 hev hs
  generalize s.settleLatched = u at *
  have hu : Frame [.agenda, .mode, .heldAcc, .mem] noKey u.serveNext u.serveNext.letGo.deferredNow.deliverConds :=
    (u.serveNext.letGo_frame).then (State.deliver_frame _)
  have he2 : u.serveNext.letGo.deferredNow.deliverConds.mode.eff = .primed :=
    Eq.trans (hu.keeps .eff (by decide)) (Eq.trans (u.serveNext_frame.keeps .eff (by decide)) he1)
  refine ⟨fun hv => ?_, fun hv => ?_⟩
  · have hn : u.serveNext = u := if_neg (by simp [hv])
    rw [hn] at hu he2 ⊢
    exact State.reviewMode_primed _ he2 (Eq.trans (hu.keeps .trans (by decide)) ht1)
  · have hn : u.serveNext = (({ u with mode := { u.mode with svc := false } } : State).setTrans .toService).after (us 1)
        .serviceReached := if_pos hv
    have ht2 : u.serveNext.letGo.deferredNow.deliverConds.mode.trans = .toService :=
      Eq.trans (hu.keeps .trans (by decide)) (hn ▸ rfl)
    have ha : (u.time.mono + us 1, Instr.serviceReached) ∈ u.serveNext.agenda := by
      rw [hn]
      simp [State.after, State.setTrans]
    rw [State.reviewMode_inTransition _ (by simp [ht2])]
    exact ⟨ht2, he2, (hu.keeps .agendaGrows (by decide)).subset ha⟩

theorem primedReached_primes (ht : s.mode.trans = .waking ∨ s.mode.trans = .shelfExit) (hl : s.synBit 0 0 = true)
    (hf : s.time.fclk = true) (hm : s.mem.training = false) (hw : s.wakeDone = true) :
    Does .primedReached s fun t => t.mode.heldAcc = [] ∧ SameStores s t ∧
      ((∀ c ∈ s.safeConds, s.bit 0x414 c = false ∨ s.bit 0x418 c = true) → s.latchedOn = false →
        (s.mode.svc = false → t.mode.trans = .none ∧ (t.mode.eff = .primed ∨ t.mode.eff = .run)) ∧
        (s.mode.svc = true → t.mode.trans = .toService ∧ t.mode.eff = .primed ∧
          (s.time.mono + us 1, Instr.serviceReached) ∈ t.agenda)) ∧
      (s.latchedOn = true → t.mode.trans = .none ∧ t.mode.eff = .safe) := by
  have hx := exec_primedReached s ht hl hf hm hw
  have hu := s.primedUp_spec
  dsimp only at hu
  generalize s.primedIn.basicsOn.loadsResume = u at hx hu
  obtain ⟨hu, he, htn, hla⟩ := hu
  have hon := hu.latchedOn hla
  have hk := u.wakeEnd_keeps
  refine ⟨_, hx, hk.1, hu.sameStores.trans hk.2, fun hc hoff => ?_, fun h => u.wakeEnd_safe (hon.trans h)⟩
  have h := u.wakeEnd_primed (hon.trans hoff) he htn fun c hm => by
    rw [hu.bit 0x414 c, hu.bit 0x418 c]
    exact hc c (hu.safeConds (by decide) ▸ hm)
  rw [show u.mode.svc = s.mode.svc from hu.keeps .svc (by decide),
    show u.time = s.time from hu.keeps .time (by decide)] at h
  exact h

/-- Settles O20: the wakes of LISTEN, the descents, the way out of SHELF and the end of a wake, each by its own lemma. -/
theorem theDeviceSleepsAndWakes : Obligations.TheDeviceSleepsAndWakes := by
  refine ⟨fun s he ht hc => ⟨fun w => wake_wakes s w he ht hc, kl0Activity_wakes s he ht hc,
    fun a => hostAccessWake_holds s a he ht hc, fun a => hostAccessWake_refuses_read s a he,
    fun a => hostAccessWake_refuses_write s a he⟩, fun s => ⟨listenReached_listens s, shelfReached_forgets s,
    fun ht => ⟨shelfExit_unloads s ht, shelfReload_reloads s ht⟩, primedReached_primes s,
    fun hc => ⟨shelf_descends s hc, shelf_goesOn s hc, fun w hw => shelf_refuses s hc hw⟩⟩⟩

end Sys2Proof.Machine
end

section
/-! SUPPORT. Frames of the catch-up of the outputs (R230, R285, R319, R332), and what it makes of a sequencer's own counters. -/

namespace Sys2Proof.Machine

-- Proofs one after another: many that wait in threads of their own would pass the check's memory limit.
set_option Elab.async false

variable (s : State)

/-- The registers the outputs may change: the counts of corrected words, and those of the channels and banks. -/
abbrev catchKey : Nat → Prop := fun k => (0x1808 ≤ k ∧ k < 0x1818) ∨ (0x1C00 ≤ k ∧ k < 0x2800)

/-- What the outputs may change beside registers; the sequencers' own state is not among it. -/
abbrev catchParts : List Aspect := [.cyc, .agenda, .aouts, .pbs, .free]

/-! ### Reads of segments -/

theorem State.incSat_frame (o n : Nat) : Frame [.cyc] (· = o) s (s.incSat o n) := s.tally_frame o _

theorem State.readWords_frame (vat : Bool) (p n : Nat) : Frame catchParts catchKey s (s.readWords vat p n) := by
  unfold State.readWords
  exact Frame.trans (Frame.each (fun _ _ u => (u.incSat_frame 0x1808 1).mono) s)
    (Frame.each (fun _ _ u => ((u.incSat_frame 0x180C 1).mono).then (State.wr_frame _ 0x1810 _)) _)

theorem State.readElem_frame (v : Nat) (d : Desc) (i : Nat) : Frame catchParts catchKey s (s.readElem v d i) := by
  unfold State.readElem State.readVi
  exact .ite (fun _ => .refl) fun _ => Frame.each (fun r _ u => u.readWords_frame _ _ _) s

theorem State.readPeriod_frame (v : Nat) (x : SeqSt) (d : Desc) (f p : Nat) :
    Frame catchParts catchKey s (s.readPeriod v x d f p) := by
  unfold State.readPeriod
  split
  · exact .ite (fun _ => .refl) fun _ => s.readElem_frame v d _
  · exact .refl

/-! ### Samples -/

/-- A change of a channel's state that leaves its phase reference. -/
theorem State.setAo_frame_keeping (n : Nat) {x : AoutSt} (h : x.phaseRef = (s.ao n).phaseRef) :
    Frame catchParts catchKey s (s.setAo n x) := by
  refine ⟨fun p hp => ?_, fun _ _ => rfl⟩
  by_cases hq : p = .phaseRefs
  · subst hq
    intro m
    show ((s.setAo n x).ao m).phaseRef = (s.ao m).phaseRef
    rw [State.ao_setAo]
    split
    · next hm => rw [h, hm]
    · rfl
  · exact (s.setAo_frame n x).keeps p (by simp_all)

theorem State.parkNow_frame {n : Nat} (hn : n < 8) (p : Bool) : Frame catchParts catchKey s (s.parkNow n p) := by
  unfold State.parkNow State.waout
  exact ((State.setAo_frame_keeping s n (by rfl)).then (State.wbit_frame _ _ 3 p)).then (State.wbit_frame _ _ 2 _)

theorem State.parkAtBoundary_frame {n : Nat} (hn : n < 8) (t : Nat) : Frame catchParts catchKey s (s.parkAtBoundary n t) := by
  unfold State.parkAtBoundary
  split
  · exact .ite (fun _ => s.parkNow_frame hn _) fun _ => .refl
  · exact .refl

/-- The lists, the ramp and the interpolator leave the phase reference. -/
theorem AoutSt.stepRamp_phaseRef (x : AoutSt) : x.stepRamp.phaseRef = x.phaseRef := by
  unfold AoutSt.stepRamp
  split
  · rfl
  · split <;> rfl

theorem AoutSt.rampTo_phaseRef (x : AoutSt) (a len : Nat) : (x.rampTo a len).phaseRef = x.phaseRef := by
  unfold AoutSt.rampTo
  dsimp only
  split <;> exact x.stepRamp_phaseRef

theorem AoutSt.stepFreq_phaseRef (x : AoutSt) : x.stepFreq.phaseRef = x.phaseRef := by
  unfold AoutSt.stepFreq
  split
  · rfl
  · dsimp only
    split_ifs <;> rfl

theorem AoutSt.stepAmpl_phaseRef (x : AoutSt) : x.stepAmpl.phaseRef = x.phaseRef := by
  unfold AoutSt.stepAmpl
  split
  · rfl
  · dsimp only
    split
    · exact AoutSt.rampTo_phaseRef _ _ _
    · rfl

theorem AoutSt.filter_phaseRef (x : AoutSt) (f : Nat) (e : Option (Int × Nat)) : (x.filter f e).1.phaseRef = x.phaseRef := rfl

theorem State.aoutSample_frame {n : Nat} (hn : n < 8) (elem : Option (Int × Nat)) (t : Nat) :
    Frame catchParts catchKey s (s.aoutSample n elem t) := by
  have h1 := s.parkAtBoundary_frame hn t
  unfold State.aoutSample
  generalize s.parkAtBoundary n t = u at h1 ⊢
  have hx := AoutSt.filter_phaseRef (u.ao n) (u.interp n) elem
  dsimp only
  generalize (u.ao n).filter (u.interp n) elem = fe at hx ⊢
  obtain ⟨x, e⟩ := fe
  have h2 (z : AoutSt) (hz : z.phaseRef = x.stepFreq.stepAmpl.stepRamp.phaseRef) :
      Frame catchParts catchKey s (u.fresh.setAo n z) := by
    rw [AoutSt.stepRamp_phaseRef, AoutSt.stepAmpl_phaseRef, AoutSt.stepFreq_phaseRef, hx] at hz
    exact (h1.then u.fresh_frame).then (State.setAo_frame_keeping u.fresh n hz)
  have h3 {w : State} (hw : Frame catchParts catchKey s w) :
      Frame catchParts catchKey s ((w.incSat (aoutR n + 0x34) 1).waout n 5 true) :=
    (hw.then (w.incSat_frame _ 1)).then (State.wbit_frame _ _ 5 true)
  dsimp only
  exact .ite (fun _ => h2 _ rfl) fun _ => h3 (h2 _ rfl)

theorem State.idleFrom_frame {n : Nat} (hn : n < 8) (j m : Nat) : Frame catchParts catchKey s (s.idleFrom n j m) := by
  induction m generalizing s j with
  | zero => exact .refl
  | succ m ih => exact (s.aoutSample_frame hn _ _).trans (ih _ _)

theorem State.idleTo_frame {n : Nat} (hn : n < 8) (t : Nat) : Frame catchParts catchKey s (s.idleTo n t) := by
  unfold State.idleTo
  refine .ite (fun _ => .refl) fun _ => ?_
  extract_lets y a e s1 src s2
  have h1 : Frame catchParts catchKey s s1 := .ite (fun _ => s.idleFrom_frame hn _ _) fun _ => .refl
  have h2 : Frame catchParts catchKey s s2 :=
    .ite (fun _ => h1.trans (State.setAo_frame_keeping s1 n (by rfl))) fun _ => h1
  exact .ite (fun _ => h2.trans (s2.parkAtBoundary_frame hn t)) fun _ => h2

/-! ### Vectors -/

theorem State.setCapBuf_frame (u : Nat) (b : List RingEnt) : Frame [.pbs] noKey s (s.setCapBuf u b) := s.setPb_frame _ _
theorem State.setCapLoss_frame (u : Nat) (b : Bool) : Frame [.pbs] noKey s (s.setCapLoss u b) := s.setPb_frame _ _

theorem State.capture_frame {u : Nat} (hu : u < 16) (e : RingEnt) (tu : Nat) :
    Frame catchParts catchKey s (s.capture u e tu) := by
  unfold State.capture
  refine .ite (fun _ => ?_) fun _ => ?_
  · exact (((s.setCapBuf_frame u _).mono).then (State.setCapLoss_frame _ u false)).then (State.at_frame _ _ _)
  · exact ((s.incSat_frame (capR u + 12) 1).mono).then (State.setCapLoss_frame _ u true)

theorem State.wpb_frame (k i : Nat) (b : Bool) : Frame [.cyc] (· = pbR k + 8) s (s.wpb k i b) := s.wbit_frame _ i b

theorem State.vector_frame {k : Nat} (hk : k < 8) (codes : List Nat) (u : Nat) :
    Frame catchParts catchKey s (s.vector k codes u) := by
  unfold State.vector
  extract_lets x t s1 aft pins x1 x2 s2 s3 s4
  have h1 : Frame catchParts catchKey s s1 := (s.wr_frame _ _).mono
  have h2 : Frame catchParts catchKey s s2 := h1.then (s1.setPb_frame k _)
  have h3 : Frame catchParts catchKey s s3 := .ite (fun _ => h2.then (s2.wpb_frame k 5 true)) fun _ => h2
  have h4 : Frame catchParts catchKey s s4 := .ite (fun _ => h3.then (s3.wpb_frame k 4 true)) fun _ => h3
  clear_value s4
  refine .ite (fun _ => h4.trans (Frame.each (fun m hm v => ?_) s4)) fun _ => h4
  exact (v.fresh_frame.mono).trans (State.capture_frame _ (List.mem_range.mp (List.mem_filter.mp hm).1) _ _)

theorem State.freeVector_frame {k : Nat} (hk : k < 8) (j : Nat) : Frame catchParts catchKey s (s.freeVector k j) := by
  unfold State.freeVector
  dsimp only
  split
  · exact (s.readElem_frame _ _ _).trans (State.vector_frame _ hk _ _)
  · exact .refl

theorem State.freeFrom_frame {k : Nat} (hk : k < 8) (j n : Nat) : Frame catchParts catchKey s (s.freeFrom k j n) := by
  induction n generalizing s j with
  | zero => exact .refl
  | succ n ih => exact (s.freeVector_frame hk j).trans (ih _ _)

theorem State.catchUpFree_frame {k : Nat} (hk : k < 8) : Frame catchParts catchKey s (s.catchUpFree k) := by
  unfold State.catchUpFree
  refine .ite (fun _ => .refl) fun _ => ?_
  exact (s.freeFrom_frame hk _ _).then (State.setPb_frame _ k _)

/-! ### Output periods -/

theorem State.phys_lt {v : Nat} {c : Kind} {j k : Nat} (hc : c ≠ .misc) (h : s.phys v c j = some k) : k < c.count := by
  have ho (k : Nat) (hm : k ∈ s.owned v c) : k < c.count := List.mem_range.mp (List.mem_filter.mp hm).1
  unfold State.phys at h
  split_ifs at h
  · simp_all
  · exact ho k (List.mem_of_getElem? h)

theorem State.curBanks_lt {v w : Nat} {c : Cur} {b : Nat × Nat} (h : b ∈ s.curBanks v c w) : b.1 < 8 := by
  have hp {d j : Nat} (hb : ((s.phys v .pb (d + j)).map fun k => (k, j)) = some b) : b.1 < 8 := by
    obtain ⟨k, hk, rfl⟩ := Option.map_eq_some_iff.mp hb
    exact s.phys_lt (by decide) hk
  unfold State.curBanks at h
  split at h
  · obtain ⟨j, -, hb⟩ := List.mem_filterMap.mp h
    exact hp hb
  · obtain ⟨j, -, hb⟩ := List.mem_filterMap.mp h
    exact hp hb
  · simp at h

theorem State.seqPeriodAt_frame (k j : Nat) : Frame catchParts catchKey s (s.seqPeriodAt k j) := by
  unfold State.seqPeriodAt
  extract_lets x v d late s1 s2
  clear_value d
  have h1 : Frame catchParts catchKey s s1 := by
    simp only [s1]
    cases d with
    | none => exact .refl
    | some d => exact .ite (fun _ => .refl) fun _ => s.readPeriod_frame _ _ _ _ _
  clear_value s1
  have h2 : Frame catchParts catchKey s1 s2 := Frame.each
    (fun n hn u => u.aoutSample_frame (List.mem_range.mp (List.mem_filter.mp hn).1) _ _) s1
  have h := h1.trans h2
  clear_value s2
  cases d with
  | none => exact h
  | some d =>
    refine .ite (fun _ => h.trans (Frame.each (fun b hb u => ?_) s2)) fun _ => h
    split
    · exact u.vector_frame (s2.curBanks_lt hb) _ _
    · exact .refl

theorem State.periodsFrom_frame (k j n : Nat) : Frame catchParts catchKey s (s.periodsFrom k j n) := by
  induction n generalizing s j with
  | zero => exact .refl
  | succ n ih => exact (s.seqPeriodAt_frame k j).trans (ih _ _)

/-! ### A sequencer's counters -/

/-- What catching up makes of the state of sequencer `k`: the boundaries known by now are done, and counted (R230). -/
def State.caughtUp (s : State) (k : Nat) : SeqSt :=
  let x := s.sq k
  if s.seqState k < 2 then x
  else
    let j := s.knownTo k (x.from_ ((if s.bit (seqR k + 8) 18 then x.pausedAt else s.time.mono) + 1))
    { x with done := max x.done j, periods := x.periods + BitVec.ofNat 48 (j - x.done) }

/-- What catching up a sequencer may change beside registers. -/
abbrev playParts : List Aspect := .seqs :: catchParts

theorem State.playTo_spec (k j : Nat) : Frame playParts catchKey s (s.playTo k j) ∧
    ∀ q, (s.playTo k j).sq q =
      if q = k then { s.sq k with done := max (s.sq k).done j, periods := (s.sq k).periods + BitVec.ofNat 48 (j - (s.sq k).done) }
      else s.sq q := by
  unfold State.playTo
  extract_lets x n s1 src
  have h1 : Frame catchParts catchKey s s1 := .ite (fun _ => s.periodsFrom_frame k _ _) fun _ => .refl
  have hs (q : Nat) : s1.sq q = s.sq q := by
    rw [State.sq, State.sq, show s1.seqs = s.seqs from h1.keeps .seqs (by decide)]
  have hsrc : src = x := hs k
  clear_value src s1
  subst hsrc
  exact ⟨(h1.mono).then (s1.setSq_frame k _), fun q => by rw [State.sq_setSq, hs q]⟩

theorem State.catchUp_spec (k : Nat) : Frame playParts catchKey s (s.catchUp k) ∧
    ∀ q, (s.catchUp k).sq q = if q = k then s.caughtUp k else s.sq q := by
  unfold State.catchUp State.caughtUp
  dsimp only
  split
  · exact ⟨.refl, fun q => by split <;> simp_all⟩
  · exact s.playTo_spec k _

/-- Another sequencer's catch-up leaves what this one's makes of it. -/
theorem Frame.caughtUp {P : List Aspect} {s t : State} (h : Frame P catchKey s t) {k : Nat} (hk : k < 16) (hq : t.sq k = s.sq k)
    (ht : Aspect.time ∉ P) (ha : Aspect.acts ∉ P) (hr : Aspect.phaseRefs ∉ P) : t.caughtUp k = s.caughtUp k := by
  have hb (o i : Nat) (ho : o < 0x1808) : t.bit o i = s.bit o i := h.bit o i
  have hf : t.seqState k = s.seqState k := h.fld (seqR k + 8) 1 0
  have htime : t.time = s.time := h.keeps .time ht
  have hact (a : ActId) : t.act a = s.act a := h.act a ha
  have href (n : Nat) : (t.ao n).phaseRef = (s.ao n).phaseRef := h.keeps .phaseRefs hr n
  have hph (n : Nat) : t.phaseAt n k = s.phaseAt n k := by
    simp only [State.phaseAt, href, hq, hact, State.targetAt, State.now, htime]
  have hg : t.gapHolds k = s.gapHolds k := by
    simp only [State.gapHolds, hq, hb (seqR k) 1 (by simp only [seqR]; omega)]
  have hbind (n : Nat) : t.bindsAout k n = s.bindsAout k n := hb (seqR k + 0xC) n (by simp only [seqR]; omega)
  have hkn (j : Nat) : t.knownTo k j = s.knownTo k j := by
    simp only [State.knownTo, State.haltDue, hq, hg, hbind, hact, hph]
  simp only [State.caughtUp, hf, hq, htime, hkn, hb (seqR k + 8) 18 (by simp only [seqR]; omega)]

theorem State.catchUps_spec {l : List Nat} (hl : ∀ k ∈ l, k < 16) (hn : l.Nodup) :
    Frame playParts catchKey s (s.each l fun s k => s.catchUp k) ∧
      ∀ q, (s.each l fun s k => s.catchUp k).sq q = if q ∈ l then s.caughtUp q else s.sq q := by
  induction l generalizing s with
  | nil => exact ⟨.refl, fun q => by simp⟩
  | cons k l ih =>
    obtain ⟨hf, hq⟩ := s.catchUp_spec k
    obtain ⟨hf', hq'⟩ := ih (s.catchUp k) (fun j hj => hl j (by simp [hj])) (List.nodup_cons.mp hn).2
    refine ⟨hf.trans hf', fun q => ?_⟩
    rw [State.each_cons, hq' q]
    by_cases hm : q ∈ l
    · have hne : q ≠ k := fun h => (List.nodup_cons.mp hn).1 (h ▸ hm)
      rw [if_pos hm, if_pos (by simp [hm]),
        hf.caughtUp (hl q (by simp [hm])) ((hq q).trans (if_neg hne)) (by decide) (by decide) (by decide)]
    · rw [if_neg hm, hq q]
      by_cases hk : q = k
      · simp [hk]
      · simp [hk, hm]

/-- Catching up everything that runs leaves the registers of the sequencers, and brings each one's own counters up to date. -/
theorem State.catchUpAll_spec : Frame playParts catchKey s s.catchUpAll ∧
    ∀ k < 16, s.catchUpAll.sq k = s.caughtUp k := by
  obtain ⟨h1, hq⟩ := s.catchUps_spec (l := List.range 16) (fun k hk => List.mem_range.mp hk) (List.nodup_range)
  unfold State.catchUpAll
  generalize s.each (List.range 16) (fun s k => s.catchUp k) = u at h1 hq ⊢
  have h2 : Frame catchParts catchKey u ((u.each (List.range 8) fun s k => s.catchUpFree k).each (List.range 8) fun s n =>
      s.idleTo n (s.time.mono + 1)) :=
    Frame.trans (Frame.each (fun k hk v => v.catchUpFree_frame (List.mem_range.mp hk)) u)
      (Frame.each (fun n hn v => v.idleTo_frame (List.mem_range.mp hn) _) _)
  refine ⟨h1.trans (h2.mono), fun k hk => ?_⟩
  rw [State.sq, show State.seqs _ = u.seqs from h2.keeps .seqs (by decide)]
  exact (hq k).trans (if_pos (List.mem_range.mpr hk))

end Sys2Proof.Machine
end

section
/-! SUPPORT. The way of a read through a host port (R74 to R83): the answer on its port, the gate, and what it reads. -/

namespace Sys2Proof.Machine

-- Proofs one after another: many that wait in threads of their own would pass the check's memory limit.
set_option Elab.async false

variable (s : State)

/-! ### The answer on the port -/

theorem State.sendSeq_frame (p : Nat) (e : OutPkt) : Frame [.kl] noKey s (s.sendSeq p e) :=
  (s.setKp_frame p _).trans (State.emit_frame _ _ _ _)

theorem State.pump1_frame (p : Nat) : Frame [.kl] noKey s (s.pump1 p) := by
  unfold State.pump1
  refine .ite (fun _ => .refl) fun _ => ?_
  split
  · exact .refl
  · split
    · exact (s.setKp_frame p _).trans (State.sendSeq_frame _ _ _)
    · exact .refl

theorem State.queue_frame (p hops : Nat) (k : Pkt) : Frame [.kl] noKey s (s.queue p hops k) := by
  unfold State.queue State.pump
  exact .ite (fun _ => s.emit_frame _ _ _) fun _ => (s.setKp_frame p _).trans (Frame.each (fun _ _ u => u.pump1_frame p) _)

theorem State.route_frame (dst : Nat) (from_ : Option Nat) (hops : Nat) (k : Pkt) :
    Frame [.kl] noKey s (s.route dst from_ hops k) := Frame.each (fun p _ u => u.queue_frame p hops k) s

theorem State.withHost_frame (h : HostSt) : Frame [.host] noKey s { s with host := h } := .part rfl
theorem State.withKl_frame (k : KlSt) : Frame [.kl] noKey s { s with kl := k } := .part rfl

theorem State.spiEnd_frame (code : Nat) (w : Word) : Frame [.host] noKey s (s.spiEnd code w) := by
  unfold State.spiEnd
  split
  · exact .ite (fun _ => .refl) fun _ => s.withHost_frame _
  · exact .refl

/-- What the answer to an access may change. -/
abbrev answerParts : List Aspect := [.kl, .host, .out]

theorem State.finishAcc_frame (p : Port) (v off : Nat) (write : Bool) : Frame answerParts noKey s (s.finishAcc p v off write) := by
  unfold State.finishAcc
  cases p with
  | internal => exact .refl
  | pcie => exact .ite (fun _ => .refl) fun _ => (s.makeReady_frame _).mono
  | spi => exact .ite (fun _ => (s.withHost_frame _).mono) fun _ => (s.spiEnd_frame _ _).mono
  | link =>
    dsimp only
    split
    · exact .refl
    · exact .ite (fun _ => ((s.withKl_frame _).mono).then (State.route_frame _ _ _ _ _))
        fun _ => ((s.withKl_frame _).mono).then (State.route_frame _ _ _ _ _)

/-- What is answered stands in the read data, and nothing else changes but the port. -/
theorem State.answered_spec (w : Word) (p : Port) (v off : Nat) (write : Bool) :
    Frame (.rdata :: answerParts) noKey s ((s.answer w).finishAcc p v off write) ∧
      ((s.answer w).finishAcc p v off write).rdata = some (w, false) :=
  ⟨((s.answer_frame w).mono).then (State.finishAcc_frame _ _ _ _ _), (State.finishAcc_frame _ p v off write).keeps .rdata (by decide)⟩

/-! ### The gate -/

theorem State.gateAcc_serves {v : Fin 32} {a : HostAcc} (hs : s.Serves v) (ha : a.vi = v) : s.gateAcc a = none := by
  obtain ⟨hf, hh, haw, hr, hacc, haper⟩ := hs
  have he : ¬ (s.mode.eff = .listen ∨ s.mode.eff = .shelf) := by
    rintro (h | h) <;> simp [State.awake, h] at haw
  unfold State.gateAcc
  simp [ha, hf, hh, hr, hacc, haper, he]

/-- The state in which an access that is served begins: nothing has refused it. -/
def State.asked (s : State) : State := { s with host := { s.host with refused := false } }

theorem State.asked_frame : Frame [.host] noKey s s.asked := s.withHost_frame _

/-- The state in which it looks at the register at `o`: what it reads is up to date. -/
def State.facing (s : State) (o : Nat) : State := s.asked.upToDate o

/-- A read that is served, of a register that is there and powered, reads it and is answered. -/
theorem State.hostRead_reg {v : Fin 32} {p : Port} {off : BitVec 16} {o i k : Nat} {r : RegRow} (hs : s.Serves v)
    (hp : p ≠ .internal) (ho : off.toNat = o) (hlt : o < 0x4000) (h4 : o % 4 = 0) (hf : o ≠ 0x114)
    (hslot : (s.facing o).slot v o = .reg r i k) (hg : (s.facing o).slotGated r i = false) :
    s.hostRead v p off 0xF = ((s.facing o).readReg v r i k).finishAcc p v o false := by
  have hask : s.asked = { s with host := { s.host with refused := false } } := rfl
  have hm : o % 0x4000 = o := Nat.mod_eq_of_lt hlt
  have hv : (Fin.ofNat 32 v.val) = v := by simp
  unfold State.hostRead
  dsimp only
  rw [hv, s.gateAcc_serves hs rfl, if_neg (by simp [ho, hm, hf])]
  dsimp only
  rw [if_neg hp, if_neg (by simp [ho, hm, hf]), ho]
  congr 1
  rw [← hask]
  unfold State.readNow
  rw [if_neg (by simp [h4]), hm]
  unfold State.facing at hslot hg
  dsimp only
  rw [hslot]
  dsimp only
  rw [hg]
  rfl

/-- A read of a register of no block that runs on its own looks at the state as it is. -/
theorem State.facing_of {o : Nat} (h : ¬ (0x1000 ≤ o ∧ o < 0x2800)) : s.facing o = s.asked := if_neg h

theorem State.facing_played {o : Nat} (h : 0x1000 ≤ o ∧ o < 0x2800) : s.facing o = s.asked.catchUpAll := if_pos h

/-! ### Registers of read-only fields -/

/-- A row all of whose fields are read only. -/
def roRow (off stride cnt : Nat) (own : Bool) (cls : RCls) (hide : Bool) : RegRow := ⟨off, stride, cnt, own, cls, hide, 0, 0, 0, 0, 0, 0, 0, 0⟩

/-- A read of such a register that has no queue behind it answers its value, and latches what it latches. -/
theorem State.readReg_ro (v : Nat) {off stride cnt : Nat} {own : Bool} {cls : RCls} {hide : Bool} (i k : Nat)
    (hm : ¬ (0x2C0 ≤ off ∧ off < 0x300 ∧ off % 0x10 = 0)) (hs : off ≠ 0x300) (hl : off ≠ 0x8B0) (ht : off ≠ 0x2A48) :
    let r := roRow off stride cnt own cls hide
    s.readReg v r i k = (s.latchHi v r i).answer (s.regValue v r i k) := by
  dsimp only
  unfold State.readReg State.popFor State.clearRc
  simp [roRow, hm, hs, hl, ht]

end Sys2Proof.Machine
end

section
/-! SUPPORT. What a read of a register answers and does, register by register (R29, R70, R82, R347, R425, R428). -/

namespace Sys2Proof.Machine

-- Proofs one after another: many that wait in threads of their own would pass the check's memory limit.
set_option Elab.async false

variable (s : State) {v : Fin 32} {p : Port}

/-! ### Where a register stands -/

theorem State.slot_own {v o j : Nat} {r : RegRow} (h : findRow regTable o = some (r, j)) (ho : r.own = true) (hh : r.hide = false) :
    s.slot v o = .reg r j (viKey v o) := by
  simp [State.slot, h, ho, hh]

theorem State.slot_inst {v o j i : Nat} {r : RegRow} (h : findRow regTable o = some (r, j)) (ho : r.own = false)
    (hh : (r.hide && v != 0) = false) (hc : r.cls.perBit = false) (hi : s.instPhys v r.cls j = some i) (hlt : i < r.cnt) :
    s.slot v o = .reg r i (devKey (r.off + r.stride * i)) := by
  simp [State.slot, h, ho, hh, hc, hi, hlt]

theorem State.slotGated_of {r : RegRow} {i : Nat} (h : slotDom r i = 0 ∨ s.domOn (slotDom r i) = true) : s.slotGated r i = false := by
  rcases h with h | h <;> simp [State.slotGated, h]

/-- A register that holds no references and no buffered fields is seen as it stands. -/
theorem State.viewVal_plain {v i k : Nat} {r : RegRow} {b : Bool} (hc : r.cls.perBit = false) (h0 : r.off ≠ 0x900)
    (h4 : r.off ≠ 0x904) (href : refReg r.off i = .none) (hb : r.rwb = 0) (ha : r.act = 0) : s.viewVal v r i k b = s.getKey k := by
  have hcb : r.cls ≠ .conBytes := by
    intro h
    simp [h, RCls.perBit] at hc
  have hm : ~~~(BitVec.ofNat 32 r.act) = BitVec.allOnes 32 := by
    rw [ha]
    rfl
  simp only [State.viewVal, if_neg hcb, hc, h0, h4, href, State.refOut, State.stored, hb, hm, BitVec.and_allOnes,
    beq_self_eq_true, Bool.or_true, Bool.false_eq_true, if_true, if_false]

/-! ### RC bits (R82) -/

theorem and_not_zero_and (x y : Word) : x &&& ~~~(0 &&& y) = x := by
  have h : ~~~((0#32) &&& y) = BitVec.allOnes 32 := by
    rw [BitVec.zero_and]
    rfl
  exact (congrArg (x &&& ·) h).trans BitVec.and_allOnes

/-- The row of VI_ACC_ERR. -/
def accErrRow : RegRow := ⟨0x10C, 0x4, 1, true, .none, false, 0, 0, 0, 0x3F, 0, 0, 0, 0⟩

theorem findRow_accErr : findRow regTable 0x10C = some (accErrRow, 0) := by decide +kernel

theorem State.accErr_read (v k : Nat) : let t := s.readReg v accErrRow 0 k
    t.rdata = some (s.getKey k, false) ∧
      t.getKey k = s.getKey k &&& ~~~(s.getKey k &&& 0x3F &&& ~~~(s.cy k).raised) := by
  have hv : s.regValue v accErrRow 0 k = s.getKey k :=
    s.viewVal_plain (by decide) (by decide) (by decide) (by decide) (by decide) (by decide)
  have hr : s.readReg v accErrRow 0 k = (s.clearRc v accErrRow 0 k (s.getKey k)).answer (s.getKey k) := by
    rw [← hv]
    rfl
  have hc : (s.clearRc v accErrRow 0 k (s.getKey k)).getKey k =
      s.getKey k &&& ~~~(s.getKey k &&& 0x3F &&& ~~~(s.cy k).raised) := by
    unfold State.clearRc
    dsimp only
    split
    · next h =>
      have h : s.getKey k &&& 0x3F = 0 := h
      rw [h, and_not_zero_and]
    · exact s.getKey_setKey_self k _
  rw [hr]
  exact ⟨rfl, hc⟩

theorem rcRead_clears (hs : s.Serves v) (hp : p ≠ .internal) : Does (.rcRead v p 0x10C 0xF) s fun t =>
    t.rdata = some (s.rdv v 0x10C, false) ∧
      t.rdv v 0x10C = s.rdv v 0x10C &&& ~~~(s.rdv v 0x10C &&& 0x3F &&& ~~~(s.cy (viKey v 0x10C)).raised) := by
  refine ⟨s.hostRead v p 0x10C 0xF, rfl, ?_⟩
  rw [s.hostRead_reg hs hp (o := 0x10C) rfl (by decide) (by decide) (by decide)
    (State.slot_own _ findRow_accErr rfl rfl) (State.slotGated_of _ (.inl rfl)), s.facing_of (by decide)]
  obtain ⟨hd, hr⟩ := s.asked.accErr_read v (viKey v 0x10C)
  have h := State.finishAcc_frame (s.asked.readReg v accErrRow 0 (viKey v 0x10C)) p v 0x10C false
  exact ⟨Eq.trans (h.keeps .rdata (by decide)) hd, (h.rdv v 0x10C).trans hr⟩

/-! ### TIME_NOW, and the low halves of counters (R29) -/

theorem findRow_timeNow : findRow regTable 0x508 = some (roRow 0x508 0x4 1 true .none false, 0) := by decide +kernel

theorem timeNowRead_latches (hs : s.Serves v) (hp : p ≠ .internal) : Does (.timeNowRead v p) s fun t =>
    t.rdata = some (lo32 s.now, false) ∧ t.rdv v 0x50C = hi32 s.now := by
  refine ⟨s.hostRead v p 0x508 0xF, rfl, ?_⟩
  rw [s.hostRead_reg hs hp (o := 0x508) rfl (by decide) (by decide) (by decide)
    (State.slot_own _ findRow_timeNow rfl rfl) (State.slotGated_of _ (.inl rfl)), s.facing_of (by decide),
    State.readReg_ro _ _ _ _ (by decide) (by decide) (by decide) (by decide)]
  obtain ⟨h, hd⟩ := (s.asked.wrv v 0x50C (hi32 s.now)).answered_spec (lo32 s.now) p v 0x508 false
  exact ⟨hd, (h.rdv v 0x50C).trans (State.rdv_wrv_self _ _ _ _)⟩

/-- The offset of a register in an array fits the 16 bits of an access. -/
theorem toNat_offset {o : Nat} (h : o < 0x10000) : (BitVec.ofNat 16 o).toNat = o := by
  rw [BitVec.toNat_ofNat]
  omega

theorem findRow_fsTime : ∀ l : Fin 2, findRow regTable (0x2E1C + 0x80 * l.val) = some (roRow 0x2E1C 0x80 2 false .disp false, l.val) := by
  decide +kernel

theorem counterLoRead_fsTime (hs : s.Serves v) (hp : p ≠ .internal) (l : Fin 2)
    (ho : s.owns v .misc 0 = true ∨ s.physView v = true) (hd : s.domOn 23 = true) :
    Does (.counterLoRead v p (BitVec.ofNat 16 (0x2E1C + 0x80 * l.val))) s fun t =>
      t.rdata = some (s.rd (0x2E1C + 0x80 * l.val), false) ∧ t.rd (0x2E20 + 0x80 * l.val) = s.rd (0x2E38 + 0x80 * l.val) := by
  refine ⟨s.hostRead v p (BitVec.ofNat 16 (0x2E1C + 0x80 * l.val)) 0xF, rfl, ?_⟩
  have hf := s.facing_of (o := 0x2E1C + 0x80 * l.val) (by omega)
  have hi : (s.facing (0x2E1C + 0x80 * l.val)).instPhys v .disp l.val = some l.val := by
    rw [hf]
    exact if_pos (show (s.owns v .misc 0 || s.physView v) = true by simpa using ho)
  have hg : (s.facing (0x2E1C + 0x80 * l.val)).slotGated (roRow 0x2E1C 0x80 2 false .disp false) l.val = false :=
    State.slotGated_of _ (.inr (by rw [hf]; exact hd))
  have hk (b : Bool) : s.asked.viewVal v (roRow 0x2E1C 0x80 2 false .disp false) l (0x2E1C + 0x80 * l.val) b =
      s.rd (0x2E1C + 0x80 * l.val) := State.viewVal_plain _ rfl (by decide) (by decide) rfl rfl rfl
  have hval : s.asked.regValue v (roRow 0x2E1C 0x80 2 false .disp false) l (0x2E1C + 0x80 * l.val) =
      s.rd (0x2E1C + 0x80 * l.val) := hk _
  rw [s.hostRead_reg hs hp (toNat_offset (by omega)) (by omega) (by omega) (by omega)
    (State.slot_inst _ (findRow_fsTime l) rfl rfl rfl hi l.isLt) hg, hf,
    State.readReg_ro _ _ _ _ (by decide) (by decide) (by decide) (by decide)]
  obtain ⟨h, hd⟩ := (s.asked.wr (0x2E00 + 0x80 * l.val + 0x20) (s.rd (0x2E00 + 0x80 * l.val + 0x38))).answered_spec
    (s.rd (0x2E1C + 0x80 * l.val)) p v (0x2E1C + 0x80 * l.val) false
  rw [show (roRow 0x2E1C 0x80 2 false .disp false).off + (roRow 0x2E1C 0x80 2 false .disp false).stride * l.val =
    0x2E1C + 0x80 * l.val from rfl, hval]
  refine ⟨hd, ?_⟩
  have h20 : 0x2E20 + 0x80 * l.val = 0x2E00 + 0x80 * l.val + 0x20 := by omega
  have h38 : 0x2E38 + 0x80 * l.val = 0x2E00 + 0x80 * l.val + 0x38 := by omega
  rw [h20, h38]
  exact (h.rd _).trans (State.rd_wr_self _ _ _)

/-! ### A sequencer's counters -/

/-- Which resources a VI has is said by the partition's registers and its view. -/
theorem Frame.phys {P : List Aspect} {K : Nat → Prop} {s t : State} (h : Frame P K s t) (hK : ∀ k, 0x3C00 ≤ k → ¬ K k)
    (v : Nat) (c : Kind) (j : Nat) : t.phys v c j = s.phys v c j := by
  have hbase (c : Kind) : 0x3C00 ≤ c.base := by cases c <;> decide
  have hown (c : Kind) (i : Nat) : t.owner c i = s.owner c i := by
    rw [State.owner, State.owner, State.inForce, State.inForce, h.bit 0x3C08 0 (hK _ (by decide)),
      h.rd (c.base + 4 * (i / 4)) (hK _ (by have := hbase c; omega))]
  have howns (i : Nat) : t.owns v c i = s.owns v c i := by simp only [State.owns, hown]
  have hview : t.physView v = s.physView v := by simp only [State.physView, h.bitv 0 0x100 0 (hK _ (by decide))]
  have howned : t.owned v c = s.owned v c := congrArg (List.filter · _) (funext howns)
  simp only [State.phys, hview, howns, howned]

/-- A read of a sequencer's counter looks at what catching up has made of it, and at the VI's resources as they are. -/
theorem State.facing_seq {o : Nat} (h : 0x1000 ≤ o ∧ o < 0x2800) : (∀ k < 16, (s.facing o).sq k = s.catchUpAll.sq k) ∧
    (∀ v c j, (s.facing o).phys v c j = s.phys v c j) ∧ ∀ d, (s.facing o).domOn d = s.domOn d := by
  rw [s.facing_played h]
  obtain ⟨hf, hq⟩ := s.asked.catchUpAll_spec
  refine ⟨fun k hk => ?_, fun v c j => hf.phys (by omega) v c j, fun d => ?_⟩
  · rw [hq k hk, s.catchUpAll_spec.2 k hk]
    rfl
  · rw [State.domOn, State.dom, show s.asked.catchUpAll.mode = s.asked.mode from hf.keeps .mode (by decide)]
    rfl

theorem findRow_periods : ∀ j : Fin 16,
    findRow regTable (0x1028 + 0x80 * j.val) = some (roRow 0x1028 0x80 16 false .seq false, j.val) := by
  decide +kernel

theorem findRow_whey : ∀ j : Fin 16,
    findRow regTable (0x1030 + 0x80 * j.val) = some (roRow 0x1030 0x80 16 false .seq false, j.val) := by
  decide +kernel

/-- A read of a sequencer's counter that is served. -/
theorem State.hostRead_seq (hs : s.Serves v) (hp : p ≠ .internal) {o : Nat} {j : Fin 16} {k : Nat}
    (hrow : findRow regTable (o + 0x80 * j.val) = some (roRow o 0x80 16 false .seq false, j.val))
    (ho : o = 0x1028 ∨ o = 0x1030) (hj : s.phys v .seq j = some k) (hk : k < 16) (hd : s.domOn 3 = true) :
    ∃ u : State, u.sq k = s.catchUpAll.sq k ∧ s.hostRead v p (BitVec.ofNat 16 (o + 0x80 * j.val)) 0xF =
      ((u.latchHi v (roRow o 0x80 16 false .seq false) k).answer
        (u.regValue v (roRow o 0x80 16 false .seq false) k (o + 0x80 * k))).finishAcc p v (o + 0x80 * j.val) false := by
  have hlt := j.isLt
  obtain ⟨hq, hph, hdom⟩ := s.facing_seq (o := o + 0x80 * j.val) (by omega)
  refine ⟨s.facing (o + 0x80 * j.val), hq k hk, ?_⟩
  have hg : (s.facing (o + 0x80 * j.val)).slotGated (roRow o 0x80 16 false .seq false) k = false := by
    refine State.slotGated_of _ (.inr ?_)
    rw [hdom, show slotDom (roRow o 0x80 16 false .seq false) k = 3 by rcases ho with rfl | rfl <;> rfl, hd]
  rw [s.hostRead_reg hs hp (toNat_offset (by omega)) (by omega) (by omega) (by omega)
    (State.slot_inst _ hrow rfl rfl rfl ((hph v .seq j).trans hj) hk) hg,
    State.readReg_ro _ _ _ _ (by omega) (by omega) (by omega) (by omega)]
  rfl

theorem counterLoRead_periods (hs : s.Serves v) (hp : p ≠ .internal) (j : Fin 16) {k : Nat} (hj : s.phys v .seq j = some k)
    (hk : k < 16) (hd : s.domOn 3 = true) : Does (.counterLoRead v p (BitVec.ofNat 16 (0x1028 + 0x80 * j.val))) s fun t =>
      t.rdata = some ((s.catchUpAll.sq k).periods.setWidth 32, false) ∧
        t.rd (seqR k + 0x2C) = ((s.catchUpAll.sq k).periods >>> 32).setWidth 32 := by
  obtain ⟨u, hq, hx⟩ := s.hostRead_seq hs hp (findRow_periods j) (.inl rfl) hj hk hd
  refine ⟨_, rfl, ?_⟩
  obtain ⟨h, hd⟩ := (u.wr (seqR k + 0x2C) (((u.sq k).periods >>> 32).setWidth 32)).answered_spec ((u.sq k).periods.setWidth 32) p v
    (0x1028 + 0x80 * j.val) false
  rw [hx, ← hq]
  exact ⟨hd, (h.rd _).trans (State.rd_wr_self _ _ _)⟩

theorem counterLoRead_whey (hs : s.Serves v) (hp : p ≠ .internal) (j : Fin 16) {k : Nat} (hj : s.phys v .seq j = some k)
    (hk : k < 16) (hd : s.domOn 3 = true) : Does (.counterLoRead v p (BitVec.ofNat 16 (0x1030 + 0x80 * j.val))) s fun t =>
      t.rdata = some ((s.catchUpAll.sq k).whey.setWidth 32, false) ∧
        t.rd (seqR k + 0x34) = ((s.catchUpAll.sq k).whey >>> 32).setWidth 32 := by
  obtain ⟨u, hq, hx⟩ := s.hostRead_seq hs hp (findRow_whey j) (.inr rfl) hj hk hd
  refine ⟨_, rfl, ?_⟩
  obtain ⟨h, hd⟩ := (u.wr (seqR k + 0x34) (((u.sq k).whey >>> 32).setWidth 32)).answered_spec ((u.sq k).whey.setWidth 32) p v
    (0x1030 + 0x80 * j.val) false
  rw [hx, ← hq]
  exact ⟨hd, (h.rd _).trans (State.rd_wr_self _ _ _)⟩

end Sys2Proof.Machine
end

section
/-! PROOF. O9: reads that take the oldest entry of a queue, semaphores and fences (R70, R347, R418, R425, R426, R428), and with them
the reads through a host port. -/

namespace Sys2Proof.Machine

-- Proofs one after another: many that wait in threads of their own would pass the check's memory limit.
set_option Elab.async false

variable (s : State) {v : Fin 32} {p : Port}

theorem State.each_range4 (f : State → Nat → State) : s.each (List.range 4) f = f (f (f (f s 0) 1) 2) 3 := rfl

/-! ### LOG_ENTRY0 (R70) -/

theorem State.setLogCount_frame (n : Nat) : Frame [.cyc] (· = 0x884) s (s.setLogCount n) :=
  ((s.wfld_frame 0x884 12 0 n).mono).then (State.wbit_frame _ 0x884 16 _)

theorem State.setLogCount_logCount {n : Nat} (h : n < 8192) : (s.setLogCount n).logCount = n := by
  unfold State.logCount State.setLogCount
  rw [State.fld_wbit_ne _ _ _ (by decide) (by decide), State.fld_wfld_self _ _ _ _ _ (by decide) (by decide)]
  exact Nat.mod_eq_of_lt h

theorem State.logCount_lt : s.logCount < 8192 := Nat.mod_lt _ (by decide)

theorem State.bytes_take (vat : Bool) (a : Nat) {m n : Nat} (h : m ≤ n) : (s.bytes vat a n).take m = s.bytes vat a m := by
  simp [State.bytes, ← List.map_take, List.take_range, h]

/-- Four words written from a register on: the first reads as written. -/
theorem State.words_first (o : Nat) (f : Nat → Word) : (s.each (List.range 4) fun s k => s.setKey (o + 4 * k) (f k)).getKey o = f 0 := by
  rw [State.each_range4, State.getKey_setKey_ne _ _ (by omega), State.getKey_setKey_ne _ _ (by omega),
    State.getKey_setKey_ne _ _ (by omega)]
  exact State.getKey_setKey_self _ _ _

theorem State.words_frame (o : Nat) (f : Nat → Word) : Frame [] (o ≤ ·) s (s.each (List.range 4) fun s k => s.setKey (o + 4 * k) (f k)) :=
  Frame.each (fun k _ u => (u.setKey_frame (o + 4 * k) (f k)).mono) s

/-- The oldest entry of the log moves into the window. -/
theorem State.logPop_spec (hs : s.bit 0x880 2 = false) (hc : 0 < s.logCount) :
    s.logPop.logCount = s.logCount - 1 ∧ s.logPop.rd 0x8B0 = BitVec.ofNat 32 (leNat (s.bytes true s.logOldest 4)) := by
  have hn := s.logCount_lt
  unfold State.logPop
  rw [if_neg (by simp [hs]; omega)]
  have hb := s.bytes_take true s.logOldest (m := 4) (n := 16) (by decide)
  generalize s.logOldest = a at hb ⊢
  have hw (u : State) (n : Nat) : (u.setLogCount n).rd 0x8B0 = u.rd 0x8B0 := (u.setLogCount_frame n).rd 0x8B0
  have h (f : Nat → Word) : let u := s.each (List.range 4) fun s k => s.wr (0x8B0 + 4 * k) (f k)
      (u.setLogCount (u.logCount - 1)).logCount = s.logCount - 1 ∧ (u.setLogCount (u.logCount - 1)).rd 0x8B0 = f 0 := by
    have hl : (s.each (List.range 4) fun s k => s.wr (0x8B0 + 4 * k) (f k)).logCount = s.logCount :=
      (s.words_frame 0x8B0 f).fld 0x884 12 0
    have hf := s.words_first 0x8B0 f
    dsimp only
    rw [hw, hl]
    exact ⟨State.setLogCount_logCount _ (by omega), hf⟩
  rw [← hb]
  exact h fun k => BitVec.ofNat 32 (leNat (((s.bytes true a 16).drop (4 * k)).take 4) + (if k = 3 then 0x80000000 else 0))

theorem findRow_logEntry : findRow regTable 0x8B0 = some (roRow 0x8B0 0x4 4 false .none true, 0) := by decide +kernel

theorem State.readReg_logEntry (v k : Nat) : s.readReg v (roRow 0x8B0 0x4 4 false .none true) 0 k = s.logPop.answer (s.logPop.getKey k) := by
  have hv (u : State) (b : Bool) : u.viewVal v (roRow 0x8B0 0x4 4 false .none true) 0 k b = u.getKey k :=
    u.viewVal_plain (by decide) (by decide) (by decide) (by decide) (by decide) (by decide)
  have hr (u : State) : u.regValue v (roRow 0x8B0 0x4 4 false .none true) 0 k = u.getKey k := hv u _
  rw [← hr]
  unfold State.readReg State.popFor State.clearRc State.latchHi
  simp [roRow]

theorem logEntryRead_takes (hs : s.Serves v) (hp : p ≠ .internal) (hv : v = 0) (hsp : s.bit 0x880 2 = false) (hc : 0 < s.logCount) :
    Does (.logEntryRead v p) s fun t =>
      t.rdata = some (BitVec.ofNat 32 (leNat (s.bytes true s.logOldest 4)), false) ∧ t.logCount = s.logCount - 1 := by
  refine ⟨s.hostRead v p 0x8B0 0xF, rfl, ?_⟩
  rw [s.hostRead_reg hs hp (o := 0x8B0) rfl (by decide) (by decide) (by decide)
    (State.slot_inst _ findRow_logEntry rfl (by simp [hv]) rfl rfl (by decide)) (State.slotGated_of _ (.inl rfl)),
    s.facing_of (by decide), State.readReg_logEntry]
  obtain ⟨hn, hw⟩ := s.asked.logPop_spec hsp hc
  obtain ⟨h, hd⟩ := s.asked.logPop.answered_spec (s.asked.logPop.rd 0x8B0) p v 0x8B0 false
  refine ⟨hd.trans (by rw [hw]; rfl), ?_⟩
  exact (h.fld 0x884 12 0).trans hn

/-! ### TINn_STAMP_LO (R347) -/

theorem State.phys_index_lt {v : Nat} {c : Kind} {j k : Nat} (hc : c ≠ .misc) (h : s.phys v c j = some k) : j < c.count := by
  unfold State.phys at h
  split_ifs at h
  · assumption
  · have hl : (s.owned v c).length ≤ c.count := (List.length_filter_le _ _).trans (by simp)
    exact (List.getElem?_eq_some_iff.mp h).1.trans_le hl

theorem findRow_tinStamp : ∀ j : Fin 16,
    findRow regTable (0x2A48 + 0x10 * j.val) = some (roRow 0x2A48 0x10 16 false .tin false, j.val) := by
  decide +kernel

theorem State.readReg_tinStamp (v n k : Nat) : s.readReg v (roRow 0x2A48 0x10 16 false .tin false) n k =
    (s.tinPop n).answer (lo32 ((((s.tinPop n).tin n).win.map (·.stamp)).getD 0)) := by
  have hr (u : State) : u.regValue v (roRow 0x2A48 0x10 16 false .tin false) n k = lo32 (((u.tin n).win.map (·.stamp)).getD 0) := rfl
  rw [← hr]
  unfold State.readReg State.popFor State.clearRc State.latchHi
  simp [roRow]

theorem State.tinPop_tin {n : Nat} {e : TinEnt} {rest : List TinEnt} (h : (s.tin n).fifo = e :: rest) :
    (s.tinPop n).tin n = { s.tin n with fifo := rest, win := some e } := by
  unfold State.tinPop
  simp only [h]
  exact ((State.showTin_frame _ n).tin n).trans (State.tin_setTin_self _ _ _)

theorem tinStampRead_takes (hs : s.Serves v) (hp : p ≠ .internal) (n : Fin 16) {j : Nat} {e : TinEnt} {rest : List TinEnt}
    (hv : s.virt v .tin n = some j) (hj : s.phys v .tin j = some n.val) (hq : (s.tin n).fifo = e :: rest) :
    Does (.tinStampRead v p n) s fun t =>
      t.rdata = some (lo32 e.stamp, false) ∧ (t.tin n).fifo = rest ∧ (t.tin n).win = some e := by
  have hlt : j < 16 := s.phys_index_lt (by decide) hj
  refine ⟨s.hostRead v p (BitVec.ofNat 16 (0x2A48 + 0x10 * (s.virt v .tin n).getD 15)) 0xF, rfl, ?_⟩
  have hf := s.facing_of (o := 0x2A48 + 0x10 * j) (by omega)
  have hi : (s.facing (0x2A48 + 0x10 * j)).instPhys v .tin j = some n.val := by
    rw [hf]
    exact hj
  rw [hv, Option.getD_some, s.hostRead_reg hs hp (toNat_offset (by omega)) (by omega) (by omega) (by omega)
    (State.slot_inst _ (findRow_tinStamp ⟨j, hlt⟩) rfl rfl rfl hi n.isLt) (State.slotGated_of _ (.inl rfl)), hf,
    State.readReg_tinStamp]
  have ht := s.asked.tinPop_tin hq
  obtain ⟨h, hd⟩ := (s.asked.tinPop n).answered_spec (lo32 ((((s.asked.tinPop n).tin n).win.map (·.stamp)).getD 0)) p v
    (0x2A48 + 0x10 * j) false
  have htt := (h.tin n).trans ht
  refine ⟨hd.trans (by rw [ht]; rfl), by rw [htt], by rw [htt]⟩

/-! ### MBQq_W0 (R425, R426) -/

theorem findRow_mbq : ∀ q : Fin 4, findRow regTable (0x2C0 + 0x10 * q.val) = some (roRow (0x2C0 + 0x10 * q.val) 0x4 1 true .none false, 0) := by
  decide +kernel

theorem State.setWindow_spec (v q : Nat) (b : List Byte) (valid stale : Bool) :
    (s.setWindow v q b valid stale).vis = s.vis ∧
      (s.setWindow v q b valid stale).rdv v (0x2C0 + 0x10 * q) = BitVec.ofNat 32 (leNat (b.take 4)) := by
  unfold State.setWindow
  dsimp only
  have hw := s.words_first (viKey v (0x2C0 + 0x10 * q)) fun w => BitVec.ofNat 32 (leNat ((b.drop (4 * w)).take 4))
  have he : (s.each (List.range 4) fun s w => s.wrv v (0x2C0 + 0x10 * q + 4 * w) (BitVec.ofNat 32 (leNat ((b.drop (4 * w)).take 4)))) =
      s.each (List.range 4) fun s w => s.setKey (viKey v (0x2C0 + 0x10 * q) + 4 * w) (BitVec.ofNat 32 (leNat ((b.drop (4 * w)).take 4))) := by
    simp only [State.wrv, viKey, Nat.add_assoc]
  have hv : (s.each (List.range 4) fun s w => s.setKey (viKey v (0x2C0 + 0x10 * q) + 4 * w)
      (BitVec.ofNat 32 (leNat ((b.drop (4 * w)).take 4)))).vis = s.vis := rfl
  rw [he]
  generalize s.each (List.range 4) (fun s w => s.setKey (viKey v (0x2C0 + 0x10 * q) + 4 * w) _) = u at hw hv ⊢
  have h : Frame [.cyc] (· = viKey v 0x29C) u ((u.wbitv v 0x29C (8 * q + 6) valid).wbitv v 0x29C (8 * q + 7) stale) :=
    (u.wbitv_frame v 0x29C _ valid).trans (State.wbitv_frame _ v 0x29C _ stale)
  exact ⟨Eq.trans (h.keeps .vis (by decide)) hv, (h.rdv v (0x2C0 + 0x10 * q)).trans hw⟩

theorem ViSt.queue_setQueue (x : ViSt) (q : Nat) (l : List Msg) : (x.setQueue q l).queue q = l := by
  unfold ViSt.queue ViSt.setQueue
  split_ifs <;> rfl

theorem mbqRead_takes (hs : s.Serves v) (hp : p ≠ .internal) (q : Fin 4) {m : Msg} {rest : List Msg}
    (hq : (s.vi v).queue q = m :: rest) : Does (.mbqRead v p q) s fun t =>
      t.rdata = some (BitVec.ofNat 32 (leNat ((msgBytes m).take 4)), false) ∧ (t.vi v).queue q = rest := by
  have hx : exec (.mbqRead v p q) s = .next (s.hostRead v p (BitVec.ofNat 16 (0x2C0 + 0x10 * q.val)) 0xF) := rfl
  refine ⟨_, hx, ?_⟩
  have hql := q.isLt
  have hq' : (s.asked.vi v).queue q = m :: rest := hq
  have hr (u : State) (k : Nat) : u.readReg v (roRow (0x2C0 + 0x10 * q.val) 0x4 1 true .none false) 0 k = u.mbqPop v q := by
    unfold State.readReg
    rw [if_pos (by simp only [roRow]; omega)]
    congr 1
    simp only [roRow]
    omega
  rw [s.hostRead_reg hs hp (toNat_offset (by omega)) (by omega) (by omega) (by omega)
    (State.slot_own _ (findRow_mbq q) rfl rfl) (State.slotGated_of _ (.inl rfl)), s.facing_of (by omega), hr]
  unfold State.mbqPop
  simp only [hq']
  obtain ⟨hvis, hw⟩ := (s.asked.setVi v ((s.asked.vi v).setQueue q rest)).setWindow_spec v q (msgBytes m) true
    (m.epoch != (s.asked.vi m.vi).epoch)
  generalize (s.asked.setVi v ((s.asked.vi v).setQueue q rest)).setWindow v q (msgBytes m) true
    (m.epoch != (s.asked.vi m.vi).epoch) = u at hvis hw ⊢
  obtain ⟨h, hd⟩ := u.answered_spec (u.rdv v (0x2C0 + 0x10 * q.val)) p v (0x2C0 + 0x10 * q.val) false
  refine ⟨hd.trans (by rw [hw]), ?_⟩
  rw [State.vi, show State.vis _ = u.vis from h.keeps .vis (by decide), hvis]
  exact (congrArg (ViSt.queue · q) (State.vi_setVi_self _ _ _)).trans (ViSt.queue_setQueue _ _ _)

/-! ### Semaphores (R428) -/

theorem findRow_sem : ∀ n : Fin 64, findRow regTable (0x300 + 4 * n.val) = some (roRow 0x300 0x4 64 true .none false, n.val) := by
  decide +kernel

/-- A read of a semaphore that is served. -/
theorem exec_semAcquire (hs : s.Serves v) (hp : p ≠ .internal) (n : Fin 64) :
    exec (.semAcquire v p n) s = .next ((s.asked.semRead v n).finishAcc p v (0x300 + 4 * n.val) false) := by
  have hx : exec (.semAcquire v p n) s = .next (s.hostRead v p (BitVec.ofNat 16 (0x300 + 4 * n.val)) 0xF) := rfl
  rw [hx, s.hostRead_reg hs hp (toNat_offset (by omega)) (by omega) (by omega) (by omega)
    (State.slot_own _ (findRow_sem n) rfl rfl) (State.slotGated_of _ (.inl rfl)), s.facing_of (by omega)]
  rfl

theorem semAcquire_acquires (hs : s.Serves v) (hp : p ≠ .internal) (n : Fin 64) (ho : (s.sem n).owner = none) :
    Does (.semAcquire v p n) s fun t => (t.sem n).owner = some (v.val, none) ∧ (t.sem n).abandoned = false ∧
      t.rdata = some (s.semWord (t.sem n) (if (s.sem n).abandoned then 2 else 0), false) := by
  refine ⟨_, exec_semAcquire s hs hp n, ?_⟩
  have ho' : (s.asked.sem n).owner = none := ho
  unfold State.semRead
  simp only [ho']
  obtain ⟨h, hd⟩ := (s.asked.setSem n { owner := some (v.val, none), epoch := (s.asked.vi v).epoch }).answered_spec
    (s.asked.semWord { owner := some (v.val, none), epoch := (s.asked.vi v).epoch } (if (s.asked.sem n).abandoned then 2 else 0))
    p v (0x300 + 4 * n.val) false
  have ht := Eq.trans (congrArg (Tab.get (fun _ => ({} : SemSt)) · n.val) (h.keeps .sems (by decide)))
    (s.asked.sem_setSem_self n { owner := some (v.val, none), epoch := (s.asked.vi v).epoch })
  change State.sem _ n = _ at ht
  rw [ht]
  exact ⟨rfl, rfl, hd⟩

theorem semAcquire_names (hs : s.Serves v) (hp : p ≠ .internal) (n : Fin 64) {o : Nat × Option Nat}
    (ho : (s.sem n).owner = some o) (hne : o ≠ (v.val, none)) : Does (.semAcquire v p n) s fun t =>
      t.sem n = s.sem n ∧ t.rdata = some (s.semWord (s.sem n) 1, false) := by
  refine ⟨_, exec_semAcquire s hs hp n, ?_⟩
  have ho' : (s.asked.sem n).owner = some o := ho
  unfold State.semRead
  simp only [ho', if_neg hne]
  obtain ⟨h, hd⟩ := s.asked.answered_spec (s.asked.semWord (s.asked.sem n) 1) p v (0x300 + 4 * n.val) false
  exact ⟨congrArg (Tab.get (fun _ => ({} : SemSt)) · n.val) (h.keeps .sems (by decide)), hd⟩

/-! ### Fences (R418) -/

theorem viFence_holds (hs : s.Serves v) (hp : p ≠ .internal) : Does (.viFence v p) s fun t =>
    ∃ f, (t.vi v).fences = (s.vi v).fences ++ [f] ∧ f.tag = s.fldv v 0x118 15 0 ∧ f.at_ = s.time.mono ∧ f.reset = false := by
  have hr : (s.vi v).inReset = false := hs.2.2.2.1
  have hx : exec (.viFence v p) s = .next (s.hostRead v p 0x114 0xF) := rfl
  have hv : (Fin.ofNat 32 v.val) = v := by simp
  have hst : s.hostRead v p 0x114 0xF = s.fenceStart v p := by
    unfold State.hostRead
    dsimp only
    rw [hv, s.gateAcc_serves hs rfl, if_neg (by simp [hr])]
    dsimp only
    rw [if_neg hp, if_pos (by simp [hp])]
  refine ⟨_, hx, ?_⟩
  rw [hst]
  exact ⟨_, congrArg ViSt.fences (s.vi_setVi_self v _), rfl, rfl, hr⟩

/-- The word a fence returns: its tag, the writes left, and what befell them. -/
def fenceWord (tag n : Nat) (a b c : Bool) : Word :=
  setBit (setBit (setBit (setFld (setFld (0 : Word) 31 16 tag) 15 8 n) 2 a) 1 b) 0 c

theorem fenceWord_reads (tag n : Nat) (a b c : Bool) : bf (fenceWord tag n a b c) 31 16 = tag % 65536 ∧
    tb (fenceWord tag n a b c) 2 = a ∧ tb (fenceWord tag n a b c) 1 = b ∧ tb (fenceWord tag n a b c) 0 = c := by
  unfold fenceWord
  refine ⟨?_, ?_, ?_, ?_⟩
  · rw [bf_setBit_ne _ _ (by decide) (by decide), bf_setBit_ne _ _ (by decide) (by decide),
      bf_setBit_ne _ _ (by decide) (by decide), bf_setFld_ne _ _ (by decide) (by decide) (by decide),
      bf_setFld _ _ _ _ (by decide) (by decide)]
    rfl
  · simp [tb_setBit]
  · simp [tb_setBit]
  · simp

/-- The fence is gone, and what befell the writes before it is told. -/
def State.fenceEnded (s : State) (v : Nat) (f : Fence) : State :=
  s.setVi v { s.vi v with fences := (s.vi v).fences.erase f, faulted := false }

theorem viFenceComplete_returns {f : Fence} (hf : s.fenceDone v = some f) : Does (.viFenceComplete v) s fun t =>
    (t.vi v).fences = (s.vi v).fences.erase f ∧ (t.vi v).faulted = false ∧
      ∃ w, t.rdata = some (w, false) ∧ bf w 31 16 = f.tag % 65536 ∧ tb w 2 = f.reset ∧ tb w 1 = (s.vi v).faulted ∧
        tb w 0 = (s.fenceLeft v f != 0) := by
  let w := fenceWord f.tag (min (s.fenceLeft v f) 255) f.reset (s.vi v).faulted (s.fenceLeft v f != 0)
  have hx : exec (.viFenceComplete v) s = .next ((((s.fenceEnded v f).answer w).asked).finishAcc f.port v 0x114 false) := by
    rw [show exec (.viFenceComplete v) s = execViFenceComplete v s from rfl]
    simp only [execViFenceComplete, hf]
    rfl
  have h : Frame answerParts noKey ((s.fenceEnded v f).answer w)
      ((((s.fenceEnded v f).answer w).asked).finishAcc f.port v 0x114 false) :=
    ((State.asked_frame _).mono).then (State.finishAcc_frame _ _ _ _ _)
  have hv : ((((s.fenceEnded v f).answer w).asked).finishAcc f.port v 0x114 false).vi v =
      { s.vi v with fences := (s.vi v).fences.erase f, faulted := false } :=
    Eq.trans (congrArg (Tab.get (fun _ => ({} : ViSt)) · v.val) (h.keeps .vis (by decide))) (s.vi_setVi_self v _)
  exact ⟨_, hx, congrArg ViSt.fences hv, congrArg ViSt.faulted hv, w, h.keeps .rdata (by decide), fenceWord_reads _ _ _ _ _⟩

/-- Settles O9: each read by its own lemma, a register's by what its row reads and does. -/
theorem readsAnswerAndActOnWhatTheyRead : Obligations.ReadsAnswerAndActOnWhatTheyRead := by
  refine ⟨fun s v p hs hp => ⟨rcRead_clears s hs hp, timeNowRead_latches s hs hp, counterLoRead_fsTime s hs hp,
    fun j k hj hk hd => ⟨counterLoRead_periods s hs hp j hj hk hd, counterLoRead_whey s hs hp j hj hk hd⟩,
    logEntryRead_takes s hs hp, fun n j e rest => tinStampRead_takes s hs hp n, fun q m rest => mbqRead_takes s hs hp q,
    semAcquire_acquires s hs hp⟩, fun s v p n o hs hp => semAcquire_names s hs hp n,
    fun s v p => viFence_holds s, fun s v f => viFenceComplete_returns s⟩

end Sys2Proof.Machine
end

section
/-! PROOF. O13: held events are delivered (R111, R127), channel events counted and handed on (R50, R57), and software fires enter
(R58, R59, R61). -/

namespace Sys2Proof.Machine

-- Proofs one after another: many that wait in threads of their own would pass the check's memory limit.
set_option Elab.async false

variable (s : State)

/-! ### Held producer events -/

theorem heldProducerDeliver_delivers {h h' : HeldSrc} {e : Time} (hf : s.time.fclk = true)
    (hh : s.fab.heldP.find? (fun x => x.1 == h) = some (h', e)) : Does (.heldProducerDeliver h) s fun t =>
      t.fab.heldP = s.fab.heldP.filter (fun x => x.1 != h) ∧
      t.fab.inflight = s.fab.inflight ++ [(0, { s.srcOf (heldNo h) e with late := true, prov := false })] := by
  unfold Does
  rw [show exec (.heldProducerDeliver h) s = execHeldProducerDeliver h s from rfl]
  simp only [execHeldProducerDeliver, hh, hf, Bool.not_true, Bool.false_eq_true, if_false, State.assertSrc, if_true]
  exact ⟨_, rfl, rfl, rfl⟩

/-! ### Held consumer events -/

theorem State.reviewDom_frame (d : Nat) : Frame [.agenda, .mode, .doms] noKey s (s.reviewDom d) := by
  have hu (t : State) (n : Nat) : Frame [.agenda, .mode, .doms] noKey t (t.setUnwanted d n) :=
    .part rfl fun p hp => by cases p <;> simp [State.Keeps, State.setUnwanted] at hp ⊢
  unfold State.reviewDom
  refine .ite (fun _ => .ite (fun _ => ?_) fun _ => hu _ _) fun _ => .ite (fun _ => ?_) fun _ => .ite (fun _ => ?_) fun _ => .refl
  · exact ((hu s 0).then (State.setDom_frame _ d 1)).then (State.after_frame _ _ _)
  · exact (hu s _).then (State.at_frame _ _ _)
  · exact (s.after_frame 0 _).mono

/-- A held event has no late flags of its own: its lateness stands in the records of a VI alone. -/
theorem State.recordLate_held_frame (c : Nat) (l : Word) :
    Frame [.cyc, .out] (0x4000 ≤ ·) s (s.recordLate (actId 9 c) l false) := by
  rw [State.recordLate_eq, show s.lateFlags (actId 9 c) l false = s from rfl]
  exact (s.lateRecord_frame _ _ _ _ _).mono

/-- The command a consumer acts with reads nothing of the state but the number of its free values. -/
theorem State.conCmd_of_free {t : State} (h : t.free = s.free) (c : Nat) (x : Src) : t.conCmd c x = s.conCmd c x := by
  simp only [State.conCmd, h]

/-- Consumer `c` holds no event any more: its HELD bit is clear and its domain is reviewed. -/
def State.releaseCon (s : State) (c : Nat) : State :=
  (({ s with fab := { s.fab with heldC := Tab.erase s.fab.heldC c } } : State).wbit (0x860 + 4 * (c / 32)) (c % 32) false).reviewDom (conDom c)

theorem State.releaseCon_spec (c : Nat) :
    Frame [.cyc, .agenda, .mode, .doms, .fab] (· = 0x860 + 4 * (c / 32)) s (s.releaseCon c) ∧
      (s.releaseCon c).fab.heldC = Tab.erase s.fab.heldC c ∧ (s.releaseCon c).bit (0x860 + 4 * (c / 32)) (c % 32) = false := by
  have hp : Frame [.fab] noKey s { s with fab := { s.fab with heldC := Tab.erase s.fab.heldC c } } := .part rfl
  have hr (u : State) := u.reviewDom_frame (conDom c)
  refine ⟨((hp.mono).then (State.wbit_frame _ _ _ false)).then (hr _), ?_, ?_⟩
  · exact congrArg FabSt.heldC (Eq.trans ((hr _).keeps .fab (by decide)) (State.wbit_fab _ _ _ _))
  · exact ((hr _).bit _ _).trans (State.bit_wbit_self _ _ _ _ (Nat.mod_lt _ (by decide)))

theorem consumerHeldDeliver_delivers {c : Fin 192} {x : Src} (hh : Tab.find s.fab.heldC c = some x) (hg : s.conGated c = false)
    (hf : s.time.fclk = true) : Does (.consumerHeldDeliver c) s fun t =>
      Tab.find t.fab.heldC c = none ∧ t.bit (0x860 + 4 * (c.val / 32)) (c.val % 32) = false ∧
      (s.time.mono, s.conCmd c x) ∈ t.agenda := by
  let u := s.releaseCon c
  let l := sat32 (lead u.now (x.stamp + 128)).toNat
  have hx : exec (.consumerHeldDeliver c) s =
      .next (((u.recordLate (actId 9 c) l false).after 0 ((u.recordLate (actId 9 c) l false).conCmd c x)).fresh) := by
    rw [show exec (.consumerHeldDeliver c) s = execConsumerHeldDeliver c s from rfl]
    simp only [execConsumerHeldDeliver, hh, hg, hf, Bool.not_true, Bool.or_self, Bool.false_eq_true, if_false]
    rfl
  obtain ⟨hu, hheld, hbit⟩ := s.releaseCon_spec c
  have hr := u.recordLate_held_frame c l
  have hlt := c.isLt
  refine ⟨_, hx, ?_, ?_, ?_⟩
  · have hfab : (u.recordLate (actId 9 c) l false).fab = u.fab := hr.keeps .fab (by decide)
    change Tab.find (u.recordLate (actId 9 c) l false).fab.heldC c = none
    rw [hfab, hheld, Tab.find_erase_self]
  · exact ((((State.after_frame _ 0 _).mono).then (State.fresh_frame _) : Frame [.agenda, .free] noKey _ _).bit _ _).trans
      ((hr.bit _ _).trans hbit)
  · have htime : (u.recordLate (actId 9 c) l false).time = s.time :=
      (hu.keeps .time (by decide)).trans (hr.keeps .time (by decide))
    have hfree : (u.recordLate (actId 9 c) l false).free = s.free :=
      (hu.keeps .free (by decide)).trans (hr.keeps .free (by decide))
    rw [← s.conCmd_of_free hfree, ← htime]
    exact List.mem_append_right _ (List.mem_singleton.mpr rfl)

/-! ### Channel events -/

/-- An event is not logged, or takes a sequence number and is lost or enters the merge stage (R64 to R68). -/
theorem State.logEvent_cases (ch : Nat) (x : Src) (multi late : Bool) : let t := s.logEvent ch x multi late
    let u := s.wr 0x88C (s.rd 0x88C + 1)
    t = s ∨ t = (u.incSat 0x888 1).wbit 0x884 19 true ∨ ∃ e, t = { u with fab := { u.fab with merge := u.fab.merge ++ [e] } } := by
  intro t u
  by_cases hlog : (!(tb (s.chCfg ch) 31 && s.bit 0x880 0)) = true
  · exact .inl (if_pos hlog)
  · have ht : t = _ := if_neg hlog
    by_cases hfull : 256 ≤ u.fab.merge.length
    · exact .inr (.inl (ht.trans (if_pos hfull)))
    · exact .inr (.inr ⟨_, ht.trans (if_neg hfull)⟩)

/-- Logging an event changes LOG_STATUS, LOG_LOST and LOG_SEQ, and of the fabric the merge stage alone. -/
theorem State.logEvent_spec (ch : Nat) (x : Src) (multi late : Bool) :
    Frame [.cyc, .fab] (fun k => 0x884 ≤ k ∧ k ≤ 0x88C) s (s.logEvent ch x multi late) ∧
      (s.logEvent ch x multi late).fab.stage = s.fab.stage := by
  have hn : Frame [.cyc, .fab] (fun k => 0x884 ≤ k ∧ k ≤ 0x88C) s (s.wr 0x88C (s.rd 0x88C + 1)) := (s.wr_frame 0x88C _).mono
  obtain h | h | ⟨e, h⟩ := s.logEvent_cases ch x multi late <;> rw [h]
  · exact ⟨.refl, rfl⟩
  · exact ⟨(hn.then (State.incSat_frame _ 0x888 1)).then (State.wbit_frame _ 0x884 19 true),
      congrArg FabSt.stage (State.wbit_fab _ _ _ _)⟩
  · exact ⟨hn.then (Q := [.fab]) (L := noKey) (.part rfl), rfl⟩

/-- The channel stage counts the event, latches it and hands it to the consumer stage (R50, R57). -/
theorem State.chEvent_spec {ch : Nat} (hch : ch < 64) (a : Src) (l : List Src) : let t := s.chEvent ch a l
    t.rd (0xB00 + 4 * ch) = s.rd (0xB00 + 4 * ch) + 1 ∧ t.bit (0x814 + 4 * (ch / 32)) (ch % 32) = true ∧
      (∃ n, t.fab.stage = s.fab.stage ++ [(ch, { firstSrc a l with multi := !l.isEmpty || a.multi }, n)]) ∧ SameStores s t := by
  unfold State.chEvent
  extract_lets x0 x u n w
  have hc : Frame [.cyc] (· = 0xB00 + 4 * ch) s (s.incWrap (0xB00 + 4 * ch) 1) := s.tally_frame _ _
  have hl : Frame [.cyc] (· = 0x814 + 4 * (ch / 32)) (s.incWrap (0xB00 + 4 * ch) 1) u := State.wbit_frame _ _ _ true
  obtain ⟨hw, hstage⟩ := u.logEvent_spec ch x x.multi x.late
  have hufab : u.fab = s.fab := (hc.keeps .fab (by decide)).trans (hl.keeps .fab (by decide))
  have hcount : (s.incWrap (0xB00 + 4 * ch) 1).rd (0xB00 + 4 * ch) = s.rd (0xB00 + 4 * ch) + 1 := State.getKey_setKey_self _ _ _
  have hlatch : u.bit (0x814 + 4 * (ch / 32)) (ch % 32) = true := State.bit_wbit_self _ _ _ _ (Nat.mod_lt _ (by decide))
  have hs : SameStores s w :=
    Frame.sameStores (P := [.cyc, .fab]) (K := fun k => 0x800 ≤ k) (((hc.mono).then hl).then hw)
  refine ⟨?_, ?_, ⟨n, ?_⟩, hs⟩
  · exact (hw.rd _).trans ((hl.rd _).trans hcount)
  · exact (hw.bit _ _).trans hlatch
  · change w.fab.stage ++ [(ch, x, n)] = _
    rw [show w.fab.stage = u.fab.stage from hstage, hufab]

theorem exec_channelEvent {ch : Fin 64} {a : Src} {l : List Src} (hf : s.chFires ch (a :: l) (s.srcsAt ch 3) = true)
    (hq : Tab.get (fun _ => 0) s.fab.quiet ch ≤ s.time.mono) :
    exec (.channelEvent ch (a :: l)) s = .next (s.chEvent ch a l) := by
  rw [show exec (.channelEvent ch (a :: l)) s = execChannelEvent ch (a :: l) s from rfl]
  simp [execChannelEvent, hf, hq, ok]

/-- A lone source is the first one: its own mark of several counts. -/
theorem multi_firstSrc (a : Src) (l : List Src) :
    (!l.isEmpty || a.multi) = (!l.isEmpty || (firstSrc a l).multi || a.multi) := by
  cases l with
  | nil => simp [firstSrc]
  | cons b l => rfl

theorem channelEvent_counts {ch : Fin 64} {a : Src} {l : List Src} (hf : s.chFires ch (a :: l) (s.srcsAt ch 3) = true)
    (hq : Tab.get (fun _ => 0) s.fab.quiet ch ≤ s.time.mono) : Does (.channelEvent ch (a :: l)) s fun t =>
      t.rd (0xB00 + 4 * ch) = s.rd (0xB00 + 4 * ch) + 1 ∧ t.bit (0x814 + 4 * (ch.val / 32)) (ch.val % 32) = true ∧
      (∃ x n, t.fab.stage = s.fab.stage ++ [(ch.val, x, n)] ∧ x.stamp = (firstSrc a l).stamp ∧
        x.multi = (!l.isEmpty || (firstSrc a l).multi || a.multi)) ∧ SameStores s t := by
  obtain ⟨hcount, hlatch, ⟨n, hstage⟩, hs⟩ := s.chEvent_spec ch.isLt a l
  exact ⟨_, exec_channelEvent s hf hq, hcount, hlatch, ⟨_, n, hstage, rfl, multi_firstSrc a l⟩, hs⟩

/-! ### Software fires -/

theorem fabFire_enters {v : Fin 32} {ch : Fin 64} {c : Nat} (hf : s.time.fclk = true) (hc : s.chPhys v ch = some c) :
    Does (.fabFire v ch) s fun t => t.fab.inflight = s.fab.inflight ++
      [(0, { s.srcOf 256 s.now with swf := true, swvi := v, ch := Fin.ofNat 64 c })] := by
  refine ⟨s.swFire v c, ?_, ?_⟩
  · rw [show exec (.fabFire v ch) s = execFabFire v ch s from rfl]
    simp only [execFabFire, hc]
  · simp [State.swFire, State.assertSrc, hf]

theorem fabFire_lacking {v : Fin 32} {ch : Fin 64} (hc : s.chPhys v ch = none) : Does (.fabFire v ch) s fun t => t = s := by
  refine ⟨s, ?_, rfl⟩
  rw [show exec (.fabFire v ch) s = execFabFire v ch s from rfl]
  simp only [execFabFire, hc]

/-- Settles O13: what is held by its release, a channel's event by its channel stage, a software fire by its channel's owner. -/
theorem eventsAreHeldCountedAndFired : Obligations.EventsAreHeldCountedAndFired :=
  ⟨⟨fun s _ _ _ hf hh => heldProducerDeliver_delivers s hf hh,
    fun s _ _ hh hg hf => consumerHeldDeliver_delivers s hh hg hf⟩,
   fun s _ _ _ hf hq => channelEvent_counts s hf hq,
   fun s _ _ hf => ⟨fun _ hc => fabFire_enters s hf hc, fabFire_lacking s⟩⟩

end Sys2Proof.Machine
end

section
/-! PROOF. O14: the fabric's staged routing commits and is discarded by the set of a view (R62, R63), and its counts clear (R514). -/

namespace Sys2Proof.Machine

-- Proofs one after another: many that wait in threads of their own would pass the check's memory limit.
set_option Elab.async false

variable (s : State)

/-! ### Bits taken from one word or another -/

/-- The bits `m` of `x`, and the others of `w`. -/
def blend (m x w : Word) : Word := (w &&& ~~~m) ||| (x &&& m)

theorem getLsbD_blend (m x w : Word) (i : Nat) : (blend m x w).getLsbD i = if m.getLsbD i then x.getLsbD i else w.getLsbD i := by
  by_cases hi : i < 32
  · simp only [blend, BitVec.getLsbD_or, BitVec.getLsbD_and, BitVec.getLsbD_not, hi, decide_true]
    cases m.getLsbD i <;> simp
  · simp only [BitVec.getLsbD_of_ge _ i (Nat.le_of_not_lt hi), ite_self]

theorem blend_zero (x w : Word) : blend 0 x w = w := by
  apply BitVec.eq_of_getLsbD_eq
  intro i _
  simp [getLsbD_blend]

theorem blend_self (m w : Word) : blend m w w = w := by
  apply BitVec.eq_of_getLsbD_eq
  intro i _
  rw [getLsbD_blend, ite_self]

theorem blend_blend_self (m x w : Word) : blend m x (blend m x w) = blend m x w := by
  apply BitVec.eq_of_getLsbD_eq
  intro i _
  simp only [getLsbD_blend]
  split <;> rfl

/-- Two blends one after another are one. -/
theorem blend_or (m n x y w : Word) : blend (m ||| n) (blend n y x) w = blend n y (blend m x w) := by
  apply BitVec.eq_of_getLsbD_eq
  intro i _
  simp only [getLsbD_blend, BitVec.getLsbD_or]
  cases n.getLsbD i <;> simp

/-- A blend without the bits `n` leaves those of `w`. -/
theorem blend_and_not (m n x w : Word) : blend (m &&& ~~~n) x w = blend n w (blend m x w) := by
  apply BitVec.eq_of_getLsbD_eq
  intro i hi
  simp only [getLsbD_blend, BitVec.getLsbD_and, BitVec.getLsbD_not, hi]
  cases n.getLsbD i <;> simp

/-! ### Tables, and operations applied to the entries of one -/

theorem Tab.find_filter_key {α : Type} (p : Nat → Bool) (l : Tab α) (k : Nat) :
    Tab.find (l.filter fun e => p e.1) k = if p k then Tab.find l k else none := by
  induction l with
  | nil => simp [Tab.find]
  | cons e l ih =>
    obtain ⟨j, x⟩ := e
    by_cases hj : j = k
    · subst hj
      cases hp : p j <;> simp [Tab.find, hp, ih]
    · cases hp : p j <;> simp [Tab.find, hj, hp, ih]

theorem Tab.nodup_filter {α : Type} {l : Tab α} (h : (l.map (·.1)).Nodup) (p : Nat × α → Bool) :
    ((l.filter p).map (·.1)).Nodup := h.sublist (List.filter_sublist.map _)

theorem Tab.find_replace {α : Type} (t : Tab α) (j k : Nat) (x : α) :
    Tab.find (Tab.insert (Tab.erase t k) k x) j = if j = k then some x else Tab.find t j := by
  by_cases h : j = k
  · subst h
    rw [if_pos rfl, Tab.find_insert_self _ _ _ (Tab.find_erase_self t j)]
  · rw [if_neg h, Tab.find_insert_ne _ _ h, Tab.find_erase_ne _ h]

theorem Tab.find_eq_none_of_not_mem {α : Type} {l : Tab α} {k : Nat} (h : k ∉ l.map (·.1)) : Tab.find l k = none := by
  induction l with
  | nil => rfl
  | cons e l ih =>
    obtain ⟨hk, hl⟩ := List.ne_and_not_mem_of_not_mem_cons h
    exact (if_neg (Ne.symm hk)).trans (ih hl)

/-- An operation applied to each entry of a table without equal keys, which acts on what `g` shows at the entry's key alone,
as `F` says while `I` holds, acts once at each key listed. -/
theorem State.each_keyed {α β : Type} {I : State → Prop} {f : State → Nat × β → State} {g : State → Nat → α}
    {F : Nat → β → α → α} (hI : ∀ t e, I t → I (f t e))
    (hg : ∀ t e, I t → ∀ k, g (f t e) k = if k = e.1 then F k e.2 (g t k) else g t k) {l : Tab β} (hn : (l.map (·.1)).Nodup)
    {u : State} (hu : I u) : I (u.each l f) ∧ ∀ k, g (u.each l f) k = (Tab.find l k).elim (g u k) (F k · (g u k)) := by
  induction l generalizing u with
  | nil => exact ⟨hu, fun _ => rfl⟩
  | cons e l ih =>
    obtain ⟨j, x⟩ := e
    obtain ⟨hj, hn⟩ := List.nodup_cons.mp hn
    obtain ⟨hi, h⟩ := ih hn (hI u (j, x) hu)
    refine ⟨hi, fun k => (h k).trans ?_⟩
    rw [hg u (j, x) hu k]
    by_cases hk : j = k
    · subst hk
      have hnone : Tab.find l j = none := Tab.find_eq_none_of_not_mem hj
      simp [Tab.find, hnone]
    · simp [Tab.find, hk, Ne.symm hk]

/-! ### What a commit has named for the next cycle -/

/-- The bits and the value that commits of this cycle have named for register `k`. -/
def State.named (s : State) (k : Nat) : Word × Word := (Tab.find s.fab.next k).getD (0, 0)

theorem State.cfgNext_eq (k : Nat) : s.cfgNext k = blend (s.named k).1 (s.named k).2 (s.getKey k) := by
  unfold State.cfgNext State.named
  cases Tab.find s.fab.next k with
  | none => exact (blend_zero _ _).symm
  | some e => rfl

theorem State.getKey_of_regs {t : State} (h : t.regs = s.regs) (k : Nat) : t.getKey k = s.getKey k :=
  congrArg (Tab.get regReset · k) h

/-- The set of a view is said by the registers. -/
theorem State.fabSet_of_regs {t : State} (h : t.regs = s.regs) (v k : Nat) : t.fabSet v k = s.fabSet v k := by
  have hr : t.fabSet v k = ({ s with regs := t.regs } : State).fabSet v k := rfl
  rw [hr, h]

/-! ### The end of the cycle -/

/-- Register `k` takes what the cycle's commits name; a value staged since stays staged. -/
def State.applyReg (s : State) (k : Nat) : State :=
  if s.cfgNext k = s.getKey k then s
  else ((s.setKey k (s.cfgNext k)).stage k (s.shadow k)).restartWalks k (BitVec.allOnes 32)

theorem State.applyNext_getKey (k : Nat) :
    s.applyNext.getKey k = (s.each s.fab.next fun t e => t.applyReg e.1).getKey k := rfl

theorem State.restartWalks_frame (k : Nat) (m : Word) : Frame [.rind, .walk] noKey s (s.restartWalks k m) :=
  .ite (fun _ => .part rfl) fun _ => .refl

theorem State.applyReg_spec (k : Nat) : (s.applyReg k).fab = s.fab ∧
    ∀ j, (s.applyReg k).getKey j = if j = k then s.cfgNext k else s.getKey j := by
  unfold State.applyReg
  split_ifs with h
  · refine ⟨rfl, fun j => ?_⟩
    split_ifs with hj
    · rw [hj, h]
    · rfl
  · have hw : Frame [.shadows, .rind, .walk] noKey (s.setKey k (s.cfgNext k))
        (((s.setKey k (s.cfgNext k)).stage k (s.shadow k)).restartWalks k (BitVec.allOnes 32)) :=
      ((State.stage_frame _ k _).mono).then (State.restartWalks_frame _ k _)
    exact ⟨hw.keeps .fab (by decide), fun j => (hw.reg j (by omega)).trans (s.getKey_setKey j k _)⟩

/-- What is in force for the next cycle stays that while its registers are applied. -/
theorem State.applyReg_cfgNext (k j : Nat) : (s.applyReg k).cfgNext j = s.cfgNext j := by
  obtain ⟨hf, hr⟩ := s.applyReg_spec k
  have hn : (s.applyReg k).named j = s.named j := by rw [State.named, State.named, hf]
  rw [State.cfgNext_eq, hn, hr j]
  split_ifs with hj
  · rw [hj, s.cfgNext_eq k, blend_blend_self]
  · exact (s.cfgNext_eq j).symm

theorem State.applyNext_takes (hn : (s.fab.next.map (·.1)).Nodup) (k : Nat) : s.applyNext.getKey k = s.cfgNext k := by
  have hI (t : State) (e : Nat × Word × Word) (ht : t.fab = s.fab ∧ ∀ j, t.cfgNext j = s.cfgNext j) :
      (t.applyReg e.1).fab = s.fab ∧ ∀ j, (t.applyReg e.1).cfgNext j = s.cfgNext j :=
    ⟨(t.applyReg_spec e.1).1.trans ht.1, fun j => (t.applyReg_cfgNext e.1 j).trans (ht.2 j)⟩
  have hg (t : State) (e : Nat × Word × Word) (ht : t.fab = s.fab ∧ ∀ j, t.cfgNext j = s.cfgNext j) (j : Nat) :
      (t.applyReg e.1).getKey j = if j = e.1 then s.cfgNext j else t.getKey j := by
    rw [(t.applyReg_spec e.1).2 j]
    split_ifs with hj
    · rw [hj, ht.2]
    · rfl
  rw [State.applyNext_getKey, (State.each_keyed (F := fun j _ _ => s.cfgNext j) hI hg hn ⟨rfl, fun _ => rfl⟩).2 k]
  unfold State.cfgNext
  cases Tab.find s.fab.next k <;> rfl

/-! ### FAB_COMMIT.COMMIT -/

theorem State.commitReg_cfgNext (k j : Nat) (m x : Word) : (s.commitReg k m x).cfgNext j =
    if j = k then blend (m &&& ~~~(Tab.get (fun _ => 0) s.fab.dropped k)) x (s.cfgNext k) else s.cfgNext j := by
  have hn : (s.commitReg k m x).named j = if j = k then
      ((s.named k).1 ||| (m &&& ~~~(Tab.get (fun _ => 0) s.fab.dropped k)),
        blend (m &&& ~~~(Tab.get (fun _ => 0) s.fab.dropped k)) x (s.named k).2) else s.named j := by
    change (Tab.find (Tab.insert (Tab.erase s.fab.next k) k _) j).getD (0, 0) = _
    rw [Tab.find_replace]
    split_ifs <;> rfl
  rw [State.cfgNext_eq, hn, show (s.commitReg k m x).getKey j = s.getKey j from rfl]
  split_ifs with hj
  · rw [hj, blend_or, s.cfgNext_eq k]
  · exact (s.cfgNext_eq j).symm

/-- The commits of the staged registers of the fabric, in a state `u` that has the registers and the sets of `s`. -/
theorem State.commits_spec {u : State} (v : Nat) (hn : (s.shadows.map (·.1)).Nodup) (hr : u.regs = s.regs)
    (hs : u.shadows = s.shadows) (hd : u.fab.dropped = s.fab.dropped) (hc : ∀ k, u.cfgNext k = s.cfgNext k) :
    let t := u.each (s.shadows.filter fun e => fabShadow e.1) fun t e => t.commitReg e.1 (t.fabSet v e.1) e.2
    SameRegs [] s t ∧ t.shadows = s.shadows ∧ ∀ k, let m := s.fabSet v k &&& ~~~(Tab.get (fun _ => 0) s.fab.dropped k)
      t.cfgNext k = if fabShadow k ∧ (Tab.find s.shadows k).isSome then blend m (s.shadow k) (s.cfgNext k) else s.cfgNext k := by
  have hg (t : State) (e : Nat × Word) (ht : t.regs = s.regs ∧ t.shadows = s.shadows ∧ t.fab.dropped = s.fab.dropped) (k : Nat) :
      (t.commitReg e.1 (t.fabSet v e.1) e.2).cfgNext k = if k = e.1 then
        blend (s.fabSet v k &&& ~~~(Tab.get (fun _ => 0) s.fab.dropped k)) e.2 (t.cfgNext k) else t.cfgNext k := by
    rw [State.commitReg_cfgNext, s.fabSet_of_regs ht.1, ht.2.2]
    split_ifs with hk
    · rw [hk]
    · rfl
  obtain ⟨⟨htr, hts, -⟩, htc⟩ := State.each_keyed (u := u)
    (I := fun t => t.regs = s.regs ∧ t.shadows = s.shadows ∧ t.fab.dropped = s.fab.dropped)
    (f := fun t e => t.commitReg e.1 (t.fabSet v e.1) e.2) (g := State.cfgNext)
    (F := fun k x w => blend (s.fabSet v k &&& ~~~(Tab.get (fun _ => 0) s.fab.dropped k)) x w)
    (fun t e ht => ht) hg (Tab.nodup_filter hn fun e => fabShadow e.1) ⟨hr, hs, hd⟩
  refine ⟨fun k _ => s.getKey_of_regs htr k, hts, fun k => (htc k).trans ?_⟩
  rw [Tab.find_filter_key, hc k]
  unfold State.shadow
  cases fabShadow k <;> cases Tab.find s.shadows k <;> simp

theorem fabCommit_commits (v : Fin 32) (hn : (s.shadows.map (·.1)).Nodup) : Does (.fabCommit v) s fun t =>
    SameRegs [] s t ∧ t.shadows = s.shadows ∧ ∀ k, let m := s.fabSet v k &&& ~~~(Tab.get (fun _ => 0) s.fab.dropped k)
      t.cfgNext k = if fabShadow k ∧ (Tab.find s.shadows k).isSome then (s.cfgNext k &&& ~~~m) ||| (s.shadow k &&& m)
        else s.cfgNext k :=
  ⟨_, rfl, s.commits_spec v hn rfl rfl rfl fun _ => rfl⟩

/-! ### FAB_COMMIT.DISCARD -/

/-- The shadow of register `k`, of value `x`, returns to the active value in the view's set, which stands over commits of the cycle. -/
def State.discardReg (s : State) (v k : Nat) (x : Word) : State :=
  let m := s.fabSet v k
  let t : State := { s with fab := { s.fab with
    dropped := Tab.insert (Tab.erase s.fab.dropped k) k (Tab.get (fun _ => 0) s.fab.dropped k ||| m),
    next := Tab.insert (Tab.erase s.fab.next k) k ((s.named k).1 &&& ~~~m, (s.named k).2) } }
  t.stage k (blend m (s.getKey k) x)

theorem State.discardReg_cfgNext (v k j : Nat) (x : Word) : (s.discardReg v k x).cfgNext j =
    if j = k then blend (s.fabSet v k) (s.getKey k) (s.cfgNext k) else s.cfgNext j := by
  have hn : (s.discardReg v k x).named j = if j = k then ((s.named k).1 &&& ~~~(s.fabSet v k), (s.named k).2) else s.named j := by
    change (Tab.find (Tab.insert (Tab.erase s.fab.next k) k _) j).getD (0, 0) = _
    rw [Tab.find_replace]
    split_ifs <;> rfl
  rw [State.cfgNext_eq, hn, show (s.discardReg v k x).getKey j = s.getKey j from rfl]
  split_ifs with hj
  · rw [hj, blend_and_not, s.cfgNext_eq k]
  · exact (s.cfgNext_eq j).symm

theorem State.stage_shadow (k j : Nat) (x : Word) : (s.stage k x).shadow j = if j = k then x else s.shadow j := by
  change (Tab.find (if x = s.getKey k then Tab.erase s.shadows k else Tab.insert (Tab.erase s.shadows k) k x) j).getD (s.getKey j) = _
  split_ifs with hx hj hj
  · rw [hj, Tab.find_erase_self, hx]
    rfl
  · rw [Tab.find_erase_ne _ hj]
    rfl
  · rw [Tab.find_replace, if_pos hj]
    rfl
  · rw [Tab.find_replace, if_neg hj]
    rfl

theorem State.discardReg_shadow (v k j : Nat) (x : Word) : (s.discardReg v k x).shadow j =
    if j = k then blend (s.fabSet v k) (s.getKey k) x else s.shadow j := State.stage_shadow _ _ _ _

/-- The discards of the staged registers of the fabric, in a state `u` that has the registers and the shadows of `s`. -/
theorem State.discards_spec {u : State} (v : Nat) (hn : (s.shadows.map (·.1)).Nodup) (hr : u.regs = s.regs)
    (hs : ∀ k, u.shadow k = s.shadow k) (hc : ∀ k, u.cfgNext k = s.cfgNext k) :
    let t := u.each (s.shadows.filter fun e => fabShadow e.1) fun t e => t.discardReg v e.1 e.2
    SameRegs [] s t ∧ ∀ k, fabShadow k = true → t.shadow k = blend (s.fabSet v k) (s.getKey k) (s.shadow k) ∧
      ((Tab.find s.shadows k).isSome = true → t.cfgNext k = blend (s.fabSet v k) (s.getKey k) (s.cfgNext k)) := by
  have hI (t : State) (e : Nat × Word) (ht : t.regs = s.regs) : (t.discardReg v e.1 e.2).regs = s.regs := ht
  have hg (t : State) (e : Nat × Word) (ht : t.regs = s.regs) (k : Nat) : (t.discardReg v e.1 e.2).cfgNext k =
      if k = e.1 then blend (s.fabSet v k) (s.getKey k) (t.cfgNext k) else t.cfgNext k := by
    rw [State.discardReg_cfgNext, s.fabSet_of_regs ht, s.getKey_of_regs ht]
    split_ifs with hk
    · rw [hk]
    · rfl
  have hw (t : State) (e : Nat × Word) (ht : t.regs = s.regs) (k : Nat) : (t.discardReg v e.1 e.2).shadow k =
      if k = e.1 then blend (s.fabSet v k) (s.getKey k) e.2 else t.shadow k := by
    rw [State.discardReg_shadow, s.fabSet_of_regs ht, s.getKey_of_regs ht]
    split_ifs with hk
    · rw [hk]
    · rfl
  have hf := Tab.nodup_filter hn fun e => fabShadow e.1
  obtain ⟨htr, htc⟩ := State.each_keyed (u := u) (F := fun k _ w => blend (s.fabSet v k) (s.getKey k) w) hI hg hf hr
  obtain ⟨-, hts⟩ := State.each_keyed (u := u) (F := fun k x _ => blend (s.fabSet v k) (s.getKey k) x) hI hw hf hr
  refine ⟨fun k _ => s.getKey_of_regs htr k, fun k hk => ⟨(hts k).trans ?_, fun hx => (htc k).trans ?_⟩⟩
  · rw [Tab.find_filter_key, if_pos hk, hs k]
    unfold State.shadow
    cases Tab.find s.shadows k with
    | none => exact (blend_self _ _).symm
    | some x => rfl
  · obtain ⟨x, hx⟩ := Option.isSome_iff_exists.mp hx
    rw [Tab.find_filter_key, if_pos hk, hx, hc k]
    rfl

theorem fabDiscard_discards (v : Fin 32) (hn : (s.shadows.map (·.1)).Nodup) : Does (.fabDiscard v) s fun t =>
    SameRegs [] s t ∧ ∀ k, fabShadow k = true →
      t.shadow k = (s.shadow k &&& ~~~s.fabSet v k) ||| (s.getKey k &&& s.fabSet v k) ∧
      ((Tab.find s.shadows k).isSome = true →
        t.cfgNext k = (s.cfgNext k &&& ~~~s.fabSet v k) ||| (s.getKey k &&& s.fabSet v k)) :=
  ⟨_, rfl, s.discards_spec v hn rfl (fun _ => rfl) fun _ => rfl⟩

/-! ### FAB_CMD.CNT_CLR -/

/-- Counters cleared, one after another. -/
theorem State.clrCnts_spec (l : List Nat) (a : Nat → Nat) : let t := s.each l fun t c => t.clrCnt (a c)
    Frame [] (· ∈ l.map a) s t ∧ ∀ c ∈ l, t.getKey (a c) = (s.cy (a c)).added := by
  induction l generalizing s with
  | nil => exact ⟨.refl, by simp⟩
  | cons b l ih =>
    obtain ⟨hf, hk⟩ := ih (s.clrCnt (a b))
    have h1 : Frame [] (· ∈ (b :: l).map a) s (s.clrCnt (a b)) := (s.setKey_frame (a b) _).mono (hK := by rintro k rfl; simp)
    refine ⟨h1.then hf (hK := by simp +contextual), fun c hc => ?_⟩
    by_cases hl : a c ∈ l.map a
    · obtain ⟨d, hd, he⟩ := List.mem_map.mp hl
      rw [← he]
      exact hk d hd
    · obtain rfl | hc := List.mem_cons.mp hc
      · exact (hf.reg _ hl).trans (State.getKey_setKey_self _ _ _)
      · exact absurd (List.mem_map_of_mem hc) hl

/-- What a view owns is said by the partition's registers and the VI's view. -/
theorem Frame.conOwned {P : List Aspect} {K : Nat → Prop} {s t : State} (h : Frame P K s t) (hK : ∀ k, 0x3C00 ≤ k → ¬ K k)
    (v c : Nat) : t.conOwned v c = s.conOwned v c := by
  have hbase (q : Kind) : 0x3C00 ≤ q.base := by cases q <;> decide
  have hown (q : Kind) (i : Nat) : t.owns v q i = s.owns v q i := by
    rw [State.owns, State.owns, State.owner, State.owner, State.inForce, State.inForce, h.bit 0x3C08 0 (hK _ (by decide)),
      h.rd (q.base + 4 * (i / 4)) (hK _ (by have := hbase q; omega))]
  simp only [State.conOwned, hown]

theorem fabCntClr_clears (v : Fin 32) : Does (.fabCntClr v) s fun t =>
    (∀ ch < 64, s.physView v = true ∨ s.chOwner ch = .vi v → t.rd (0xB00 + 4 * ch) = (s.cy (0xB00 + 4 * ch)).added) ∧
    (∀ ch < 64, s.physView v = false → s.chOwner ch ≠ .vi v → t.rd (0xB00 + 4 * ch) = s.rd (0xB00 + 4 * ch)) ∧
    (∀ c < 192, s.physView v = true ∨ s.conOwned v c = true → t.rd (conCnt c) = (s.cy (conCnt c)).added) ∧ SameStores s t := by
  let owned := (List.range 64).filter fun ch => s.physView v || s.chOwner ch == .vi v
  let u := s.each owned fun t ch => t.clrCnt (0xB00 + 4 * ch)
  obtain ⟨hu, hch⟩ := s.clrCnts_spec owned (0xB00 + 4 * ·)
  obtain ⟨ht, hcon⟩ := u.clrCnts_spec ((List.range 192).filter fun c => u.physView v || u.conOwned v c) conCnt
  have hmem {ch : Nat} : ch ∈ owned ↔ ch < 64 ∧ (s.physView v = true ∨ s.chOwner ch = .vi v) := by simp [owned]
  have hu' : Frame [] (fun k => 0xB00 ≤ k ∧ k < 0xC00) s u := hu.mono (hK := by
    intro k hk
    obtain ⟨ch, hc, rfl⟩ := List.mem_map.mp hk
    have := (hmem.mp hc).1
    omega)
  have ht' : Frame [] (fun k => 0xD00 ≤ k) u _ := ht.mono (hK := by
    intro k hk
    obtain ⟨c, -, rfl⟩ := List.mem_map.mp hk
    exact Nat.le_add_right _ _)
  have hview : u.physView v = s.physView v := by simp only [State.physView, hu'.bitv 0 0x100 0]
  have hcown (c : Nat) : u.conOwned v c = s.conOwned v c := hu'.conOwned (by omega) v c
  refine ⟨_, rfl, fun ch hlt ho => ?_, fun ch hlt hv ho => ?_, fun c hlt ho => ?_, (hu'.sameStores).trans ht'.sameStores⟩
  · exact (ht'.rd _).trans (hch ch (hmem.mpr ⟨hlt, ho⟩))
  · refine (ht'.rd _).trans (hu.rd _ fun hk => ?_)
    obtain ⟨d, hd, he⟩ := List.mem_map.mp hk
    obtain rfl : d = ch := by omega
    exact (hmem.mp hd).2.elim (by simp [hv]) ho
  · have hcy : u.cyc = s.cyc := hu'.keeps .cyc (by decide)
    refine (hcon c ?_).trans (congrArg (fun y => (Tab.get (fun _ => ({} : Cyc)) y (conCnt c)).added) hcy)
    simpa [hlt, hview, hcown] using ho

/-- Settles O14: the end of a cycle, a commit and a discard register by register, and the counts that clear. -/
theorem fabricSetsCommitAndCountsClear : Obligations.FabricSetsCommitAndCountsClear :=
  ⟨fun s hn k => s.applyNext_takes hn k, fun s v hn => ⟨fabCommit_commits s v hn, fabDiscard_discards s v hn⟩,
   fun s v => fabCntClr_clears s v⟩

end Sys2Proof.Machine
end

section
/-! SUPPORT. What halting, parking and SAFE write of registers, by key (R121, R282, R302), and the frame of a request for a reset
(R136, R137). -/

namespace Sys2Proof.Machine

-- Proofs one after another: many that wait in threads of their own would pass the check's memory limit.
set_option Elab.async false

variable (s : State)

/-- The registers that SAFE may write: the device's, and of the VIs' own none whose offset ends in 0x10. -/
abbrev safeKey : Nat → Prop := fun k => k < 0x4000 ∨ k % 0x40 ≠ 0x10

/-! ### Halting and parking -/

theorem State.parkAout_safeKey (n : Nat) : Frame haltParts safeKey s (s.parkAout n) :=
  ((s.wbit_frame (aoutR n + 0x2C) 2 true).mono).then (State.setAo_frame _ _ _)

theorem State.stopBank_safeKey (k : Nat) : Frame haltParts safeKey s (s.stopBank k) := by
  unfold State.stopBank State.parkBank
  exact (((s.wfld_frame (pbR k + 8) 1 0 0).mono).then (State.setPb_frame _ k _)).then (State.setPb_frame _ k _)

theorem State.releaseSems_safeKey (p : SemSt → Bool) (ab : Bool) : Frame haltParts safeKey s (s.releaseSems p ab) := by
  refine Frame.each (fun e _ u => ?_) s
  have h : Frame haltParts safeKey u (u.setSem e.1 { owner := none, epoch := 0, abandoned := ab }) := (u.setSem_frame _ _).mono
  dsimp only
  split
  · exact .ite (fun _ => h.then (State.pend_frame _ _ 8)) fun _ => h
  · exact h

theorem State.clearMarkers_safeKey (k : Nat) : Frame haltParts safeKey s (s.clearMarkers k) := by
  have h : Frame [.fab, .inflight] noKey s (s.each (List.range 4) fun s m => s.setLevel (4 * k + m) false) :=
    Frame.each (fun m _ u => u.setLevel_frame _ false) s
  exact ((h.mono).then (State.wfld_frame _ (seqR k + 0x44) 11 8 0)).then (State.setSq_frame _ k _)

theorem State.haltSeq_safeKey {k : Nat} (hk : k < 16) (why : Nat) : Frame haltParts safeKey s (s.haltSeq k why) := by
  unfold State.haltSeq
  refine .ite (fun _ => .refl) fun _ => ?_
  extract_lets x plays s1 s2 s3 s4 s5 s6 s7 y s8 s9
  have h2 : Frame haltParts safeKey s s2 :=
    (((s.wfld_frame (seqR k + 8) 1 0 0).mono).then (State.wfld_frame _ (seqR k + 8) 27 24 why)).then
      (State.wbit_frame s1 (seqR k + 8) 18 false)
  have h3 : Frame haltParts safeKey s2 s3 := by
    refine Frame.each (fun n _ u => ?_) s2
    have h : Frame haltParts safeKey u (((u.endLists n).parkAout n).wbit (aoutR n + 0x2C) 0 false) :=
      (((u.setAo_frame n _).mono).then (State.parkAout_safeKey _ n)).then (State.wbit_frame _ (aoutR n + 0x2C) 0 false)
    exact .ite (fun _ => h.then (State.setAo_frame _ n _)) fun _ => h
  have h4 : Frame haltParts safeKey s3 s4 := Frame.each (fun b _ u => u.stopBank_safeKey b) s3
  have h5 : Frame haltParts safeKey s4 s5 := ((s4.clearMarkers_safeKey k).mono).then (State.fireP_frame _ _)
  have h7 : Frame haltParts safeKey s5 s7 :=
    (((s5.wr_frame 0x1824 _).mono).then (State.wbit_frame s6 (0x1840 + 4 * k) 17 false)).then (State.releaseHeads_frame _ k)
  have h9 : Frame haltParts safeKey s7 s9 := ((s7.setSq_frame k _).mono).then (State.releaseSems_safeKey s8 _ _)
  have h := ((((h2.trans h3).trans h4).trans h5).trans h7).trans h9
  exact (h.then (State.pendOwner_frame s9 _ _ _)).then (State.noteStop_frame _)

theorem State.parkAll_safeKey (why : Nat) : Frame haltParts safeKey s (s.parkAll why) := by
  unfold State.parkAll
  extract_lets s1 s2 s3
  have h1 : Frame haltParts safeKey s s1 := Frame.each (fun k hk u => u.haltSeq_safeKey (List.mem_range.mp hk) why) s
  have h2 : Frame haltParts safeKey s1 s2 := Frame.each (fun n _ u => u.parkAout_safeKey n) s1
  have h3 : Frame haltParts safeKey s2 s3 := Frame.each (fun k _ u => u.stopBank_safeKey k) s2
  have h4 : Frame haltParts safeKey s3 (s3.each (List.range 8) fun s n => s.cutTrg n) :=
    Frame.each (fun n hn u => (u.cutTrg_frame (List.mem_range.mp hn)).mono) s3
  exact ((h1.trans h2).trans h3).trans h4

/-! ### SAFE -/

theorem State.safeDisarm_safeKey : Frame [.cyc, .acts] safeKey s s.safeDisarm := by
  refine Frame.each (fun e _ u => ?_) s
  have h : Frame [.cyc, .acts] safeKey u ((u.disarm (actId (e.1 / 512) (e.1 % 512))).incSat 0x420 1) :=
    ((u.disarm_frame _).mono).then (State.tally_frame _ (devKey 0x420) _)
  dsimp only
  split
  · next k lb db lr hl =>
    have hk := (lateRegs_lateKey (Nat.mod_lt _ (by decide)) hl).1
    exact (h.then (State.setKey_frame _ k _)).then (State.touch_frame _ _ _)
  · exact h

theorem State.safePosture_safeKey : Frame safeParts safeKey s s.safePosture := by
  have hm (u : State) : Frame [.mode, .svc] noKey u { u with mode := { u.mode with safeN := false, wakeAfter := [], svc := false } } :=
    .part rfl
  unfold State.safePosture State.wr64
  extract_lets s1 m s2 s3
  have h1 : Frame safeParts safeKey s s1 := ((s.parkAll_safeKey 6).mono).then (State.setTrans_frame _ _)
  clear_value s1
  have h2 : Frame safeParts safeKey s s2 := (h1.then (hm s1)).then (State.setEff_frame _ _)
  clear_value s2
  have h3 : Frame safeParts safeKey s s3 := (((h2.then (s2.fireP_frame 173)).then (State.tally_frame _ (devKey 0x41C) _)).then
    (State.wr_frame _ 0x424 _)).then (State.wr_frame _ 0x428 _)
  clear_value s3
  exact ((h3.then s3.safeDisarm_safeKey).then (State.pendAll_frame _ 12)).then (State.after_frame _ _ _)

theorem State.safeCause_safeKey (c : Nat) : Frame causeParts safeKey s (s.safeCause c) := by
  unfold State.safeCause
  extract_lets s1
  have h1 : Frame causeParts safeKey s s1 :=
    (Frame.ite (fun _ => .refl) fun _ => (s.wbit_frame 0x418 c true).mono).then (State.wbit_frame _ 0x418 (8 + c) true)
  clear_value s1
  refine .ite (fun _ => h1) fun _ => .ite (fun _ => h1.then s1.modeRest_frame) fun _ => ?_
  split
  · exact h1.then s1.modeRest_frame
  · exact h1.then s1.modeRest_frame
  · exact .ite (fun _ => (h1.then s1.modeRest_frame).then (State.startWake_frame _ _ _)) fun _ => h1.then s1.safePosture_safeKey

theorem State.cause_safeKey (c : Nat) : Frame causeParts safeKey s (s.cause c) :=
  .ite (fun _ => s.safeCause_safeKey c) fun _ => .refl

/-! ### Requests for a reset -/

/-- What a request for a reset may change: it is put down and scheduled, the ports' departure with it. -/
abbrev requestParts : List Aspect := [.rst, .agenda, .agendaGrows]

theorem State.withReq_frame (r : RstSt) : Frame requestParts noKey s { s with rst := r } := .part rfl

theorem State.noDepart_frame : Frame requestParts noKey s s.noDepart := Frame.each (fun _ _ u => (u.cancel_frame _).mono) s

theorem State.putRequest_frame (src level : Nat) (promoted : Bool) : Frame requestParts noKey s (s.putRequest src level promoted) := by
  unfold State.putRequest
  extract_lets due r s1 s2
  have h1 : Frame requestParts noKey s s1 := s.withReq_frame _
  have h : Frame requestParts noKey s s2 := (h1.then (State.cancel_frame s1 .resetTakeEffect)).then (State.at_frame _ due .resetTakeEffect)
  exact .ite (fun _ => h.trans s2.noDepart_frame) fun _ => h.trans (Frame.each (fun _ _ u => (u.after_frame _ _).mono) s2)

theorem State.requestReset_frame (src level : Nat) : Frame requestParts noKey s (s.requestReset src level) := by
  unfold State.requestReset
  extract_lets l promoted
  split
  · refine .ite (fun _ => s.putRequest_frame _ _ _) fun _ => .ite (fun _ => ?_) fun _ => .refl
    refine .ite (fun _ => ?_) fun _ => s.withReq_frame _
    exact (((s.withReq_frame _).then (State.cancel_frame _ _)).then (State.after_frame _ _ _)).trans (State.noDepart_frame _)
  · exact .ite (fun _ => .refl) fun _ => s.putRequest_frame _ _ _

end Sys2Proof.Machine
end

section
/-! PROOF. O16: locks are set or refused (R88, R90), and Rind's walk ends, opens, commits and takes its reference (R93 to R99). -/

namespace Sys2Proof.Machine

-- Proofs one after another: many that wait in threads of their own would pass the check's memory limit.
set_option Elab.async false

variable (s : State)

theorem Frame.rg {P : List Aspect} {K : Nat → Prop} {s t : State} (h : Frame P K s t) (g : Nat) (hP : Aspect.rind ∉ P := by decide) :
    t.rg g = s.rg g := by
  rw [State.rg, State.rg, show t.rind = s.rind from h.keeps .rind hP]

theorem State.setRg_frame (g : Nat) (x : RindSt) : Frame [.rind] noKey s (s.setRg g x) :=
  .part rfl fun p hp => by cases p <;> simp [State.Keeps, State.setRg] at hp ⊢

/-! ### Locks -/

/-- The trigger lock is held per trigger, by the triggers the VI owns. -/
def State.lockTrgs (s : State) (l : List Nat) : State := s.each l fun s n => s.setTrg n { s.trg n with locked := true }

theorem State.lockTrgs_frame (l : List Nat) : Frame [.trgs] noKey s (s.lockTrgs l) := Frame.each (fun n _ u => u.setTrg_frame n _) s

theorem State.lockTrgs_locked (l : List Nat) (n : Nat) : ((s.lockTrgs l).trg n).locked = ((s.trg n).locked || decide (n ∈ l)) := by
  induction l generalizing s with
  | nil => simp [State.lockTrgs]
  | cons a l ih =>
    have h := ih (s.setTrg a { s.trg a with locked := true })
    rw [State.trg_setTrg] at h
    refine h.trans ?_
    by_cases hn : n = a <;> simp [hn]

theorem lockSet_refused {v : Fin 32} {b : LockBlk} (hm : s.mayLock v b = true) (hp : s.pendingShadow (lockShadows b) = true) :
    Does (.lockSet v b) s fun t => t.bitv v 0x704 0 = true ∧ SameRegs [viKey v 0x704] s t ∧ SameStores s t := by
  have he : exec (.lockSet v b) s = .next (s.wbitv v 0x704 0 true) := by
    rw [show exec (.lockSet v b) s = execLockSet v b s from rfl]
    simp [execLockSet, hm, hp]
  have hf := s.wbitv_frame v 0x704 0 true
  exact ⟨_, he, s.bitv_wbitv_self v 0x704 0 true (by decide), hf.sameRegs _ (by simp), hf.sameStores⟩

/-- The bit of every LOCK field lies in its word. -/
theorem lockField_lt {b : LockBlk} {o i : Nat} (h : lockField b = some (o, i)) : i < 32 := by
  cases b <;> simp only [lockField, Option.some.injEq, Prod.mk.injEq, reduceCtorEq] at h <;> omega

theorem lockSet_sets {v : Fin 32} {b : LockBlk} (hm : s.mayLock v b = true) (hp : s.pendingShadow (lockShadows b) = false)
    {o i : Nat} (hf : lockField b = some (o, i)) :
    Does (.lockSet v b) s fun t => t.bit o i = true ∧ SameRegs [devKey o] s t ∧ SameStores s t := by
  have he : exec (.lockSet v b) s = .next ((s.wbit o i true).restartWalks o (BitVec.allOnes 32)) := by
    rw [show exec (.lockSet v b) s = execLockSet v b s from rfl]
    simp [execLockSet, hm, hp, hf]
  have hr := State.restartWalks_frame (s.wbit o i true) o (BitVec.allOnes 32)
  have h : Frame [.cyc, .rind, .walk] (· = o) s _ := ((s.wbit_frame o i true).mono).then hr
  exact ⟨_, he, (hr.bit o i).trans (s.bit_wbit_self o i true (lockField_lt hf)), h.sameRegs _ (by simp), h.sameStores⟩

theorem lockSet_trg {v : Fin 32} (hm : s.mayLock v .trg = true) : Does (.lockSet v .trg) s fun t => SameRegs [] s t ∧
    ∀ n : Fin 8, (t.trg n).locked = ((s.trg n).locked || s.owns v .trg n) := by
  have hp : s.pendingShadow (lockShadows .trg) = false := List.any_eq_false.mpr fun _ _ => Bool.false_ne_true
  have he : exec (.lockSet v .trg) s = .next ((s.lockTrgs (s.owned v .trg)).restartWalks 0x2800 (BitVec.allOnes 32)) := by
    rw [show exec (.lockSet v .trg) s = execLockSet v .trg s from rfl]
    simp [execLockSet, hm, hp, lockField, State.lockTrgs]
  have hr := State.restartWalks_frame (s.lockTrgs (s.owned v .trg)) 0x2800 (BitVec.allOnes 32)
  have h : Frame [.trgs, .rind, .walk] noKey s _ := ((s.lockTrgs_frame _).mono).then hr
  refine ⟨_, he, h.sameRegs _ (by omega), fun n => ?_⟩
  have ht := congrArg TrgSt.locked (congrArg (Tab.get (fun _ => ({} : TrgSt)) · n) (hr.keeps .trgs (by decide)))
  refine ht.trans ((s.lockTrgs_locked _ n).trans ?_)
  simp [State.owned, Kind.count, n.isLt]

/-! ### The end of a walk -/

theorem State.walkLook_frame : Frame [.walk] noKey s s.walkLook := s.withWalk_frame _
theorem State.walkFrom_frame (g : Nat) (out : Bool) : Frame [.walk] noKey s (s.walkFrom g out) :=
  (s.withWalk_frame _).trans (State.walkLook_frame _)

/-- What a mismatch may change: its own record, and what the reset or the SAFE cause it calls for changes (R98). -/
abbrev mismatchParts : List Aspect := .rind :: .rst :: .agendaGrows :: causeParts

/-- A mismatch disarms its region and sets its FAULT bit in the VI that keeps it; what RIND_CTRL's action does leaves both (R98). -/
theorem State.rindMismatch_spec (g : Nat) : let t := s.rindMismatch g
    t.rg g = { s.rg g with armed := false, failed := true } ∧
      t.bitv (regionVi g) 0x710 (if g < 32 then 1 else 0) = true ∧ Frame mismatchParts anyKey s t := by
  dsimp only
  unfold State.rindMismatch
  extract_lets v s1 _ s2 s3 repOnly
  have h1 : Frame [.cyc] anyKey s s1 :=
    .ite (fun _ => ((s.wbitv_frame v 0x710 1 true).mono).then (State.wbit_frame _ 0x730 g true))
      fun _ => ((s.wbitv_frame 0 0x710 0 true).mono).then (State.wbit_frame _ 0x734 0 true)
  have hb : s1.bitv (regionVi g) 0x710 (if g < 32 then 1 else 0) = true := by
    by_cases hg : g < 32
    · simp only [s1, hg, if_true]
      exact ((State.wbit_frame _ 0x730 g true).bitv v 0x710 1).trans (s.bitv_wbitv_self v 0x710 1 true (by decide))
    · simp only [s1, hg, if_false, regionVi]
      exact ((State.wbit_frame _ 0x734 0 true).bitv 0 0x710 0).trans (s.bitv_wbitv_self 0 0x710 0 true (by decide))
  clear_value s1
  have hc : Frame [.cyc, .fab, .inflight] (· = viKey v 0x720) s1 ((s1.incSatv v 0x720 1).fireP 170) :=
    ((s1.tally_frame (viKey v 0x720) _).mono).then (State.fireP_frame _ 170)
  have hs : Frame [.rind] noKey ((s1.incSatv v 0x720 1).fireP 170) s2 := State.setRg_frame _ g _
  have h2 : Frame [.cyc, .fab, .inflight, .rind] (· = viKey v 0x720) s1 s2 := (hc.mono).then hs
  have hr : s2.rg g = { s.rg g with armed := false, failed := true } := by
    rw [← h1.rg g]
    exact State.rg_setRg_self _ g _
  clear_value s2
  have h3 : Frame [.cyc, .out] pendKey s2 s3 := s2.pend_frame v 11
  clear_value s3
  have ha (t : State) (h : Frame (.rst :: .agendaGrows :: causeParts) safeKey s3 t) :
      t.rg g = { s.rg g with armed := false, failed := true } ∧
        t.bitv (regionVi g) 0x710 (if g < 32 then 1 else 0) = true ∧ Frame mismatchParts anyKey s t := by
    refine ⟨(h.rg g).trans ((h3.rg g).trans hr), ?_, (((h1.mono).then h2).then h3).then h⟩
    exact (h.bitv v 0x710 _).trans ((h3.bitv v 0x710 _).trans ((h2.bitv v 0x710 _).trans hb))
  split
  · exact ha _ .refl
  · split
    · exact ha _ .refl
    · exact ha _ (s3.requestReset_frame _ _).mono
    · exact ha _ (s3.cause_safeKey 3).mono

/-- The region the walk came to the end of has been compared and found wrong (R94, R98). -/
abbrev State.mismatches (s : State) (r : Nat) : Prop :=
  (s.rg r).armed = true ∧ (s.rg r).opened = false ∧ (s.rg r).wait = false ∧ s.walkCrc ≠ (s.rg r).ref

/-- The region's CRC is kept, a complete walk is counted, and the next region's walk begins (R93). -/
def State.nextRegion (s : State) (r : Nat) : State :=
  let u := s.setRg r { s.rg r with crc := s.walkCrc }
  (if r = 31 then u.incWrap 0x724 1 else u).walkFrom ((r + 1) % 33) false

theorem State.nextRegion_spec (r : Nat) : (s.nextRegion r).rg r = { s.rg r with crc := s.walkCrc } ∧
    Frame [.cyc, .rind, .walk] (· = 0x724) s (s.nextRegion r) := by
  unfold State.nextRegion
  extract_lets x u
  have hu : Frame [.rind] noKey s u := s.setRg_frame r _
  have h : Frame [.cyc, .walk] (· = 0x724) u ((if r = 31 then u.incWrap 0x724 1 else u).walkFrom ((r + 1) % 33) false) :=
    (Frame.ite (fun _ => (u.tally_frame (devKey 0x724) _).mono) fun _ => .refl).then (State.walkFrom_frame _ _ _)
  exact ⟨(h.rg r).trans (s.rg_setRg_self r _), (hu.mono).then h⟩

theorem exec_rindRegionEnd {r : Fin 33} (ho : s.rindOn = true) (hw : s.walkEnds r false = true) :
    exec (.rindRegionEnd r) s = .next (if s.mismatches r then (s.nextRegion r).rindMismatch r else s.nextRegion r) := by
  have he : exec (.rindRegionEnd r) s = execRindRegionEnd r s := rfl
  have hb : ((s.rg r).armed && !(s.rg r).opened && !(s.rg r).wait && s.walkCrc != (s.rg r).ref) = decide (s.mismatches r) := by
    rw [Bool.eq_iff_iff, decide_eq_true_iff]
    simp [and_assoc]
  rw [he]
  unfold execRindRegionEnd
  rw [if_neg (by simp [ho, hw])]
  dsimp only
  rw [hb]
  by_cases h : s.mismatches r
  · rw [if_pos h, if_pos (decide_eq_true h)]
    rfl
  · rw [if_neg h, if_neg (by simpa using h)]
    rfl

theorem rindRegionEnd_compares {r : Fin 33} (ho : s.rindOn = true) (hw : s.walkEnds r false = true) :
    Does (.rindRegionEnd r) s fun t => (t.rg r).crc = s.walkCrc ∧ SameStores s t ∧
      (s.mismatches r → (t.rg r).armed = false ∧ (t.rg r).failed = true ∧
        t.bitv (regionVi r) 0x710 (if r.val < 32 then 1 else 0) = true) ∧
      (¬ s.mismatches r → (t.rg r).armed = (s.rg r).armed ∧ SameRegs [devKey 0x724] s t) := by
  obtain ⟨hn, hf⟩ := s.nextRegion_spec r
  refine ⟨_, exec_rindRegionEnd s ho hw, ?_⟩
  by_cases hb : s.mismatches r
  · obtain ⟨hr, hbit, hm⟩ := (s.nextRegion r).rindMismatch_spec r
    rw [if_pos hb]
    rw [hn] at hr
    exact ⟨by rw [hr], hf.sameStores.trans hm.sameStores, fun _ => ⟨by rw [hr], by rw [hr], hbit⟩, fun h => absurd hb h⟩
  · rw [if_neg hb]
    exact ⟨by rw [hn], hf.sameStores, fun h => absurd h hb, fun _ => ⟨by rw [hn], hf.sameRegs _ (by simp)⟩⟩

/-! ### Opening and committing -/

theorem rindTarget_own (v : Fin 32) : rindTarget v false = some v.val := rfl

/-- Opening a region suspends it and cancels its commit (R96). -/
theorem rindOpen_opens {v : Fin 32} {phys : Bool} {g : Nat} (hg : rindTarget v phys = some g) : Does (.rindOpen v phys) s fun t =>
    (t.rg g).opened = true ∧ (t.rg g).wait = false ∧ (∀ j, j ≠ g → t.rg j = s.rg j) ∧ SameRegs [] s t ∧ SameStores s t := by
  let u := s.setRg g { s.rg g with opened := true, wait := false }
  have he : exec (.rindOpen v phys) s = .next (if u.walksOut g then { u with walk := { u.walk with on := false } } else u) := by
    rw [show exec (.rindOpen v phys) s = execRindOpen v phys s from rfl]
    simp [execRindOpen, hg, u]
  have hw : Frame [.walk] noKey u (if u.walksOut g then { u with walk := { u.walk with on := false } } else u) :=
    .ite (fun _ => u.withWalk_frame _) fun _ => .refl
  have h : Frame [.rind, .walk] noKey s _ := ((s.setRg_frame g _).mono).then hw
  have hr (j : Nat) := (hw.rg j).trans (s.rg_setRg j g _)
  refine ⟨_, he, by simp [hr], by simp [hr], fun j hj => by simp [hr, hj], h.sameRegs _ (by omega), h.sameStores⟩

/-- A commit waits for its walk (R97). -/
theorem rindCommit_waits {v : Fin 32} {phys : Bool} {g : Nat} (hg : rindTarget v phys = some g) : Does (.rindCommit v phys) s fun t =>
    (t.rg g).wait = true ∧ (t.rg g).opened = false ∧ (∀ j, j ≠ g → t.rg j = s.rg j) ∧ SameRegs [] s t ∧ SameStores s t := by
  have he : exec (.rindCommit v phys) s = .next (s.startCommit g) := by
    rw [show exec (.rindCommit v phys) s = execRindCommit v phys s from rfl]
    simp [execRindCommit, hg]
  have h : Frame [.rind] noKey s (s.startCommit g) := s.setRg_frame g _
  have hr (j : Nat) : (s.startCommit g).rg j = _ := s.rg_setRg j g _
  exact ⟨_, he, by simp [hr], by simp [hr], fun j hj => by simp [hr, hj], h.sameRegs _ (by omega), h.sameStores⟩

/-- Only VI0 names the physical region. -/
theorem rind_physical_refused {v : Fin 32} (hv : v ≠ 0) :
    Does (.rindOpen v true) s (· = s) ∧ Does (.rindCommit v true) s (· = s) := by
  have hg : rindTarget v true = none := by simp [rindTarget, Fin.val_eq_zero_iff, hv]
  refine ⟨⟨s, ?_, rfl⟩, ⟨s, ?_, rfl⟩⟩
  · rw [show exec (.rindOpen v true) s = execRindOpen v true s from rfl, execRindOpen, hg]
  · rw [show exec (.rindCommit v true) s = execRindCommit v true s from rfl, execRindCommit, hg]

theorem State.rindCleared_frame : Frame [.cyc] (· = 0x418) s s.rindCleared :=
  .ite (fun _ => s.wbit_frame 0x418 3 false) fun _ => .refl

theorem rindCommitDone_takes {r : Fin 33} (hr : (s.rg r).wait = true) (hw : s.walkEnds r true = true) :
    Does (.rindCommitDone r) s fun t =>
      (t.rg r).hasRef = true ∧ (t.rg r).ref = s.walkCrc ∧ (t.rg r).armed = s.rindOn ∧ (t.rg r).wait = false ∧
      (t.rg r).failed = false ∧ SameRegs [devKey 0x418] s t ∧ SameStores s t := by
  let x : RindSt := { hasRef := true, armed := s.rindOn, opened := false, wait := false, ref := s.walkCrc, crc := s.walkCrc }
  let u : State := { s.setRg r x with walk := { s.walk with on := false } }
  have he : exec (.rindCommitDone r) s = .next (u.rindCleared.releaseAcc fun _ => true) := by
    rw [show exec (.rindCommitDone r) s = execRindCommitDone r s from rfl]
    unfold execRindCommitDone
    rw [if_neg (by simp [hr, hw])]
    rfl
  have hu : Frame [.rind, .walk] noKey s u := ((s.setRg_frame r x).mono).then (State.withWalk_frame _ _)
  have hf : Frame [.cyc, .agenda, .mode, .heldAcc] (· = 0x418) u (u.rindCleared.releaseAcc fun _ => true) :=
    ((u.rindCleared_frame).mono).then (State.releaseAcc_frame _ _)
  have h : Frame [.rind, .walk, .cyc, .agenda, .mode, .heldAcc] (· = 0x418) s _ := (hu.mono).then hf
  have hx := (hf.rg r).trans (s.rg_setRg_self r x)
  exact ⟨_, he, by rw [hx], by rw [hx], by rw [hx], by rw [hx], by rw [hx], h.sameRegs _ (by simp), h.sameStores⟩

/-- Settles O16: the locks by what is pending, and Rind's commands by the region they name. -/
theorem locksAndRindGuardTheConfiguration : Obligations.LocksAndRindGuardTheConfiguration := by
  refine ⟨fun s v b hm => ⟨lockSet_refused s hm, fun hp o i hf => lockSet_sets s hm hp hf, ?_⟩, fun s =>
    ⟨fun r ho hw => rindRegionEnd_compares s ho hw, fun v => rindOpen_opens s (rindTarget_own v), ?_,
      fun v => rindCommit_waits s (rindTarget_own v), ?_, fun v hv => rind_physical_refused s hv,
      fun r hr hw => rindCommitDone_takes s hr hw⟩⟩
  · rintro rfl
    exact lockSet_trg s hm
  · obtain ⟨t, he, hopen, -, hrest, -⟩ := rindOpen_opens s (v := 0) (phys := true) (g := 32) rfl
    exact ⟨t, he, hopen, hrest⟩
  · obtain ⟨t, he, hwait, -, hrest, -⟩ := rindCommit_waits s (v := 0) (phys := true) (g := 32) rfl
    exact ⟨t, he, hwait, hrest⟩

end Sys2Proof.Machine
end

section
/-! SUPPORT. The way of a write (R74 to R81): the register an offset reaches does not change with the write's tag, and what a write of a
register that only stores does (R80). -/

namespace Sys2Proof.Machine

-- Proofs one after another: many that wait in threads of their own would pass the check's memory limit.
set_option Elab.async false

variable (s : State)

/-! ### The register at an offset -/

theorem findRow_spec {l : List RegRow} {o j : Nat} {r : RegRow} (h : findRow l o = some (r, j)) :
    r ∈ l ∧ j < r.cnt ∧ r.off ≤ o ∧ (o - r.off) % r.stride = 0 ∧ j = (o - r.off) / r.stride := by
  induction l with
  | nil => simp [findRow] at h
  | cons a l ih =>
    rw [findRow] at h
    split at h
    · next hc =>
      obtain ⟨rfl, rfl⟩ := Prod.mk.inj (Option.some.inj h)
      exact ⟨List.mem_cons_self, hc.2.2, hc.1, hc.2.1, rfl⟩
    · exact (ih h).imp_left (List.mem_cons_of_mem a)

theorem regTable_cnt_le : ∀ r ∈ regTable, r.cnt ≤ 256 := by decide +kernel
theorem regTable_device_lt : ∀ r ∈ regTable, r.own = false → r.off + r.stride * (r.cnt - 1) < 0x4000 := by decide +kernel
theorem regTable_reserved : ∀ r ∈ regTable, r.rwb = 0 → reserved r.off = 0 := by decide +kernel

/-- An offset that reaches a register without bits or bytes per resource reaches the VI's own copy of it, or one of a resource that the
VI has. -/
theorem State.slot_reg {v o i k : Nat} {r : RegRow} (h : s.slot v o = .reg r i k) (hb : r.cls.perBit = false) :
    ∃ j, findRow regTable o = some (r, j) ∧ (r.hide && v != 0) = false ∧
      ((r.own = true ∧ i = j ∧ k = viKey v o) ∨
        (r.own = false ∧ s.instPhys v r.cls j = some i ∧ i < r.cnt ∧ k = devKey (r.off + r.stride * i))) := by
  unfold State.slot at h
  generalize findRow regTable o = f at h ⊢
  split at h
  · exact absurd h (by simp)
  · next q j =>
    split_ifs at h with hh ho hp hz
    · obtain ⟨rfl, rfl, rfl⟩ := Slot.reg.inj h
      exact ⟨j, rfl, Bool.not_eq_true _ ▸ hh, .inl ⟨ho, rfl, rfl⟩⟩
    · obtain ⟨rfl, -⟩ := Slot.reg.inj h
      exact absurd hp (by simp [hb])
    · split at h
      · next n hi =>
        split_ifs at h with hlt
        obtain ⟨rfl, rfl, rfl⟩ := Slot.reg.inj h
        exact ⟨j, rfl, Bool.not_eq_true _ ▸ hh, .inr ⟨Bool.not_eq_true _ ▸ ho, hi, hlt, rfl⟩⟩
      · exact absurd h (by simp)

theorem State.slot_own_of {v o j : Nat} {r : RegRow} (h : findRow regTable o = some (r, j)) (ho : r.own = true)
    (hh : (r.hide && v != 0) = false) : s.slot v o = .reg r j (viKey v o) := by
  simp [State.slot, h, ho, hh]

/-- A frame that leaves the partition's registers and VI0's view leaves whose resource each one is, and its number. -/
structure Frame.Numbers (K : Nat → Prop) : Prop where
  part : ∀ k, 0x3C00 ≤ k → k < 0x4000 → ¬ K k
  view : ¬ K (viKey 0 0x100)

section
variable {P : List Aspect} {K : Nat → Prop} {s t : State} (h : Frame P K s t) (hK : Frame.Numbers K)
include h hK

theorem Frame.owns_of (v : Nat) (c : Kind) {i : Nat} (hi : i < 256) : t.owns v c i = s.owns v c i := by
  have hb : 0x3C00 ≤ c.base ∧ c.base ≤ 0x3E00 := by cases c <;> decide
  rw [State.owns, State.owns, State.owner, State.owner, State.inForce, State.inForce, h.bit 0x3C08 0 (hK.part _ (by decide) (by decide)),
    h.rd (c.base + 4 * (i / 4)) (hK.part _ (by omega) (by omega))]

theorem Frame.physView_of (v : Nat) : t.physView v = s.physView v := by simp only [State.physView, h.bitv 0 0x100 0 hK.view]

theorem Frame.phys_of (v : Nat) (c : Kind) {j : Nat} (hj : j < 256) : t.phys v c j = s.phys v c j := by
  have hc : c.count ≤ 256 := by cases c <;> decide
  have ho : t.owned v c = s.owned v c :=
    List.filter_congr fun i hi => h.owns_of hK v c (by have := List.mem_range.mp hi; omega)
  simp only [State.phys, h.physView_of hK, h.owns_of hK v c hj, ho]

theorem Frame.conPhys_of (v : Nat) {j : Nat} (hj : j < 256) : t.conPhys v j = s.conPhys v j := by
  have hp : t.toPhys v conMap j = s.toPhys v conMap j := by
    unfold State.toPhys
    split
    · rfl
    · next b c per _ => rw [h.phys_of hK v c ((Nat.div_le_self _ _).trans_lt (by omega))]
  simp only [State.conPhys, h.physView_of hK, hp]

theorem Frame.instPhys_of (v : Nat) (c : RCls) {j : Nat} (hj : j < 256) : t.instPhys v c j = s.instPhys v c j := by
  have hp (q : Kind) {i : Nat} (hi : i < 256) := h.phys_of hK v q hi
  cases c
  case disp => simp only [State.instPhys, h.owns_of hK v .misc (by decide : 0 < 256), h.physView_of hK]
  case syn => simp only [State.instPhys, h.owns_of hK v .misc hj, h.physView_of hK]
  case con => exact h.conPhys_of hK v hj
  case evg4 => simp only [State.instPhys, State.chPhys, hp .evg (show j / 4 < 256 by omega)]
  case evg2 => simp only [State.instPhys, hp .evg (show j / 2 < 256 by omega)]
  case seq | aout | pb | trg | tin | acmp | key | lde | evg => exact hp _ hj
  all_goals rfl

/-- The register an offset reaches is the same after such a frame. -/
theorem Frame.slot_of {v o i k : Nat} {r : RegRow} (hs : s.slot v o = .reg r i k) (hb : r.cls.perBit = false) :
    t.slot v o = .reg r i k := by
  obtain ⟨j, hf, hh, ⟨ho, rfl, rfl⟩ | ⟨ho, hi, hlt, rfl⟩⟩ := s.slot_reg hs hb
  · exact t.slot_own_of hf ho hh
  · have hj : j < 256 := by
      obtain ⟨hm, hj, -⟩ := findRow_spec hf
      exact hj.trans_le (regTable_cnt_le r hm)
    exact t.slot_inst hf ho hh hb ((h.instPhys_of hK v r.cls hj).trans hi) hlt

end

/-- A register without bits or bytes per resource stands at another key than a VI's write tag (R417). -/
theorem State.slot_key_ne {v o i k : Nat} {r : RegRow} (hs : s.slot v o = .reg r i k) (hb : r.cls.perBit = false)
    (h118 : o ≠ 0x118) : k ≠ viKey v 0x118 := by
  obtain ⟨j, hf, -, ⟨ho, rfl, rfl⟩ | ⟨ho, -, hlt, rfl⟩⟩ := s.slot_reg hs hb
  · simp only [viKey]
    omega
  · obtain ⟨hm, -⟩ := findRow_spec hf
    have hd := regTable_device_lt r hm ho
    have hi : r.stride * i ≤ r.stride * (r.cnt - 1) := Nat.mul_le_mul_left _ (by omega)
    simp only [devKey, viKey]
    omega

/-! ### A register that only stores -/

theorem and_not_zero (x : Word) : x &&& ~~~0 = x := (congrArg (x &&& ·) BitVec.not_zero).trans BitVec.and_allOnes

/-- A SET, CLR or TGL write with no 1 for a field changes none (R76). -/
theorem aliasValue_none {op : Nat} {cur a d : Word} (ho : op ≠ 0) (hd : d &&& a = 0) : aliasValue op cur a d = cur := by
  have hc : cur &&& ~~~(0 : Word) = cur := and_not_zero cur
  unfold aliasValue
  rw [if_neg ho, hd, hc]
  split_ifs
  · exact BitVec.or_zero
  · rfl
  · exact BitVec.xor_zero

/-- The registers whose write has a rule of its own. -/
def ruledOffs : List Nat :=
  [0x11C, 0x184, 0x190, 0x400, 0x410, 0x414, 0x500, 0x608, 0x708, 0x714, 0x880, 0x890, 0x900, 0x904, 0x1000, 0x100C, 0x1010, 0x1014,
   0x1018, 0x1A00, 0x1A04, 0x1A08, 0x1A0C, 0x1A10, 0x1A14, 0x1A18, 0x1B04, 0x1B08, 0x1C00, 0x1C04, 0x1C08, 0x2000, 0x200C, 0x2010,
   0x2014, 0x2044, 0x2060, 0x2070, 0x2840, 0x2850, 0x2854, 0x2A40, 0x2B40, 0x2BA0, 0x2BB0, 0x2C00, 0x2C0C, 0x2C10, 0x2C14, 0x2C18,
   0x2C28, 0x3020, 0x3420, 0x3500, 0x3C10, 0x3C14, 0x3D00]

section
variable {v i k : Nat} {r : RegRow}

theorem storesOnly_iff : storesOnly r i = true ↔ (r.rwb = 0 ∧ r.rwl = 0 ∧ r.lock = 0 ∧ r.act = 0 ∧ r.cls.perBit = false ∧
    refReg r.off i = .none ∧ hwUpdated r.off = false) ∧ ∀ o ∈ ruledOffs, r.off ≠ o := by
  simp only [storesOnly, ruledOffs, List.forall_mem_cons, List.contains_cons, List.contains_nil, Bool.and_eq_true, Bool.not_eq_true',
    Bool.or_eq_false_iff, beq_iff_eq, beq_eq_false_iff_ne, ne_eq]
  tauto

/-- A register that only stores after a write with operation `o / 0x4000` and data `d`. -/
def State.takenBy (s : State) (v o : Nat) (d : Word) (r : RegRow) (i k : Nat) : State :=
  if touches v r i (o / 0x4000) d = 0 then s else s.setKey k (aliasValue (o / 0x4000) (s.getKey k) (canAlter v r i) d)

theorem State.takenBy_spec {o : Nat} {d : Word} (hr : reserved r.off = 0) (ha : canAlter v r i ≠ 0) :
    Frame [] (· = k) s (s.takenBy v o d r i k) ∧
      (s.takenBy v o d r i k).getKey k = aliasValue (o / 0x4000) (s.getKey k) (canAlter v r i) d := by
  unfold State.takenBy
  by_cases ht : touches v r i (o / 0x4000) d = 0
  · have ho : o / 0x4000 ≠ 0 := fun ho => ha (by simpa [touches, ho] using ht)
    have hd : d &&& canAlter v r i = 0 := by
      rw [touches, if_neg ho, hr, and_not_zero] at ht
      exact ht
    rw [if_pos ht, aliasValue_none ho hd]
    exact ⟨.refl, rfl⟩
  · rw [if_neg ht]
    exact ⟨s.setKey_frame k _, s.getKey_setKey_self k _⟩

variable (h : storesOnly r i = true)
include h

theorem storesOnly_readsBack (x : Word) : s.readsBack r.off i x = x := by
  have hn := (storesOnly_iff.mp h).2
  simp only [ruledOffs, List.forall_mem_cons] at hn
  have hb : r.off ≠ 0x1820 := fun he => by simpa [he, hwUpdated] using (storesOnly_iff.mp h).1
  simp [State.readsBack, hn, hb]

theorem storesOnly_busyFlag : s.busyFlag r.off i = none := by
  have hn := (storesOnly_iff.mp h).2
  simp only [ruledOffs, List.forall_mem_cons] at hn
  simp [State.busyFlag, hn]

theorem storesOnly_afterStore (v : Nat) (cur x old : Word) : s.afterStore v r i cur x old = s := by
  have hn := (storesOnly_iff.mp h).2
  simp only [ruledOffs, List.forall_mem_cons] at hn
  simp [State.afterStore, hn]

theorem storesOnly_viewPut (x t : Word) : s.viewPut v r i k x t = s.setKey k x := by
  obtain ⟨⟨hb, -, -, -, hp, href, hh⟩, hn⟩ := storesOnly_iff.mp h
  simp only [ruledOffs, List.forall_mem_cons] at hn
  have hc : r.cls ≠ .conBytes := fun he => by simp [he, RCls.perBit] at hp
  have hA : r.off ≠ 0xA00 := fun he => by simp [he, refReg] at href
  simp [State.viewPut, hc, hp, hn, href, refFields, State.refIn, State.putReg, hb, hh, hA]

/-- What it takes stands where it is held. -/
theorem storesOnly_storeReg (cur x : Word) {t : Word} (ht : t ≠ 0) : s.storeReg v r i k cur x t = s.setKey k x := by
  have hn := (storesOnly_iff.mp h).2
  simp only [ruledOffs, List.forall_mem_cons] at hn
  unfold State.storeReg
  rw [if_neg ht]
  simp [hn, storesOnly_busyFlag s h, storesOnly_readsBack s h, storesOnly_viewPut s h, storesOnly_afterStore _ h]

theorem storesOnly_currentVal : s.currentVal v r i k = s.getKey k := by
  obtain ⟨⟨hb, -, -, ha, hp, href, -⟩, hn⟩ := storesOnly_iff.mp h
  simp only [ruledOffs, List.forall_mem_cons] at hn
  have hc : r.cls ≠ .trgBits := fun he => by simp [he, RCls.perBit] at hp
  have hv : s.viewVal v r i k false = s.getKey k := s.viewVal_plain hp (by simp [hn]) (by simp [hn]) href hb ha
  simp [State.currentVal, hn, hc, hv]

theorem storesOnly_lockedFields : s.lockedFields v r i = 0 := by
  have hl := (storesOnly_iff.mp h).1.2.1
  simp [State.lockedFields, hl]

theorem storesOnly_canFire : canFire v r = 0 := by
  have ha := (storesOnly_iff.mp h).1.2.2.2.1
  simp [canFire, ha]

theorem storesOnly_abortOnWrite : s.abortOnWrite r.off i = s := by
  have hn := (storesOnly_iff.mp h).2
  simp only [ruledOffs, List.forall_mem_cons] at hn
  simp [State.abortOnWrite, hn]

theorem storesOnly_fields : s.fields v r i =
    BitVec.ofNat 32 (r.rw ||| r.rwl ||| r.rwb ||| r.lock ||| r.rc ||| r.act ||| roFields r.off) := by
  obtain ⟨-, -, -, -, hp, -⟩ := (storesOnly_iff.mp h).1
  simp [State.fields, hp]

/-- A normal write of such a register, or a SET, CLR or TGL write with no 1 for a field the VI may not write, stores, and a commit walk
that covers what it touches begins again (R76, R97). -/
theorem storesOnly_writeReg_eq {o : Nat} (port : Nat) {d : Word} (hr : reserved r.off = 0)
    (hd : o / 0x4000 ≠ 0 → d &&& s.fields v r i &&& ~~~(canAlter v r i) = 0) :
    s.writeReg v o port d r i k = if r.rind ≠ 0 ∧ touches v r i (o / 0x4000) d ≠ 0 then
      (s.takenBy v o d r i k).restartWalks k (touches v r i (o / 0x4000) d) else s.takenBy v o d r i k := by
  obtain ⟨⟨-, -, hl, -, hp, -⟩, -⟩ := storesOnly_iff.mp h
  unfold State.writeReg
  extract_lets op a s1 cur x t locked hit s2 lockBit sets keep s3 s4 s5
  have h1 : s1 = s := if_neg fun hc => hc.2 (hd hc.1)
  have hcur : cur = s.getKey k := (storesOnly_currentVal s1 h).trans (by rw [h1])
  have hx : x = aliasValue op (s.getKey k) a d := by
    have hm : (if op = 0 then a else a &&& ~~~(reserved r.off)) = a := by rw [hr, and_not_zero, ite_self]
    simp only [x, hm, hcur]
  have hlocked : locked = 0 := storesOnly_lockedFields s1 h
  have hhit : hit = false := by simp [hit, hlocked]
  have hkeep : keep = 0 := by simp [keep, lockBit, hlocked, hl]
  have h3 : s3 = s.takenBy v o d r i k := by
    have h2 : s2 = s := by simp [s2, hhit, h1]
    have hw : (x &&& ~~~keep) ||| (cur &&& keep) = x := by
      rw [hkeep, and_not_zero]
      exact (congrArg (x ||| ·) BitVec.and_zero).trans BitVec.or_zero
    have hs : s3 = s2.storeReg v r i k cur x t := by simp only [s3, hhit, Bool.false_and, Bool.false_eq_true, if_false, hw]
    rw [hs, h2, State.takenBy]
    by_cases ht : t = 0
    · rw [if_pos ht, ht]
      unfold State.storeReg
      exact if_pos rfl
    · rw [if_neg ht, storesOnly_storeReg s h cur x ht, hx]
  have h4 : s4 = if r.rind ≠ 0 ∧ t ≠ 0 then (s3.restartWalks k t) else s3 := by
    have hpl : s3.places v r i k t = [(k, t)] := by simp [State.places, hp]
    simp only [s4, hpl, storesOnly_abortOnWrite s3 h]
    rfl
  have hlb : lockBlock r i = none := by simp [lockBlock, hl]
  have h5 : s5 = s4 := by simp only [s5, hlb]
  rw [if_neg (by simp [storesOnly_canFire h]), h5, h4, h3]

/-- The register takes what the operation makes of its writable fields, and no other register changes. -/
theorem storesOnly_writeReg {o : Nat} (port : Nat) {d : Word} (hr : reserved r.off = 0) (ha : canAlter v r i ≠ 0)
    (hd : o / 0x4000 ≠ 0 → d &&& s.fields v r i &&& ~~~(canAlter v r i) = 0) :
    Frame [.rind, .walk] (· = k) s (s.writeReg v o port d r i k) ∧
      (s.writeReg v o port d r i k).getKey k = aliasValue (o / 0x4000) (s.getKey k) (canAlter v r i) d := by
  obtain ⟨hf, hk⟩ := s.takenBy_spec (v := v) (r := r) (i := i) (o := o) (d := d) (k := k) hr ha
  have hw : Frame [.rind, .walk] noKey (s.takenBy v o d r i k) (s.writeReg v o port d r i k) := by
    rw [storesOnly_writeReg_eq s h port hr hd]
    exact .ite (fun _ => State.restartWalks_frame _ _ _) fun _ => .refl
  exact ⟨(hf.mono).then hw, (hw.reg k (by omega)).trans hk⟩

end

end Sys2Proof.Machine
end

section
/-! PROOF. O8: a write reaches its register, a narrow or unaligned one is refused, and so is one of read-only fields (R74, R76, R77, R80,
R81, R417). -/

namespace Sys2Proof.Machine

-- Proofs one after another: many that wait in threads of their own would pass the check's memory limit.
set_option Elab.async false

variable (s : State)

/-! ### The write's tag -/

/-- The state in which an accepted write acts: nothing has refused it, and it has its tag (R417). -/
def State.tagged (s : State) (v : Nat) : State := s.asked.nextTag v

theorem State.tagged_frame (v : Nat) : Frame [.host] (· = viKey v 0x118) s (s.tagged v) :=
  ((s.asked_frame).mono).then (State.nextTag_frame _ v)

theorem State.tagged_tag (v : Nat) : (s.tagged v).rdv v 0x118 = BitVec.ofNat 32 ((s.fldv v 0x118 15 0 + 1) % 65536) :=
  State.rdv_wrv_self _ v 0x118 _

theorem numbers_tag (v : Nat) : Frame.Numbers (· = viKey v 0x118) :=
  ⟨fun k _ hk => by simp only [viKey]; omega, by simp only [viKey]; omega⟩

/-- A write, as the gate and the walk of a commit see it. -/
abbrev writeAcc (v : Fin 32) (p : Port) (off : BitVec 16) (d : Word) (be : BitVec 4) : HostAcc :=
  { vi := v, port := p, off := off, data := d, write := true, be := be }

/-- A write that is neither held nor refused at the gate acts with its tag, and is answered. -/
theorem State.hostWrite_accepted {v : Fin 32} {p : Port} {off : BitVec 16} {d : Word} {be : BitVec 4}
    (h : p = .internal ∨ s.Serves v ∧ s.walkBlocks (writeAcc v p off d be) = false) :
    s.hostWrite v p off d be = (s.asked.writeNow v off.toNat (portCode p) be d).finishAcc p v off.toNat true := by
  have hv : Fin.ofNat 32 v.val = v := by simp
  have hg : s.gateAcc (writeAcc v p off d be) = none := by
    rcases h with rfl | ⟨hs, -⟩
    · rfl
    · exact s.gateAcc_serves hs rfl
  have hb : s.walkBlocks (writeAcc v p off d be) = false := by
    rcases h with rfl | ⟨-, hb⟩
    · unfold State.walkBlocks
      split <;> rfl
    · exact hb
  unfold State.hostWrite
  dsimp only
  rw [hv, hg]
  exact if_neg (by simp [hb])

/-- A write of a register there and powered, with a field the VI may write or fire, takes its tag and writes. -/
theorem State.writeNow_reg {v o port i k : Nat} {d : Word} {r : RegRow} (h4 : o % 4 = 0)
    (hslot : (s.nextTag v).slot v (o % 0x4000) = .reg r i k) (hg : (s.nextTag v).slotGated r i = false)
    (hf : canAlter v r i ||| canFire v r ≠ 0) : s.writeNow v o port 0xF d = (s.nextTag v).writeReg v o port d r i k := by
  unfold State.writeNow
  dsimp only
  rw [if_neg (by simp [h4]), hslot]
  dsimp only
  rw [hg, if_neg Bool.false_ne_true, if_neg hf]

/-- A write of a register there and powered of which the VI may write and fire nothing is refused with RO_WRITE (R81). -/
theorem State.writeNow_readOnly {v o port i k : Nat} {d : Word} {r : RegRow} (h4 : o % 4 = 0) (hlt : o < 0x4000)
    (hslot : (s.nextTag v).slot v (o % 0x4000) = .reg r i k) (hg : (s.nextTag v).slotGated r i = false)
    (hf : canAlter v r i ||| canFire v r = 0) : s.writeNow v o port 0xF d = (s.nextTag v).accErr v 2 o port true := by
  unfold State.writeNow
  dsimp only
  rw [if_neg (by simp [h4]), hslot]
  dsimp only
  rw [hg, if_neg Bool.false_ne_true, if_pos hf, if_pos hlt]

/-! ### A register that only stores -/

theorem findRow_wtag : findRow regTable 0x118 = some (roRow 0x118 0x4 1 true .none false, 0) := by decide +kernel

/-- A write tag is no field a VI may write. -/
theorem State.slot_ne_wtag {v o i k : Nat} {r : RegRow} (hs : s.slot v o = .reg r i k) (hb : r.cls.perBit = false)
    (ha : canAlter v r i ≠ 0) : o ≠ 0x118 := by
  rintro rfl
  obtain ⟨j, hf, -⟩ := s.slot_reg hs hb
  obtain ⟨rfl, -⟩ := Prod.mk.inj (Option.some.inj (findRow_wtag.symm.trans hf))
  exact ha (by simp [canAlter, roRow])

theorem State.slotGated_of_doms {t : State} (h : t.mode.doms = s.mode.doms) (r : RegRow) (i : Nat) : t.slotGated r i = s.slotGated r i := by
  simp only [State.slotGated, State.domOn, State.dom, h]

theorem write_stores {v : Fin 32} {p : Port} {off : BitVec 16} {d : Word} {r : RegRow} {i k : Nat}
    (hp : p = .internal ∨ s.Serves v ∧ s.walkBlocks (writeAcc v p off d 0xF) = false)
    (h4 : off.toNat % 4 = 0) (hslot : s.slot v (off.toNat % 0x4000) = .reg r i k) (hg : s.slotGated r i = false)
    (hst : storesOnly r i = true) (ha : canAlter v r i ≠ 0)
    (hd : off.toNat / 0x4000 ≠ 0 → d &&& s.fields v r i &&& ~~~(canAlter v r i) = 0) :
    let t := s.hostWrite v p off d 0xF
    t.getKey k = aliasValue (off.toNat / 0x4000) (s.getKey k) (canAlter v r i) d ∧
      t.rdv v 0x118 = BitVec.ofNat 32 ((s.fldv v 0x118 15 0 + 1) % 65536) ∧ SameRegs [k, viKey v 0x118] s t ∧ SameStores s t := by
  dsimp only
  obtain ⟨⟨hrwb, -, -, -, hb, -⟩, -⟩ := storesOnly_iff.mp hst
  have hk : k ≠ viKey v 0x118 := s.slot_key_ne hslot hb (s.slot_ne_wtag hslot hb ha)
  have hr : reserved r.off = 0 := by
    obtain ⟨j, hf, -⟩ := s.slot_reg hslot hb
    exact regTable_reserved r (findRow_spec hf).1 hrwb
  have ht := s.tagged_frame v
  have hslot' := ht.slot_of (numbers_tag v) hslot hb
  have hg' : (s.tagged v).slotGated r i = false := (s.slotGated_of_doms (ht.keeps .doms (by decide)) r i).trans hg
  have hf : canAlter v r i ||| canFire v r ≠ 0 := by
    rw [storesOnly_canFire hst]
    exact fun h0 => ha (BitVec.or_zero.symm.trans h0)
  have he : s.hostWrite v p off d 0xF = ((s.tagged v).writeReg v off.toNat (portCode p) d r i k).finishAcc p v off.toNat true :=
    (s.hostWrite_accepted hp).trans (congrArg (State.finishAcc · p v off.toNat true) (s.asked.writeNow_reg h4 hslot' hg' hf))
  have hd' : off.toNat / 0x4000 ≠ 0 → d &&& (s.tagged v).fields v r i &&& ~~~(canAlter v r i) = 0 := by
    rw [storesOnly_fields _ hst, ← storesOnly_fields s (v := v) hst]
    exact hd
  obtain ⟨hw, hkey⟩ := storesOnly_writeReg (s.tagged v) hst (portCode p) hr ha hd'
  have hfin := State.finishAcc_frame ((s.tagged v).writeReg v off.toNat (portCode p) d r i k) p v off.toNat true
  have h : Frame (.rind :: .walk :: answerParts) (fun j => j = k ∨ j = viKey v 0x118) s (s.hostWrite v p off d 0xF) := by
    rw [he]
    exact (((ht.mono).then hw).then hfin)
  refine ⟨?_, ?_, h.sameRegs _ (by simp), h.sameStores⟩
  · rw [he]
    exact (hfin.reg k (by omega)).trans (hkey.trans (by rw [ht.reg k hk]))
  · rw [he]
    exact (hfin.rdv v 0x118).trans ((hw.reg _ (Ne.symm hk)).trans (s.tagged_tag v))

/-! ### Refused writes -/

/-- What VI_ACC_ERR keeps of a refused write: its field, the offset and the direction, and the interrupt (R84, R416). -/
theorem State.accErr_records (v : Nat) {i ofs : Nat} (port : Nat) (hi : i < 32) (ho : ofs < 65536) : let t := s.accErr v i ofs port true
    t.bitv v 0x10C i = true ∧ t.fldv v 0x110 15 0 = ofs ∧ t.bitv v 0x110 31 = true ∧ t.bitv v 0x180 1 = true ∧
      Frame [.cyc, .host, .out] (fun k => k = viKey v 0x10C ∨ k = viKey v 0x110 ∨ k = viKey v 0x180) s t := by
  let w := setBit (setFld (setFld (0 : Word) 25 24 port) 15 0 ofs) 31 true
  let u : State := { s.wbitv v 0x10C i true with host := { s.host with refused := true } }
  have hu : Frame [.cyc, .host] (· = viKey v 0x10C) s u := ((s.wbitv_frame v 0x10C i true).mono).then (State.withHost_frame _ _)
  have hp : Frame [.cyc, .out] (· = viKey v 0x180) (u.wrv v 0x110 w) ((u.wrv v 0x110 w).pend v 1) :=
    ((State.wbitv_frame _ v 0x180 1 true).mono).then (State.makeReady_frame _ _)
  have hw : ((u.wrv v 0x110 w).pend v 1).rdv v 0x110 = w := (hp.rdv v 0x110).trans (State.rdv_wrv_self _ _ _ _)
  refine ⟨s.accErr_bitv v ofs port true hi, ?_, ?_, State.bitv_pend_self _ v (by decide),
    ((hu.mono).then (u.wrv_frame v 0x110 w)).then hp⟩
  · refine (congrArg (bf · 15 0) hw).trans ?_
    rw [bf_setBit_ne _ _ (by decide) (by decide), bf_setFld _ _ _ _ (by decide) (by decide)]
    exact Nat.mod_eq_of_lt ho
  · exact (congrArg (tb · 31) hw).trans (tb_setBit_self _ 31 true (by decide))

/-- A refused write through the internal port has its tag and is recorded; nothing else changes. -/
def RefusedWith (v i ofs : Nat) (s t : State) : Prop :=
  t.bitv v 0x10C i = true ∧ t.fldv v 0x110 15 0 = ofs ∧ t.bitv v 0x110 31 = true ∧ t.bitv v 0x180 1 = true ∧
    SameRegs [viKey v 0x118, viKey v 0x10C, viKey v 0x110, viKey v 0x180] s t ∧ SameStores s t

theorem State.tagged_accErr (v : Nat) {i ofs : Nat} (port : Nat) (hi : i < 32) (ho : ofs < 65536) :
    RefusedWith v i ofs s ((s.tagged v).accErr v i ofs port true) := by
  obtain ⟨hb, hf, hw, hp, ha⟩ := (s.tagged v).accErr_records v port hi ho
  have h : Frame [.cyc, .host, .out]
      (fun k => k = viKey v 0x118 ∨ k = viKey v 0x10C ∨ k = viKey v 0x110 ∨ k = viKey v 0x180) s _ :=
    ((s.tagged_frame v).mono (hK := fun _ hk => .inl hk)).then ha (hK := fun _ hk => .inr hk)
  exact ⟨hb, hf, hw, hp, h.sameRegs _ (by simp), h.sameStores⟩

theorem write_narrow (v : Fin 32) {off : BitVec 16} (d : Word) {be : BitVec 4} (h : be ≠ 0xF ∨ off.toNat % 4 ≠ 0) :
    RefusedWith v 0 off.toNat s (s.hostWrite v .internal off d be) := by
  have he : s.hostWrite v .internal off d be = (s.tagged v).accErr v 0 off.toNat 0 true :=
    (s.hostWrite_accepted (.inl rfl)).trans (if_pos h)
  rw [he]
  exact s.tagged_accErr v 0 (by decide) off.isLt

theorem findRow_devId : findRow regTable 0 = some (roRow 0 0x4 1 false .none false, 0) := by decide +kernel

theorem write_devId (v : Fin 32) (d : Word) : RefusedWith v 2 0 s (s.hostWrite v .internal 0x0000 d 0xF) := by
  have hslot : (s.tagged v).slot v 0 = .reg (roRow 0 0x4 1 false .none false) 0 0 :=
    State.slot_inst _ findRow_devId rfl rfl rfl rfl (by decide)
  have hg : (s.tagged v).slotGated (roRow 0 0x4 1 false .none false) 0 = false := State.slotGated_of _ (.inl rfl)
  have hf : canAlter v (roRow 0 0x4 1 false .none false) 0 ||| canFire v (roRow 0 0x4 1 false .none false) = 0 := by
    simp [canAlter, canFire, roRow]
  have he : s.hostWrite v .internal 0x0000 d 0xF = (s.tagged v).accErr v 2 0 0 true :=
    (s.hostWrite_accepted (.inl rfl)).trans (s.asked.writeNow_readOnly (o := 0) (by decide) (by decide) hslot hg hf)
  rw [he]
  exact s.tagged_accErr v 0 (by decide) (by decide)

/-- Settles O8: a write that is accepted by what it stores, a narrow one and one of DEV_ID by what they record. -/
theorem writesReachTheirRegister : Obligations.WritesReachTheirRegister := by
  refine ⟨fun s v p off d r i k hp h4 hslot hg hst ha => ⟨fun hlt => ?_, fun hge hd => ?_⟩, fun s v off d be h => ?_,
    fun s v d => ?_⟩
  · have hop : off.toNat / 0x4000 = 0 := Nat.div_eq_of_lt hlt
    obtain ⟨hk, htag, hregs, hstores⟩ := write_stores s hp h4 hslot hg hst ha fun h => absurd hop h
    rw [hop] at hk
    exact ⟨_, rfl, hk, htag, fun _ => hregs, hstores⟩
  · have hop : off.toNat / 0x4000 ≠ 0 := by omega
    obtain ⟨hk, htag, hregs, hstores⟩ := write_stores s hp h4 hslot hg hst ha fun _ => hd
    refine ⟨_, rfl, hk.trans ?_, htag, fun _ => hregs, hstores⟩
    exact if_neg hop
  · exact ⟨⟨_, rfl, write_narrow s v d h⟩, ⟨_, rfl, write_narrow s v d h⟩⟩
  · obtain ⟨hb, -, -, -, hregs, hstores⟩ := write_devId s v d
    exact ⟨_, rfl, hb, hregs, hstores⟩

end Sys2Proof.Machine
end

section
/-! SUPPORT. The catch-up of the outputs neither reads nor changes the state of the host ports (R230, R285, R319): with another state of
the ports it does the same. -/

namespace Sys2Proof.Machine

-- Proofs one after another: many that wait in threads of their own would pass the check's memory limit.
set_option Elab.async false

/-- The state with another state of the host ports. -/
def State.putHost (s : State) (h : HostSt) : State := { s with host := h }

variable (s : State) (h : HostSt)

/-! ### Shapes -/

theorem putHost_ite {c : Prop} [Decidable c] {a b a' b' : State} (ha : a.putHost h = a') (hb : b.putHost h = b') :
    (if c then a else b).putHost h = if c then a' else b' := by
  split
  · exact ha
  · exact hb

theorem putHost_each {α : Type} {f g : State → α → State} (l : List α) (hf : ∀ s a, (f s a).putHost h = g (s.putHost h) a) :
    (s.each l f).putHost h = (s.putHost h).each l g := by
  induction l generalizing s with
  | nil => rfl
  | cons a l ih => exact (ih (f s a)).trans (congrArg (State.each · l g) (hf s a))

/-! ### Reads of segments -/

theorem State.putHost_wbit (o i : Nat) (b : Bool) : (s.wbit o i b).putHost h = (s.putHost h).wbit o i b := by
  unfold State.wbit
  exact putHost_ite h rfl rfl

theorem State.putHost_readWords (vat : Bool) (p n : Nat) : (s.readWords vat p n).putHost h = (s.putHost h).readWords vat p n := by
  unfold State.readWords
  refine (putHost_each _ h _ fun _ _ => ?_).trans (congrArg (State.each · _ _) (putHost_each s h _ fun _ _ => ?_)) <;> rfl

theorem State.putHost_readElem (v : Nat) (d : Desc) (i : Nat) : (s.readElem v d i).putHost h = (s.putHost h).readElem v d i :=
  putHost_ite h rfl (putHost_each s h _ fun u _ => u.putHost_readWords h _ _ _)

theorem State.putHost_readPeriod (v : Nat) (x : SeqSt) (d : Desc) (f p : Nat) :
    (s.readPeriod v x d f p).putHost h = (s.putHost h).readPeriod v x d f p := by
  unfold State.readPeriod
  split
  · exact putHost_ite h rfl (s.putHost_readElem h _ _ _)
  · rfl

/-! ### Samples -/

theorem State.putHost_parkNow (n : Nat) (p : Bool) : (s.parkNow n p).putHost h = (s.putHost h).parkNow n p := by
  unfold State.parkNow State.waout
  exact (State.putHost_wbit _ h _ _ _).trans (congrArg (State.wbit · _ _ _) (State.putHost_wbit _ h _ _ _))

theorem State.putHost_parkAtBoundary (n t : Nat) : (s.parkAtBoundary n t).putHost h = (s.putHost h).parkAtBoundary n t := by
  have hr : ((s.putHost h).ao n).parkReq = (s.ao n).parkReq := rfl
  unfold State.parkAtBoundary
  rw [hr]
  split
  · exact putHost_ite h (s.putHost_parkNow h _ _) rfl
  · rfl

theorem State.putHost_aoutSample (n : Nat) (elem : Option (Int × Nat)) (t : Nat) :
    (s.aoutSample n elem t).putHost h = (s.putHost h).aoutSample n elem t := by
  unfold State.aoutSample
  rw [← s.putHost_parkAtBoundary h n t]
  generalize s.parkAtBoundary n t = u
  exact putHost_ite h rfl (State.putHost_wbit _ h _ _ _)

theorem State.putHost_idleFrom (n j m : Nat) : (s.idleFrom n j m).putHost h = (s.putHost h).idleFrom n j m := by
  induction m generalizing s j with
  | zero => rfl
  | succ m ih => exact (ih _ _).trans (congrArg (State.idleFrom · n (j + 1) m) (s.putHost_aoutSample h _ _ _))

theorem State.putHost_idleTo (n t : Nat) : (s.idleTo n t).putHost h = (s.putHost h).idleTo n t := by
  unfold State.idleTo
  refine putHost_ite h rfl ?_
  extract_lets y a e s1 x s2 y' a' e' s1' x' s2'
  have h1 : s1.putHost h = s1' := putHost_ite h (s.putHost_idleFrom h _ _ _) rfl
  clear_value s1 s1'
  subst h1
  have h2 : s2.putHost h = s2' := putHost_ite h rfl rfl
  clear_value s2 s2'
  subst h2
  exact putHost_ite h (s2.putHost_parkAtBoundary h n t) rfl

/-! ### Vectors -/

theorem State.putHost_capture (u : Nat) (e : RingEnt) (tu : Nat) : (s.capture u e tu).putHost h = (s.putHost h).capture u e tu := by
  unfold State.capture
  exact putHost_ite h rfl rfl

theorem State.putHost_vector (k : Nat) (codes : List Nat) (u : Nat) : (s.vector k codes u).putHost h = (s.putHost h).vector k codes u := by
  unfold State.vector
  extract_lets x t s1 aft pins x1 x2 s2 s3 s4 x' s1' aft' pins' x1' x2' s2' s3' s4'
  have h2 : s2.putHost h = s2' := rfl
  have hp : pins' = pins := rfl
  have hx : x' = x := rfl
  clear_value s2 s2' pins pins' x x'
  subst h2 hp hx
  have h3 : s3.putHost h = s3' := putHost_ite h (State.putHost_wbit _ h _ _ _) rfl
  clear_value s3 s3'
  subst h3
  have h4 : s4.putHost h = s4' := putHost_ite h (State.putHost_wbit _ h _ _ _) rfl
  clear_value s4 s4'
  subst h4
  exact putHost_ite h (putHost_each _ h _ fun u m => State.putHost_capture _ h _ _ _) rfl

theorem State.putHost_freeVector (k j : Nat) : (s.freeVector k j).putHost h = (s.putHost h).freeVector k j := by
  have hd : ((s.putHost h).dirEntry ((s.putHost h).ownerVi .pb k) ((s.putHost h).pb k).desc).map (s.putHost h).descAt =
    (s.dirEntry (s.ownerVi .pb k) (s.pb k).desc).map s.descAt := rfl
  unfold State.freeVector
  dsimp only
  rw [hd]
  split
  · exact (State.putHost_vector _ h _ _ _).trans (congrArg (State.vector · _ _ _) (s.putHost_readElem h _ _ _))
  · rfl

theorem State.putHost_freeFrom (k j n : Nat) : (s.freeFrom k j n).putHost h = (s.putHost h).freeFrom k j n := by
  induction n generalizing s j with
  | zero => rfl
  | succ n ih => exact (ih _ _).trans (congrArg (State.freeFrom · k (j + 1) n) (s.putHost_freeVector h _ _))

theorem State.putHost_catchUpFree (k : Nat) : (s.catchUpFree k).putHost h = (s.putHost h).catchUpFree k := by
  unfold State.catchUpFree
  refine putHost_ite h rfl ?_
  extract_lets i j1 j2 s1 y i' j1' j2' s1' y'
  have h1 : s1.putHost h = s1' := s.putHost_freeFrom h _ _ _
  clear_value s1 s1'
  subst h1
  rfl

/-! ### Output periods -/

theorem State.putHost_seqPeriodAt (k j : Nat) : (s.seqPeriodAt k j).putHost h = (s.putHost h).seqPeriodAt k j := by
  unfold State.seqPeriodAt
  extract_lets x v d late s1 s2 x' v' d' late' s1' s2'
  have hd : d' = d := rfl
  have hx : x' = x := rfl
  clear_value d d' x x'
  subst hd hx
  have h1 : s1.putHost h = s1' := by
    cases d' with
    | none => rfl
    | some d => exact putHost_ite h rfl (s.putHost_readPeriod h _ _ _ _ _)
  clear_value s1 s1'
  subst h1
  have h2 : s2.putHost h = s2' := putHost_each _ h _ fun u n => u.putHost_aoutSample h _ _ _
  clear_value s2 s2'
  subst h2
  cases d' with
  | none => rfl
  | some d =>
    refine putHost_ite h (putHost_each _ h _ fun u b => ?_) rfl
    split
    · exact u.putHost_vector h _ _ _
    · rfl

theorem State.putHost_periodsFrom (k j n : Nat) : (s.periodsFrom k j n).putHost h = (s.putHost h).periodsFrom k j n := by
  induction n generalizing s j with
  | zero => rfl
  | succ n ih => exact (ih _ _).trans (congrArg (State.periodsFrom · k (j + 1) n) (s.putHost_seqPeriodAt h _ _))

theorem State.putHost_playTo (k j : Nat) : (s.playTo k j).putHost h = (s.putHost h).playTo k j := by
  unfold State.playTo
  extract_lets x n s1 y x' n' s1' y'
  have h1 : s1.putHost h = s1' := putHost_ite h (s.putHost_periodsFrom h _ _ _) rfl
  clear_value s1 s1'
  subst h1
  rfl

theorem State.putHost_catchUp (k : Nat) : (s.catchUp k).putHost h = (s.putHost h).catchUp k := by
  unfold State.catchUp
  exact putHost_ite h rfl (s.putHost_playTo h _ _)

theorem State.putHost_catchUpAll : s.catchUpAll.putHost h = (s.putHost h).catchUpAll := by
  unfold State.catchUpAll
  refine (putHost_each _ h _ fun u n => u.putHost_idleTo h n _).trans (congrArg (State.each · _ _) ?_)
  refine (putHost_each _ h _ fun u k => u.putHost_catchUpFree h k).trans (congrArg (State.each · _ _) ?_)
  exact putHost_each s h _ fun u k => u.putHost_catchUp h k

end Sys2Proof.Machine
end

section
/-! PROOF. O53: erases of the NVM (R461) and debug accesses (R83, R186, R465). -/

namespace Sys2Proof.Machine

-- Proofs one after another: many that wait in threads of their own would pass the check's memory limit.
set_option Elab.async false

variable (s : State)

/-! ### Erases -/

theorem eraseWhy_le {a n w : Nat} (h : s.eraseWhy a n = some w) : w ≤ 3 := by
  unfold State.eraseWhy at h
  split_ifs at h <;> obtain rfl := Option.some.inj h <;> decide

theorem nvmErase_refused (count : BitVec 16) {w : Nat}
    (hw : s.eraseWhy (s.rd 0x3824).toNat (count.toNat * 2 ^ s.fld 0x3820 23 16) = some w) :
    Does (.nvmErase count) s fun t => t.bit 0x382C 2 = true ∧ t.fld 0x382C 31 28 = w ∧
      t.host.erase = s.host.erase ∧ SameRegs [devKey 0x382C] s t ∧ SameStores s t := by
  have he : exec (.nvmErase count) s = .next ((s.wbit 0x382C 2 true).wfld 0x382C 31 28 w) := by
    rw [show exec (.nvmErase count) s = execNvmErase count s from rfl, execNvmErase, hw]
  have h : Frame [.cyc] (· = 0x382C) s _ := ((s.wbit_frame 0x382C 2 true).mono).then (State.wfld_frame _ 0x382C 31 28 w)
  refine ⟨_, he, ?_, ?_, congrArg HostSt.erase (h.keeps .host (by decide)), h.sameRegs _ (by simp), h.sameStores⟩
  · rw [State.bit_wfld_ne _ _ _ (by decide) (by decide) (by decide)]
    exact s.bit_wbit_self _ _ _ (by decide)
  · rw [State.fld_wfld_self _ _ _ _ _ (by decide) (by decide)]
    have := eraseWhy_le s hw
    omega

theorem nvmErase_runs (count : BitVec 16) (hw : s.eraseWhy (s.rd 0x3824).toNat (count.toNat * 2 ^ s.fld 0x3820 23 16) = none) :
    Does (.nvmErase count) s fun t => t.bit 0x382C 0 = true ∧ t.fld 0x382C 31 28 = 0 ∧
      t.host.erase = some ((s.rd 0x3824).toNat, (s.rd 0x3824).toNat + count.toNat * 2 ^ s.fld 0x3820 23 16) ∧
      SameRegs [devKey 0x382C] s t ∧ SameStores s t := by
  let a := (s.rd 0x3824).toNat
  let n := count.toNat * 2 ^ s.fld 0x3820 23 16
  let u := (s.wbit 0x382C 0 true).wfld 0x382C 31 28 0
  have he : exec (.nvmErase count) s = .next { u with host := { u.host with erase := some (a, a + n) } } := by
    rw [show exec (.nvmErase count) s = execNvmErase count s from rfl, execNvmErase, hw]
  have hu : Frame [.cyc] (· = 0x382C) s u := ((s.wbit_frame 0x382C 0 true).mono).then (State.wfld_frame _ 0x382C 31 28 0)
  have hh := u.withHost_frame { u.host with erase := some (a, a + n) }
  have h : Frame [.cyc, .host] (· = 0x382C) s _ := (hu.mono).then hh
  refine ⟨_, he, (hh.bit 0x382C 0).trans ?_, (hh.fld 0x382C 31 28).trans ?_, rfl, h.sameRegs _ (by simp), h.sameStores⟩
  · rw [State.bit_wfld_ne _ _ _ (by decide) (by decide) (by decide)]
    exact s.bit_wbit_self _ _ _ (by decide)
  · exact State.fld_wfld_self _ _ _ _ _ (by decide) (by decide)

/-- What stands written in the NVM after a wipe: nothing in the range, and outside it what stood there. -/
theorem State.find_wipeNvm (lo hi x : Nat) (e : Bool) :
    Tab.find (s.wipeNvm lo hi e).mem.nvm x = if lo ≤ x ∧ x < hi then none else Tab.find s.mem.nvm x := by
  refine (Tab.find_filter_key (fun a => !(decide (lo ≤ a) && decide (a < hi))) _ _).trans ?_
  by_cases hx : lo ≤ x ∧ x < hi <;> simp [hx]

theorem State.nvmB_wipeNvm_outside {lo hi x : Nat} (e : Bool) (hx : x < lo ∨ hi ≤ x) : (s.wipeNvm lo hi e).nvmB x = s.nvmB x := by
  have hn : ¬ (lo ≤ x ∧ x < hi) := by omega
  simp only [State.nvmB, Tab.get, s.find_wipeNvm, if_neg hn, s.nvmBlank_wipe lo hi x e hn]

theorem State.nvmB_wipeNvm_erased {lo hi x : Nat} (h1 : lo ≤ x) (h2 : x < hi) : (s.wipeNvm lo hi true).nvmB x = 0xFF := by
  have hb : (s.wipeNvm lo hi true).mem.nvmBlank x = 0xFF := by simp [MemSt.nvmBlank, State.wipeNvm, h1, h2]
  simp only [State.nvmB, Tab.get, s.find_wipeNvm, if_pos (And.intro h1 h2), hb, Option.getD_none]

/-- What the end of an erase may change beside registers; the bytes stand. -/
abbrev eraseParts : List Aspect := [.cyc, .host, .mem, .agenda]

theorem State.nvmNext_frame (op : Nat) : Frame [.mem] noKey s (s.nvmNext op) := Frame.each (fun e _ u => u.setLde_frame e _) s

theorem State.eraseOver_spec : let t := s.eraseOver
    t.bit 0x382C 0 = false ∧ t.host.erase = none ∧ Frame eraseParts (· = 0x382C) s t ∧
      (∀ i, i ≠ 0 → t.bit 0x382C i = s.bit 0x382C i) ∧ t.fld 0x382C 31 28 = s.fld 0x382C 31 28 := by
  let u : State := { s.wbit 0x382C 0 false with host := { s.host with erase := none } }
  have h1 : Frame [.cyc, .host] (· = 0x382C) s u := ((s.wbit_frame 0x382C 0 false).mono).then (State.withHost_frame _ _)
  have h2 : Frame [.mem, .agenda] noKey u s.eraseOver := by
    unfold State.eraseOver
    exact .ite (fun _ => ((u.nvmNext_frame 4).mono).then (State.after_frame _ _ _)) fun _ => (u.nvmNext_frame 4).mono
  refine ⟨(h2.bit 0x382C 0).trans (s.bit_wbit_self 0x382C 0 false (by decide)), ?_, (h1.mono).then h2, fun i hi => ?_, ?_⟩
  · exact congrArg HostSt.erase (h2.keeps .host (by decide))
  · exact (h2.bit 0x382C i).trans (s.bit_wbit_ne 0x382C false (by decide) hi)
  · exact (h2.fld 0x382C 31 28).trans (s.fld_wbit_ne 0x382C false (by decide) (by decide))

/-- The range after the device is done with it, and what NVM_STATUS says (R461). -/
def State.erased (s : State) (lo hi : Nat) : NvmEnd → State
  | .ok => (s.wipeNvm lo hi true).wbit 0x382C 1 true
  | .device => ((s.wipeNvm lo hi false).wbit 0x382C 2 true).wfld 0x382C 31 28 4
  | .timeout => ((s.wipeNvm lo hi false).wbit 0x382C 2 true).wfld 0x382C 31 28 5

theorem exec_nvmEraseDone {lo hi : Nat} (how : NvmEnd) (h : s.host.erase = some (lo, hi)) :
    exec (.nvmEraseDone how) s = .next (s.erased lo hi how).eraseOver := by
  rw [show exec (.nvmEraseDone how) s = execNvmEraseDone how s from rfl, execNvmEraseDone, h]
  cases how <;> rfl

theorem State.erased_frame (lo hi : Nat) (how : NvmEnd) :
    Frame [.cyc] (· = 0x382C) (s.wipeNvm lo hi (how == .ok)) (s.erased lo hi how) := by
  cases how
  case ok => exact State.wbit_frame _ 0x382C 1 true
  all_goals exact ((State.wbit_frame _ 0x382C 2 true).mono).then (State.wfld_frame _ 0x382C 31 28 _)

theorem State.erased_status (lo hi : Nat) (how : NvmEnd) : let t := s.erased lo hi how
    (how = .ok → t.bit 0x382C 1 = true) ∧
      (how ≠ .ok → t.bit 0x382C 2 = true ∧ t.fld 0x382C 31 28 = (if how = .device then 4 else 5)) := by
  have hfail (u : State) (n : Nat) (hn : n < 16) : ((u.wbit 0x382C 2 true).wfld 0x382C 31 28 n).bit 0x382C 2 = true ∧
      ((u.wbit 0x382C 2 true).wfld 0x382C 31 28 n).fld 0x382C 31 28 = n := by
    rw [State.bit_wfld_ne _ _ _ (by decide) (by decide) (by decide), State.fld_wfld_self _ _ _ _ _ (by decide) (by decide)]
    exact ⟨u.bit_wbit_self _ _ _ (by decide), Nat.mod_eq_of_lt hn⟩
  cases how
  case ok => exact ⟨fun _ => State.bit_wbit_self _ _ _ _ (by decide), fun h => absurd rfl h⟩
  case device => exact ⟨fun h => by simp at h, fun _ => hfail _ 4 (by decide)⟩
  case timeout => exact ⟨fun h => by simp at h, fun _ => hfail _ 5 (by decide)⟩

theorem nvmEraseDone_ends {lo hi : Nat} (how : NvmEnd) (h : s.host.erase = some (lo, hi)) : Does (.nvmEraseDone how) s fun t =>
    t.bit 0x382C 0 = false ∧ t.host.erase = none ∧ (∀ x, x < lo ∨ hi ≤ x → t.nvmB x = s.nvmB x) ∧
      (∀ x, t.vatB x = s.vatB x ∧ t.memB x = s.memB x) ∧ SameRegs [devKey 0x382C] s t ∧
      (how = .ok → t.bit 0x382C 1 = true ∧ ∀ x, lo ≤ x → x < hi → t.nvmB x = 0xFF) ∧
      (how ≠ .ok → t.bit 0x382C 2 = true ∧ t.fld 0x382C 31 28 = (if how = .device then 4 else 5)) := by
  obtain ⟨hbusy, herase, hover, hbit, hfld⟩ := (s.erased lo hi how).eraseOver_spec
  obtain ⟨hok, hfail⟩ := s.erased_status lo hi how
  have hf : Frame eraseParts (· = 0x382C) (s.wipeNvm lo hi (how == .ok)) _ := ((s.erased_frame lo hi how).mono).then hover
  obtain ⟨hv, hm, hn⟩ := hf.sameStores
  refine ⟨_, exec_nvmEraseDone s how h, hbusy, herase, fun x hx => (hn x).trans (s.nvmB_wipeNvm_outside _ hx),
    fun x => ⟨hv x, hm x⟩, fun k hk => hf.reg k (by simpa using hk),
    fun ho => ⟨(hbit 1 (by decide)).trans (hok ho), fun x h1 h2 => ?_⟩,
    fun ho => ⟨(hbit 2 (by decide)).trans (hfail ho).1, hfld.trans (hfail ho).2⟩⟩
  rw [hn x, ho]
  exact s.nvmB_wipeNvm_erased h1 h2

/-! ### Debug accesses -/

/-- The state in which a debug access that waits no more is performed. -/
def State.dbgTaken (s : State) : State := { s with host := { s.host with dbgHeld := none } }

/-- A debug access is over, with its data and whether it failed (R465). -/
def State.dbgOver (s : State) (w : Word) (err : Bool) : State :=
  { s with host := { s.host with dbgData := w, dbgDone := true, dbgErr := err } }

theorem State.dbgOver_frame (w : Word) (err : Bool) : Frame [.host] noKey s (s.dbgTaken.dbgOver w err) :=
  (s.withHost_frame _).trans (State.withHost_frame _ _)

/-- What the outputs catch up with is the same whether a debug access waits. -/
theorem State.upToDate_dbgTaken (o : Nat) : s.dbgTaken.upToDate o = (s.upToDate o).dbgTaken := by
  unfold State.upToDate
  split
  · have hh : s.catchUpAll.host = s.host := s.catchUpAll_spec.1.keeps .host (by decide)
    have hc : s.catchUpAll.dbgTaken = s.catchUpAll.putHost { s.host with dbgHeld := none } := by
      rw [← hh]
      rfl
    exact (hc.trans (s.putHost_catchUpAll _)).symm
  · rfl

/-- What a read without effect answers does not depend on a debug access that waits (R83): neither the register at an offset nor its
value does. -/
theorem State.peek_dbgTaken (v o : Nat) : s.dbgTaken.peek v o = s.peek v o := by
  unfold State.peek
  dsimp only
  rw [s.upToDate_dbgTaken]
  rfl

theorem dbgAcc_waits {dr : BitVec 64} (hgo : dr.getLsbD 63 = true) (hw : s.dbgWaits = true) : Does (.dbgAcc dr) s fun t =>
    t.host = { s.host with dbgHeld := some dr, dbgDone := false } ∧ SameRegs [] s t ∧ SameStores s t := by
  have he : exec (.dbgAcc dr) s = .next { s with host := { s.host with dbgHeld := some dr, dbgDone := false } } := by
    rw [show exec (.dbgAcc dr) s = execDbgAcc dr s from rfl]
    simp [execDbgAcc, hgo, hw]
  have h := s.withHost_frame { s.host with dbgHeld := some dr, dbgDone := false }
  exact ⟨_, he, rfl, h.sameRegs _ (by omega), h.sameStores⟩

/-- The device sleeps: a debug access reaches nothing (R465). -/
abbrev State.dbgAsleep (s : State) : Prop := s.rst.phase = 5 ∧ (s.mode.eff = .listen ∨ s.mode.eff = .shelf)

section
variable {dr : BitVec 64} (hgo : dr.getLsbD 63 = true) (hw : s.dbgWaits = false)
include hgo hw

theorem exec_dbgAcc_refused (h : s.dbgAsleep ∨ (dr.getLsbD 62 = true ∧ bf dr 60 56 ≠ 0)) :
    exec (.dbgAcc dr) s = .next (s.dbgTaken.dbgOver s.host.dbgData true) := by
  rw [show exec (.dbgAcc dr) s = execDbgAcc dr s from rfl, execDbgAcc, if_neg (by simp [hgo]), if_neg (by simp [hw])]
  by_cases hs : s.dbgAsleep
  · exact if_pos hs
  · obtain ⟨hwr, hv⟩ := h.resolve_left hs
    exact (if_neg hs).trans ((if_pos hwr).trans (if_pos hv))

theorem exec_dbgAcc_reads (ha : ¬ s.dbgAsleep) (hr : dr.getLsbD 62 = false) :
    let a := s.peek (bf dr 60 56) (BitVec.ofNat 16 (bf dr 47 32)).toNat
    exec (.dbgAcc dr) s = .next (s.dbgTaken.dbgOver a.1 a.2.isSome) := by
  dsimp only
  rw [show exec (.dbgAcc dr) s = execDbgAcc dr s from rfl, execDbgAcc, if_neg (by simp [hgo]), if_neg (by simp [hw]),
    ← s.peek_dbgTaken]
  exact (if_neg ha).trans (if_neg (hr ▸ Bool.false_ne_true))

theorem exec_dbgAcc_writes (ha : ¬ s.dbgAsleep) (hwr : dr.getLsbD 62 = true) (hv : bf dr 60 56 = 0) :
    let u := s.dbgTaken.hostWrite 0 .internal (BitVec.ofNat 16 (bf dr 47 32)) (BitVec.ofNat 32 (bf dr 31 0)) 0xF
    exec (.dbgAcc dr) s = .next (u.dbgOver u.host.dbgData u.host.refused) := by
  dsimp only
  rw [show exec (.dbgAcc dr) s = execDbgAcc dr s from rfl, execDbgAcc, if_neg (by simp [hgo]), if_neg (by simp [hw])]
  exact (if_neg ha).trans ((if_pos hwr).trans (if_neg (by simp [hv])))

end

/-- Settles O53: an erase by whether a reason refuses it and by how it ends, a debug access by what holds, refuses or performs it. -/
theorem nvmErasesAndDebugAccesses : Obligations.NvmErasesAndDebugAccesses := by
  intro s count dr
  refine ⟨fun w hw => nvmErase_refused s count hw, nvmErase_runs s count, fun lo hi how h => nvmEraseDone_ends s how h, fun h => ?_,
    fun hgo hw => dbgAcc_waits s hgo hw, fun hgo hw => ⟨fun h => ?_, fun ha => ⟨fun hr => ?_, fun hwr hv => ?_⟩⟩⟩
  · refine ⟨s, ?_, rfl⟩
    rw [show exec (.dbgAcc dr) s = execDbgAcc dr s from rfl, execDbgAcc, h]
    rfl
  · have hf := s.dbgOver_frame s.host.dbgData true
    exact ⟨_, exec_dbgAcc_refused s hgo hw h, rfl, hf.sameRegs _ (by omega), hf.sameStores⟩
  · have hf := s.dbgOver_frame
    exact ⟨_, exec_dbgAcc_reads s hgo hw ha hr, rfl, rfl, rfl, (hf _ _).sameRegs _ (by omega), (hf _ _).sameStores⟩
  · exact ⟨_, exec_dbgAcc_writes s hgo hw ha hwr hv, _, rfl, rfl⟩

end Sys2Proof.Machine
end

section
/-! PROOF. O21: a power domain drains, is isolated, goes off and powers up (R124 to R126). -/

namespace Sys2Proof.Machine

-- Proofs one after another: many that wait in threads of their own would pass the check's memory limit.
set_option Elab.async false

variable (s : State)

theorem Frame.dom {P : List Aspect} {K : Nat → Prop} {s t : State} (h : Frame P K s t) (d : Nat)
    (hd : Aspect.doms ∉ P := by decide) : t.dom d = s.dom d := by
  simp only [State.dom, show t.mode.doms = s.mode.doms from h.keeps .doms hd]

/-- The always-on domain is on (R124). -/
theorem State.ne_zero_of_dom {d : Nat} (h : s.dom d ≠ 2) : d ≠ 0 := by
  rintro rfl
  exact h rfl

theorem State.setUnwanted_frame (d t : Nat) : Frame [.mode] noKey s (s.setUnwanted d t) := s.modeRest_frame

/-- What a follow-up adds to the agenda stands there. -/
theorem State.mem_after (tu : Nat) (c : Instr) : (s.time.mono + tu, c) ∈ (s.after tu c).agenda := by simp [State.after]

/-- A follow-up is still on the agenda where the agenda only grew. -/
theorem Frame.mem_agenda {P : List Aspect} {K : Nat → Prop} {s t : State} (h : Frame P K s t) {e : Nat × Instr} (he : e ∈ s.agenda)
    (ha : Aspect.agendaGrows ∉ P := by decide) : e ∈ t.agenda := (h.keeps .agendaGrows ha).subset he

theorem Frame.mono_eq {P : List Aspect} {K : Nat → Prop} {s t : State} (h : Frame P K s t) (ht : Aspect.time ∉ P := by decide) :
    t.time.mono = s.time.mono := congrArg TimeSt.mono (h.keeps .time ht)

/-! ### Gating -/

/-- The outputs of a domain that closes go to park, and a port announces its leave (R128, R302, R305, R339). -/
def State.closeOutputs (s : State) (d : Fin 29) : State :=
  if 6 ≤ d.val ∧ d.val < 14 then s.parkAout (d - 6)
  else if 14 ≤ d.val ∧ d.val < 22 then s.stopBank (d - 14)
  else if d.val = 22 then s.each (List.range 8) fun s n => s.cutTrg n
  else if 24 ≤ d.val ∧ d.val < 28 then s.after 0 (.portClose (Fin.ofNat 4 (d - 24)) .domainOff)
  else s

theorem State.closeOutputs_frame (d : Fin 29) :
    Frame [.cyc, .agenda, .aouts, .phaseRefs, .pbs, .trgs] anyKey s (s.closeOutputs d) := by
  unfold State.closeOutputs
  refine .ite (fun _ => (s.parkAout_frame _).mono) fun _ => .ite (fun _ => (s.stopBank_frame _).mono) fun _ =>
    .ite (fun _ => ?_) fun _ => .ite (fun _ => (s.after_frame _ _).mono) fun _ => .refl
  exact Frame.each (fun n hn u => (u.cutTrg_frame (List.mem_range.mp hn)).mono) s

theorem exec_domainGateStart {d : Fin 29} (hd : s.dom d = 2) (h0 : 0 < s.unwanted d) (h1 : s.unwanted d ≤ s.time.mono + 1)
    (hw : s.wants d = false) : exec (.domainGateStart d) s =
      .next ((((s.setDom d 3).setUnwanted d 0).closeOutputs d).after (32 + us 2) (.domainDrainEnd d)) := by
  rw [show exec (.domainGateStart d) s = execDomainGateStart d s from rfl]
  exact if_pos ⟨hd, h0, h1, hw⟩

/-- The always-on domain is always wanted. -/
theorem State.ne_zero_of_unwanted {d : Nat} (h : s.wants d = false) : d ≠ 0 := by
  rintro rfl
  simp [State.wants, State.enableWants] at h

theorem domainGateStart_drains {d : Fin 29} (hd : s.dom d = 2) (h0 : 0 < s.unwanted d) (h1 : s.unwanted d ≤ s.time.mono + 1)
    (hw : s.wants d = false) : Does (.domainGateStart d) s fun t => t.dom d = 3 ∧
      (s.time.mono + (32 + us 2), Instr.domainDrainEnd d) ∈ t.agenda ∧ SameStores s t := by
  have hs := s.setDom_frame d 3
  have hc : Frame [.mode, .cyc, .agenda, .aouts, .phaseRefs, .pbs, .trgs] anyKey (s.setDom d 3)
      (((s.setDom d 3).setUnwanted d 0).closeOutputs d) :=
    ((State.setUnwanted_frame _ _ _).mono).then (State.closeOutputs_frame _ d)
  have hf := State.after_frame (((s.setDom d 3).setUnwanted d 0).closeOutputs d) (32 + us 2) (.domainDrainEnd d)
  refine ⟨_, exec_domainGateStart s hd h0 h1 hw, ?_, ?_, (hs.sameStores.trans hc.sameStores).trans hf.sameStores⟩
  · rw [hf.dom, hc.dom, s.dom_setDom_self _ _ (s.ne_zero_of_unwanted hw)]
  · have hm := State.mem_after (((s.setDom d 3).setUnwanted d 0).closeOutputs d) (32 + us 2) (.domainDrainEnd d)
    rwa [hc.mono_eq, hs.mono_eq] at hm

theorem domainDrainEnd_isolates {d : Fin 29} (hd : s.dom d = 3 ∨ s.dom d = 4) : Does (.domainDrainEnd d) s fun t => t.dom d = 5 ∧
    (s.time.mono + 256, Instr.domainIsolatedCheck d) ∈ t.agenda ∧ SameRegs [] s t ∧ SameStores s t := by
  have h : Frame [.mode, .doms, .agenda] noKey s ((s.setDom d 5).after 256 (.domainIsolatedCheck d)) :=
    ((s.setDom_frame d 5).mono).then (State.after_frame _ _ _)
  refine ⟨_, ?_, ?_, State.mem_after (s.setDom d 5) 256 _, h.sameRegs _ (by omega), h.sameStores⟩
  · rw [show exec (.domainDrainEnd d) s = execDomainDrainEnd d s from rfl]
    exact if_pos hd
  · rw [(State.after_frame _ _ _).dom, s.dom_setDom_self _ _ (s.ne_zero_of_dom (by omega))]

/-! ### A domain that is on -/

theorem State.reviewDom_staysOn {d : Nat} (h : s.dom d = 2) : (s.reviewDom d).dom d = 2 := by
  have hu (n : Nat) : (s.setUnwanted d n).dom d = 2 := ((s.setUnwanted_frame d n).dom d).trans h
  unfold State.reviewDom
  simp only [h]
  split_ifs with hw hoff
  · simp at hoff
  · exact hu 0
  · exact ((State.at_frame _ _ _).dom d).trans (hu _)
  · exact ((s.after_frame _ _).dom d).trans h
  · exact h

/-- The events held for a domain's consumers are delivered (R126). -/
def State.deliverTo (s : State) (d : Nat) : State :=
  if s.time.fclk then s.each (s.heldCons d) fun s c => s.after 0 (.consumerHeldDeliver (Fin.ofNat 192 c)) else s

/-- A link port whose domain is on trains (R469). -/
def State.trainPort (s : State) (d : Nat) : State :=
  if 24 ≤ d ∧ d < 28 then (s.wfld (0x3504 + 0x40 * (d - 24)) 2 0 1).after (ms 10) (.trainFail (Fin.ofNat 4 (d - 24))) else s

theorem State.domainOn_eq (d : Nat) : s.domainOn d = (((s.setDom d 2).deliverTo d).trainPort d).deferredNow.reviewDom d := rfl

theorem State.settleOn_frame (d : Nat) : Frame [.agenda] anyKey s ((s.deliverTo d).trainPort d).deferredNow := by
  have hd : Frame [.agenda] anyKey s (s.deliverTo d) :=
    .ite (fun _ => Frame.each (fun _ _ u => (u.after_frame _ _).mono) s) fun _ => .refl
  have ht : Frame [.agenda] anyKey (s.deliverTo d) ((s.deliverTo d).trainPort d) :=
    .ite (fun _ => ((State.wfld_frame _ _ _ _ _).mono).then (State.after_frame _ _ _)) fun _ => .refl
  exact (hd.trans ht).then (State.deferredNow_frame _)

/-- A domain that goes on is on, whatever its review finds (R126). -/
theorem State.domainOn_spec {d : Nat} (h : d ≠ 0) : Frame [.agenda, .mode, .doms] anyKey s (s.domainOn d) ∧ (s.domainOn d).dom d = 2 := by
  have hs := (s.setDom d 2).settleOn_frame d
  rw [State.domainOn_eq]
  refine ⟨(((s.setDom_frame d 2).mono).then hs).then (State.reviewDom_frame _ d), State.reviewDom_staysOn _ ?_⟩
  rw [hs.dom, s.dom_setDom_self _ _ h]

theorem domainIsolatedCheck_decides {d : Fin 29} (hd : s.dom d = 5) : Does (.domainIsolatedCheck d) s fun t =>
    t.dom d = (if s.wants d then 2 else 0) ∧ SameStores s t := by
  have h0 := s.ne_zero_of_dom (d := d) (by omega)
  have hx : exec (.domainIsolatedCheck d) s = if s.wants d then ok (s.domainOn d) else ok (s.setDom d 0) := by
    rw [show exec (.domainIsolatedCheck d) s = execDomainIsolatedCheck d s from rfl]
    exact if_pos hd
  cases hw : s.wants d
  case true =>
    obtain ⟨hf, hon⟩ := s.domainOn_spec h0
    exact ⟨_, hx.trans (if_pos hw), hon, hf.sameStores⟩
  case false => exact ⟨_, hx.trans (if_neg (by simp [hw])), s.dom_setDom_self _ _ h0, (s.setDom_frame d 0).sameStores⟩

/-! ### Power-up -/

/-- The live state of a domain lies outside the stores and the modes (R125). -/
theorem State.resetLive_frame (d : Nat) : Frame [.seqs, .aouts, .phaseRefs, .pbs, .trgs, .disp] anyKey s (s.resetLive d) := by
  have hr (l : Tab Word) : Frame [] anyKey s { s with regs := l } :=
    ⟨fun p _ => by cases p <;> simp [State.Keeps], fun k hk => absurd (Nat.zero_le k) hk⟩
  have hq (u : State) : Frame [.seqs] noKey u { u with seqs := [] } := .part rfl
  have hd (u : State) : Frame [.disp] noKey u { u with disp := {} } := .part rfl
  unfold State.resetLive
  refine .ite (fun _ => .refl) fun _ => ?_
  dsimp only
  refine .ite (fun _ => ?_) fun _ => .ite (fun _ => ?_) fun _ => .ite (fun _ => ?_) fun _ => .ite (fun _ => ?_) fun _ =>
    .ite (fun _ => ?_) fun _ => (hr _).mono
  · exact ((hr _).mono).then (hq _)
  · exact ((hr _).mono).then (State.setAo_frame _ _ _)
  · exact (((hr _).mono).then (State.setPb_frame _ _ _)).then (State.setPb_frame _ _ _)
  · exact ((hr _).mono).trans (Frame.each (fun n _ u => (u.setTrg_frame n _).mono) _)
  · exact ((hr _).mono).then (hd _)

theorem State.wakeOn_frame : Frame [.agenda] noKey s s.wakeOn := .ite (fun _ => s.after_frame _ _) fun _ => .refl

theorem domainPowerUpDone_powersUp {d : Fin 29} (hd : s.dom d = 1) : Does (.domainPowerUpDone d) s fun t =>
    t.dom d = 2 ∧ SameStores s t := by
  have hr := s.resetLive_frame d
  obtain ⟨hf, hon⟩ := (s.resetLive d).domainOn_spec (s.ne_zero_of_dom (d := d) (by omega))
  have hw := ((s.resetLive d).domainOn d).wakeOn_frame
  refine ⟨_, ?_, (hw.dom d).trans hon, (hr.sameStores.trans hf.sameStores).trans hw.sameStores⟩
  rw [show exec (.domainPowerUpDone d) s = execDomainPowerUpDone d s from rfl]
  exact if_pos hd

/-- Settles O21, step by step of a domain's sequence. -/
theorem domainsGateAndPowerUp : Obligations.DomainsGateAndPowerUp := fun s _ =>
  ⟨domainGateStart_drains s, domainDrainEnd_isolates s, domainIsolatedCheck_decides s, domainPowerUpDone_powersUp s⟩

end Sys2Proof.Machine
end

section
/-! PROOF. O18: SERVICE is refused with its reason, entered and left (R117 to R119); and what a refused mode request, or one that
waits for the supervisor, leaves (R103, R132). -/

namespace Sys2Proof.Machine

-- Proofs one after another: many that wait in threads of their own would pass the check's memory limit.
set_option Elab.async false

variable (s : State)

/-! ### Requests that wait or are refused -/

theorem State.orWait_waits (c : Instr) {f : State → State} (h : s.rst.coreBusy = true) :
    s.orWait c f = { s with rst := { s.rst with coreWait := s.rst.coreWait ++ [c] } } := if_pos h

theorem State.orWait_acts (c : Instr) {f : State → State} (h : s.rst.coreBusy = false) : s.orWait c f = f s := if_neg (by simp [h])

theorem State.withRst_frame (r : RstSt) : Frame [.rst] noKey s { s with rst := r } := .part rfl

/-- The registers that tell VI `v` of a refused mode request: MODE_STATUS and MODE_REFUSE. -/
abbrev modeRefuseKey (v : Nat) : Nat → Prop := fun k => k = (v + 1) * 0x4000 + 0x404 ∨ k = (v + 1) * 0x4000 + 0x40C

theorem State.refuseMode_frame (v why : Nat) : Frame [.cyc] (modeRefuseKey v) s (s.refuseMode v why) :=
  ((s.wbitv_frame v 0x404 16 true).mono).then (State.wfldv_frame _ v 0x40C 3 0 why)

/-- A refused request sets REFUSED and the reason, and no other register (R103). -/
theorem State.refuseMode_spec (v : Nat) {why : Nat} (h : why < 16) : (s.refuseMode v why).bitv v 0x404 16 = true ∧
    (s.refuseMode v why).fldv v 0x40C 3 0 = why ∧ SameRegs [viKey v 0x404, viKey v 0x40C] s (s.refuseMode v why) := by
  refine ⟨((State.wfldv_frame _ v 0x40C 3 0 why).bitv v 0x404 16).trans (s.bitv_wbitv_self _ _ _ _ (by decide)), ?_,
    (s.refuseMode_frame v why).sameRegs _ (by simp [viKey])⟩
  simp only [State.refuseMode, State.fldv, State.wfldv, State.rdv_wrv_self]
  exact (bf_setFld _ 3 0 why (by decide) (by decide)).trans (Nat.mod_eq_of_lt h)

/-! ### SERVICE -/

theorem exec_serviceRequest (hc : s.rst.coreBusy = false) : exec .serviceRequest s = .next s.askService :=
  congrArg Host.Outcome.next (s.orWait_acts .serviceRequest hc)

theorem serviceRequest_refused_inSafe (hc : s.rst.coreBusy = false) (he : s.mode.eff = .safe) : Does .serviceRequest s fun t =>
    t.bitv 0 0x404 16 = true ∧ t.fldv 0 0x40C 3 0 = 8 ∧ SameRegs [viKey 0 0x404, viKey 0 0x40C] s t := by
  refine ⟨_, exec_serviceRequest s hc, ?_⟩
  rw [State.askService, if_pos he]
  exact s.refuseMode_spec 0 (by decide)

theorem serviceRequest_refused_running (hc : s.rst.coreBusy = false) (he : s.mode.eff ≠ .safe) (hr : s.anyRunning = true) :
    Does .serviceRequest s fun t => t.fldv 0 0x40C 3 0 = 1 ∧ SameRegs [viKey 0 0x404, viKey 0 0x40C] s t := by
  refine ⟨_, exec_serviceRequest s hc, ?_⟩
  rw [State.askService, if_neg he, if_pos hr]
  exact (s.refuseMode_spec 0 (by decide)).2

theorem serviceRequest_refused_timed (hc : s.rst.coreBusy = false) (he : s.mode.eff ≠ .safe) (hr : s.anyRunning = false)
    (ht : s.timedPlayback = true) :
    Does .serviceRequest s fun t => t.fldv 0 0x40C 3 0 = 2 ∧ SameRegs [viKey 0 0x404, viKey 0 0x40C] s t := by
  refine ⟨_, exec_serviceRequest s hc, ?_⟩
  rw [State.askService, if_neg he, if_neg (by simp [hr]), if_pos ht]
  exact (s.refuseMode_spec 0 (by decide)).2

/-- In PRIMED or RUN, with nothing playing or to play at a time, the way to SERVICE begins. -/
theorem State.askService_accepts (he : s.mode.eff = .primed ∨ s.mode.eff = .run) (ht : s.mode.trans = .none)
    (hr : s.anyRunning = false) (hp : s.timedPlayback = false) :
    s.askService = ((s.wfldv 0 0x400 2 0 4).setTrans .toService).after (us 1) .serviceReached := by
  have hns : s.mode.eff ≠ .safe := by rcases he with he | he <;> simp [he]
  rw [State.askService, if_neg hns, if_neg (by simp [hr]), if_neg (by simp [hp])]
  exact if_pos ⟨he, ht⟩

theorem serviceRequest_accepted (hc : s.rst.coreBusy = false) (he : s.mode.eff = .primed ∨ s.mode.eff = .run)
    (ht : s.mode.trans = .none) (hr : s.anyRunning = false) (hp : s.timedPlayback = false) : Does .serviceRequest s fun t =>
      t.mode.trans = .toService ∧ t.fldv 0 0x400 2 0 = 4 ∧ (s.time.mono + us 1, Instr.serviceReached) ∈ t.agenda ∧
        SameRegs [viKey 0 0x400] s t := by
  refine ⟨_, exec_serviceRequest s hc, ?_⟩
  rw [s.askService_accepts he ht hr hp]
  have hw := s.wfldv_frame 0 0x400 2 0 4
  have h : Frame [.mode, .trans, .agenda] noKey (s.wfldv 0 0x400 2 0 4)
      (((s.wfldv 0 0x400 2 0 4).setTrans .toService).after (us 1) .serviceReached) :=
    ((State.setTrans_frame _ _).mono).then (State.after_frame _ _ _)
  refine ⟨rfl, (h.fldv 0 0x400 2 0).trans ?_, State.mem_after ((s.wfldv 0 0x400 2 0 4).setTrans .toService) _ _,
    ((hw.mono (P := [.mode, .trans, .agenda]) (K := (· = viKey 0 0x400))).then h).sameRegs _ (by simp)⟩
  simp only [State.fldv, State.wfldv, State.rdv_wrv_self]
  exact bf_setFld _ 2 0 4 (by decide) (by decide)

theorem serviceReached_serves (ht : s.mode.trans = .toService) : Does .serviceReached s fun t =>
    t.mode.trans = .none ∧ t.mode.eff = .service := by
  refine ⟨(s.setTrans .none).setEff .service, ?_, (State.setEff_frame _ _).keeps .trans (by decide), State.setEff_eff _ _⟩
  rw [show exec .serviceReached s = execServiceReached s from rfl]
  exact if_pos ht

theorem serviceExitDone_leaves (ht : s.mode.trans = .leaveService) (hb : s.serviceBusy = false) : Does .serviceExitDone s fun t =>
    t.mode.trans = .none ∧ (t.mode.eff = .primed ∨ t.mode.eff = .run) := by
  refine ⟨((s.setTrans .none).setEff .primed).reviewMode, ?_,
    State.reviewMode_primed _ (State.setEff_eff _ _) ((State.setEff_frame _ _).keeps .trans (by decide))⟩
  rw [show exec .serviceExitDone s = execServiceExitDone s from rfl]
  exact if_pos ⟨ht, hb⟩

/-- Settles O18: a request by what refuses it or lets it in, and the two ends of a transition. -/
theorem serviceIsEnteredAndLeft : Obligations.ServiceIsEnteredAndLeft := fun s =>
  ⟨fun hc => ⟨serviceRequest_refused_inSafe s hc, serviceRequest_refused_running s hc, serviceRequest_refused_timed s hc,
    serviceRequest_accepted s hc⟩, serviceReached_serves s, serviceExitDone_leaves s⟩

end Sys2Proof.Machine
end

section
/-! PROOF. O17: mode requests, timed mode changes, and the changes of the effective mode (R103, R104, R106, R107, R113, R115, R119). -/

namespace Sys2Proof.Machine

-- Proofs one after another: many that wait in threads of their own would pass the check's memory limit.
set_option Elab.async false

variable (s : State)

/-! ### Requests -/

theorem exec_modeReq {v : Fin 32} {r : BitVec 3} (hc : s.rst.coreBusy = false) :
    exec (.modeReq v r) s = .next (s.askMode v r.toNat) := congrArg Host.Outcome.next (s.orWait_acts (.modeReq v r) hc)

theorem modeReq_waits (v : Fin 32) (r : BitVec 3) (hc : s.rst.coreBusy = true) : Does (.modeReq v r) s fun t =>
    t.rst.coreWait = s.rst.coreWait ++ [.modeReq v r] ∧ SameRegs [] s t ∧ SameStores s t := by
  have h := s.withRst_frame { s.rst with coreWait := s.rst.coreWait ++ [.modeReq v r] }
  exact ⟨_, congrArg Host.Outcome.next (s.orWait_waits (.modeReq v r) hc), rfl, h.sameRegs _ (by omega), h.sameStores⟩

theorem State.fldv_wfldv_req (v : Nat) {r : Nat} (h : r < 8) : (s.wfldv v 0x400 2 0 r).fldv v 0x400 2 0 = r := by
  simp only [State.fldv, State.wfldv, State.rdv_wrv_self]
  exact (bf_setFld _ 2 0 r (by decide) (by decide)).trans (Nat.mod_eq_of_lt h)

/-- A request of 1 to 3 that is no exit from SERVICE. -/
theorem State.askMode_accepts {v r : Nat} (h1 : 1 ≤ r) (h3 : r ≤ 3) (hs : ¬ (v = 0 ∧ s.inService = true)) :
    s.askMode v r = (({ s with mode := { s.mode with svc := s.mode.svc && v != 0 } } : State).wfldv v 0x400 2 0 r).reviewMode := by
  rw [State.askMode, if_pos (by omega), if_neg hs]

theorem modeReq_stands {v : Fin 32} {r : BitVec 3} (hc : s.rst.coreBusy = false) (h1 : 1 ≤ r.toNat) (h3 : r.toNat ≤ 3)
    (hs : ¬ (v = 0 ∧ s.inService = true)) : Does (.modeReq v r) s fun t => t.fldv v 0x400 2 0 = r.toNat ∧ SameStores s t := by
  have hv : ¬ (v.val = 0 ∧ s.inService = true) := fun h => hs ⟨Fin.ext h.1, h.2⟩
  have hm : Frame [.mode, .svc] noKey s { s with mode := { s.mode with svc := s.mode.svc && v.val != 0 } } := .part rfl
  refine ⟨_, exec_modeReq s hc, ?_⟩
  rw [s.askMode_accepts h1 h3 hv]
  have hr := State.reviewMode_frame
    (({ s with mode := { s.mode with svc := s.mode.svc && v.val != 0 } } : State).wfldv v 0x400 2 0 r.toNat)
  exact ⟨(hr.fldv v 0x400 2 0).trans (State.fldv_wfldv_req _ _ (by omega)),
    (hm.sameStores.trans (State.wfldv_frame _ v 0x400 2 0 _).sameStores).trans hr.sameStores⟩

theorem modeReq_refused_service {v : Fin 32} {r : BitVec 3} (hc : s.rst.coreBusy = false) (hr : r = 4) (hv : v ≠ 0) :
    Does (.modeReq v r) s fun t => t.bitv v 0x404 16 = true ∧ t.fldv v 0x40C 3 0 = 5 ∧
      SameRegs [viKey v 0x404, viKey v 0x40C] s t := by
  have hv0 : v.val ≠ 0 := fun h => hv (Fin.ext h)
  refine ⟨_, exec_modeReq s hc, ?_⟩
  rw [hr, State.askMode, if_neg (by decide), if_pos (by decide), if_neg hv0]
  exact s.refuseMode_spec v (by decide)

theorem modeReq_refused_code {v : Fin 32} {r : BitVec 3} (hc : s.rst.coreBusy = false) (hr : r = 0 ∨ 4 < r.toNat) :
    Does (.modeReq v r) s fun t => t.bitv v 0x404 16 = true ∧ t.fldv v 0x40C 3 0 = 6 ∧
      SameRegs [viKey v 0x404, viKey v 0x40C] s t := by
  have hn : r.toNat = 0 ∨ 4 < r.toNat := hr.imp_left fun h => by rw [h]; rfl
  refine ⟨_, exec_modeReq s hc, ?_⟩
  rw [State.askMode, if_neg (by omega), if_neg (by omega)]
  exact s.refuseMode_spec v (by decide)

/-- An exit from SERVICE is under way, with SERVICE in force until its work is done (R119). -/
theorem State.leaveService_spec {r : Nat} (h : r < 8) : (s.leaveService r).mode.trans = .leaveService ∧
    (s.leaveService r).mode.eff = .service ∧ (s.leaveService r).fldv 0 0x400 2 0 = r := by
  have he := State.setEff_frame (s.wfldv 0 0x400 2 0 r) .service
  have ht := State.setTrans_frame ((s.wfldv 0 0x400 2 0 r).setEff .service) .leaveService
  have hl : Frame [.agenda] noKey (((s.wfldv 0 0x400 2 0 r).setEff .service).setTrans .leaveService) (s.leaveService r) :=
    .ite (fun _ => .refl) fun _ => State.after_frame _ _ _
  refine ⟨hl.keeps .trans (by decide), ?_, ?_⟩
  · exact Eq.trans (hl.keeps .eff (by decide)) (Eq.trans (ht.keeps .eff (by decide)) (State.setEff_eff _ _))
  · rw [hl.fldv 0 0x400 2 0, ht.fldv 0 0x400 2 0, he.fldv 0 0x400 2 0]
    exact s.fldv_wfldv_req 0 h

theorem serviceExit_begins {r : BitVec 3} (hc : s.rst.coreBusy = false) (h1 : 1 ≤ r.toNat) (h3 : r.toNat ≤ 3)
    (hs : s.inService = true) : Does (.serviceExit r) s fun t =>
      t.mode.trans = .leaveService ∧ t.mode.eff = .service ∧ t.fldv 0 0x400 2 0 = r.toNat := by
  refine ⟨s.askMode 0 r.toNat, congrArg Host.Outcome.next (s.orWait_acts (.serviceExit r) hc), ?_⟩
  rw [State.askMode, if_pos (by omega), if_pos ⟨rfl, hs⟩]
  exact s.leaveService_spec (by omega)

/-! ### Timed mode changes -/

theorem actId_mode_inst (v : Fin 32) : (actId 8 v).inst.val = v.val := by
  simp only [actId, Fin.ofNat_eq_cast, Fin.val_natCast]
  omega

theorem State.markArmed_mode (v : Fin 32) (b : Bool) :
    s.markArmed (actId 8 v) b = s.wrv v 0x440 (setBit (s.rdv v 0x440) 0 b) := by
  simp only [State.markArmed, armedBit, actId_mode_inst, show (actId 8 v).kind.val = 8 from rfl]
  rfl

/-- The ARMED bit of a timed mode change reads as marked. -/
theorem State.markArmed_mode_spec (v : Fin 32) (b : Bool) : let t := s.markArmed (actId 8 v) b
    Frame [] (· = viKey v 0x440) s t ∧ t.bitv v 0x440 0 = b := by
  simp only [State.markArmed_mode]
  refine ⟨s.wrv_frame _ _ _, ?_⟩
  rw [State.bitv, State.rdv_wrv_self]
  exact tb_setBit_self _ 0 b (by decide)

/-- A timed mode change needs the fabric's domain alone (R40). -/
theorem Frame.modeActReady {P : List Aspect} {K : Nat → Prop} {s t : State} (h : Frame P K s t) (v : Fin 32)
    (ht : Aspect.time ∉ P) (hd : Aspect.doms ∉ P) : t.actReady (actId 8 v) = s.actReady (actId 8 v) := by
  have hdoms (u : State) : u.actDoms (actId 8 v) = [2] := rfl
  simp only [State.actReady, hdoms, State.domOn, List.all_cons, List.all_nil, h.dom 2 hd, show t.time = s.time from h.keeps .time ht]

/-- A timed mode change armed in time stands as armed, judged (R41, R107). -/
theorem State.armAct_mode_inTime (v : Fin 32) (x : Act) (hr : s.actReady (actId 8 v) = true) (hl : 2048 ≤ lead x.target s.now) :
    let t := s.armAct (actId 8 v) x
    t.act (actId 8 v) = { x with defer := false } ∧ t.bitv v 0x440 0 = true := by
  obtain ⟨hm, hb⟩ := (s.setAct (actId 8 v) x).markArmed_mode_spec v true
  have hf := ((s.setAct_frame (actId 8 v) x).mono (P := [.acts]) (K := (· = viKey v 0x440))).then hm
  have hr' := (hf.modeActReady v (by decide) (by decide)).trans hr
  unfold State.armAct
  generalize (s.setAct (actId 8 v) x).markArmed (actId 8 v) true = u at hf hb hr'
  have hnow : u.now = s.now := by simp only [State.now, show u.time = s.time from hf.keeps .time (by decide)]
  rw [if_pos hr', hnow, u.judge_inTime _ _ _ hl]
  exact ⟨State.act_setAct_self _ _ _, ((u.setAct_frame _ _).bitv v 0x440 0).trans hb⟩

theorem modeTmcArm_refused {v : Fin 32} (h : s.fldv v 0x43C 2 0 = 0 ∨ 3 < s.fldv v 0x43C 2 0) : Does (.modeTmcArm v) s fun t =>
    t.bitv v 0x404 16 = true ∧ t.fldv v 0x40C 3 0 = 6 ∧ SameRegs [viKey v 0x404, viKey v 0x40C] s t := by
  refine ⟨s.refuseMode v 6, ?_, s.refuseMode_spec v (by decide)⟩
  rw [show exec (.modeTmcArm v) s = execModeTmcArm v s from rfl]
  exact if_pos h

theorem modeTmcArm_arms {v : Fin 32} (h1 : 1 ≤ s.fldv v 0x43C 2 0) (h3 : s.fldv v 0x43C 2 0 ≤ 3)
    (hr : s.actReady (actId 8 v) = true) (hl : 2048 ≤ lead (cat64 (s.rdv v 0x438) (s.rdv v 0x434)) s.now) :
    Does (.modeTmcArm v) s fun t => t.act (actId 8 v) =
      { armed := true, target := cat64 (s.rdv v 0x438) (s.rdv v 0x434), drop := s.bitv v 0x43C 4, data := s.fldv v 0x43C 2 0 } ∧
      t.bitv v 0x440 0 = true := by
  refine ⟨(s.arm (actId 8 v) (cat64 (s.rdv v 0x438) (s.rdv v 0x434)) (s.bitv v 0x43C 4) (s.fldv v 0x43C 2 0)).reviewMode, ?_, ?_⟩
  · rw [show exec (.modeTmcArm v) s = execModeTmcArm v s from rfl]
    exact if_neg (show ¬ (s.fldv v 0x43C 2 0 = 0 ∨ 3 < s.fldv v 0x43C 2 0) by omega)
  · obtain ⟨ha, hb⟩ := s.armAct_mode_inTime v
      { armed := true, target := cat64 (s.rdv v 0x438) (s.rdv v 0x434), drop := s.bitv v 0x43C 4, defer := true, data := s.fldv v 0x43C 2 0 }
      hr hl
    exact ⟨((State.reviewMode_frame _).act _).trans ha, ((State.reviewMode_frame _).bitv v 0x440 0).trans hb⟩

/-- A disarmed mode change holds nothing, and its other flags stay. -/
theorem State.disarm_mode (v : Fin 32) : let t := s.disarm (actId 8 v)
    Frame [.acts] (· = viKey v 0x440) s t ∧ t.act (actId 8 v) = {} ∧ t.bitv v 0x440 0 = false := by
  obtain ⟨hm, hb⟩ := (s.setAct (actId 8 v) {}).markArmed_mode_spec v false
  exact ⟨((s.setAct_frame (actId 8 v) {}).mono).then hm, (hm.act _).trans (State.act_setAct_self _ _ _), hb⟩

theorem modeTmcDisarm_disarms (v : Fin 32) : Does (.modeTmcDisarm v) s fun t =>
    t.act (actId 8 v) = {} ∧ t.bitv v 0x440 0 = false := by
  obtain ⟨-, ha, hb⟩ := s.disarm_mode v
  have hr := (s.disarm (actId 8 v)).reviewMode_frame
  exact ⟨_, rfl, (hr.act _).trans ha, (hr.bitv v 0x440 0).trans hb⟩

theorem modeTmcFire_requests {v : Fin 32} (h : s.Due (actId 8 v)) : Does (.modeTmcFire v) s fun t => t.act (actId 8 v) = {} ∧
    t.fldv v 0x400 2 0 = (s.act (actId 8 v)).data % 8 ∧ t.bitv v 0x440 1 = true := by
  refine ⟨(((((s.disarm (actId 8 v)).wbitv v 0x440 1 true).wfldv v 0x400 2 0 (s.act (actId 8 v)).data).touch (viKey v 0x400)
    7).reviewMode), ?_, ?_⟩
  · rw [show exec (.modeTmcFire v) s = execModeTmcFire v s from rfl]
    exact if_pos (by rw [h.1, h.2]; rfl)
  · obtain ⟨-, ha, -⟩ := s.disarm_mode v
    generalize s.disarm (actId 8 v) = u at ha
    have hw := State.wfldv_frame (u.wbitv v 0x440 1 true) v 0x400 2 0 (s.act (actId 8 v)).data
    have ht := State.touch_frame ((u.wbitv v 0x440 1 true).wfldv v 0x400 2 0 (s.act (actId 8 v)).data) (viKey v 0x400) 7
    have hr := State.reviewMode_frame
      (((u.wbitv v 0x440 1 true).wfldv v 0x400 2 0 (s.act (actId 8 v)).data).touch (viKey v 0x400) 7)
    refine ⟨?_, ?_, ?_⟩
    · rw [hr.act, ht.act, hw.act, (u.wbitv_frame _ _ _ _).act, ha]
    · rw [hr.fldv v 0x400 2 0, ht.fldv v 0x400 2 0]
      simp only [State.fldv, State.wfldv, State.rdv_wrv_self]
      exact bf_setFld _ 2 0 _ (by decide) (by decide)
    · rw [hr.bitv v 0x440 1, ht.bitv v 0x440 1, hw.bitv v 0x440 1, u.bitv_wbitv_self _ _ _ _ (by decide)]

/-! ### Wake points and raises -/

/-- What follows a wake point: a wake where the device sleeps or is on its way to it, a review of the mode elsewhere (R113, R115). -/
def State.primeFollow (s : State) : State :=
  match s.mode.trans with
  | .descent _ | .toShelf => s.wakeBy .sched
  | _ => if s.awake then s.reviewMode else s.wakeBy .sched

theorem exec_primeWakePoint {a : ActId} (hp : s.primes (a.kind.val * 512 + a.inst.val) (s.act a) = true)
    (hn : (s.act a).primed = false) (hw : s.wakePoint (s.act a).target ≤ s.time.mono) :
    exec (.primeWakePoint a) s = .next (s.setAct a { s.act a with primed := true }).primeFollow := by
  rw [show exec (.primeWakePoint a) s = execPrimeWakePoint a s from rfl, execPrimeWakePoint]
  dsimp only
  rw [if_pos (by simp [hp, hn, hw])]
  generalize s.setAct a { s.act a with primed := true } = u
  unfold State.primeFollow
  cases u.mode.trans with
  | descent _ | toShelf => rfl
  | none | shelfExit | waking | toService | leaveService => exact (apply_ite ok _ _ _).symm

theorem State.primeFollow_frame : Frame [.cyc, .out, .agenda, .mode, .eff, .trans, .doms, .syn, .rst, .host, .mem]
    (fun k => pendKey k ∨ k = 0x430) s s.primeFollow := by
  unfold State.primeFollow
  split
  · exact (s.wakeBy_frame _).mono
  · exact (s.wakeBy_frame _).mono
  · exact .ite (fun _ => (s.reviewMode_frame).mono) fun _ => (s.wakeBy_frame _).mono

/-- In LISTEN a wake point wakes the device (R113). -/
theorem State.primeFollow_wakes (he : s.mode.eff = .listen) (ht : s.mode.trans = .none) (hc : s.rst.coreBusy = false) :
    s.primeFollow.mode.trans = .waking := by
  have hf : s.primeFollow = s.wakeBy .sched := by simp [State.primeFollow, ht, State.awake, he]
  rw [hf, s.wakeBy_listen .sched he ht hc]
  exact (s.startWake_starts _ _).1

theorem primeWakePoint_primes {a : ActId} (hp : s.primes (a.kind.val * 512 + a.inst.val) (s.act a) = true)
    (hn : (s.act a).primed = false) (hw : s.wakePoint (s.act a).target ≤ s.time.mono) : Does (.primeWakePoint a) s fun t =>
      t.act a = { s.act a with primed := true } ∧
        (s.mode.eff = .listen → s.mode.trans = .none → s.rst.coreBusy = false → t.mode.trans = .waking) :=
  ⟨_, exec_primeWakePoint s hp hn hw, ((State.primeFollow_frame _).act a).trans (s.act_setAct_self _ _),
    State.primeFollow_wakes (s.setAct a { s.act a with primed := true })⟩

theorem timedRunRaise_raises {a : ActId} (ha : (s.act a).armed = true) (hr : (s.act a).raised = false)
    (hk : a.kind.val = 3 ∨ a.kind.val = 5 ∨ a.kind.val = 6) (hl : lead (s.act a).target s.now ≤ 256) :
    Does (.timedRunRaise a) s fun t => t.act a = { s.act a with raised := true } := by
  refine ⟨(s.setAct a { s.act a with raised := true }).reviewMode, ?_, ((State.reviewMode_frame _).act a).trans (s.act_setAct_self _ _)⟩
  rw [show exec (.timedRunRaise a) s = execTimedRunRaise a s from rfl]
  exact if_pos (by rcases hk with hk | hk | hk <;> simp [ha, hr, hk, hl])

/-! ### The effective mode -/

/-- The review of PRIMED: the raise to RUN, the descent, or nothing (R104, R106, R115). -/
theorem State.reviewMode_inPrimed (hp : s.rst.phase = 5) (hc : s.rst.coreBusy = false) (ht : s.mode.trans = .none)
    (he : s.mode.eff = .primed) : s.reviewMode =
      if s.wantedMode = 3 then (if s.mode.runAt ≤ s.time.mono then s.setEff .run else s)
      else if s.wantedMode = 1 then s.after 0 .descentStart else s := by
  rw [State.reviewMode, if_neg (by simp [hp, hc, ht]), he]

theorem holdExpiry_descends (hp : s.rst.phase = 5) (hc : s.rst.coreBusy = false) (ht : s.mode.trans = .none)
    (he : s.mode.eff = .primed) (hw : s.wantedMode = 1) : Does .holdExpiry s fun t =>
      (s.time.mono, Instr.descentStart) ∈ t.agenda := by
  refine ⟨s.reviewMode, rfl, ?_⟩
  rw [s.reviewMode_inPrimed hp hc ht he, if_neg (by omega), if_pos hw]
  exact s.mem_after 0 .descentStart

theorem holdExpiry_raises (hp : s.rst.phase = 5) (hc : s.rst.coreBusy = false) (ht : s.mode.trans = .none)
    (he : s.mode.eff = .primed) (hw : s.wantedMode = 3) (hr : s.mode.runAt ≤ s.time.mono) : Does .holdExpiry s fun t =>
      t.mode.eff = .run := by
  refine ⟨s.reviewMode, rfl, ?_⟩
  rw [s.reviewMode_inPrimed hp hc ht he, if_pos hw, if_pos hr]
  exact s.setEff_eff _

theorem State.startDescent_frame (shelf : Bool) : Frame [.mode, .trans, .agenda] noKey s (s.startDescent shelf) :=
  (((s.setTrans_frame _).mono).trans (Frame.each (fun _ _ u => (u.after_frame _ _).mono) _)).then (State.at_frame _ _ _)

/-- A descent is under way, and ends at the keeper edge (R18, R115). -/
theorem State.startDescent_spec (shelf : Bool) : (s.startDescent shelf).mode.trans = .descent shelf ∧
    (s.time.nextKeep, Instr.listenReached) ∈ (s.startDescent shelf).agenda := by
  have hc : Frame [.agenda] noKey (s.setTrans (.descent shelf)) (s.setTrans (.descent shelf)).closePorts :=
    Frame.each (fun _ _ u => u.after_frame _ _) _
  exact ⟨hc.keeps .trans (by decide), by simp [State.startDescent, State.at_]⟩

theorem descentStart_descends (hp : s.rst.phase = 5) (ht : s.mode.trans = .none) (he : s.mode.eff = .primed)
    (hw : s.wantedMode = 1) (hd : s.mayDescend = true) : Does .descentStart s fun t =>
      t.mode.trans = .descent false ∧ (s.time.nextKeep, Instr.listenReached) ∈ t.agenda ∧ SameRegs [] s t ∧ SameStores s t := by
  have hf := s.startDescent_frame false
  obtain ⟨hto, hat⟩ := s.startDescent_spec false
  refine ⟨s.startDescent false, ?_, hto, hat, hf.sameRegs _ (by omega), hf.sameStores⟩
  rw [show exec .descentStart s = execDescentStart s from rfl]
  exact if_pos ⟨he, ht, hp, hw, hd⟩

/-! ### The fall from RUN -/

theorem State.setEff_mode (m : Mode) : (s.setEff m).mode = { s.mode with eff := m } := by
  have hp (u : State) : (u.pendAll 24).mode = u.mode := (u.pendAll_frame 24).keeps .mode (by decide)
  unfold State.setEff
  split
  · next h => rw [← h]
  · exact hp _

/-- What runs is told by registers of the device that no interrupt touches. -/
theorem Frame.anyRunning {P : List Aspect} {s t : State} (h : Frame P pendKey s t) : t.anyRunning = s.anyRunning := by
  have any {f g : Nat → Bool} (n : Nat) (hfg : ∀ k < n, f k = g k) : (List.range n).any f = (List.range n).any g := by
    rw [Bool.eq_iff_iff]
    simp only [List.any_eq_true, List.mem_range]
    exact exists_congr fun k => and_congr_right fun hk => by rw [hfg k hk]
  unfold State.anyRunning
  rw [any 16 fun k hk => show t.seqOn k = s.seqOn k by simp only [State.seqOn, State.seqState, h.fld (seqR k + 8) 1 0],
    any 8 fun k hk => show (t.pbState k != 0) = (s.pbState k != 0) by simp only [State.pbState, h.fld (pbR k + 8) 1 0],
    show t.dispState = s.dispState from h.fld 0x2C08 1 0]

/-- What is wanted does not hang on the mode in force (R104). -/
theorem State.setEff_wantedMode (m : Mode) : (s.setEff m).wantedMode = s.wantedMode := by
  have h := s.setEff_frame m
  have hreq : (s.setEff m).reqCode = s.reqCode := by
    funext v
    simp only [State.reqCode, h.fldv v 0x400 2 0]
  unfold State.wantedMode
  rw [hreq, s.setEff_mode, h.anyRunning, show (s.setEff m).acts = s.acts from h.keeps .acts (by decide),
    show (s.setEff m).time = s.time from h.keeps .time (by decide), show (s.setEff m).cal = s.cal from h.keeps .cal (by decide)]

/-- PRIMED stays while nothing calls for RUN. -/
theorem State.reviewMode_belowRun (he : s.mode.eff = .primed) (hw : s.wantedMode < 3) : s.reviewMode.mode.eff = .primed := by
  unfold State.reviewMode
  split
  · exact he
  · simp only [he, if_neg (show ¬ s.wantedMode = 3 by omega)]
    split <;> exact he

theorem runFall_falls (he : s.mode.eff = .run) (ht : s.mode.trans = .none) (hw : s.wantedMode < 3) :
    Does .runFall s fun t => t.mode.eff = .primed := by
  refine ⟨(s.setEff .primed).reviewMode, ?_, State.reviewMode_belowRun _ (s.setEff_eff _) (by rwa [s.setEff_wantedMode])⟩
  rw [show exec .runFall s = execRunFall s from rfl]
  exact if_pos ⟨he, ht, hw⟩

/-- Settles O17: a request by its code and its VI, a timed mode change by its command, and the effective mode by what calls for it. -/
theorem modesAreRequestedAndScheduled : Obligations.ModesAreRequestedAndScheduled :=
  ⟨fun s v r => ⟨modeReq_waits s v r, modeReq_stands s, modeReq_refused_service s, modeReq_refused_code s, serviceExit_begins s⟩,
   fun s v => ⟨modeTmcArm_refused s, modeTmcArm_arms s, modeTmcDisarm_disarms s v, modeTmcFire_requests s⟩,
   fun s => ⟨fun _ _ => primeWakePoint_primes s, fun _ _ => timedRunRaise_raises s,
    fun hp hc ht he => ⟨holdExpiry_descends s hp hc ht he, holdExpiry_raises s hp hc ht he, descentStart_descends s hp ht he⟩,
    runFall_falls s⟩⟩

end Sys2Proof.Machine
end

section
/-! SUPPORT. What halting and the SAFE posture do: every sequencer stands halted, SAFE_N is low, and SAFE's count and time are taken
(R121, R282). -/

namespace Sys2Proof.Machine

-- Proofs one after another: many that wait in threads of their own would pass the check's memory limit.
set_option Elab.async false

variable (s : State)

/-! ### Every sequencer halts -/

/-- The registers that what a halting sequencer drives and holds may write, beside its own STATUS. -/
abbrev haltedKey (k : Nat) : Nat → Prop := fun j => 0x1800 ≤ j ∨ j = 0x1044 + 0x80 * k

/-- The registers that a halt of sequencer `k` may write. -/
abbrev haltKey (k : Nat) : Nat → Prop := fun j => haltedKey k j ∨ j = 0x1008 + 0x80 * k

theorem State.parkAout_outKey (n : Nat) : Frame haltParts (0x1800 ≤ ·) s (s.parkAout n) :=
  ((s.wbit_frame (aoutR n + 0x2C) 2 true).mono).then (State.setAo_frame _ _ _)

theorem State.stopBank_outKey (k : Nat) : Frame haltParts (0x1800 ≤ ·) s (s.stopBank k) := by
  unfold State.stopBank State.parkBank
  exact (((s.wfld_frame (pbR k + 8) 1 0 0).mono).then (State.setPb_frame _ k _)).then (State.setPb_frame _ k _)

theorem State.releaseSems_outKey (p : SemSt → Bool) (ab : Bool) : Frame haltParts (0x1800 ≤ ·) s (s.releaseSems p ab) := by
  refine Frame.each (fun e _ u => ?_) s
  have h : Frame haltParts (0x1800 ≤ ·) u (u.setSem e.1 { owner := none, epoch := 0, abandoned := ab }) := (u.setSem_frame _ _).mono
  dsimp only
  split
  · exact .ite (fun _ => h.then (State.pend_frame _ _ 8)) fun _ => h
  · exact h

theorem State.clearMarkers_haltedKey (k : Nat) : Frame haltParts (haltedKey k) s (s.clearMarkers k) := by
  have h : Frame [.fab, .inflight] noKey s (s.each (List.range 4) fun s m => s.setLevel (4 * k + m) false) :=
    Frame.each (fun m _ u => u.setLevel_frame _ false) s
  exact ((h.mono).then (State.wfld_frame _ (seqR k + 0x44) 11 8 0)).then (State.setSq_frame _ k _)

/-- A sequencer that has halted reads HALTED, and only registers of its own and of what it drives were written (R282). -/
theorem State.haltSeq_spec (k why : Nat) : Frame haltParts (haltKey k) s (s.haltSeq k why) ∧
    (k < 16 → (s.haltSeq k why).seqState k = 0) := by
  unfold State.haltSeq
  split
  · next hoff => exact ⟨.refl, fun _ => by simpa [State.seqOn] using hoff⟩
  extract_lets x plays s1 s2 s3 s4 s5 s6 s7 y s8 s9
  have h2 : Frame haltParts (haltKey k) s s2 :=
    (((s.wfld_frame (seqR k + 8) 1 0 0).mono).then (State.wfld_frame _ (seqR k + 8) 27 24 why)).then
      (State.wbit_frame s1 (seqR k + 8) 18 false)
  have hz : s2.seqState k = 0 := by
    rw [State.seqState, State.fld_wbit_ne _ _ _ (by decide) (by decide), State.fld_wfld_ne _ _ _ (by decide) (by decide) (by decide)]
    exact s.fld_wfld_self (seqR k + 8) 1 0 0 (by decide) (by decide)
  have h3 : Frame haltParts (haltedKey k) s2 s3 := by
    refine Frame.each (fun n _ u => ?_) s2
    have h : Frame haltParts (haltedKey k) u (((u.endLists n).parkAout n).wbit (aoutR n + 0x2C) 0 false) :=
      (((u.setAo_frame n _).mono).then (State.parkAout_outKey _ n)).then (State.wbit_frame _ (aoutR n + 0x2C) 0 false)
    exact .ite (fun _ => h.then (State.setAo_frame _ n _)) fun _ => h
  have h4 : Frame haltParts (haltedKey k) s3 s4 := Frame.each (fun b _ u => (u.stopBank_outKey b).mono) s3
  have h5 : Frame haltParts (haltedKey k) s4 s5 := (s4.clearMarkers_haltedKey k).then (State.fireP_frame _ _)
  have h7 : Frame haltParts (haltedKey k) s5 s7 :=
    (((s5.wr_frame 0x1824 _).mono).then (State.wbit_frame s6 (0x1840 + 4 * k) 17 false)).then (State.releaseHeads_frame _ k)
  have h9 : Frame haltParts (haltedKey k) s7 s9 := ((s7.setSq_frame k _).mono).then (State.releaseSems_outKey s8 _ _)
  have h := ((((h3.trans h4).trans h5).trans h7).trans h9).then (State.pendOwner_frame s9 .seq k 9)
  have hr := h.then (State.noteStop_frame _)
  exact ⟨h2.then hr, fun hk => (hr.fld (seqR k + 8) 1 0).trans hz⟩

/-- Of the sequencers below 16, those named and those halted before stand halted after. -/
theorem State.haltAll_seqState (why : Nat) {k : Nat} (hk : k < 16) (l : List Nat) :
    k ∈ l ∨ s.seqState k = 0 → (s.each l fun s k => s.haltSeq k why).seqState k = 0 := by
  induction l generalizing s with
  | nil => simp
  | cons a l ih =>
    intro h
    obtain ⟨hf, hz⟩ := s.haltSeq_spec a why
    refine ih _ ?_
    by_cases hka : k = a
    · exact .inr (hka ▸ hz (hka ▸ hk))
    · refine h.imp (fun h => (List.mem_cons.mp h).resolve_left hka) fun h => ?_
      exact (hf.fld (seqR k + 8) 1 0).trans h

/-- Parking everything halts every sequencer, and writes none of the registers below the sequencers' (R121). -/
theorem State.parkAll_spec (why : Nat) : Frame haltParts (0x1000 ≤ ·) s (s.parkAll why) ∧ ∀ k < 16, (s.parkAll why).seqState k = 0 := by
  unfold State.parkAll
  extract_lets s1 s2 s3
  have h1 : Frame haltParts (0x1000 ≤ ·) s s1 := Frame.each (fun k _ u => ((u.haltSeq_spec k why).1).mono) s
  have h2 : Frame haltParts (0x1800 ≤ ·) s1 s2 := Frame.each (fun n _ u => u.parkAout_outKey n) s1
  have h3 : Frame haltParts (0x1800 ≤ ·) s2 s3 := Frame.each (fun k _ u => u.stopBank_outKey k) s2
  have h4 : Frame haltParts (0x1800 ≤ ·) s3 (s3.each (List.range 8) fun s n => s.cutTrg n) :=
    Frame.each (fun n _ u => ((u.setTrg_frame n _).mono).then (State.wbit_frame _ (trgR n + 8) 1 false)) s3
  have h := (h2.trans h3).trans h4
  exact ⟨h1.then h, fun k hk => (h.fld (seqR k + 8) 1 0).trans
    (s.haltAll_seqState why hk _ (.inl (List.mem_range.mpr hk)))⟩

/-! ### SAFE disarms -/

/-- The flags of an action that stand in a sequencer's STATUS lie above its STATE. -/
theorem armedBit_above_state {kind i j b k : Nat} (h : armedBit kind i = some (j, b)) (hj : j = seqR k + 8) (hk : k < 16) :
    2 ≤ b ∧ b < 32 := by
  unfold armedBit at h
  simp only [devKey, viKey, seqR] at h hj
  split_ifs at h <;> simp only [Option.some.injEq, Prod.mk.injEq] at h <;> omega

theorem lateRegs_above_state {kind i j lb db lr : Nat} (h : lateRegs kind i = some (j, lb, db, lr)) : 2 ≤ db ∧ db < 32 := by
  unfold lateRegs at h
  split_ifs at h <;> simp only [Option.some.injEq, Prod.mk.injEq] at h <;> omega

/-- A bit written above the STATE of sequencer `k`, or in another register, leaves the STATE. -/
theorem State.setKey_setBit_seqState {j i k : Nat} (b : Bool) (h : j = seqR k + 8 → 2 ≤ i ∧ i < 32) :
    (s.setKey j (setBit (s.getKey j) i b)).seqState k = s.seqState k := by
  simp only [State.seqState, State.fld, State.rd]
  by_cases hj : j = seqR k + 8
  · rw [hj, State.getKey_setKey_self]
    exact bf_setBit_ne _ _ (h hj).2 (.inr (h hj).1)
  · rw [State.getKey_setKey_ne _ _ (Ne.symm hj)]

theorem State.disarm_seqState (a : ActId) {k : Nat} (hk : k < 16) : (s.disarm a).seqState k = s.seqState k := by
  unfold State.disarm State.markArmed
  split
  · next j i h => exact State.setKey_setBit_seqState _ _ fun hj => armedBit_above_state h hj hk
  · rfl

theorem State.safeDisarm_seqState {k : Nat} (hk : k < 16) : s.safeDisarm.seqState k = s.seqState k := by
  refine State.each_keeps s (fun u => u.seqState k) _ (fun u e => ?_) _
  have h : ((u.disarm (actId (e.1 / 512) (e.1 % 512))).incSat 0x420 1).seqState k = u.seqState k :=
    ((State.incSat_frame _ 0x420 1).fld (seqR k + 8) 1 0).trans (u.disarm_seqState _ hk)
  dsimp only
  split
  · next hl => exact (State.setKey_setBit_seqState _ true fun _ => lateRegs_above_state hl).trans h
  · exact h

/-- The registers that SAFE's disarming may write: its count, and those of the actions. -/
theorem State.safeDisarm_lowKey : Frame [.cyc, .acts] (fun k => k = 0x420 ∨ 0x580 ≤ k) s s.safeDisarm := by
  refine Frame.each (fun e _ u => ?_) s
  have h : Frame [.cyc, .acts] (fun k => k = 0x420 ∨ 0x580 ≤ k) u ((u.disarm (actId (e.1 / 512) (e.1 % 512))).incSat 0x420 1) :=
    ((u.disarm_frame _).mono).then (State.tally_frame _ (devKey 0x420) _)
  dsimp only
  split
  · next k lb db lr hl =>
    have hk := (lateRegs_lateKey (Nat.mod_lt _ (by decide)) hl).1
    exact (h.then (State.setKey_frame _ k _)).then (State.touch_frame _ _ _)
  · exact h

/-! ### The posture -/

/-- From `s` the device has entered SAFE (R121): every sequencer is halted, SAFE_N is low, and the entry's count and time are taken. -/
abbrev State.EntersSafe (s t : State) : Prop :=
  t.mode.eff = .safe ∧ t.mode.safeN = false ∧ (∀ k < 16, t.seqOn k = false) ∧ t.rd 0x41C = satAdd (s.rd 0x41C) 1 ∧
    t.rd64 0x424 0x428 = s.now

/-- An entry counts from any state with the same count and the same time. -/
theorem Frame.entersSafe {P : List Aspect} {K : Nat → Prop} {s u t : State} (h : Frame P K s u) (ht : u.EntersSafe t)
    (hk : ¬ K 0x41C) (hP : Aspect.time ∉ P := by decide) : s.EntersSafe t := by
  have hnow : u.now = s.now := by simp only [State.now, show u.time = s.time from h.keeps .time hP]
  simpa only [State.EntersSafe, hnow, h.rd 0x41C hk] using ht

/-- The posture but for what it disarms and whom it tells. -/
def State.safeFall (s : State) : State :=
  let s := (s.parkAll 6).setTrans .none
  let s := ({ s with mode := { s.mode with safeN := false, wakeAfter := [], svc := false } }).setEff .safe
  ((s.fireP 173).incSat 0x41C 1).wr64 0x424 0x428 s.now

theorem State.safePosture_eq : s.safePosture = (s.safeFall.safeDisarm.pendAll 12).after 0 (.calAbort .safe) := rfl

theorem State.safeFall_spec : s.EntersSafe s.safeFall ∧ s.safeFall.rd 0x418 = s.rd 0x418 := by
  have hm (u : State) : Frame [.mode, .svc] noKey u { u with mode := { u.mode with safeN := false, wakeAfter := [], svc := false } } :=
    .part rfl
  unfold State.safeFall
  extract_lets s1 m s2
  have h1 : Frame (.mode :: .trans :: haltParts) (0x1000 ≤ ·) s s1 := (((s.parkAll_spec 6).1).mono).then (State.setTrans_frame _ _)
  have hz : ∀ k < 16, s1.seqState k = 0 := fun k hk =>
    ((State.setTrans_frame (s.parkAll 6) .none).fld (seqR k + 8) 1 0).trans ((s.parkAll_spec 6).2 k hk)
  clear_value s1
  have h2 : Frame [.mode, .svc, .cyc, .out, .eff] pendKey s1 s2 := ((hm s1).mono).then (State.setEff_frame _ _)
  have hm2 : s2.mode = _ := State.setEff_mode _ _
  have he : s2.mode.eff = .safe := congrArg ModeSt.eff hm2
  have hn : s2.mode.safeN = false := congrArg ModeSt.safeN hm2
  clear hm2
  clear_value s2
  have h := (h1.mono (P := safeParts)).then h2
  have h3 : Frame [.cyc, .fab, .inflight] (fun k => k = 0x41C ∨ k = 0x424 ∨ k = 0x428) s2
      (((s2.fireP 173).incSat 0x41C 1).wr64 0x424 0x428 s2.now) :=
    ((((s2.fireP_frame 173).mono).then (State.incSat_frame _ 0x41C 1)).then (State.wr_frame _ 0x424 _)).then (State.wr_frame _ 0x428 _)
  have hmode := h3.keeps .mode (by decide)
  have hnow : s2.now = s.now := by simp only [State.now, show s2.time = s.time from h.keeps .time (by decide)]
  refine ⟨⟨(congrArg ModeSt.eff hmode).trans he, (congrArg ModeSt.safeN hmode).trans hn, fun k hk => ?_, ?_, ?_⟩, ?_⟩
  · have hs : s2.seqState k = 0 := (h2.fld (seqR k + 8) 1 0).trans (hz k hk)
    rw [State.seqOn, State.seqState, h3.fld (seqR k + 8) 1 0]
    simpa [State.seqState] using hs
  · rw [State.wr64, State.rd_wr_ne _ _ (by decide), State.rd_wr_ne _ _ (by decide), ← h.rd 0x41C, ← (s2.fireP_frame 173).rd 0x41C]
    exact (State.tally_getKey _ _ _ _).trans (if_pos rfl)
  · exact (State.rd64_wr64_self _ _ (by decide)).trans hnow
  · exact (h3.rd 0x418).trans (h.rd 0x418)

/-- The SAFE posture enters SAFE, and leaves SAFE_CAUSE (R121). -/
theorem State.safePosture_enters : s.EntersSafe s.safePosture ∧ s.safePosture.rd 0x418 = s.rd 0x418 := by
  obtain ⟨⟨he, hn, hq, hc, ht⟩, hr⟩ := s.safeFall_spec
  rw [State.safePosture_eq]
  generalize s.safeFall = u at *
  have hd := u.safeDisarm_lowKey
  have hp : Frame [.cyc, .out, .agenda] pendKey u.safeDisarm ((u.safeDisarm.pendAll 12).after 0 (.calAbort .safe)) :=
    ((State.pendAll_frame _ 12).mono).then (State.after_frame _ _ _)
  have h : Frame [.cyc, .acts, .out, .agenda] (fun k => k = 0x420 ∨ 0x580 ≤ k) u ((u.safeDisarm.pendAll 12).after 0 (.calAbort .safe)) :=
    (hd.mono).then hp
  have hm := h.keeps .mode (by decide)
  refine ⟨⟨(congrArg ModeSt.eff hm).trans he, (congrArg ModeSt.safeN hm).trans hn, fun k hk => ?_, (h.rd 0x41C).trans hc,
    (h.rd64 0x424 0x428 (by decide) (by decide)).trans ht⟩, (h.rd 0x418).trans hr⟩
  have hs : ((u.safeDisarm.pendAll 12).after 0 (.calAbort .safe)).seqState k = u.seqState k :=
    (hp.fld (seqR k + 8) 1 0).trans (u.safeDisarm_seqState hk)
  rw [State.seqOn, hs]
  exact hq k hk

end Sys2Proof.Machine
end

section
/-! PROOF. O19: SAFE is entered by its command and its causes, and left with none standing (R120, R121, R123, R519). -/

namespace Sys2Proof.Machine

-- Proofs one after another: many that wait in threads of their own would pass the check's memory limit.
set_option Elab.async false

variable (s : State)

/-! ### Entry -/

/-- SAFE_CAUSE records cause `c` as seen, and as standing but for a command's (R120). -/
def State.recordCause (s : State) (c : Nat) : State := (if c = 4 then s else s.wbit 0x418 c true).wbit 0x418 (8 + c) true

theorem State.recordCause_frame (c : Nat) : Frame [.cyc] (· = 0x418) s (s.recordCause c) :=
  (Frame.ite (fun _ => .refl) fun _ => s.wbit_frame 0x418 c true).then (State.wbit_frame _ 0x418 (8 + c) true)

theorem State.recordCause_bits {c : Nat} (h : c < 4) : (s.recordCause c).bit 0x418 c = true ∧ (s.recordCause c).bit 0x418 (8 + c) = true := by
  rw [State.recordCause, if_neg (by omega)]
  exact ⟨(State.bit_wbit_ne _ _ _ (by omega) (by omega)).trans (s.bit_wbit_self _ _ _ (by omega)), State.bit_wbit_self _ _ _ _ (by omega)⟩

/-- SAFE may be entered at once: the device is up and awake, in no transition, and not in SAFE. -/
abbrev State.MayFall (s : State) : Prop := s.rst.phase = 5 ∧ s.mode.trans = .none ∧ s.awake = true ∧ s.mode.eff ≠ .safe

/-- A cause that may act at once is recorded and takes the posture (R120). -/
theorem State.safeCause_enters (c : Nat) (h : s.MayFall) : s.safeCause c = (s.recordCause c).safePosture := by
  obtain ⟨hp, ht, ha, he⟩ := h
  have hm : (s.recordCause c).mode = s.mode := (s.recordCause_frame c).keeps .mode (by decide)
  have hr : (s.recordCause c).rst = s.rst := (s.recordCause_frame c).keeps .rst (by decide)
  have hs : s.mode.eff ≠ .shelf := fun hs => by simp [State.awake, hs] at ha
  have hl : s.mode.eff ≠ .listen := fun hs => by simp [State.awake, hs] at ha
  unfold State.safeCause
  rw [show (if c = 4 then s else s.wbit 0x418 c true).wbit 0x418 (8 + c) true = s.recordCause c from rfl]
  simp only [hm, hr, hp, ht, he, hs, hl, if_false, ne_eq, not_true_eq_false, reduceCtorEq, or_self]

theorem State.safeCause_entersSafe (c : Nat) (h : s.MayFall) : s.EntersSafe (s.safeCause c) := by
  rw [s.safeCause_enters c h]
  exact (s.recordCause_frame c).entersSafe (State.safePosture_enters _).1 (by decide)

theorem safeEnter_enters (h : s.MayFall) : Does .safeEnter s s.EntersSafe := ⟨_, rfl, s.safeCause_entersSafe 4 h⟩

/-- An enabled cause enters SAFE, and SAFE_CAUSE shows it as standing and as seen. -/
theorem State.cause_enters {c : Nat} (hc : c < 3) (h : s.MayFall) (hb : s.bit 0x414 c = true) :
    s.EntersSafe (s.cause c) ∧ (s.cause c).bit 0x418 c = true ∧ (s.cause c).bit 0x418 (8 + c) = true := by
  have hx : s.cause c = s.safeCause c := if_pos (.inr (.inr hb))
  have hr := (s.recordCause c).safePosture_enters.2
  obtain ⟨h0, h8⟩ := s.recordCause_bits (c := c) (by omega)
  rw [hx]
  refine ⟨s.safeCause_entersSafe c h, ?_, ?_⟩ <;> rw [s.safeCause_enters c h, State.bit, hr] <;> assumption

/-- A cause that is not enabled does nothing more (R120). -/
theorem State.cause_disabled {c : Nat} (hc : c < 3) (hp : s.rst.phase = 5) (hb : s.bit 0x414 c = false) : s.cause c = s :=
  if_neg (by simp only [hp, hb, ne_eq, not_true_eq_false, Bool.false_eq_true, or_false, false_or]; omega)

theorem State.fireP_mayFall (p : Nat) (h : s.MayFall) : (s.fireP p).MayFall := by
  have hm : (s.fireP p).mode = s.mode := (s.fireP_frame p).keeps .mode (by decide)
  have hr : (s.fireP p).rst = s.rst := (s.fireP_frame p).keeps .rst (by decide)
  simpa only [State.MayFall, State.awake, hm, hr] using h

/-! ### The causes -/

theorem State.fireP_inflight (p : Nat) (h : s.time.fclk = true) :
    (s.fireP p).fab.inflight = s.fab.inflight ++ [(0, s.srcOf p s.now)] := by
  rw [State.fireP, State.assertSrc, if_pos h]

theorem exec_thermalWarning (ha : s.awake = true) : exec .thermalWarning s = .next ((s.fireP 171).cause 0) := by
  rw [show exec .thermalWarning s = execThermalWarning s from rfl]
  exact if_pos ha

theorem thermalWarning_enters (h : s.MayFall) (hb : s.bit 0x414 0 = true) : Does .thermalWarning s fun t =>
    s.EntersSafe t ∧ t.bit 0x418 0 = true ∧ t.bit 0x418 8 = true := by
  have hf := s.fireP_frame 171
  obtain ⟨he, hbits⟩ := State.cause_enters (s.fireP 171) (c := 0) (by decide) (s.fireP_mayFall 171 h) ((hf.bit 0x414 0).trans hb)
  exact ⟨_, exec_thermalWarning s h.2.2.1, hf.entersSafe he (by decide), hbits⟩

theorem thermalWarning_fires (hp : s.rst.phase = 5) (ha : s.awake = true) (hc : s.time.fclk = true) (hb : s.bit 0x414 0 = false) :
    Does .thermalWarning s fun t => SameRegs [] s t ∧ SameStores s t ∧ t.mode = s.mode ∧
      t.fab.inflight = s.fab.inflight ++ [(0, s.srcOf 171 s.now)] := by
  have hf := s.fireP_frame 171
  refine ⟨_, exec_thermalWarning s ha, ?_⟩
  rw [State.cause_disabled _ (by decide) ((congrArg RstSt.phase (hf.keeps .rst (by decide))).trans hp) ((hf.bit 0x414 0).trans hb)]
  exact ⟨hf.sameRegs _ (by omega), hf.sameStores, hf.keeps .mode (by decide), s.fireP_inflight 171 hc⟩

/-- The state with a monitored supply out of its window. -/
def State.supplyOut (s : State) : State := { s with mode := { s.mode with supplyBad := true } }

theorem State.supplyOut_frame : Frame [.mode, .supplyBad] noKey s s.supplyOut :=
  .part rfl fun p hp => by cases p <;> simp [State.Keeps, State.supplyOut] at hp ⊢

theorem exec_supplyFault (hp : s.rst.phase = 5) : exec .supplyFault s = .next ((s.supplyOut.fireP 172).cause 1) := by
  rw [show exec .supplyFault s = execSupplyFault s from rfl]
  exact if_neg (show ¬ s.rst.phase < 3 by omega)

theorem supplyFault_enters (h : s.MayFall) (hb : s.bit 0x414 1 = true) : Does .supplyFault s fun t =>
    s.EntersSafe t ∧ t.bit 0x418 1 = true ∧ t.bit 0x418 9 = true := by
  have hf := (s.supplyOut_frame.mono (P := [.mode, .supplyBad, .fab, .inflight])).then (State.fireP_frame _ 172)
  obtain ⟨he, hbits⟩ := State.cause_enters (s.supplyOut.fireP 172) (c := 1) (by decide) (State.fireP_mayFall s.supplyOut 172 h)
    ((hf.bit 0x414 1).trans hb)
  exact ⟨_, exec_supplyFault s h.1, hf.entersSafe he (by decide), hbits⟩

theorem supplyFault_fires (hp : s.rst.phase = 5) (hc : s.time.fclk = true) (hb : s.bit 0x414 1 = false) :
    Does .supplyFault s fun t => SameRegs [] s t ∧ SameStores s t ∧ t.mode = { s.mode with supplyBad := true } ∧
      t.fab.inflight = s.fab.inflight ++ [(0, s.srcOf 172 s.now)] := by
  have hf := State.fireP_frame s.supplyOut 172
  have h := (s.supplyOut_frame.mono (P := [.mode, .supplyBad, .fab, .inflight])).then hf
  refine ⟨_, exec_supplyFault s hp, ?_⟩
  rw [State.cause_disabled _ (by decide) ((congrArg RstSt.phase (h.keeps .rst (by decide))).trans hp) ((h.bit 0x414 1).trans hb)]
  exact ⟨h.sameRegs _ (by omega), h.sameStores, hf.keeps .mode (by decide), State.fireP_inflight s.supplyOut 172 hc⟩

theorem safeCauseCleared_clears (c : Fin 5) : Does (.safeCauseCleared c) s fun t =>
    t.bit 0x418 c = false ∧ SameRegs [devKey 0x418] s t ∧ SameStores s t := by
  have hm (b : Bool) : Frame [.mode, .supplyBad] noKey s { s with mode := { s.mode with supplyBad := b } } := .part rfl
  have hw (u : State) := u.wbit_frame 0x418 c false
  refine ⟨_, rfl, State.bit_wbit_self _ _ _ _ (by omega), ?_, (hm _).sameStores.trans (hw _).sameStores⟩
  exact (((hm _).mono (P := [.mode, .supplyBad, .cyc]) (K := (· = 0x418))).then (hw _)).sameRegs _ (by simp)

/-! ### Exit -/

theorem safeExit_waits (hc : s.rst.coreBusy = true) : Does .safeExit s fun t =>
    t.rst.coreWait = s.rst.coreWait ++ [.safeExit] ∧ t.mode = s.mode ∧ SameRegs [] s t ∧ SameStores s t := by
  have h := s.withRst_frame { s.rst with coreWait := s.rst.coreWait ++ [.safeExit] }
  exact ⟨_, congrArg Host.Outcome.next (s.orWait_waits .safeExit hc), rfl, rfl, h.sameRegs _ (by omega), h.sameStores⟩

theorem exec_safeExit (hc : s.rst.coreBusy = false) : exec .safeExit s = .next s.askSafeExit :=
  congrArg Host.Outcome.next (s.orWait_acts .safeExit hc)

/-- A review of PRIMED leaves SAFE_N, and PRIMED or RUN in force. -/
theorem State.reviewMode_safeN (he : s.mode.eff = .primed) :
    s.reviewMode.mode.safeN = s.mode.safeN ∧ (s.reviewMode.mode.eff = .primed ∨ s.reviewMode.mode.eff = .run) := by
  unfold State.reviewMode
  split
  · exact ⟨rfl, .inl he⟩
  · simp only [he]
    split_ifs
    · rw [s.setEff_mode]
      exact ⟨rfl, .inr rfl⟩
    all_goals exact ⟨rfl, .inl he⟩

theorem safeExit_leaves (hc : s.rst.coreBusy = false) (he : s.mode.eff = .safe) (h0 : s.fld 0x418 4 0 = 0) : Does .safeExit s fun t =>
    t.mode.safeN = true ∧ (t.mode.eff = .primed ∨ t.mode.eff = .run) := by
  have hx : s.askSafeExit = (({ s with mode := { s.mode with safeN := true } } : State).setEff .primed).reviewMode := by
    rw [State.askSafeExit, if_neg (by simp [he]), if_neg (by simp [h0])]
  have hm := State.setEff_mode { s with mode := { s.mode with safeN := true } } .primed
  obtain ⟨hn, hr⟩ := State.reviewMode_safeN _ (congrArg ModeSt.eff hm)
  exact ⟨_, exec_safeExit s hc, by rw [hx, hn, hm], by rwa [hx]⟩

theorem safeExit_refused (hc : s.rst.coreBusy = false) (he : s.mode.eff = .safe) (h0 : s.fld 0x418 4 0 ≠ 0) : Does .safeExit s fun t =>
    t.mode = s.mode ∧ t.bitv 0 0x404 17 = true ∧ t.fldv 0 0x40C 3 0 = 4 ∧ SameRegs [viKey 0 0x404, viKey 0 0x40C] s t := by
  have hf := s.refuseMode_frame 0 4
  have hw := State.wbitv_frame (s.refuseMode 0 4) 0 0x404 17 true
  have hx : s.askSafeExit = (s.refuseMode 0 4).wbitv 0 0x404 17 true := by
    rw [State.askSafeExit, if_neg (by simp [he]), if_pos h0]
  refine ⟨_, (exec_safeExit s hc).trans (congrArg _ hx), Eq.trans (hw.keeps .mode (by decide)) (hf.keeps .mode (by decide)),
    State.bitv_wbitv_self _ _ _ _ _ (by decide), ?_, (hf.then hw).sameRegs _ (by simp [viKey])⟩
  exact (hw.fldv 0 0x40C 3 0).trans (s.refuseMode_spec 0 (by decide)).2.1

/-- Settles O19: the entry by command and by each cause, a cause that is not enabled or has cleared, and the exit by what stands. -/
theorem safeHaltsEverythingUntilItsCausesClear : Obligations.SafeHaltsEverythingUntilItsCausesClear := fun s =>
  ⟨fun hp ht ha he => ⟨safeEnter_enters s ⟨hp, ht, ha, he⟩, thermalWarning_enters s ⟨hp, ht, ha, he⟩,
      supplyFault_enters s ⟨hp, ht, ha, he⟩⟩,
    fun hp ha hc => ⟨thermalWarning_fires s hp ha hc, supplyFault_fires s hp hc⟩, safeCauseCleared_clears s, safeExit_waits s,
    fun hc he => ⟨safeExit_leaves s hc he, safeExit_refused s hc he⟩⟩

end Sys2Proof.Machine
end

section
/-! PROOF. O42 fails: where an action is armed that no device has, SAFE's disarming writes over the temperature just taken (R121, R353). -/

namespace Sys2Proof.Machine

/-- A device in PRIMED with a supply out of its window and a timed pulse armed on trigger output 13. A D960 has outputs 0 to 7, so no
run of it arms this action (`ActId.wf` refuses it), but a state may list it; its flags would stand at offset 0x2848 + 0x40 * 13, which is
0x2B88, the temperature's register. -/
def strayPulse : State :=
  { mode := { eff := .primed, supplyBad := true }, rst := { phase := 5 }, acts := [(5 * 512 + 13, { armed := true })] }

/-- At the next temperature update, of 0, the standing SUPPLY cause enters SAFE, the pulse is disarmed, and its DROPPED flag is set in
the temperature's register. -/
theorem strayPulse_tempUpdate :
    (match exec (.tempUpdate 0) strayPulse with
      | .next t => t.rd 0x2B88
      | _ => 0) = 8 := by decide +kernel

/-- Refutes O42: in `strayPulse` the temperature's register reads 8 after an update of 0, by the DROPPED flag of the pulse that SAFE
disarms. The clause needs every armed action to be one of those `ActId.wf` admits. -/
theorem not_theMonitorConvertsAndKeysTouch : ¬ Obligations.TheMonitorConvertsAndKeysTouch := by
  intro h
  obtain ⟨-, -, -, htemp, -⟩ := h strayPulse 0 0 0
  obtain ⟨t, hnext, hreg, -⟩ := htemp rfl
  have hrun := strayPulse_tempUpdate
  rw [hnext] at hrun
  exact absurd (hreg.symm.trans hrun) (by decide)

end Sys2Proof.Machine
end

section
/-! PROOF. O3: the state after power-on reset, read off the reset state (R131). -/

namespace Sys2Proof.Machine

-- Proofs one after another: many that wait in threads of their own would pass the check's memory limit.
set_option Elab.async false

/-- Settles O3: every part computes from the definition of the reset state; its canonical form is `State.reset_mem_wf`. -/
theorem resetLeavesTheTablesValues : Obligations.ResetLeavesTheTablesValues :=
  ⟨⟨fun _ => rfl, rfl, rfl, fun _ hd => if_neg hd, rfl, rfl, fun _ => rfl, fun _ => rfl, rfl, rfl⟩, rfl, State.reset_mem_wf⟩

end Sys2Proof.Machine
end

section
/-! PROOF. O22: each source of a device reset asks for its level, the holds end, and P0 and P1 end (R134 to R143, R353, R449, R463,
R464). -/

namespace Sys2Proof.Machine

-- Proofs one after another: many that wait in threads of their own would pass the check's memory limit.
set_option Elab.async false

variable (s : State)

/-! ### The request -/

/-- The request that source `src` makes, to be carried out at level `l` (R136, R152). -/
def State.reqAt (s : State) (src l : Nat) (promoted : Bool) : ResetReq :=
  { src := src, level := l, time := s.time.keep, promoted := promoted, at_ := s.time.mono,
    due := s.time.mono + (if atOnce src l then 0 else us 2), restart := s.rst.phase == 3 || s.rst.phase == 4 }

/-- The request that source `src` makes for a level with nothing else under way (R133, R137, R152). -/
abbrev State.newReq (s : State) (src level : Nat) : ResetReq :=
  s.reqAt src (s.levelFor level) (level == 3 && s.levelFor level == 1)

theorem State.putRequest_rst (src l : Nat) (promoted : Bool) :
    (s.putRequest src l promoted).rst = { s.rst with req := some (s.reqAt src l promoted) } := by
  unfold State.putRequest
  extract_lets due r s1 s2
  have h2 : s2.rst = { s.rst with req := some (s.reqAt src l promoted) } := rfl
  split
  · exact (State.each_keeps s2 State.rst (fun s p => s.cancel (.portClose (Fin.ofNat 4 p) .reset)) (fun _ _ => rfl) _).trans h2
  · exact (State.each_keeps s2 State.rst (fun s p => s.after 0 (.portClose (Fin.ofNat 4 p) .reset)) (fun _ _ => rfl) _).trans h2

/-- With nothing under way the source's request is put down. -/
theorem State.requestReset_rst (hq : s.rst.req = none) (hl : s.resetLevel = none) (src level : Nat) :
    (s.requestReset src level).rst = { s.rst with req := some (s.newReq src level) } := by
  unfold State.requestReset
  simp only [hq, hl]
  exact s.putRequest_rst _ _ _

/-! ### The sources -/

theorem State.took_own {src level : Nat} {r : ResetReq} (hr : s.rst.req = some r) (hs : r.src = src) : s.took src level = true := by
  simp [State.took, hr, hs]

section
variable (hq : s.rst.req = none) (hl : s.resetLevel = none)
include hq hl

theorem State.requestReset_took (src level : Nat) : (s.requestReset src level).took src level = true :=
  State.took_own _ (congrArg RstSt.req (s.requestReset_rst hq hl src level)) rfl

theorem exec_vinBrownout : exec .vinBrownout s =
    .next { s.requestReset 2 1 with rst := { (s.requestReset 2 1).rst with holdVin := true } } :=
  if_pos (s.requestReset_took hq hl 2 1)

theorem exec_resetN_low : exec (.resetN true) s =
    let u := s.requestReset 3 (if s.bit 0x490 0 then 2 else 1)
    .next { u with rst := { u.rst with holdLow := true } } :=
  if_pos (s.requestReset_took hq hl 3 _)

theorem exec_thermalShutdown : exec .thermalShutdown s =
    .next { s.requestReset 9 1 with rst := { (s.requestReset 9 1).rst with holdHot := true } } :=
  if_pos (s.requestReset_took hq hl 9 1)

end

/-- The supervisor's watchdog has expired: the expiry is counted and its time is kept (R134, R135). -/
def State.expired (s : State) : State :=
  { s.incFld 0x498 15 0 1 with rst := { s.rst with lastWdt := some s.time.keep.toNat } }

/-- The expiry comes within 1 s of the one before. -/
abbrev State.expiredSoon (s : State) : Bool := s.rst.lastWdt.any fun w => decide (s.time.keep.toNat - w ≤ 25600000000)

theorem exec_watchdogExpiry : exec .watchdogExpiry s =
    .next (if s.expiredSoon then s.expired.requestReset 5 1 else s.expired.requestReset 4 3) := by
  show execWatchdogExpiry s = _
  unfold execWatchdogExpiry
  exact (apply_ite Host.Outcome.next _ _ _).symm

theorem State.expired_frame : Frame [.cyc, .rst] (· = 0x498) s s.expired :=
  ((s.tally_frame (devKey 0x498) _).mono).then (State.withRst_frame _ _)

theorem State.expired_resetLevel : s.expired.resetLevel = s.resetLevel := by
  simp only [State.resetLevel, s.expired_frame.fld 0x480 11 8]
  rfl

theorem State.expired_newReq (src level : Nat) : s.expired.newReq src level = s.newReq src level := by
  have hu : s.expired.untrained = s.untrained := by
    simp only [State.untrained, s.expired_frame.bit 0x1800 0]
    rfl
  have hl : s.expired.levelFor level = s.levelFor level := by
    simp only [State.levelFor, hu]
    rfl
  simp only [State.newReq, hl]
  rfl

/-- An expiry asks for a reset and is counted. -/
theorem State.expired_asks (hq : s.rst.req = none) (hl : s.resetLevel = none) (src level : Nat) :
    (s.expired.requestReset src level).rst.req = some (s.newReq src level) ∧
      (s.expired.requestReset src level).fld 0x498 15 0 = min (s.fld 0x498 15 0 + 1) 65535 := by
  constructor
  · have hrst := s.expired.requestReset_rst hq (s.expired_resetLevel.trans hl) src level
    rw [hrst, s.expired_newReq]
  · rw [(State.requestReset_frame _ src level).fld 0x498 15 0]
    exact (s.incFld_reads 0x498 15 0 1 (by decide) (by decide)).1

theorem exec_rstReq {l : BitVec 2} (h : l ≠ 3) : exec (.rstReq l) s = .next (s.requestReset 6 (if l = 0 then 3 else l.toNat)) := by
  show Host.Outcome.next (s.askReset l.toNat) = _
  have h3 : l.toNat ≠ 3 := fun he => h (BitVec.eq_of_toNat_eq he)
  have h0 : (l.toNat = 0) = (l = 0) := propext ⟨fun he => BitVec.eq_of_toNat_eq he, fun he => he ▸ rfl⟩
  simp only [State.askReset, if_neg h3, h0]

/-- RST_REQ with LEVEL 3 is refused with the reason for a bad request (R139). -/
theorem rstReq_refused (hq : s.rst.req = none) : Does (.rstReq 3) s fun t =>
    t.rst.req = none ∧ t.bitv 0 0x404 16 = true ∧ t.fldv 0 0x40C 3 0 = 6 := by
  obtain ⟨hrefused, hwhy, -⟩ := s.refuseMode_spec 0 (by decide : 6 < 16)
  have hrst : (s.refuseMode 0 6).rst = s.rst := (s.refuseMode_frame 0 6).keeps .rst (by decide)
  exact ⟨_, rfl, hrst ▸ hq, hrefused, hwhy⟩

/-! ### P0 and P1 end -/

/-- What the start of P2 may change: the phase, the domains and SYN-A's loop (R140, R146, R190). -/
theorem State.startP2_spec : Frame [.rst, .mode, .doms, .cyc, .agenda, .agendaGrows, .syn] (fun k => playKey k ∨ k = 0x504) s s.startP2 ∧
    s.startP2.rst = { s.rst with phase := 2 } := by
  unfold State.startP2
  extract_lets r s1 s2
  have h2 : Frame [.mode, .doms] noKey s1 s2 := Frame.each (fun d _ u => u.setDom_frame d 2) s1
  have h3 : Frame [.mode, .doms, .cyc, .agenda, .agendaGrows, .syn] (fun k => playKey k ∨ k = 0x504) s1
      ((s2.wbit 0x504 4 true).startLoop 0) :=
    ((h2.mono).then (State.wbit_frame _ 0x504 4 true)).then (State.startLoop_frame _ (by decide))
  have h1 : Frame [.rst] noKey s s1 := s.withRst_frame _
  have hr : s1.rst = { s.rst with phase := 2 } := rfl
  clear_value s1
  exact ⟨(h1.mono).then h3, Eq.trans (h3.keeps .rst (by decide)) hr⟩

/-- The straps are sampled, VI0 is bound as they say, and the brown-out's hold ends (R143, R408). -/
def State.strapped (s : State) (straps : BitVec 3) : State :=
  let u := (s.wfld 0x494 2 0 straps.toNat).wfld 0x3C10 1 0 (if straps.getLsbD 2 then 2 else 1)
  { u with rst := { s.rst with holdVin := false } }

theorem State.strapped_frame (straps : BitVec 3) : Frame [.rst] (fun k => k = 0x494 ∨ k = 0x3C10) s (s.strapped straps) :=
  (((s.wfld_frame 0x494 2 0 _).mono).then (State.wfld_frame _ 0x3C10 1 0 _)).then (State.withRst_frame _ _)

theorem State.strapped_reads (straps : BitVec 3) : (s.strapped straps).fld 0x494 2 0 = straps.toNat ∧
    (s.strapped straps).fld 0x3C10 1 0 = (if tb straps 2 then 2 else 1) := by
  constructor
  · refine ((State.wfld_frame _ 0x3C10 1 0 _).fld 0x494 2 0).trans ((s.fld_wfld_self 0x494 2 0 _ (by decide) (by decide)).trans ?_)
    exact Nat.mod_eq_of_lt straps.isLt
  · refine (State.fld_wfld_self _ 0x3C10 1 0 _ (by decide) (by decide)).trans (Nat.mod_eq_of_lt ?_)
    split <;> decide

theorem exec_p0Release (straps : BitVec 3) (hp : s.rst.phase = 0) (hq : s.rst.req = none) (hn : s.rst.holdLow = false)
    (hh : s.rst.holdHot = false) : exec (.p0Release straps) s = let u := s.strapped straps
      .next (if s.fld 0x480 11 8 = 0 then ({ u with rst := { u.rst with phase := 1 } } : State).after (ms 500) .xo32Fail
        else u.startP2) := by
  have hfld : (s.strapped straps).fld 0x480 11 8 = s.fld 0x480 11 8 := (s.strapped_frame straps).fld 0x480 11 8
  show execP0Release straps s = _
  unfold execP0Release
  rw [if_neg (by simp [hp, hq, hn, hh]), ← hfld]
  exact (apply_ite Host.Outcome.next _ _ _).symm

theorem p0Release_samples (straps : BitVec 3) (hp : s.rst.phase = 0) (hq : s.rst.req = none) (hn : s.rst.holdLow = false)
    (hh : s.rst.holdHot = false) : Does (.p0Release straps) s fun t =>
      t.fld 0x494 2 0 = straps.toNat ∧ t.fld 0x3C10 1 0 = (if tb straps 2 then 2 else 1) ∧
      t.rst.phase = (if s.fld 0x480 11 8 = 0 then 1 else 2) ∧ t.rst.holdVin = false ∧ SameStores s t := by
  obtain ⟨hstraps, hbound⟩ := s.strapped_reads straps
  obtain ⟨hP2, hrst⟩ := (s.strapped straps).startP2_spec
  refine ⟨_, exec_p0Release s straps hp hq hn hh, ?_⟩
  have hstores := (s.strapped_frame straps).sameStores
  split
  · exact ⟨hstraps, hbound, rfl, rfl, hstores⟩
  · refine ⟨(hP2.fld 0x494 2 0).trans hstraps, (hP2.fld 0x3C10 1 0).trans hbound, ?_, ?_, hstores.trans hP2.sameStores⟩
    · rw [hrst]
    · rw [hrst]
      rfl

/-- P1 ends with the time of record at 0 and XO32_FAIL as XO32 stands (R10, R140). -/
theorem State.endP1_spec (fail : Bool) : let t := s.endP1 fail
    t.rst.phase = 2 ∧ t.time.keep = 0 ∧ t.time.fast = 0 ∧ t.bit 0x494 3 = fail := by
  unfold State.endP1
  extract_lets time s1
  obtain ⟨hP2, hrst⟩ := ((s1.wbit 0x494 3 fail).cancel .xo32Fail).startP2_spec
  have htime : (((s1.wbit 0x494 3 fail).cancel .xo32Fail).startP2).time = s1.time :=
    Eq.trans (hP2.keeps .time (by decide)) (s1.wbit_time 0x494 3 fail)
  exact ⟨by rw [hrst], by rw [htime], by rw [htime], (hP2.bit 0x494 3).trans (s1.bit_wbit_self 0x494 3 fail (by decide))⟩

theorem exec_xo32Qualified (hp : s.rst.phase = 1) : exec .xo32Qualified s = .next (s.endP1 false) := if_pos hp
theorem exec_xo32Fail (hp : s.rst.phase = 1) : exec .xo32Fail s = .next (s.endP1 true) := if_pos hp
theorem exec_xo32LateQualify (h : s.bit 0x494 3 = true) : exec .xo32LateQualify s =
    .next { s with time := { s.time with xoPending := true } } := if_pos h

/-- Settles O22: with nothing under way a source's request is put down as it is (`State.requestReset_rst`); P0 and P1 end by the start
of P1 or P2. -/
theorem resetSourcesAskForTheirLevel : Obligations.ResetSourcesAskForTheirLevel := by
  refine ⟨fun s hq hl => ?_, fun s => ?_⟩
  · intro asked
    have hasked (src level : Nat) {t : State} (h : t.rst.req = some (s.newReq src level)) : asked src level t :=
      ⟨_, h, rfl, rfl, rfl, rfl, rfl⟩
    have hreq (src level : Nat) : (s.requestReset src level).rst.req = some (s.newReq src level) :=
      congrArg RstSt.req (s.requestReset_rst hq hl src level)
    refine ⟨⟨_, exec_vinBrownout s hq hl, hasked 2 1 (hreq 2 1), rfl⟩, ⟨_, exec_resetN_low s hq hl, hasked 3 _ (hreq 3 _), rfl⟩,
      fun hlate => ?_, fun hsoon => ?_, fun l h => ⟨_, exec_rstReq s h, hasked 6 _ (hreq 6 _)⟩, rstReq_refused s hq,
      ⟨_, rfl, hasked 7 _ (hreq 7 _)⟩, ⟨_, exec_thermalShutdown s hq hl, hasked 9 1 (hreq 9 1), rfl⟩,
      ⟨_, rfl, hasked 11 1 (hreq 11 1)⟩, ⟨_, rfl, hasked 11 1 (hreq 11 1)⟩⟩
    · obtain ⟨hr, hcount⟩ := s.expired_asks hq hl 4 3
      exact ⟨_, (exec_watchdogExpiry s).trans (by rw [State.expiredSoon, hlate]; rfl), hasked 4 3 hr, hcount⟩
    · obtain ⟨hr, -⟩ := s.expired_asks hq hl 5 1
      exact ⟨_, (exec_watchdogExpiry s).trans (by rw [State.expiredSoon, hsoon]; rfl), hasked 5 1 hr⟩
  · exact ⟨⟨_, rfl, rfl, fun _ _ => rfl, (s.withRst_frame _).sameStores⟩, ⟨_, rfl, rfl, fun _ _ => rfl, (s.withRst_frame _).sameStores⟩,
      fun st hp hq hn hh => p0Release_samples s st hp hq hn hh,
      fun hp => ⟨⟨_, exec_xo32Qualified s hp, s.endP1_spec false⟩, ⟨_, exec_xo32Fail s hp, s.endP1_spec true⟩⟩,
      fun h => ⟨_, exec_xo32LateQualify s h, rfl, fun _ _ => rfl⟩⟩

end Sys2Proof.Machine
end

section
/-! PROOF. O25 fails: a PARTITION record's edit applies what stood staged before the cycle of the record's own writes, and leaves these
staged (R86, R147, R412). -/

namespace Sys2Proof.Machine

-- Proofs one after another: many that wait in threads of their own would pass the check's memory limit.
set_option Elab.async false

/-- A PARTITION record that names neither PART_CTRL nor PART_CMD makes its writes, then the edit, and the next record follows. -/
theorem exec_partition {s : State} {r : Rec} (hr : s.record 4 = some r)
    (hp : ∀ x ∈ r.pairs, addrOff x.1 ≠ 0x3C00 ∧ addrOff x.1 ≠ 0x3C04) {u : State}
    (hu : s.starterWrites r.pairs = (u, true)) (hw : u.partWhy = none) : exec .partition s = .next u.applyEdit.recDone := by
  have hall : (r.pairs.filter fun x => !(addrOff x.1 == 0x3C00) && !(addrOff x.1 == 0x3C04)) = r.pairs := by
    rw [List.filter_eq_self]
    intro x hx
    simp [hp x hx]
  have hnone : r.pairs.filter (fun x => addrOff x.1 == 0x3C00) = [] := by
    rw [List.filter_eq_nil_iff]
    intro x hx
    simp [hp x hx]
  show execPartition s = _
  unfold execPartition
  simp only [hr, hall, hu, hw, hnone]
  rfl

/-- A PARTITION record that gives granule 0 of the Vat, whose byte stands at 0x3D00, to VI0. -/
def vatRecord : Rec := { idx := 0, ofs := 0, typ := 4, flags := 0, pay := [0x00, 0x3D, 0, 0, 0x80, 0, 0, 0] }

/-- The Starter at that record. -/
def partitionStart : State := { rst := { phase := 3, recs := [vatRecord] } }

/-- After the record's write: the value waits in the shadow, which held nothing before the cycle, and the write has taken tag 1. -/
def partitionWritten : State :=
  { partitionStart with regs := [(viKey 0 0x118, 1)], shadows := [(0x3D00, 0x80)], cyc := [(0x3D00, { was := some none })] }

theorem partitionStart_writes : partitionStart.starterWrites vatRecord.pairs = (partitionWritten, true) := by decide +kernel

theorem partitionWritten_allowed : partitionWritten.partWhy = none := by decide +kernel

/-- The edit leaves the register at 0: `State.applyKey` keeps a value staged that was written in the cycle. -/
theorem partitionWritten_applyEdit : partitionWritten.applyEdit.recDone.getKey 0x3D00 = 0 := by decide +kernel

/-- Refutes O25: from `partitionStart`, the PARTITION record's value 0x80 for 0x3D00 is not in force after it. -/
theorem not_recordsWriteAndSegmentsLoad : ¬ Obligations.RecordsWriteAndSegmentsLoad := by
  rintro ⟨hrecords, -⟩
  have hrec : partitionStart.record 4 = some vatRecord := by decide
  have hpairs : ∀ x ∈ vatRecord.pairs, addrOff x.1 ≠ 0x3C00 ∧ addrOff x.1 ≠ 0x3C04 := by decide
  obtain ⟨-, -, -, hpartition, -⟩ := hrecords partitionStart vatRecord
  have hdoes := hpartition hrec hpairs
  rw [partitionStart_writes] at hdoes
  obtain ⟨t, hnext, -, happlied⟩ := hdoes rfl partitionWritten_allowed (by decide)
  obtain rfl : partitionWritten.applyEdit.recDone = t :=
    Host.Outcome.next.inj ((exec_partition hrec hpairs partitionStart_writes partitionWritten_allowed).symm.trans hnext)
  have hreg : partitionWritten.applyEdit.recDone.getKey 0x3D00 = 0x80 := happlied 0x3D00 (by decide) (by decide)
  exact absurd (hreg.symm.trans partitionWritten_applyEdit) (by decide)

end Sys2Proof.Machine
end

section
/-! SUPPORT. What a loader that stops writes and what it leaves: the copy made so far, the end of its operation, and that no VI comes
under reset or leaves it (R132, R432). -/

namespace Sys2Proof.Machine

-- Proofs one after another: many that wait in threads of their own would pass the check's memory limit.
set_option Elab.async false

variable {P Q : List Aspect} {K L : Nat → Prop} {s t u : State}

/-! ### No VI comes under reset -/

/-- `t` differs from `s` at most in the aspects `P` and in the registers with keys `K`, and the same VIs are under reset. -/
structure ViFrame (P : List Aspect) (K : Nat → Prop) (s t : State) : Prop where
  frame : Frame P K s t
  inReset : ∀ v, (t.vi v).inReset = (s.vi v).inReset

theorem ViFrame.refl : ViFrame P K s s := ⟨.refl, fun _ => rfl⟩

theorem ViFrame.trans (h : ViFrame P K s t) (h' : ViFrame P K t u) : ViFrame P K s u :=
  ⟨h.frame.trans h'.frame, fun v => (h'.inReset v).trans (h.inReset v)⟩

theorem ViFrame.mono (h : ViFrame Q L s t) (hP : Q ⊆ P := by decide)
    (hK : ∀ k, L k → K k := by
      intros; simp -failIfUnchanged only [devKey, viKey, seqR, aoutR, pbR, trgR, klR] at * <;> omega) : ViFrame P K s t :=
  ⟨h.frame.mono hP hK, h.inReset⟩

theorem ViFrame.ite {c : Prop} [Decidable c] (h : c → ViFrame P K s t) (h' : ¬ c → ViFrame P K s u) :
    ViFrame P K s (if c then t else u) := by
  split
  · exact h ‹_›
  · exact h' ‹_›

theorem ViFrame.each {α : Type} {f : State → α → State} (h : ∀ s a, ViFrame P K s (f s a)) (l : List α) (s : State) :
    ViFrame P K s (s.each l f) := by
  induction l generalizing s with
  | nil => exact .refl
  | cons a l ih => exact (h s a).trans (ih _)

/-- A change that leaves the VIs' states alone leaves the same VIs under reset. -/
theorem Frame.vi (h : Frame Q L s t) (hv : Aspect.vis ∉ Q := by decide) (hP : Q ⊆ P := by decide)
    (hK : ∀ k, L k → K k := by
      intros; simp -failIfUnchanged only [devKey, viKey, seqR, aoutR, pbR, trgR, klR] at * <;> omega) : ViFrame P K s t :=
  ⟨h.mono hP hK, fun v => by rw [State.vi, State.vi, show t.vis = s.vis from h.keeps .vis hv]⟩

variable (s)

theorem State.setVi_vi (v : Nat) (x : ViSt) (hx : x.inReset = (s.vi v).inReset) : ViFrame [.vis] noKey s (s.setVi v x) := by
  refine ⟨s.setVi_frame v x, fun w => ?_⟩
  rw [s.vi_setVi w v x]
  split
  · next h => rw [hx, h]
  · rfl

theorem State.pwf_vi (v ofs tag port reason : Nat) (remote : Option (Nat × Nat)) :
    ViFrame faultParts (faultKey v) s (s.pwf v ofs tag port reason remote) := by
  have hset : ViFrame [.vis] noKey s (s.setVi v { s.vi v with faulted := true }) := s.setVi_vi v _ rfl
  have hv : ViFrame faultParts (faultKey v) s (s.setVi v { s.vi v with faulted := true }) := hset.mono
  unfold State.pwf
  refine .ite (fun _ => .refl) fun _ => ?_
  dsimp only
  split
  · exact hv.trans (State.wrv_frame _ v 0x124 _).vi
  · next r h =>
    have hf (u : State) (a b c d : Word) : Frame [.cyc, .out, .fab, .inflight] (faultKey v) u
        ((((((((u.wrv v (0x200 + 0x10 * r) a).wrv v (0x200 + 0x10 * r + 4) b).wrv v (0x200 + 0x10 * r + 8) c).wrv v
          (0x200 + 0x10 * r + 12) d)).wbitv v 0x124 r true).fireP 177).pend v 0) :=
      ((((u.faultRecord_frame v (mem_slot h) a b c d).mono).then (State.wbitv_frame _ v 0x124 r true)).then
        (State.fireP_frame _ 177)).then (State.pend_frame _ v 0)
    exact hv.trans (hf _ _ _ _ _).vi

/-! ### Stores -/

theorem State.dropTables_outKey (vat : Bool) (p n : Nat) : Frame [] (0x1800 ≤ ·) s (s.dropTables vat p n) :=
  Frame.each (fun _ _ u => (u.wr_frame _ _).mono) s

theorem State.vatWritten_outKey (p n : Nat) : Frame storeParts (0x1800 ≤ ·) s (s.vatWritten p n) := by
  unfold State.vatWritten
  refine .ite (fun _ => .refl) fun _ => ?_
  extract_lets gs s1 lo hi m s2 s3
  have h1 : Frame storeParts (0x1800 ≤ ·) s s1 := Frame.each (fun g _ u => (u.withMem_frame _).mono) s
  have h2 : Frame storeParts (0x1800 ≤ ·) s1 s2 := .ite (fun _ => (s1.withMem_frame _).mono) fun _ => .refl
  have h3 : Frame storeParts (0x1800 ≤ ·) s2 s3 := Frame.each (fun g _ u => Frame.each (fun k _ u =>
    ((u.wbit_frame (0x1840 + 4 * k) 16 false).mono).then (State.restartScan_frame _ k)) u) s2
  exact ((h1.trans h2).trans h3).then (State.dropTables_outKey _ _ _ _)

theorem State.store_outKey (vat : Bool) (p : Nat) (b : List Byte) : Frame storeParts (0x1800 ≤ ·) s (s.store vat p b) := by
  unfold State.store State.mend
  extract_lets m s1
  have h1 : Frame storeParts (0x1800 ≤ ·) s s1 :=
    .ite (fun _ => (s.putBytes_frame _ _ _).mono) fun _ => ((s.putBytes_frame _ _ _).mono).then (State.withMem_frame _ _)
  clear_value s1
  exact .ite (fun _ => h1.trans (s1.vatWritten_outKey _ _)) fun _ => h1.then (s1.dropTables_outKey _ _ _)

theorem State.storeVi_outKey (v : Nat) (mem : Bool) (a : Nat) (b : List Byte) :
    Frame storeParts (0x1800 ≤ ·) s (s.storeVi v mem a b) := by
  unfold State.storeVi
  generalize s.ranges v mem a b.length = l
  induction l generalizing s b with
  | nil => exact .refl
  | cons r l ih => exact (s.store_outKey (!mem) r.1 (b.take r.2)).trans (ih _ _)

/-! ### A loader that stops -/

/-- What a loader's copy and its end may change beside registers. -/
abbrev copyParts : List Aspect := [.mem, .stores, .cyc, .agenda, .agendaGrows, .out, .fab, .inflight, .vis, .aouts, .pbs, .free]

theorem State.readVi_frame (v : Nat) (mem : Bool) (a n : Nat) : Frame catchParts catchKey s (s.readVi v mem a n) :=
  Frame.each (fun r _ u => u.readWords_frame (!mem) r.1 r.2) s

theorem State.ldeVat_vi (v a : Nat) (b : List Byte) : ViFrame copyParts (0x1800 ≤ ·) s (s.ldeVat v a b) := by
  unfold State.ldeVat
  split
  · exact .ite (fun _ => (s.pwf_vi _ _ _ _ _ _).mono) fun _ => (s.storeVi_outKey v false a b).vi
  · exact .refl

theorem State.ldeCopy_vi (e at_ n : Nat) (host : List Byte) : ViFrame copyParts (0x1800 ≤ ·) s (s.ldeCopy e at_ n host) := by
  unfold State.ldeCopy
  extract_lets x v b s1 s2 d
  have h1 : ViFrame copyParts (0x1800 ≤ ·) s s1 :=
    .ite (fun _ => (s.readVi_frame _ _ _ _).vi) fun _ => .refl
  have h2 : ViFrame copyParts (0x1800 ≤ ·) s s2 := h1.trans s1.fresh_frame.vi
  have hn (u : State) (a : Nat) (c : Byte) : Frame [.mem, .stores] noKey u (u.wNvm a c) := u.withMem_frame _
  split
  · exact h2.trans (.each (fun u i => u.ldeVat_vi v _ _) _ s2)
  · exact h2.trans (s2.storeVi_outKey v true d b).vi
  · exact h2.trans ((ViFrame.each (fun u p => (hn u _ _).vi) _ s2).trans (State.fresh_frame _).vi)
  · exact h2

theorem State.validate_frame (v p : Nat) : Frame (.mem :: .stores :: catchParts) (0x1800 ≤ ·) s (s.validate v p) :=
  ((s.readWords_frame true p 32).mono).then (State.withMem_frame _ _)

theorem State.ldeValidate_vi (e n : Nat) : ViFrame copyParts (0x1800 ≤ ·) s (s.ldeValidate e n) := by
  unfold State.ldeValidate
  exact .ite (fun _ => .each (fun u p => .ite (fun _ => (u.validate_frame _ p).vi) fun _ => .refl) _ s) fun _ => .refl

theorem State.ldeEnd_vi (e n bitNo reason : Nat) : ViFrame copyParts (0x1800 ≤ ·) s (s.ldeEnd e n bitNo reason) := by
  unfold State.ldeEnd
  extract_lets s1 s2 s3
  have hR : 0x1800 ≤ ldeR e := Nat.le_add_right_of_le (by decide)
  have h1 : ViFrame copyParts (0x1800 ≤ ·) s s1 :=
    (s.ldeValidate_vi e n).trans ((State.setLde_frame _ e _).trans (State.nvmNext_frame _ e)).vi
  have h2 : ViFrame copyParts (0x1800 ≤ ·) s1 s3 :=
    ((((((s1.wbit_frame (ldeR e + 0x18) 0 false).mono).then (State.wbit_frame _ (ldeR e + 0x18) bitNo true)).then
      (State.wfld_frame _ (ldeR e + 0x18) 11 8 reason)).then (State.wr_frame _ (ldeR e + 0x1C) _)).then
      (State.pendOwner_frame _ .lde e 15) : Frame [.cyc, .out] (0x1800 ≤ ·) s1 s3).vi
  have h := h1.trans h2
  exact .ite (fun _ => h.trans (s3.after_frame 0 .serviceExitDone).vi) fun _ => h

/-- A loader that stops writes no register below 0x1800, and no VI comes under reset or leaves it. -/
theorem State.stopLde_vi (e : Nat) : ViFrame copyParts (0x1800 ≤ ·) s (s.stopLde e) := by
  unfold State.stopLde
  extract_lets x n
  refine .ite (fun _ => .refl) fun _ => .ite (fun _ => s.ldeEnd_vi e _ 3 0) fun _ => ?_
  exact (s.fresh_frame.vi.trans (State.ldeCopy_vi _ e 0 n [])).trans (State.ldeEnd_vi _ e n 3 0)

end Sys2Proof.Machine
end

section
/-! PROOF. O51: BAR0 and configuration requests are answered, and the PCIe link comes and goes (R142, R441, R444, R447, R449). -/

namespace Sys2Proof.Machine

-- Proofs one after another: many that wait in threads of their own would pass the check's memory limit.
set_option Elab.async false

variable (s : State)

/-! ### A VI's stop -/

/-- What a VI's stop may change beside registers: not the host ports. -/
abbrev viStopParts : List Aspect := [.acts, .disp, .kl, .seqs, .phaseRefs, .trgs, .sems] ++ copyParts

theorem State.setLk_frame (l : Nat) (x : LinkSt) : Frame [.disp] noKey s (s.setLk l x) :=
  .part rfl fun p hp => by cases p <;> simp [State.Keeps, State.setLk] at hp ⊢

theorem State.setRa_frame (v : Nat) (x : RaSt) : Frame [.kl] noKey s (s.setRa v x) := s.withKl_frame _
theorem State.setExpQ_frame (n : Nat) (q : List Src) : Frame [.kl] noKey s (s.setExpQ n q) := s.withKl_frame _
theorem State.setImpQ_frame (n : Nat) (q : List Deliv) : Frame [.kl] noKey s (s.setImpQ n q) := s.withKl_frame _

theorem State.flushQ_frame (l : Nat) : Frame [.acts, .disp] anyKey s (s.flushQ l) :=
  (Frame.each (fun i _ u => (u.disarm_frame (qAct l i)).mono) s).then (State.setLk_frame _ l _)

theorem State.stopLink_frame (l : Nat) : Frame [.disp, .cyc, .agenda] anyKey s (s.stopLink l) := by
  have hd (u : State) (d : DispSt) : Frame [.disp] noKey u { u with disp := d } := .part rfl
  unfold State.stopLink
  extract_lets x s1 d s2 s3 d' s4 s5
  have h2 : Frame [.disp, .cyc, .agenda] anyKey s s2 :=
    (((s.setLk_frame l _).mono).then (State.wbit_frame _ (dsiR l + 0x14) 0 false)).then (hd s1 _)
  have h5 : Frame [.disp, .cyc, .agenda] anyKey s s5 :=
    (((h2.then (s2.wfld_frame 0x2C08 1 0 0)).then (State.wr_frame _ 0x1824 _)).then (hd s3 _)).then s4.noteStop_frame
  exact .ite (fun _ => h2) fun _ => .ite (fun _ => h5.then (s5.after_frame _ _)) fun _ => h5

theorem State.stopDisp_frame : Frame [.disp, .cyc, .agenda] anyKey s s.stopDisp := by
  unfold State.stopDisp
  exact .ite (fun _ => .refl) fun _ => (s.stopLink_frame 0).trans (State.stopLink_frame _ 1)

theorem State.setWindow_frame (v q : Nat) (b : List Byte) (valid stale : Bool) : Frame [.cyc] anyKey s (s.setWindow v q b valid stale) :=
  (((Frame.each (fun w _ u => (u.wrv_frame v _ _).mono) s : Frame [.cyc] anyKey s _)).then (State.wbitv_frame _ v 0x29C _ valid)).then
    (State.wbitv_frame _ v 0x29C _ stale)

theorem State.mbEmpty_vi (v : Nat) : ViFrame viStopParts anyKey s (s.mbEmpty v) := by
  unfold State.mbEmpty
  extract_lets x l s1 s2
  have h1 : ViFrame [.vis] noKey s s1 := s.setVi_vi v _ rfl
  have h2 : Frame [.cyc] anyKey s1 s2 := Frame.each (fun q _ u => u.setWindow_frame v q [] false false) s1
  have h3 (u : State) (m : Msg) : Frame [.cyc, .out] anyKey u ((u.incSatv m.vi 0x294 1).pend m.vi 6) :=
    ((u.tally_frame (viKey m.vi 0x294) _).mono).then (State.pend_frame _ m.vi 6)
  exact (h1.mono.trans h2.vi).trans (.each (fun u m => (h3 u m).vi) l s2)

/-- A VI's stop brings no VI under reset and out of it, and leaves the host ports (R432). -/
theorem State.viStop_vi (v : Nat) : ViFrame viStopParts anyKey s (s.viStop v) := by
  unfold State.viStop
  extract_lets s1 s2 s3 s4 s5 s6 s7 s8 s9 s10 s11
  have h1 : ViFrame viStopParts anyKey s s1 := .each (fun u k => (u.haltSeq_frame k 0).vi) _ s
  have h2 : ViFrame viStopParts anyKey s1 s2 :=
    .each (fun u n => (((u.setAo_frame n _).mono (P := haltParts) (K := anyKey)).then (State.parkAout_frame _ n)).vi) _ s1
  have h3 : ViFrame viStopParts anyKey s2 s3 := .each (fun u k => (u.stopBank_frame k).vi) _ s2
  have h4 : ViFrame viStopParts anyKey s3 s4 :=
    .each (fun u n => (((u.setTrg_frame n _).mono (P := haltParts) (K := anyKey)).then (State.wbit_frame _ (trgR n + 8) 1 false)).vi) _ s3
  have h5 : ViFrame viStopParts anyKey s4 s5 := .each (fun u e => (u.disarm_frame _).vi) _ s4
  have h6 : ViFrame viStopParts anyKey s5 s7 :=
    .ite (fun _ => (s5.stopDisp_frame.vi).trans (.each (fun u l => ((u.flushQ_frame l).vi).trans (State.setLk_frame _ l _).vi) _ s6))
      fun _ => .refl
  have h8 : ViFrame viStopParts anyKey s7 s8 := .each (fun u e => (u.stopLde_vi e).mono) _ s7
  have h10 : ViFrame viStopParts anyKey s8 s10 :=
    ((s8.releaseSems_frame _ true).vi.trans (s9.mbEmpty_vi v)).trans (State.setRa_frame _ v {}).vi
  have h11 : ViFrame viStopParts anyKey s10 s11 :=
    .each (fun u n => ((u.setExpQ_frame n []).trans (State.setImpQ_frame _ n [])).vi) _ s10
  have hrest := ((h6.trans h8).trans h10).trans h11
  exact (((((h1.trans h2).trans h3).trans h4).trans h5).trans hrest).trans
    ((s11.noteStop_frame.mono (P := [.agenda, .agendaGrows])).then (State.after_frame _ 0 (.calAbort .reset))).vi

/-- The reset of a VI that is not under reset puts it under reset, and leaves the host ports (R432). -/
theorem State.viResetGo_vi {v : Nat} (hp : s.rst.phase = 5) (hv : (s.vi v).inReset = false) :
    ((s.viResetGo v).vi v).inReset = true ∧ (s.viResetGo v).host = s.host := by
  unfold State.viResetGo
  rw [if_neg (by omega), if_neg (by simp [hv])]
  extract_lets x s1
  have hx : (s1.vi v).inReset = true := congrArg ViSt.inReset (s.vi_setVi_self v _)
  obtain ⟨hframe, hreset⟩ := (s1.viStop_vi v).trans (State.after_frame _ (us 20) (.viResetDone (Fin.ofNat 32 v))).vi
  exact ⟨(hreset v).trans hx, hframe.keeps .host (by decide)⟩

/-! ### Requests -/

theorem exec_bar0Request (fn : Fin 32) (off : BitVec 16) (wr : Bool) (dws : List (Word × BitVec 4)) (hs : s.starting = false)
    (he : s.mode.eff ≠ .shelf) : exec (.bar0Request fn off wr dws) s =
      .next (if s.pcieBad fn dws.length then s.pcieStatus 1 else (s.bar0Words fn wr off dws).pcieStatus 0) := by
  show execBar0Request fn off wr dws s = _
  unfold execBar0Request
  rw [if_neg (by simp [hs, he])]
  exact (apply_ite Host.Outcome.next _ _ _).symm

theorem exec_bar0Request_early (fn : Fin 32) (off : BitVec 16) (wr : Bool) (dws : List (Word × BitVec 4))
    (h : s.starting = true ∨ s.mode.eff = .shelf) : exec (.bar0Request fn off wr dws) s = .next s :=
  if_pos (by simpa using h)

theorem exec_configRequest_early (fn : Fin 32) (req : CfgReq) (hs : s.starting = true) :
    exec (.configRequest fn req) s = .next (s.pcieStatus 2) := if_pos hs

theorem exec_configRequest_absent (fn : Fin 32) (req : CfgReq) (hs : s.starting = false) (hf : s.fnEnabled fn = false) :
    exec (.configRequest fn req) s = .next (s.pcieStatus 1) :=
  (if_neg (by simp [hs])).trans (if_pos (by simp [hf]))

theorem exec_configRequest (fn : Fin 32) (req : CfgReq) (hs : s.starting = false) (hf : s.fnEnabled fn = true) :
    exec (.configRequest fn req) s = .next ((s.cfgDo fn req).pcieStatus 0) :=
  (if_neg (by simp [hs])).trans (if_neg (by simp [hf]))

theorem State.phase_of_starting (hs : s.starting = false) : s.rst.phase = 5 := by
  simp only [State.starting, Bool.or_eq_false_iff, bne_eq_false_iff_eq] at hs
  exact hs.1

/-- A function-level reset resets the function's VI, wakes the function and takes its bus mastering (R431, R449). -/
theorem State.flReset_resets (fn : Fin 32) (hp : s.rst.phase = 5) (hv : (s.vi fn).inReset = false) :
    ((s.flReset fn).vi fn).inReset = true ∧ (s.flReset fn).host.d3hot.getLsbD fn = false ∧
      (s.flReset fn).host.busMaster.getLsbD fn = false := by
  unfold State.flReset
  extract_lets h h'
  obtain ⟨hreset, hhost⟩ := State.viResetGo_vi { s with host := h' } (v := fn) hp hv
  refine ⟨hreset, ?_, ?_⟩
  · rw [hhost]
    exact tb_setBit_self _ _ _ fn.isLt
  · rw [hhost]
    exact tb_setBit_self _ _ _ fn.isLt

theorem configRequest_acts (fn : Fin 32) (hs : s.starting = false) (hf : s.fnEnabled fn = true) :
    Does (.configRequest fn (.read 0)) s (fun t => t.host.status = 0 ∧
      t.rdata = some (if fn = 0 then 0xD9601F9A else 0xD9611F9A, false) ∧ SameRegs [] s t) ∧
    (∀ on, Does (.configRequest fn (.powerState on)) s fun t => t.host.d3hot.getLsbD fn = on ∧ t.host.status = 0 ∧ SameRegs [] s t) ∧
    (∀ on, Does (.configRequest fn (.busMaster on)) s fun t => t.host.busMaster.getLsbD fn = on ∧ t.host.status = 0 ∧
      SameRegs [] s t) ∧
    Does (.configRequest fn .turnOff) s (fun t => t.host = { s.host with pmeOff := true, status := 0 } ∧ SameRegs [] s t) ∧
    ((s.vi fn).inReset = false → Does (.configRequest fn .flr) s fun t => (t.vi fn).inReset = true ∧
      t.host.d3hot.getLsbD fn = false ∧ t.host.busMaster.getLsbD fn = false ∧ t.host.status = 0) := by
  have hdoes (req : CfgReq) := exec_configRequest s fn req hs hf
  have hzero : (fn.val = 0) = (fn = 0) := propext ⟨fun h => Fin.ext h, fun h => h ▸ rfl⟩
  have hword : s.cfgWord fn 0 = if fn = 0 then 0xD9601F9A else 0xD9611F9A := by
    simp only [State.cfgWord, Nat.zero_div, if_true, hzero]
  refine ⟨⟨_, hdoes _, rfl, congrArg (fun w => some (w, false)) hword, fun _ _ => rfl⟩,
    fun on => ⟨_, hdoes _, tb_setBit_self _ _ _ fn.isLt, rfl, fun _ _ => rfl⟩,
    fun on => ⟨_, hdoes _, tb_setBit_self _ _ _ fn.isLt, rfl, fun _ _ => rfl⟩, ⟨_, hdoes _, rfl, fun _ _ => rfl⟩, fun hv => ?_⟩
  obtain ⟨hreset, hd3, hbm⟩ := s.flReset_resets fn (s.phase_of_starting hs) hv
  exact ⟨_, hdoes _, hreset, hd3, hbm, rfl⟩

/-! ### The link -/

theorem bf_lt {w : Nat} (x : BitVec w) (hi lo : Nat) : bf x hi lo < 2 ^ (hi + 1 - lo) := Nat.mod_lt _ (Nat.two_pow_pos _)

/-- The link comes up with the width and the speed asked for, and WAKE_N is no longer driven (R447). -/
theorem pcieLinkUp_up : Does .pcieLinkUp s fun t => t.bit 0x3800 31 = true ∧ t.fld 0x3800 7 4 = s.fld 0x3804 7 4 ∧
    t.fld 0x3800 2 0 = s.fld 0x3804 2 0 ∧ t.host = { s.host with wakeAt := 0, pmeOff := false } ∧ SameRegs [devKey 0x3800] s t := by
  let up := setBit (setFld (s.rd 0x3800) 10 8 0) 31 true
  let w := setFld (setFld up 7 4 (s.fld 0x3804 7 4)) 2 0 (s.fld 0x3804 2 0)
  have hw : (s.wr 0x3800 w).rd 0x3800 = w := State.rd_wr_self s 0x3800 w
  refine ⟨{ s.wr 0x3800 w with host := { s.host with wakeAt := 0, pmeOff := false } }, rfl, ?_, ?_, ?_, rfl,
    (s.wr_frame 0x3800 w).sameRegs _ fun k hk => by simp [hk, devKey]⟩
  · exact (congrArg (tb · 31) hw).trans (((tb_setFld_ne _ _ (by decide) (by decide) (by decide)).trans
      (tb_setFld_ne up _ (by decide) (by decide) (by decide))).trans (tb_setBit_self _ 31 true (by decide)))
  · exact (congrArg (bf · 7 4) hw).trans (((bf_setFld_ne _ _ (by decide) (by decide) (by decide)).trans
      (bf_setFld up 7 4 _ (by decide) (by decide))).trans (Nat.mod_eq_of_lt (bf_lt _ 7 4)))
  · exact (congrArg (bf · 2 0) hw).trans ((bf_setFld _ 2 0 _ (by decide) (by decide)).trans (Nat.mod_eq_of_lt (bf_lt _ 2 0)))

/-- A recovery is counted. -/
theorem pcieLinkDown_recovers : Does (.pcieLinkDown true) s fun t => t.fld 0x3808 15 0 = min (s.fld 0x3808 15 0 + 1) 65535 ∧
    SameRegs [devKey 0x3808] s t :=
  ⟨_, rfl, (s.incFld_reads 0x3808 15 0 1 (by decide) (by decide)).1, (s.tally_frame (devKey 0x3808) _).sameRegs _ (by simp)⟩

/-- The link goes down, and is counted. -/
theorem pcieLinkDown_goesDown : Does (.pcieLinkDown false) s fun t => t.bit 0x3800 31 = false ∧
    t.fld 0x3808 31 16 = min (s.fld 0x3808 31 16 + 1) 65535 ∧ SameRegs [devKey 0x3800, devKey 0x3808] s t := by
  let u := (s.wbit 0x3800 31 false).wfld 0x3800 10 0 0
  have hu : Frame [.cyc] (· = 0x3800) s u := (s.wbit_frame 0x3800 31 false).then (State.wfld_frame _ 0x3800 10 0 0)
  have hdown : u.bit 0x3800 31 = false :=
    (State.bit_wfld_ne _ 0x3800 0 (by decide) (by decide) (by decide)).trans (s.bit_wbit_self 0x3800 31 false (by decide))
  have ht : Frame [.cyc] (· = 0x3808) u (u.incFld 0x3808 31 16 1) := u.tally_frame (devKey 0x3808) _
  have h : Frame [.cyc] (fun k => k = 0x3800 ∨ k = 0x3808) s (u.incFld 0x3808 31 16 1) := (hu.mono).then ht
  refine ⟨_, rfl, (ht.bit 0x3800 31).trans hdown, ?_, h.sameRegs _ fun k hk => by simpa [devKey] using hk⟩
  exact (u.incFld_reads 0x3808 31 16 1 (by decide) (by decide)).1.trans
    (congrArg (fun n => min (n + 1) 65535) (hu.fld 0x3808 31 16))

/-- Settles O51: a request is answered by the first of the rules that applies to it, and a function-level reset is the VI's reset
(`State.viResetGo_vi`). -/
theorem pcieRequestsAreAnswered : Obligations.PcieRequestsAreAnswered := by
  intro s fn off wr dws req
  refine ⟨fun h => ⟨s, exec_bar0Request_early s fn off wr dws h, rfl⟩,
    fun hs => ⟨_, exec_configRequest_early s fn req hs, rfl, fun _ _ => rfl, Frame.sameStores (s.withHost_frame _)⟩,
    fun hs he hbad => ?_, fun d be hs he hok => ?_,
    fun hs hf => ⟨_, exec_configRequest_absent s fn req hs hf, rfl, fun _ _ => rfl, Frame.sameStores (s.withHost_frame _)⟩,
    fun hs hf => configRequest_acts s fn hs hf, fun on n hs hf => ⟨_, exec_configRequest s 0 (.vfs on n) hs hf, rfl, rfl, fun _ _ => rfl⟩,
    pcieLinkUp_up s, pcieLinkDown_recovers s, pcieLinkDown_goesDown s⟩
  · refine ⟨_, exec_bar0Request s fn off wr dws hs he, ?_⟩
    rw [if_pos hbad]
    exact ⟨rfl, fun _ _ => rfl, Frame.sameStores (s.withHost_frame _)⟩
  · have hone (b : Bool) : exec (.bar0Request fn off b [(d, be)]) s = .next ((s.bar0Words fn b off [(d, be)]).pcieStatus 0) :=
      (exec_bar0Request s fn off b [(d, be)] hs he).trans (by rw [if_neg (by simp [hok])])
    exact ⟨⟨_, hone true, rfl, _, rfl, rfl⟩, ⟨_, hone false, rfl, _, rfl, rfl⟩⟩

end Sys2Proof.Machine
end

section
/-! PROOF. O23: power-on, system, warm and core resets take effect, and the supervisor's restart releases what waited (R131, R132,
R136, R138). -/

namespace Sys2Proof.Machine

-- Proofs one after another: many that wait in threads of their own would pass the check's memory limit.
set_option Elab.async false

variable (s : State)

/-! ### Registers -/

/-- A register whose entry is dropped reads its reset value. -/
theorem Tab.get_keep {α : Type} (d : Nat → α) (p : Nat → Bool) (t : Tab α) (k : Nat) :
    Tab.get d (Tab.keep p t) k = if p k then Tab.get d t k else d k := by
  have hfind : Tab.find (Tab.keep p t) k = if p k then Tab.find t k else none := Tab.find_filter_key p t k
  rw [Tab.get, hfind]
  split
  · rfl
  · rfl

theorem State.getKey_powerOn (k : Nat) : s.powerOn.getKey k = regReset k := Tab.get_keep regReset (fun _ => false) s.regs k

/-- A power-on reset clears everything beside the pins and the flash (R131). -/
theorem por_clears (hl : s.resetLevel ≠ some 0) : Does .por s fun t => (∀ k, t.getKey k = regReset k) ∧ t.rst = {} ∧ t.mode = {} ∧
    t.seqs = [] ∧ t.acts = [] ∧ t.time.fclk = false ∧ t.now = 0 :=
  ⟨_, if_neg hl, s.getKey_powerOn, rfl, rfl, rfl, rfl, rfl, ite_self _⟩

/-! ### The record of a reset -/

theorem pack_cause (promoted escalated : Bool) {level src : Nat} (hl : level < 4) (hs : src < 256) :
    let w := pack [(13, b2n promoted), (12, b2n escalated), (8, level), (0, src)]
    bf w 7 0 = src ∧ bf w 11 8 = level := by
  have hp : b2n promoted < 2 := by cases promoted <;> decide
  have he : b2n escalated < 2 := by cases escalated <;> decide
  simp only [pack, bf, List.map_cons, List.map_nil, List.sum_cons, List.sum_nil, Nat.shiftLeft_eq, Nat.shiftRight_eq_div_pow,
    BitVec.toNat_ofNat]
  omega

/-- RST_CAUSE and RST_CAUSE_TIME record the reset (R138). -/
theorem State.recordReset_spec (r : ResetReq) : Frame [] (fun k => 0x480 ≤ k ∧ k < 0x48C) s (s.recordReset r) ∧
    (s.recordReset r).rd64 0x484 0x488 = r.time ∧ (r.src < 256 → r.level < 4 →
      (s.recordReset r).fld 0x480 7 0 = r.src ∧ (s.recordReset r).fld 0x480 11 8 = r.level) := by
  unfold State.recordReset
  generalize hw : pack [(13, b2n r.promoted), (12, b2n (r.src == 5)), (8, r.level), (0, r.src)] = w
  have htime : Frame [] (fun k => k = 0x484 ∨ k = 0x488) (s.wr 0x480 w) ((s.wr 0x480 w).wr64 0x484 0x488 r.time) :=
    ((State.wr_frame _ 0x484 _).mono).then (State.wr_frame _ 0x488 _)
  refine ⟨((s.wr_frame 0x480 w).mono).then htime, State.rd64_wr64_self _ _ (by decide), fun hs hl => ?_⟩
  obtain ⟨hsrc, hlevel⟩ := pack_cause r.promoted (r.src == 5) hl hs
  rw [htime.fld 0x480 7 0, htime.fld 0x480 11 8, State.fld, State.fld, s.rd_wr_self 0x480 w, ← hw]
  exact ⟨hsrc, hlevel⟩

/-! ### System and warm reset -/

theorem State.countTry_spec (restart : Bool) : Frame [.cyc, .rst] (· = 0x494) s (s.countTry restart) ∧
    (s.countTry restart).rst.phase = s.rst.phase ∧ (s.countTry restart).rst.req = s.rst.req := by
  unfold State.countTry
  split
  · exact ⟨.refl, rfl, rfl⟩
  split
  · exact ⟨(s.withRst_frame _).mono, rfl, rfl⟩
  · exact ⟨(s.tally_frame (devKey 0x494) _).mono, rfl, rfl⟩

/-- A system or warm reset clears the device to P0 in SHELF, then records itself (R131). -/
theorem State.deviceReset_clears (r : ResetReq) : ∃ u : State, s.deviceReset r = (u.recordReset r).countTry r.restart ∧
    u.rst.phase = 0 ∧ u.rst.req = none ∧ u.mode.eff = .shelf ∧ u.acts = [] ∧ u.seqs = [] :=
  ⟨_, rfl, rfl, rfl, rfl, rfl, rfl⟩

/-- The request is taken up. -/
def State.reqTaken (s : State) : State := { s with rst := { s.rst with req := none } }

theorem exec_resetTakeEffect {r : ResetReq} (hr : s.rst.req = some r) (hd : r.due ≤ s.time.mono) : exec .resetTakeEffect s =
    .next (if r.level = 3 then s.reqTaken.coreReset r else s.reqTaken.deviceReset r) := by
  show execResetTakeEffect s = _
  unfold execResetTakeEffect
  rw [hr]
  exact (if_neg (by omega)).trans (apply_ite Host.Outcome.next _ _ _).symm

theorem resetTakeEffect_device {r : ResetReq} (hr : s.rst.req = some r) (hd : r.due ≤ s.time.mono) (hs : r.src < 256)
    (hl : r.level < 3) : Does .resetTakeEffect s fun t => t.rst.phase = 0 ∧ t.rst.req = none ∧ t.mode.eff = .shelf ∧
      t.acts = [] ∧ t.seqs = [] ∧ t.fld 0x480 7 0 = r.src ∧ t.fld 0x480 11 8 = r.level ∧ t.rd64 0x484 0x488 = r.time := by
  refine ⟨_, (exec_resetTakeEffect s hr hd).trans (congrArg Host.Outcome.next (if_neg (by omega))), ?_⟩
  obtain ⟨u, hdev, hphase, hreq, heff, hacts, hseqs⟩ := s.reqTaken.deviceReset_clears r
  obtain ⟨hrec, htime, hcause⟩ := u.recordReset_spec r
  obtain ⟨hsrc, hlevel⟩ := hcause hs (by omega)
  obtain ⟨htry, hp, hq⟩ := (u.recordReset r).countTry_spec r.restart
  rw [hdev, hp, hq, htry.fld 0x480 7 0, htry.fld 0x480 11 8, htry.rd64 0x484 0x488 (by decide) (by decide)]
  have hkeeps (p : Aspect) (ht : p ∉ [Aspect.cyc, .rst]) := (hrec.keeps p (by simp)).trans (htry.keeps p ht)
  have hmode : ((u.recordReset r).countTry r.restart).mode = u.mode := hkeeps .mode (by decide)
  have hrst : (u.recordReset r).rst = u.rst := hrec.keeps .rst (by decide)
  exact ⟨hrst ▸ hphase, hrst ▸ hreq, hmode ▸ heff, Eq.trans (hkeeps .acts (by decide)) hacts,
    Eq.trans (hkeeps .seqs (by decide)) hseqs, hsrc, hlevel, htime⟩

/-! ### Core reset -/

theorem live_seqStatus_reset : ∀ k < 16, regReset (seqR k + 8) = 0 := by decide

/-- What stands of the registers after the sequencers' live ones are at their reset values (R125). -/
theorem State.getKey_resetLive_seq (k : Nat) : (s.resetLive 3).getKey k =
    if 0x1000 ≤ k ∧ k < 0x1800 ∧ liveReg k = true then regReset k else s.getKey k := by
  refine (Tab.get_keep regReset (fun k => !(decide (0x1000 ≤ k) && decide (k < 0x1800) && liveReg k)) s.regs k).trans ?_
  by_cases h : 0x1000 ≤ k ∧ k < 0x1800 ∧ liveReg k = true
  · rw [if_pos h, if_neg (by simp [h])]
  · rw [if_neg h, if_pos (by simpa [or_assoc, imp_iff_not_or] using h)]
    rfl

theorem State.resetLive_seq_frame : Frame [.seqs, .aouts, .phaseRefs, .pbs, .trgs, .disp] (0x1000 ≤ ·) s (s.resetLive 3) := by
  refine ⟨(s.resetLive_frame 3).keeps, fun k hk => ?_⟩
  rw [s.getKey_resetLive_seq k, if_neg (fun h => hk h.1)]

/-- A halted sequencer is halted after its live registers were reset. -/
theorem State.resetLive_seqState {k : Nat} (hk : k < 16) (h : s.seqState k = 0) : (s.resetLive 3).seqState k = 0 := by
  rw [State.seqState, State.fld, State.rd, s.getKey_resetLive_seq]
  split
  · rw [show regReset (devKey (seqR k + 8)) = 0 from live_seqStatus_reset k hk]
    decide
  · exact h

/-- A bit of a sequencer's STATUS below HALT_WHY and above STATE leaves both. -/
theorem State.wbit_seqStatus (j k : Nat) {i : Nat} (b : Bool) (h : 2 ≤ i) (h' : i < 24) :
    (s.wbit (seqR j + 8) i b).seqState k = s.seqState k ∧
      (s.wbit (seqR j + 8) i b).fld (seqR k + 8) 27 24 = s.fld (seqR k + 8) 27 24 := by
  by_cases hj : j = k
  · subst hj
    exact ⟨s.fld_wbit_ne _ b (by omega) (by omega), s.fld_wbit_ne _ b (by omega) (by omega)⟩
  · have hf := s.wbit_frame (seqR j + 8) i b
    exact ⟨hf.fld (seqR k + 8) 1 0, hf.fld (seqR k + 8) 27 24⟩

/-- HALT_WHY of the sequencers named reads as written, and no STATE changes. -/
theorem State.eachWhy_reads {k why : Nat} (hw : why < 16) (l : List Nat) :
    (s.each l fun s k => s.wfld (seqR k + 8) 27 24 why).seqState k = s.seqState k ∧ (k ∈ l ∨ s.fld (seqR k + 8) 27 24 = why →
      (s.each l fun s k => s.wfld (seqR k + 8) 27 24 why).fld (seqR k + 8) 27 24 = why) := by
  induction l generalizing s with
  | nil => exact ⟨rfl, fun h => h.resolve_left (by simp)⟩
  | cons a l ih =>
    obtain ⟨hstate, hwhy⟩ := ih (s.wfld (seqR a + 8) 27 24 why)
    by_cases ha : a = k
    · subst ha
      have hself : (s.wfld (seqR a + 8) 27 24 why).fld (seqR a + 8) 27 24 = why :=
        (s.fld_wfld_self _ 27 24 why (by decide) (by decide)).trans (Nat.mod_eq_of_lt hw)
      exact ⟨hstate.trans (s.fld_wfld_ne _ why (by decide) (by decide) (by decide)), fun _ => hwhy (.inr hself)⟩
    · have hf := s.wfld_frame (seqR a + 8) 27 24 why
      refine ⟨hstate.trans (hf.fld (seqR k + 8) 1 0), fun h => hwhy ?_⟩
      exact h.imp (fun hm => (List.mem_cons.mp hm).resolve_left (Ne.symm ha)) fun h => (hf.fld (seqR k + 8) 27 24).trans h

/-- What the sequencers' part of a core reset may change beside registers. -/
abbrev coreSeqParts : List Aspect := [.seqs, .aouts, .phaseRefs, .pbs, .trgs, .disp, .mem, .stores, .agenda, .agendaGrows, .cyc]

theorem State.setScan_frame (k : Nat) (x : ScanFor) : Frame [.mem, .stores] noKey s (s.setScan k x) := s.withMem_frame _

/-- After the sequencers' part of a core reset, those that stand halted read HALT_WHY 7 (R132). -/
theorem State.coreSeqs_spec (was : List Nat) : Frame coreSeqParts (0x1000 ≤ ·) s (s.coreSeqs was) ∧
    ∀ k < 16, s.seqState k = 0 → (s.coreSeqs was).seqState k = 0 ∧ (s.coreSeqs was).fld (seqR k + 8) 27 24 = 7 := by
  unfold State.coreSeqs
  extract_lets armed s1 s2 s3 s4 s5
  have h1 : Frame coreSeqParts (0x1000 ≤ ·) s s1 := s.resetLive_seq_frame.mono
  have h2 : Frame coreSeqParts (0x1000 ≤ ·) s1 s2 := Frame.each (fun k _ u => (u.wfld_frame (seqR k + 8) 27 24 7).mono) s1
  have h3 : Frame coreSeqParts (0x1800 ≤ ·) s2 s3 := Frame.each (fun k _ u => (u.wbit_frame (0x1840 + 4 * k) 16 false).mono) s2
  have h4 : Frame coreSeqParts (0x1800 ≤ ·) s3 s4 := Frame.each (fun k _ u => (u.setScan_frame k _).mono) s3
  have h5 : Frame coreSeqParts (0x1800 ≤ ·) s4 s5 :=
    Frame.each (fun k _ u => ((u.setScan_frame k _).mono).then (State.cancel_frame _ _)) s4
  have h6 : Frame coreSeqParts (0x1000 ≤ ·) s5 (s5.each armed fun s k => s.wbit (seqR k + 8) 2 true) :=
    Frame.each (fun k _ u => (u.wbit_frame (seqR k + 8) 2 true).mono) s5
  have h35 : Frame coreSeqParts (0x1800 ≤ ·) s2 s5 := (h3.trans h4).trans h5
  refine ⟨((h1.trans h2).then h35).trans h6, fun k hk hz => ?_⟩
  obtain ⟨hstate, hwhy⟩ := s1.eachWhy_reads (k := k) (why := 7) (by decide) (List.range 16)
  constructor
  · rw [State.each_keeps s5 (fun u => u.seqState k) _ (fun u j => (u.wbit_seqStatus j k true (by decide) (by decide)).1)]
    exact (h35.fld (seqR k + 8) 1 0).trans (hstate.trans (s.resetLive_seqState hk hz))
  · rw [State.each_keeps s5 (fun u => u.fld (seqR k + 8) 27 24) _ (fun u j => (u.wbit_seqStatus j k true (by decide) (by decide)).2)]
    exact (h35.fld (seqR k + 8) 27 24).trans (hwhy (.inl (List.mem_range.mpr hk)))

/-! ### Runs that a core reset ends -/

/-- What ending the calibration, the erase and the loaders' programs may change beside registers: not the reset's own state. -/
abbrev coreEndParts : List Aspect := [.mode, .eff, .trans, .doms, .syn, .cal, .host, .sems, .seqs, .phaseRefs, .trgs] ++ copyParts

/-- The registers it may write: none of RST_CAUSE, its time, and the sequencers'. -/
abbrev coreEndKey : Nat → Prop := fun k => k < 0x480 ∨ 0x1800 ≤ k

theorem State.calEnd_frame : Frame coreEndParts coreEndKey s s.calEnd := by
  have hc (u : State) (x : CalSt) : Frame [.cal] noKey u { u with cal := x } := .part rfl
  unfold State.calEnd
  split
  · exact .refl
  · next v kind p h =>
    extract_lets l c s1 c' s2 s3 s4
    have h1 : Frame coreEndParts coreEndKey s s1 := (hc s _).mono
    have h2 : Frame coreEndParts coreEndKey s1 s2 := .ite (fun _ => (hc s1 _).mono) fun _ => .refl
    have h3 : Frame coreEndParts coreEndKey s2 s3 :=
      (((s2.wbitv_frame v 0x3004 0 false).mono).then (State.pend_frame _ v 14)).then (State.reviewMode_frame _)
    have h4 : Frame coreEndParts coreEndKey s3 s4 := .ite (fun _ => (s3.after_frame _ _).mono) fun _ => .refl
    have h14 := ((h1.trans h2).trans h3).trans h4
    exact .ite (fun _ => h14.then (s4.after_frame _ _)) fun _ => h14

theorem State.calHist_frame (kind inst res why fig1 fig2 : Nat) :
    Frame [.cal] (· = 0x3180) s (s.calHist kind inst res why fig1 fig2) := by
  have hc (u : State) (x : CalSt) : Frame [.cal] noKey u { u with cal := x } := .part rfl
  exact (((hc s _).mono).then (State.wfld_frame _ 0x3180 31 16 _)).then (State.wfld_frame _ 0x3180 5 0 _)

theorem State.abortCal_frame (why : AbortWhy) : Frame coreEndParts coreEndKey s (s.abortCal why) := by
  unfold State.abortCal
  split
  · exact .refl
  · next v kind p h =>
    exact ((((s.wbitv_frame v 0x3004 4 true).mono).then (State.wfldv_frame _ v 0x3004 31 27 _)).then
      (State.calHist_frame _ kind p 2 _ 0 0)).then (State.calEnd_frame _)

theorem State.wipeNvm_frame (lo hi : Nat) (erased : Bool) : Frame [.mem, .stores, .free] noKey s (s.wipeNvm lo hi erased) :=
  .part rfl fun p hp => by cases p <;> simp [State.Keeps, State.wipeNvm] at hp ⊢

theorem State.abortNvm_frame : Frame coreEndParts coreEndKey s s.abortNvm := by
  unfold State.abortNvm
  split
  · exact .refl
  · next lo hi h =>
    obtain ⟨-, -, hover, -⟩ := (s.wipeNvm lo hi false).eraseOver_spec
    exact ((s.wipeNvm_frame lo hi false).mono).then hover

theorem State.abortProgram_frame (e : Nat) : Frame coreEndParts coreEndKey s (s.abortProgram e) := by
  unfold State.abortProgram
  extract_lets x s1 p a
  exact .ite (fun _ => .refl) fun _ => ((s.stopLde_vi e).frame.mono).then (s1.wipeNvm_frame a (a + p) false)

/-- The supervisor restarts: what it ran ends (R132). -/
def State.coreEnds (s : State) : State :=
  let s := { s with rst := { s.rst with coreBusy := true } }
  (s.abortCal .reset).abortNvm.each (List.range 4) fun s e => s.abortProgram e

theorem State.coreEnds_spec : Frame (.rst :: coreEndParts) coreEndKey s s.coreEnds ∧
    s.coreEnds.rst = { s.rst with coreBusy := true } := by
  unfold State.coreEnds
  extract_lets q u
  have hu : Frame [.rst] noKey s u := s.withRst_frame _
  have hset : u.rst = { s.rst with coreBusy := true } := rfl
  have hends : Frame coreEndParts coreEndKey u ((u.abortCal .reset).abortNvm.each (List.range 4) fun s e => s.abortProgram e) :=
    ((u.abortCal_frame .reset).trans (State.abortNvm_frame _)).trans (Frame.each (fun e _ v => v.abortProgram_frame e) _)
  clear_value u
  exact ⟨(hu.mono).then hends, Eq.trans (hends.keeps .rst (by decide)) hset⟩

/-- What the halt of a core reset may change beside registers. -/
abbrev coreHaltParts : List Aspect := [.mem, .stores, .rind, .walk, .disp, .agendaGrows] ++ haltParts

/-- Everything is parked, and the sequencers, the walk and the semaphores are as a core reset leaves them (R132). -/
def State.coreHalts (s : State) (was : List Nat) : State :=
  let s := s.parkAll 7
  let s := { s with mem := { s.mem with notLoaded := 0 } }
  let s := s.each ((List.range 33).filter fun g => (s.rg g).wait) fun s g => s.setRg g { s.rg g with wait := false }
  let s := if s.walk.out then (if s.rindOn then s.walkFrom s.walk.turn false else { s with walk := {} }) else s
  let s := s.each (List.range 8) fun s n => s.endLists n
  (s.coreSeqs was).releaseSems (fun m => m.owner.any fun o => o.2.isSome) true

theorem State.coreHalts_spec (was : List Nat) : Frame coreHaltParts (0x1000 ≤ ·) s (s.coreHalts was) ∧
    ∀ k < 16, (s.coreHalts was).seqState k = 0 ∧ (s.coreHalts was).fld (seqR k + 8) 27 24 = 7 := by
  unfold State.coreHalts
  extract_lets s1 m s2 s3 s4 s5
  obtain ⟨hpark, hhalt⟩ : Frame haltParts (0x1000 ≤ ·) s s1 ∧ ∀ k < 16, s1.seqState k = 0 := s.parkAll_spec 7
  have h2 : Frame coreHaltParts noKey s1 s2 := (s1.withMem_frame _).mono
  have h3 : Frame coreHaltParts noKey s2 s3 := Frame.each (fun g _ u => (u.setRg_frame g _).mono) s2
  have h4 : Frame coreHaltParts noKey s3 s4 :=
    .ite (fun _ => .ite (fun _ => (s3.walkFrom_frame _ false).mono) fun _ => (s3.withWalk_frame _).mono) fun _ => .refl
  have h5 : Frame coreHaltParts noKey s4 s5 := Frame.each (fun n _ u => (u.setAo_frame n _).mono) s4
  have h25 : Frame coreHaltParts noKey s1 s5 := ((h2.trans h3).trans h4).trans h5
  clear_value s5 s1
  obtain ⟨hseqs, hread⟩ := s5.coreSeqs_spec was
  have hsems := (s5.coreSeqs was).releaseSems_outKey (fun m => m.owner.any fun o => o.2.isSome) true
  refine ⟨(((hpark.mono).then h25).then hseqs).then hsems, fun k hk => ?_⟩
  obtain ⟨hstate, hwhy⟩ := hread k hk ((h25.fld (seqR k + 8) 1 0).trans (hhalt k hk))
  exact ⟨(hsems.fld (seqR k + 8) 1 0).trans hstate, (hsems.fld (seqR k + 8) 27 24).trans hwhy⟩

theorem State.coreReset_eq (r : ResetReq) : s.coreReset r =
    ((s.recordReset r).coreHalts ((List.range 16).filter fun k => s.seqOn k)).coreEnds.after (us 40) .coreResetDone := rfl

/-- A core reset records itself, halts every sequencer, and leaves the supervisor to restart in 40 us (R132, R138). -/
theorem State.coreReset_spec (r : ResetReq) (hs : r.src < 256) (hl : r.level < 4) :
    (s.coreReset r).rst.req = s.rst.req ∧ (s.coreReset r).rst.coreBusy = true ∧
    (s.time.mono + us 40, Instr.coreResetDone) ∈ (s.coreReset r).agenda ∧ (s.coreReset r).fld 0x480 7 0 = r.src ∧
    (s.coreReset r).fld 0x480 11 8 = r.level ∧
    ∀ k < 16, (s.coreReset r).seqState k = 0 ∧ (s.coreReset r).fld (seqR k + 8) 27 24 = 7 := by
  rw [s.coreReset_eq r]
  obtain ⟨hrec, -, hcause⟩ := s.recordReset_spec r
  obtain ⟨hsrc, hlevel⟩ := hcause hs hl
  obtain ⟨hhalts, hseqs⟩ := (s.recordReset r).coreHalts_spec ((List.range 16).filter fun k => s.seqOn k)
  generalize (s.recordReset r).coreHalts ((List.range 16).filter fun k => s.seqOn k) = u at hhalts hseqs ⊢
  obtain ⟨hends, hrst⟩ := u.coreEnds_spec
  generalize u.coreEnds = w at hends hrst ⊢
  have hreq : u.rst.req = s.rst.req :=
    congrArg RstSt.req (Eq.trans (hhalts.keeps .rst (by decide)) (hrec.keeps .rst (by decide)))
  have hmono : w.time.mono = s.time.mono := (hends.mono_eq.trans hhalts.mono_eq).trans hrec.mono_eq
  have ht : Frame [.agenda] noKey w (w.after (us 40) .coreResetDone) := w.after_frame _ _
  have hcauseFld (hi lo : Nat) : (w.after (us 40) .coreResetDone).fld 0x480 hi lo = (s.recordReset r).fld 0x480 hi lo :=
    ((ht.fld 0x480 hi lo).trans (hends.fld 0x480 hi lo)).trans (hhalts.fld 0x480 hi lo)
  refine ⟨(congrArg RstSt.req hrst).trans hreq, congrArg RstSt.coreBusy hrst, hmono ▸ w.mem_after (us 40) .coreResetDone,
    (hcauseFld 7 0).trans hsrc, (hcauseFld 11 8).trans hlevel, fun k hk => ?_⟩
  obtain ⟨hstate, hwhy⟩ := hseqs k hk
  exact ⟨((ht.fld (seqR k + 8) 1 0).trans (hends.fld (seqR k + 8) 1 0)).trans hstate,
    ((ht.fld (seqR k + 8) 27 24).trans (hends.fld (seqR k + 8) 27 24)).trans hwhy⟩

theorem resetTakeEffect_core {r : ResetReq} (hr : s.rst.req = some r) (hd : r.due ≤ s.time.mono) (hs : r.src < 256)
    (hl : r.level = 3) : Does .resetTakeEffect s fun t => t.rst.req = none ∧ t.rst.coreBusy = true ∧
      (s.time.mono + us 40, Instr.coreResetDone) ∈ t.agenda ∧ t.fld 0x480 7 0 = r.src ∧ t.fld 0x480 11 8 = 3 ∧
      ∀ k < 16, t.seqOn k = false ∧ t.fld (seqR k + 8) 27 24 = 7 := by
  obtain ⟨hreq, hbusy, hrestart, hsrc, hlevel, hseqs⟩ := s.reqTaken.coreReset_spec r hs (by omega)
  refine ⟨s.reqTaken.coreReset r, (exec_resetTakeEffect s hr hd).trans (congrArg Host.Outcome.next (if_pos hl)), hreq, hbusy, hrestart,
    hsrc, hlevel.trans hl, fun k hk => ?_⟩
  obtain ⟨hstate, hwhy⟩ := hseqs k hk
  exact ⟨bne_eq_false_iff_eq.mpr hstate, hwhy⟩

/-! ### The supervisor's restart -/

/-- What waited for the supervisor is carried out at once. -/
theorem State.mem_eachAfter {c : Instr} (l : List Instr) (h : c ∈ l ∨ (s.time.mono, c) ∈ s.agenda) :
    (s.time.mono, c) ∈ (s.each l fun s c => s.after 0 c).agenda := by
  induction l generalizing s with
  | nil => exact h.resolve_left (by simp)
  | cons a l ih =>
    refine ih (s.after 0 a) ?_
    rcases h with h | h
    · rcases List.mem_cons.mp h with rfl | h
      · exact .inr (s.mem_after 0 c)
      · exact .inl h
    · exact .inr ((s.after_frame 0 a).mem_agenda h)

/-- The restart of the supervisor releases what waited (R132). -/
theorem coreResetDone_releases (hb : s.rst.coreBusy = true) : Does .coreResetDone s fun t => t.rst.coreBusy = false ∧
    t.rst.coreWait = [] ∧ ∀ c ∈ s.rst.coreWait, (s.time.mono, c) ∈ t.agenda := by
  refine ⟨_, if_neg (by simp [hb]), ?_⟩
  let s1 : State := { s with rst := { s.rst with coreBusy := false, coreWait := [] } }
  let s2 := s1.each s.rst.coreWait fun s c => s.after 0 c
  let s3 := if s2.mode.trans = .leaveService then s2.after 0 .serviceExitDone else s2
  have h2 : Frame [.agenda] noKey s1 s2 := Frame.each (fun c _ u => u.after_frame 0 c) s1
  have h3 : Frame [.agenda] noKey s2 s3 := .ite (fun _ => s2.after_frame _ _) fun _ => .refl
  have hr := s3.reviewMode_frame
  have hrst : s3.reviewMode.rst = s1.rst :=
    Eq.trans (hr.keeps .rst (by decide)) (Eq.trans (h3.keeps .rst (by decide)) (h2.keeps .rst (by decide)))
  exact ⟨congrArg RstSt.coreBusy hrst, congrArg RstSt.coreWait hrst, fun c hc =>
    hr.mem_agenda (h3.mem_agenda (s1.mem_eachAfter _ (.inl hc)))⟩

/-- Settles O23: a power-on and a device reset are read off the cleared state, a core reset off its parts in turn
(`State.coreReset_spec`). -/
theorem resetsTakeEffect : Obligations.ResetsTakeEffect :=
  fun s => ⟨por_clears s, fun _ hr hd hs => ⟨resetTakeEffect_device s hr hd hs, resetTakeEffect_core s hr hd hs⟩,
    coreResetDone_releases s⟩

end Sys2Proof.Machine
end

section
/-! SUPPORT. What the operations of a synthesizer read and write of its registers: STATUS bit by bit, its loop's state, and what a
measurement of the loop rests on (R175, R176, R180, R181). -/

namespace Sys2Proof.Machine

-- Proofs one after another: many that wait in threads of their own would pass the check's memory limit.
set_option Elab.async false

variable (s : State)

/-! ### STATUS and the loop's state -/

theorem State.synBit_wsyn (x j : Nat) {i : Nat} (b : Bool) (h : i < 32) :
    (s.wsyn x i b).synBit x j = if j = i then b else s.synBit x j := by
  split
  · next hj => exact hj ▸ s.bit_wbit_self (synSt x) i b h
  · next hj => exact s.bit_wbit_ne (synSt x) b h hj

theorem State.wsyn_frame (x i : Nat) (b : Bool) : Frame [.cyc] (· = synSt x) s (s.wsyn x i b) := s.wbit_frame _ i b

theorem Frame.synBit {P : List Aspect} {K : Nat → Prop} {s t : State} (h : Frame P K s t) (x i : Nat)
    (hK : ¬ K (synSt x) := by simp only [synR, synSt]; omega) : t.synBit x i = s.synBit x i := h.bit (synSt x) i hK

theorem Frame.sy {P : List Aspect} {K : Nat → Prop} {s t : State} (h : Frame P K s t) (x : Nat)
    (hP : Aspect.syn ∉ P := by decide) : t.sy x = s.sy x := by
  simp only [State.sy, show t.syn = s.syn from h.keeps .syn hP]

@[simp] theorem State.sy_wsyn (x i : Nat) (b : Bool) (y : Nat) : (s.wsyn x i b).sy y = s.sy y := (s.wsyn_frame x i b).sy y

/-- What the application of an operation to each of a list keeps, where the operation keeps it for each of the list. -/
theorem State.each_keeps_mem {α β : Type} (g : State → β) {f : State → α → State} {l : List α}
    (h : ∀ a ∈ l, ∀ s, g (f s a) = g s) : ∀ s, g (s.each l f) = g s := by
  induction l with
  | nil => exact fun _ => rfl
  | cons a l ih => exact fun s => (ih (fun b hb => h b (.tail _ hb)) (f s a)).trans (h a (.head _) s)

/-! ### What a measurement of the loop rests on -/

/-- The loop of synthesizer `x` runs as before: its settings, its references and its offset in effect are the same. -/
structure State.SameLoop (s t : State) (x : Nat) : Prop where
  eff : (t.sy x).eff = (s.sy x).eff
  since : (t.sy x).glideAt = (s.sy x).glideAt
  mono : t.time.mono = s.time.mono
  refin : t.refinHz = s.refinHz
  hfxo : t.hfxoHz = s.hfxoHz
  ref : t.rd (synR x + 4) = s.rd (synR x + 4)
  div : t.rd (synR x + 8) = s.rd (synR x + 8)
  lock : t.rd (synR x + 0xC) = s.rd (synR x + 0xC)
  glide : t.rd (synR x + 0x10) = s.rd (synR x + 0x10)
  slew : t.rd (synR x + 0x14) = s.rd (synR x + 0x14)

namespace State.SameLoop

variable {s} {t : State} {x : Nat}

theorem effOfs (h : s.SameLoop t x) : t.effOfs x = s.effOfs x := by
  unfold State.effOfs State.ofsAt State.fld
  dsimp only
  rw [h.eff, h.since, h.mono, h.glide, h.slew]

theorem synRatio (h : s.SameLoop t x) : t.synRatio x = s.synRatio x := by
  rw [State.synRatio, State.fld, State.fld, h.div, h.effOfs, State.synRatio, State.fld, State.fld]

theorem within (h : s.SameLoop t x) (n tol : Nat) : t.within x n tol = s.within x n tol := by
  unfold State.within State.fld
  dsimp only
  rw [h.lock, h.synRatio]

theorem lockTol (h : s.SameLoop t x) : t.lockTol x = s.lockTol x := by
  unfold State.lockTol State.fld
  dsimp only
  rw [h.lock, h.div, h.effOfs]

theorem coreOk (h : s.SameLoop t x) : t.coreOk x = s.coreOk x := by
  unfold State.coreOk State.refHz State.fld
  dsimp only
  rw [h.ref, h.refin, h.hfxo, h.synRatio]

end State.SameLoop

/-- A loop runs as before when only STATUS was written, and neither the time nor its offset changed. -/
theorem Frame.sameLoop {P : List Aspect} {s t : State} {x : Nat} (h : Frame P (· = synSt x) s t) (he : (t.sy x).eff = (s.sy x).eff)
    (hg : (t.sy x).glideAt = (s.sy x).glideAt) (ht : Aspect.time ∉ P := by decide) (hb : Aspect.board ∉ P := by decide) :
    s.SameLoop t x := by
  obtain ⟨-, hrefin, hhfxo⟩ := h.keeps .board hb
  exact ⟨he, hg, h.mono_eq ht, hrefin, hhfxo, h.rd _, h.rd _, h.rd _, h.rd _, h.rd _⟩

/-! ### Mutes and their ends -/

/-- The registers outside the synthesizers'. -/
abbrev outKey : Nat → Prop := fun k => k < 0x1A00 ∨ 0x1B00 ≤ k

/-- A mute sets MUTED and notes the moment; the rest of it lies outside the synthesizers (R181, R280, R338). -/
theorem State.mute_running {x : Nat} (h : s.synBit x 1 = false) : ∃ m, Frame [.cyc, .agenda, .seqs, .trgs] outKey
    ((s.wsyn x 1 true).setSy x { s.sy x with muteAt := m }) (s.mute x) := by
  refine ⟨s.nextFall x, ?_⟩
  unfold State.mute
  rw [if_neg (by simp [h])]
  extract_lets _ s1 s2
  have h2 : Frame [.cyc, .agenda, .seqs, .trgs] outKey s1 s2 := by
    refine Frame.each (fun k hk u => ?_) s1
    have hk' : k < 16 := List.mem_range.mp (List.mem_filter.mp hk).1
    exact ((u.wbit_frame (seqR k + 8) 18 true).mono).then (State.setSq_frame _ k _)
  refine h2.trans (.ite (fun _ => Frame.each (fun n _ u => ?_) s2) fun _ => .ite (fun _ => ?_) fun _ => .refl)
  · exact (((u.setTrg_frame n _).mono).then (State.wbit_frame _ (trgR n + 8) 1 false)).then (State.wbit_frame _ (trgR n + 8) 5 true)
  · exact ((s2.wbit_frame 0x2C08 12 true).mono).then (State.after_frame _ 0 _)

theorem State.mute_muted {x : Nat} (h : s.synBit x 1 = true) : s.mute x = s := if_pos h

/-- A mute writes MUTED of its synthesizer, and no other register of the synthesizers. -/
theorem State.mute_frame_status (x : Nat) : Frame [.cyc, .agenda, .syn, .seqs, .trgs] (fun k => k = synSt x ∨ outKey k) s (s.mute x) := by
  cases hm : s.synBit x 1
  · obtain ⟨m, h⟩ := s.mute_running hm
    exact (((s.wsyn_frame x 1 true).mono).then (State.setSy_frame _ x _)).then h
  · rw [s.mute_muted hm]
    exact .refl

theorem State.mute_synBit {x : Nat} (hx : x < 4) (i : Nat) : (s.mute x).synBit x i = if i = 1 then true else s.synBit x i := by
  cases hm : s.synBit x 1
  · obtain ⟨m, h⟩ := s.mute_running hm
    rw [h.synBit x i, (State.setSy_frame _ x _).synBit x i, s.synBit_wsyn x i true (by decide)]
  · rw [s.mute_muted hm]
    split
    · next hi => exact hi ▸ hm
    · rfl

/-- The end of a mute clears MUTED, writes MUTE_LAST and starts the output's clock anew; the rest lies outside the synthesizers
(R181, R280, R332). -/
theorem State.unmute_muted {x : Nat} (h : s.synBit x 1 = true) : ∃ d l, Frame [.cyc, .agenda, .seqs, .pbs] outKey
    (((s.wsyn x 1 false).wr (synR x + 0x24) d).setSy x { s.sy x with out := l }) (s.unmute x) := by
  unfold State.unmute
  rw [if_neg (by simp [h])]
  extract_lets _ d s1 _ s2 s3 m s4
  refine ⟨sat32 d, Line.startAt 0 s1.time.mono (s1.outPeriod x), ?_⟩
  have h3 : Frame [.cyc, .agenda, .seqs, .pbs] outKey s2 s3 := by
    refine Frame.each (fun k hk u => ?_) s2
    have hk' : k < 16 := List.mem_range.mp (List.mem_filter.mp hk).1
    unfold State.resumeSeq
    extract_lets y b slip tl u1 y'
    have h1 : Frame [.cyc, .agenda, .seqs, .pbs] outKey u u1 :=
      ((u.wbit_frame (seqR k + 8) 18 false).mono).then (State.incSat_frame _ (seqR k + 0x38) slip)
    split
    · exact h1.then (State.setSq_frame u1 k _)
    · exact h1.then (State.setSq_frame u1 k _)
  refine h3.trans (.ite (fun _ => .refl) fun _ => ?_)
  have h4 : Frame [.cyc, .agenda, .seqs, .pbs] outKey s3 s4 := Frame.each (fun k _ u => (u.setPb_frame k _).mono) s3
  refine h4.trans (Frame.each (fun k _ u => ?_) s4)
  extract_lets y p tl stop u1
  have h1 : Frame [.cyc, .agenda, .seqs, .pbs] outKey u u1 := (u.setPb_frame k _).mono
  cases stop with
  | none => exact h1
  | some t => exact h1.then (State.at_frame u1 t _)

theorem State.unmute_running {x : Nat} (h : s.synBit x 1 = false) : s.unmute x = s := if_pos (by simp [h])

theorem State.unmute_reads {x : Nat} (hx : x < 4) :
    (∀ i, (s.unmute x).synBit x i = if i = 1 then false else s.synBit x i) ∧ ∃ l, (s.unmute x).sy x = { s.sy x with out := l } := by
  cases hm : s.synBit x 1
  · rw [s.unmute_running hm]
    refine ⟨fun i => ?_, _, rfl⟩
    split
    · next hi => exact hi ▸ hm
    · rfl
  · obtain ⟨d, l, h⟩ := s.unmute_muted hm
    refine ⟨fun i => ?_, l, (h.sy x).trans (State.sy_setSy_self _ x _)⟩
    rw [h.synBit x i, (State.setSy_frame _ x _).synBit x i, (State.wr_frame _ (synR x + 0x24) d).synBit x i,
      s.synBit_wsyn x i false (by decide)]

/-! ### Loops, references and FCLK -/

theorem State.startLoop_frame_status (x : Nat) : Frame [.cyc, .agenda, .agendaGrows, .syn] (· = synSt x) s (s.startLoop x) := by
  unfold State.startLoop
  extract_lets s1 y s2 src
  have h2 : Frame [.cyc, .agenda, .agendaGrows, .syn] (· = synSt x) s s2 :=
    ((((s.wsyn_frame x 0 false).mono).then (State.wsyn_frame _ x 4 false)).then (State.noWindows_frame _ x)).then (State.setSy_frame _ x _)
  exact .ite (fun _ => h2.then (State.after_frame _ _ _)) fun _ => h2

/-- A loop that starts clears LOCKED and WAKE_LOCK, and acquires (R176). -/
theorem State.startLoop_reads (x : Nat) :
    (∀ i, (s.startLoop x).synBit x i = if i = 0 ∨ i = 4 then false else s.synBit x i) ∧
      ((s.startLoop x).sy x).running = true ∧ ((s.startLoop x).sy x).acquiring = true ∧
      ((s.startLoop x).sy x).retained = (s.sy x).retained := by
  unfold State.startLoop
  extract_lets s1 y s2 src
  have h1 (i : Nat) : s1.synBit x i = if i = 0 ∨ i = 4 then false else s.synBit x i := by
    rw [((s.wsyn x 0 false).wsyn x 4 false).noWindows_frame x |>.synBit x i, State.synBit_wsyn _ x i false (by decide),
      s.synBit_wsyn x i false (by decide)]
    split_ifs <;> simp_all
  have hy : s1.sy x = s.sy x := by simp [s1, State.noWindows, State.sy, State.wsyn]
  have hsy : s2.sy x = _ := State.sy_setSy_self _ x _
  have h : Frame [.agenda] noKey s2 (if s2.refRuns src && !(s2.sy x).lost && (src != 4 || s2.time.fclk) then s2.firstWindow x else s2) :=
    .ite (fun _ => s2.after_frame _ _) fun _ => .refl
  have hsy' := (h.sy x).trans hsy
  exact ⟨fun i => ((h.synBit x i).trans ((s1.setSy_frame x _).synBit x i)).trans (h1 i), congrArg SynSt.running hsy',
    congrArg SynSt.acquiring hsy', by rw [hsy', ← hy]⟩

/-- The start of a loop leaves the other loops' states. -/
theorem State.startLoop_sy_ne {x y : Nat} (h : y ≠ x) : (s.startLoop x).sy y = s.sy y := by
  unfold State.startLoop
  extract_lets s1 _ s2 src
  have h1 : s1.sy y = s.sy y := by simp [s1, State.noWindows, State.sy, State.wsyn]
  have h2 : s2.sy y = s.sy y := by rw [State.sy_setSy, if_neg h, h1]
  split
  · exact ((s2.after_frame _ _).sy y).trans h2
  · exact h2

theorem State.startFresh_frame_status (x : Nat) : Frame [.cyc, .agenda, .agendaGrows, .syn] (· = synSt x) s (s.startFresh x) :=
  ((s.setSy_frame x _).mono).then (State.startLoop_frame_status _ x)

theorem State.startFresh_reads (x : Nat) :
    (∀ i, (s.startFresh x).synBit x i = if i = 0 ∨ i = 4 then false else s.synBit x i) ∧
      ((s.startFresh x).sy x).running = true ∧ ((s.startFresh x).sy x).acquiring = true := by
  obtain ⟨hbits, hrun, hacq, -⟩ := (s.setSy x { s.sy x with lost := false, retained := false }).startLoop_reads x
  exact ⟨fun i => (hbits i).trans (by rw [(s.setSy_frame x _).synBit x i]), hrun, hacq⟩

theorem State.refStarts_frame (src : Nat) : Frame [.agenda, .agendaGrows, .syn] noKey s (s.refStarts src) := by
  refine Frame.each (fun x _ u => ?_) s
  extract_lets _ u1
  have h : Frame [.agenda, .agendaGrows, .syn] noKey u u1 := ((u.setSy_frame x _).mono).then (State.noWindows_frame _ x)
  exact .ite (fun _ => h.then (u1.wakeTry_frame x)) fun _ => h.then (u1.after_frame _ _)

/-- A reference that starts ends no acquisition and begins none. -/
theorem State.refStarts_acquiring (src y : Nat) : ((s.refStarts src).sy y).acquiring = (s.sy y).acquiring := by
  refine State.each_keeps s (fun u => (u.sy y).acquiring) _ (fun u x => ?_) _
  extract_lets _ u1
  have h : Frame [.agenda] noKey u1 (if (u1.sy x).retained then u1.wakeTry x else u1.firstWindow x) :=
    .ite (fun _ => u1.wakeTry_frame x) fun _ => u1.after_frame _ _
  have h1 : u1.sy y = (u.setSy x { u.sy x with lost := false }).sy y := rfl
  rw [h.sy y, h1, State.sy_setSy]
  split
  · next he => rw [he]
  · rfl

/-- FCLK runs once it has been started (R19). -/
theorem State.startFclk_spec : Frame [.cyc, .time, .fclk, .agenda, .agendaGrows, .syn] (· = 0x504) s s.startFclk ∧
    s.startFclk.time.fclk = true ∧ ∀ y, (s.startFclk.sy y).acquiring = (s.sy y).acquiring := by
  unfold State.startFclk
  split
  · next h => exact ⟨.refl, h, fun _ => rfl⟩
  extract_lets t next g low s1
  have h1 : Frame [.time, .fclk] noKey s s1 := s.withTime_frame _
  have hf : s1.time.fclk = true := rfl
  clear_value s1
  have h2 : Frame [.cyc] (· = 0x504) s1 ((s1.wbit 0x504 6 true).wbit 0x504 4 (s1.fld 0x1A04 2 0 == 2)) :=
    (s1.wbit_frame 0x504 6 true).then (State.wbit_frame _ 0x504 4 _)
  have h3 := ((s1.wbit 0x504 6 true).wbit 0x504 4 (s1.fld 0x1A04 2 0 == 2)).refStarts_frame 4
  refine ⟨((h1.mono).then h2).then h3, ?_, fun y => ?_⟩
  · exact (Eq.trans (h3.keeps .fclk (by decide)) (h2.keeps .fclk (by decide))).trans hf
  · rw [State.refStarts_acquiring, h2.sy y, h1.sy y]

/-- Lock as every synthesizer takes it: LOCKED sets, the acquisition ends and the output is unmuted (R176, R181). -/
def State.lockShown (s : State) (x : Nat) : State :=
  let s := s.setSy x { s.sy x with acquiring := false, windows := 0, relock := false, restoring := false }
  ((s.wsyn x 0 true).wsyn x 5 (s.gridLock x)).unmute x

/-- With the lock of SYN-A its holdover ends, FCLK runs from it, and what waited for it goes on (R19, R180). -/
def State.holdoverEnds (s : State) : State :=
  let s := ((s.wsyn 0 3 false).clearCause 2).startFclk
  let s := (s.wbit 0x504 4 (s.fld 0x1A04 2 0 == 2)).wakeOn
  if s.mode.trans = .none then s.releaseAll else s

theorem State.lockSyn_eq (x : Nat) : s.lockSyn x = if x = 0 then (s.lockShown x).holdoverEnds else (s.lockShown x).wakeOn := rfl

theorem State.lockShown_reads {x : Nat} (hx : x < 4) : (s.lockShown x).synBit x 0 = true ∧ (s.lockShown x).synBit x 1 = false ∧
    ((s.lockShown x).sy x).acquiring = false := by
  unfold State.lockShown
  extract_lets _ s1
  obtain ⟨hbits, l, hsy⟩ := ((s1.wsyn x 0 true).wsyn x 5 (s1.gridLock x)).unmute_reads hx
  refine ⟨(hbits 0).trans ?_, hbits 1, ?_⟩
  · exact (State.synBit_wsyn _ x 0 _ (by decide)).trans (s1.synBit_wsyn x 0 true (by decide))
  · rw [hsy, State.sy_wsyn, State.sy_wsyn]
    exact congrArg SynSt.acquiring (s.sy_setSy_self x _)

/-- The end of a holdover writes HOLDOVER of SYN-A's STATUS alone, begins no acquisition and ends none, and FCLK runs. -/
theorem State.holdoverEnds_reads : (∀ i, i ≠ 3 → s.holdoverEnds.synBit 0 i = s.synBit 0 i) ∧
    (s.holdoverEnds.sy 0).acquiring = (s.sy 0).acquiring ∧ s.holdoverEnds.time.fclk = true := by
  unfold State.holdoverEnds
  extract_lets s1 s2
  obtain ⟨hf, hfclk, hacq⟩ := ((s.wsyn 0 3 false).clearCause 2).startFclk_spec
  have hcleared := (s.wsyn 0 3 false).wbit_frame 0x418 2 false
  have h2 : Frame [.cyc, .agenda] (· = 0x504) s1 s2 := ((s1.wbit_frame 0x504 4 _).mono).then (State.wakeOn_frame _)
  have h3 : Frame [.agenda, .mode, .heldAcc, .mem] noKey s2 (if s2.mode.trans = .none then s2.releaseAll else s2) :=
    .ite (fun _ => s2.releaseAll_frame) fun _ => .refl
  have h : Frame [.cyc, .agenda, .mode, .heldAcc, .mem] (· = 0x504) s1 _ := (h2.mono).then h3
  refine ⟨fun i hi => ?_, ?_, Eq.trans (h.keeps .fclk (by decide)) hfclk⟩
  · rw [h.synBit 0 i, hf.synBit 0 i, State.clearCause, hcleared.synBit 0 i, s.synBit_wsyn 0 i false (by decide), if_neg hi]
  · rw [h.sy 0, hacq 0, State.clearCause, hcleared.sy 0, s.sy_wsyn]

/-- Lock: LOCKED sets, the output is unmuted, the acquisition ends, and with SYN-A's FCLK runs (R176, R180, R181). -/
theorem State.lockSyn_locks {x : Nat} (hx : x < 4) : (s.lockSyn x).synBit x 0 = true ∧ (s.lockSyn x).synBit x 1 = false ∧
    ((s.lockSyn x).sy x).acquiring = false ∧ (x = 0 → (s.lockSyn x).time.fclk = true) := by
  obtain ⟨hlocked, hopen, hacq⟩ := s.lockShown_reads hx
  rw [s.lockSyn_eq x]
  generalize s.lockShown x = u at *
  split
  · next h0 =>
    subst h0
    obtain ⟨hbits, hkeep, hfclk⟩ := u.holdoverEnds_reads
    exact ⟨(hbits 0 (by decide)).trans hlocked, (hbits 1 (by decide)).trans hopen, hkeep.trans hacq, fun _ => hfclk⟩
  · next h0 =>
    have h := u.wakeOn_frame
    exact ⟨(h.synBit x 0).trans hlocked, (h.synBit x 1).trans hopen, (congrArg SynSt.acquiring (h.sy x)).trans hacq, fun he => absurd he h0⟩

end Sys2Proof.Machine
end

section
/-! SUPPORT. What stands staged for a boundary, what leaves it staged, and what the boundary makes of it (R85, R86). -/

namespace Sys2Proof.Machine

-- Proofs one after another: many that wait in threads of their own would pass the check's memory limit.
set_option Elab.async false

variable (s : State)

/-! ### What stands staged -/

/-- What a boundary finds staged rests on the shadows and on the writes of the cycle (R86). -/
theorem State.staged_congr {t : State} {k : Nat} (hs : t.shadows = s.shadows) (hc : (t.cy k).was = (s.cy k).was) :
    t.staged k = s.staged k := by
  rw [State.staged, State.staged, hs, hc]

theorem State.touch_staged (k : Nat) (m : Word) (j : Nat) : (s.touch k m).staged j = s.staged j := by
  refine s.staged_congr rfl ?_
  rw [State.touch, State.cy_setCy]
  split
  · next h => rw [h]
  · rfl

@[simp] theorem State.wbit_staged (o i : Nat) (b : Bool) (k : Nat) : (s.wbit o i b).staged k = s.staged k := by
  unfold State.wbit
  cases b
  · rfl
  · exact State.touch_staged _ _ _ _

@[simp] theorem State.wsyn_staged (x i : Nat) (b : Bool) (k : Nat) : (s.wsyn x i b).staged k = s.staged k := s.wbit_staged _ i b k

@[simp] theorem State.wr_staged (o : Nat) (w : Word) (k : Nat) : (s.wr o w).staged k = s.staged k := rfl
@[simp] theorem State.setSy_staged (x : Nat) (y : SynSt) (k : Nat) : (s.setSy x y).staged k = s.staged k := rfl
@[simp] theorem State.setSq_staged (j : Nat) (x : SeqSt) (k : Nat) : (s.setSq j x).staged k = s.staged k := rfl
@[simp] theorem State.setTrg_staged (n : Nat) (x : TrgSt) (k : Nat) : (s.setTrg n x).staged k = s.staged k := rfl
@[simp] theorem State.after_staged (tu : Nat) (c : Instr) (k : Nat) : (s.after tu c).staged k = s.staged k := rfl
@[simp] theorem State.noWindows_staged (x k : Nat) : (s.noWindows x).staged k = s.staged k := rfl

@[simp] theorem State.cutTrg_staged (n k : Nat) : (s.cutTrg n).staged k = s.staged k := by simp [State.cutTrg]

/-- A mute leaves what stands staged. -/
theorem State.mute_staged (x k : Nat) : (s.mute x).staged k = s.staged k := by
  unfold State.mute
  split
  · rfl
  extract_lets _ s1 s2
  have h2 : s2.staged k = s.staged k :=
    (State.each_keeps s1 (fun u => u.staged k) _ (fun u j => by simp) _).trans (by simp [s1])
  split_ifs
  · exact (State.each_keeps s2 (fun u => u.staged k) _ (fun u n => by simp) _).trans h2
  · simp [h2]
  · exact h2

theorem State.startFresh_staged (x k : Nat) : (s.startFresh x).staged k = s.staged k := by
  unfold State.startFresh State.startLoop
  extract_lets _ s1 _ s2 _
  have h : s2.staged k = s.staged k := by simp [s2, s1]
  split
  · exact (State.after_staged _ _ _ k).trans h
  · exact h

theorem State.stopFclk_staged (k : Nat) : s.stopFclk.staged k = s.staged k :=
  (State.wbit_staged _ 0x504 6 false k).trans (State.wbit_staged _ 0x504 5 true k)

theorem State.refStops_staged (src k : Nat) : (s.refStops src).staged k = s.staged k :=
  State.each_keeps s (fun u => u.staged k) _ (fun u _ => u.after_staged _ _ k) _

/-! ### A boundary -/

theorem State.find_stage (k j : Nat) (v : Word) : Tab.find (s.stage k v).shadows j =
    if j = k then (if v = s.getKey k then none else some v) else Tab.find s.shadows j := by
  unfold State.stage
  by_cases hj : j = k
  · subst hj
    split <;> simp [Tab.find_erase_self, Tab.find_insert_self, *]
  · split <;> simp [Tab.find_erase_ne, Tab.find_insert_ne, hj]

/-- A shadow applies: the register takes what was staged before the cycle, which is staged no more (R86). -/
theorem State.applyKey_reads (k j : Nat) :
    (s.applyKey k).getKey j = (if j = k then (s.staged k).getD (s.getKey k) else s.getKey j) ∧
      (s.applyKey k).staged j = if j = k then none else s.staged j := by
  unfold State.applyKey
  split
  · next h =>
    simp only [h, Option.getD_none]
    split
    · next hj => subst hj; exact ⟨rfl, h⟩
    · exact ⟨rfl, rfl⟩
  · next x h =>
    extract_lets y c
    rw [h, Option.getD_some]
    cases hw : c.was with
    | none =>
      have hy : y = x := by
        rw [State.staged, show (s.cy k).was = none from hw, Option.getD_none] at h
        simp only [y, State.shadow, h, Option.getD_some]
      refine ⟨s.getKey_setKey j k x, ?_⟩
      rw [if_neg (by simp), State.staged, State.find_stage, hy, State.getKey_setKey_self, if_pos rfl]
      split
      · next hj => subst hj; exact congrArg (Option.getD · none) hw
      · rfl
    | some o =>
      refine ⟨State.getKey_setKey _ j k x, ?_⟩
      rw [if_pos Option.isSome_some, State.staged, State.find_stage]
      have hc : ((s.setCy k { c with was := some none }).cy j).was = if j = k then some none else (s.cy j).was := by
        rw [State.cy_setCy]
        split <;> rfl
      refine (congrArg (Option.getD · _) hc).trans ?_
      split <;> rfl

theorem State.each_applyKey_reads (l : List Nat) (j : Nat) :
    (s.each l State.applyKey).getKey j = (if j ∈ l then (s.staged j).getD (s.getKey j) else s.getKey j) ∧
      (s.each l State.applyKey).staged j = if j ∈ l then none else s.staged j := by
  induction l generalizing s with
  | nil => exact ⟨rfl, rfl⟩
  | cons a l ih =>
    obtain ⟨hg, hs⟩ := ih (s.applyKey a)
    obtain ⟨hga, hsa⟩ := s.applyKey_reads a j
    rw [State.each_cons, hg, hs, hga, hsa]
    by_cases hja : j = a
    · subst hja; simp
    · simp [hja]

/-- Nothing is staged of a register that neither a shadow nor a write of the cycle names. -/
theorem State.staged_eq_none {k : Nat} (h : k ∉ s.shadows.map (·.1) ++ s.cyc.map (·.1)) : s.staged k = none := by
  rw [List.mem_append, not_or] at h
  rw [State.staged, State.cy, Tab.get, Tab.find_eq_none_of_not_mem h.2, Tab.find_eq_none_of_not_mem h.1]
  rfl

/-- At a boundary every register it reaches takes what is staged for it, and nothing stays staged for this cycle (R85, R86). -/
theorem State.boundary_reads {p : Nat → Bool} {k : Nat} (hp : p k = true) :
    (s.boundary p).getKey k = (s.staged k).getD (s.getKey k) ∧ (s.boundary p).staged k = none := by
  obtain ⟨hg, hs⟩ := s.each_applyKey_reads (((s.shadows.map (·.1)) ++ s.cyc.map (·.1)).eraseDups.filter p) k
  unfold State.boundary
  rw [hg, hs]
  split
  · exact ⟨rfl, rfl⟩
  · next h =>
    have hn : s.staged k = none := s.staged_eq_none fun hm => h (List.mem_filter.mpr ⟨List.mem_eraseDups.mpr hm, hp⟩)
    rw [hn]
    exact ⟨rfl, rfl⟩

theorem State.pendingStaged_eq_false {p : Nat → Bool} (h : ∀ k, p k = true → s.staged k = none) : s.pendingStaged p = false := by
  rw [State.pendingStaged, List.any_eq_false]
  intro k _ hk
  rw [Bool.and_eq_true] at hk
  simp [h k hk.1] at hk

end Sys2Proof.Machine
end

section
/-! PROOF. O26: SYN_UPDATE applies the staged divider and reference or refuses them, SYN-A returns to the old ones, EN starts and stops
the loop, and a glide is refused or begins and ends (R171, R182 to R186). -/

namespace Sys2Proof.Machine

-- Proofs one after another: many that wait in threads of their own would pass the check's memory limit.
set_option Elab.async false

variable (s : State)

/-! ### SYN_UPDATE -/

/-- In `t` the settings staged in `s` for synthesizer `x` are in force, the offset is 0, and nothing is left staged (R185). -/
def State.Applied (s t : State) (x : Nat) : Prop :=
  t.rd (synR x + 4) = (s.staged (synR x + 4)).getD (s.rd (synR x + 4)) ∧
    t.rd (synR x + 8) = (s.staged (synR x + 8)).getD (s.rd (synR x + 8)) ∧ t.rd (synR x + 0x10) = 0 ∧
    ∀ k, synShadow x k = true → t.staged k = none

theorem State.Applied.pending {s t : State} {x : Nat} (h : s.Applied t x) : t.pendingStaged (synShadow x) = false :=
  t.pendingStaged_eq_false h.2.2.2

/-- What writes neither the settings nor a shadow of theirs leaves them in force. -/
theorem State.Applied.frame {s t u : State} {x : Nat} (h : s.Applied t x) {P : List Aspect}
    (hf : Frame P (fun k => k = synSt x ∨ k = 0x504) t u) (hu : ∀ k, u.staged k = t.staged k) (hx : x < 4) : s.Applied u x := by
  obtain ⟨href, hdiv, hofs, hnone⟩ := h
  exact ⟨(hf.rd (synR x + 4)).trans href, (hf.rd (synR x + 8)).trans hdiv, (hf.rd (synR x + 0x10)).trans hofs,
    fun k hk => (hu k).trans (hnone k hk)⟩

/-- An apply up to its boundary: the output muted while enabled, and the offset 0. -/
def State.applyPrep (s : State) (x : Nat) : State :=
  let u := ((if s.bit (synR x) 0 then s.mute x else s).wr (synR x + 0x10) 0).wsyn x 2 false
  u.setSy x { u.sy x with eff := 0, glideAt := u.time.mono }

/-- The relock that follows the boundary of an enabled synthesizer; `r` and `d` are the settings before. -/
def State.relock (s : State) (x : Nat) (r d : Word) : State :=
  let u := (s.startFresh x).wsyn x 5 false
  let u := u.setSy x { u.sy x with relock := true, restoring := false, oldRef := r, oldDiv := d, applyAt := u.time.mono }
  if x = 0 then ((u.stopFclk).refStops 4).after (ms 10) .synApplyTimeout else u

theorem State.applySyn_eq (x : Nat) : s.applySyn x =
    if !s.bit (synR x) 0 then ((s.applyPrep x).boundary (synShadow x)).wsyn x 5 false
    else ((s.applyPrep x).boundary (synShadow x)).relock x (s.rd (synR x + 4)) (s.rd (synR x + 8)) := rfl

theorem State.applyPrep_spec (x : Nat) :
    Frame [.cyc, .agenda, .syn, .seqs, .trgs] (fun k => k = synSt x ∨ k = synR x + 0x10 ∨ outKey k) s (s.applyPrep x) ∧
      (s.applyPrep x).rd (synR x + 0x10) = 0 ∧ ∀ k, (s.applyPrep x).staged k = s.staged k := by
  unfold State.applyPrep
  extract_lets u _
  let m := if s.bit (synR x) 0 then s.mute x else s
  have hm : Frame [.cyc, .agenda, .syn, .seqs, .trgs] (fun k => k = synSt x ∨ outKey k) s m :=
    .ite (fun _ => s.mute_frame_status x) fun _ => .refl
  have hst (k : Nat) : m.staged k = s.staged k := by
    simp only [m]
    split
    · exact s.mute_staged x k
    · rfl
  have hu := (m.wr (synR x + 0x10) 0).wsyn_frame x 2 false
  refine ⟨(((hm.mono).then (m.wr_frame (synR x + 0x10) 0)).then hu).then (u.setSy_frame x _), ?_, fun k => ?_⟩
  · exact ((u.setSy_frame x _).rd (synR x + 0x10)).trans ((hu.rd (synR x + 0x10)).trans (m.rd_wr_self _ 0))
  · exact (u.setSy_staged x _ k).trans (((m.wr (synR x + 0x10) 0).wsyn_staged x 2 false k).trans (hst k))

/-- At its boundary the settings staged for the synthesizer come into force. -/
theorem State.applyPrep_boundary {x : Nat} (hx : x < 4) : s.Applied ((s.applyPrep x).boundary (synShadow x)) x := by
  obtain ⟨hf, hofs, hst⟩ := s.applyPrep_spec x
  have htakes {k : Nat} (hk : synShadow x k = true) (hrd : (s.applyPrep x).rd k = s.rd k) :
      ((s.applyPrep x).boundary (synShadow x)).rd k = (s.staged k).getD (s.rd k) := by
    rw [← hst k, ← hrd]
    exact ((s.applyPrep x).boundary_reads hk).1
  refine ⟨htakes (by simp [synShadow]) (hf.rd (synR x + 4)), htakes (by simp [synShadow]) (hf.rd (synR x + 8)), ?_,
    fun k hk => ((s.applyPrep x).boundary_reads hk).2⟩
  exact ((State.boundary_frame _ (synShadow x)).rd (synR x + 0x10) (by simp [synShadow])).trans hofs

/-- A relock clears LOCKED and acquires; beside STATUS it writes TIME_STATUS where FCLK stops with SYN-A (R185, R186). -/
theorem State.relock_spec (x : Nat) (r d : Word) :
    Frame [.cyc, .time, .fclk, .agenda, .agendaGrows, .syn] (fun k => k = synSt x ∨ k = 0x504) s (s.relock x r d) ∧
      (∀ k, (s.relock x r d).staged k = s.staged k) ∧ (x < 4 → (s.relock x r d).synBit x 0 = false) ∧
      ((s.relock x r d).sy x).acquiring = true := by
  unfold State.relock
  extract_lets u _ w
  obtain ⟨hbits, -, hacq⟩ := s.startFresh_reads x
  have hw : Frame [.cyc, .agenda, .agendaGrows, .syn] (· = synSt x) s w :=
    ((s.startFresh_frame_status x).then (State.wsyn_frame _ x 5 false)).then (u.setSy_frame x _)
  have hst (k : Nat) : w.staged k = s.staged k := ((s.startFresh x).wsyn_staged x 5 false k).trans (s.startFresh_staged x k)
  have hunlocked : w.synBit x 0 = false :=
    ((u.setSy_frame x _).synBit x 0).trans ((State.synBit_wsyn _ x 0 false (by decide)).trans (hbits 0))
  have hwacq : (w.sy x).acquiring = true := by
    rw [u.sy_setSy_self]
    exact (congrArg SynSt.acquiring ((s.startFresh x).sy_wsyn x 5 false x)).trans hacq
  clear_value w
  split
  · have h : Frame [.cyc, .time, .fclk, .agenda] (· = 0x504) w (((w.stopFclk).refStops 4).after (ms 10) .synApplyTimeout) :=
      (((w.stopFclk_frame).mono).then (State.refStops_frame _ 4)).then (State.after_frame _ _ _)
    refine ⟨(hw.mono).then h, fun k => ?_, fun _ => (h.synBit x 0).trans hunlocked, (congrArg SynSt.acquiring (h.sy x)).trans hwacq⟩
    rw [State.after_staged, State.refStops_staged, State.stopFclk_staged, hst]
  · exact ⟨hw.mono, hst, fun _ => hunlocked, hwacq⟩

/-- An apply puts the staged divider and reference in force, and, enabled, clears LOCKED and acquires anew (R185). -/
theorem State.applySyn_applies {x : Nat} (hx : x < 4) : s.Applied (s.applySyn x) x ∧
    (s.bit (synR x) 0 = true → (s.applySyn x).synBit x 0 = false ∧ ((s.applySyn x).sy x).acquiring = true) := by
  have happlied := s.applyPrep_boundary hx
  rw [s.applySyn_eq x]
  generalize (s.applyPrep x).boundary (synShadow x) = u at *
  cases s.bit (synR x) 0 with
  | false => exact ⟨happlied.frame ((u.wsyn_frame x 5 false).mono (P := [.cyc])) (u.wsyn_staged x 5 false) hx, by simp⟩
  | true =>
    obtain ⟨hf, hst, hunlocked, hacq⟩ := u.relock_spec x (s.rd (synR x + 4)) (s.rd (synR x + 8))
    exact ⟨happlied.frame hf hst hx, fun _ => ⟨hunlocked hx, hacq⟩⟩

/-- SYN_UPDATE with nothing pending does nothing (R185). -/
theorem synUpdate_idle (x : Fin 4) (h : s.pendingStaged (synShadow x) = false) : Does (.synUpdate x) s fun t => t = s :=
  ⟨_, rfl, if_pos (by simp [h])⟩

/-- What a refusal of an apply or a glide leaves: all but its flag in STATUS. -/
theorem State.wsyn_refusal (x : Nat) {i : Nat} (hi : i < 32) : (s.wsyn x i true).synBit x i = true ∧
    SameRegs [devKey (synSt x)] s (s.wsyn x i true) ∧ SameStores s (s.wsyn x i true) ∧ (s.wsyn x i true).shadows = s.shadows :=
  have h := s.wsyn_frame x i true
  ⟨s.bit_wbit_self _ i true hi, h.sameRegs _ (by simp), h.sameStores, h.keeps .shadows (by decide)⟩

/-- A reference that the synthesizer does not accept, or SYN-A outside SERVICE, is refused with the shadows left (R184, R186). -/
theorem synUpdate_refused (x : Fin 4) (hp : s.pendingStaged (synShadow x) = true)
    (h : synSrcOk x (bf ((s.staged (synR x + 4)).getD (s.rd (synR x + 4))) 2 0) = false ∨ (x = 0 ∧ s.mode.eff ≠ .service)) :
    Does (.synUpdate x) s fun t => t.synBit x 10 = true ∧ SameRegs [devKey (synSt x)] s t ∧ t.shadows = s.shadows := by
  have he : s.synBoundary x = s.wsyn x 10 true := by
    unfold State.synBoundary
    rw [if_neg (by simp [hp])]
    split
    · rfl
    · next hok =>
      obtain ⟨rfl, hm⟩ := h.resolve_left fun hbad => hok (by simp [hbad])
      exact if_pos ⟨rfl, fun hs => hm hs.1⟩
  obtain ⟨hbit, hregs, -, hshadows⟩ := s.wsyn_refusal x (i := 10) (by decide)
  exact ⟨_, congrArg Host.Outcome.next he, hbit, hregs, hshadows⟩

/-- SYN_UPDATE applies what is pending (R184, R185). -/
theorem synUpdate_applies (x : Fin 4) (hp : s.pendingStaged (synShadow x) = true)
    (hok : synSrcOk x (bf ((s.staged (synR x + 4)).getD (s.rd (synR x + 4))) 2 0) = true)
    (hm : x = 0 → s.mode.eff = .service ∧ s.mode.trans ≠ .leaveService) : Does (.synUpdate x) s fun t =>
      t.rd (synR x + 4) = (s.staged (synR x + 4)).getD (s.rd (synR x + 4)) ∧
      t.rd (synR x + 8) = (s.staged (synR x + 8)).getD (s.rd (synR x + 8)) ∧
      t.rd (synR x + 0x10) = 0 ∧ t.pendingStaged (synShadow x) = false ∧ SameStores s t ∧
      (s.bit (synR x) 0 = true → t.synBit x 0 = false ∧ (t.sy x).acquiring = true) := by
  have he : s.synBoundary x = s.applySyn x := by
    unfold State.synBoundary
    rw [if_neg (by simp [hp]), if_neg (by simp [hok]), if_neg fun h => h.2 (hm (Fin.ext h.1))]
  obtain ⟨happlied, hacq⟩ := s.applySyn_applies x.isLt
  have hpend := happlied.pending
  obtain ⟨href, hdiv, hofs, -⟩ := happlied
  exact ⟨_, congrArg Host.Outcome.next he, href, hdiv, hofs, hpend, (s.applySyn_frame x.isLt).sameStores, hacq⟩

/-- SYN-A has not locked in 10 ms: it returns to the old settings and acquires on them (R186). -/
theorem synApplyTimeout_restores (hr : (s.sy 0).relock = true) (hn : (s.sy 0).restoring = false) (hl : s.synBit 0 0 = false)
    (ht : (s.sy 0).applyAt + ms 10 ≤ s.time.mono) : Does .synApplyTimeout s fun t =>
      t.rd 0x1A04 = (s.sy 0).oldRef ∧ t.rd 0x1A08 = (s.sy 0).oldDiv ∧ t.synBit 0 10 = true ∧ (t.sy 0).acquiring = true := by
  let u := ((s.wr 0x1A04 (s.sy 0).oldRef).wr 0x1A08 (s.sy 0).oldDiv).wsyn 0 10 true
  let w := u.setSy 0 { u.sy 0 with restoring := true }
  have he : exec .synApplyTimeout s = .next (w.startFresh 0) := by
    rw [show exec .synApplyTimeout s = execSynApplyTimeout s from rfl]
    exact if_pos (by simp [hr, hn, hl, ht])
  have hf : Frame [.cyc, .agenda, .agendaGrows, .syn] (· = synSt 0) ((s.wr 0x1A04 (s.sy 0).oldRef).wr 0x1A08 (s.sy 0).oldDiv)
      (w.startFresh 0) := (((State.wsyn_frame _ 0 10 true).mono).then (State.setSy_frame _ 0 _)).then (State.startFresh_frame_status _ 0)
  obtain ⟨hbits, -, hacq⟩ := w.startFresh_reads 0
  have hbit : w.synBit 0 10 = true := ((u.setSy_frame 0 _).synBit 0 10).trans (State.bit_wbit_self _ (synSt 0) 10 true (by decide))
  refine ⟨_, he, (hf.rd 0x1A04).trans ?_, (hf.rd 0x1A08).trans (State.rd_wr_self _ _ _), (hbits 10).trans hbit, hacq⟩
  rw [State.rd_wr_ne _ _ (by decide), State.rd_wr_self]

/-! ### EN and HFXO -/

theorem synEn_starts {x : Fin 4} (hx : x ≠ 0) (h : s.bit (synR x) 0 = false) : Does (.synEn x true) s fun t =>
    t.bit (synR x) 0 = true ∧ (t.sy x).running = true ∧ (t.sy x).acquiring = true ∧ SameStores s t := by
  let u := s.wbit (synR x) 0 true
  let m := if (u.sy x).muteAt = 0 then u.time.mono else (u.sy x).muteAt
  have he : exec (.synEn x true) s = .next ((u.setSy x { u.sy x with muteAt := m }).startFresh x) := by
    rw [show exec (.synEn x true) s = execSynEn x true s from rfl]
    exact if_neg (by simp [h, Fin.val_eq_zero_iff, hx])
  have hf : Frame [.cyc, .agenda, .agendaGrows, .syn] (· = synSt x) u ((u.setSy x { u.sy x with muteAt := m }).startFresh x) :=
    ((u.setSy_frame x _).mono).then (State.startFresh_frame_status _ x)
  obtain ⟨-, hrun, hacq⟩ := (u.setSy x { u.sy x with muteAt := m }).startFresh_reads x
  exact ⟨_, he, (hf.bit (synR x) 0).trans (s.bit_wbit_self _ 0 true (by decide)), hrun, hacq,
    (s.wbit_frame (synR x) 0 true).sameStores.trans hf.sameStores⟩

/-- A loop that stops is muted and unlocked (R181). -/
theorem State.synOff_spec {x : Nat} (hx : x < 4) :
    Frame [.cyc, .agenda, .agendaGrows, .syn, .seqs, .trgs] (fun k => k = synSt x ∨ outKey k) s (s.synOff x) ∧
      ((s.synOff x).sy x).running = false ∧ (s.synOff x).synBit x 0 = false ∧ (s.synOff x).synBit x 1 = true := by
  unfold State.synOff
  extract_lets s1 _
  have h : Frame [.cyc, .agenda, .agendaGrows, .syn, .seqs, .trgs] (fun k => k = synSt x ∨ outKey k) s s1 :=
    (((((s.mute_frame_status x).mono).then (State.wsyn_frame _ x 0 false)).then (State.wsyn_frame _ x 4 false)).then
      (State.wsyn_frame _ x 5 false)).then (State.noWindows_frame _ x)
  have hbit (i : Nat) : (s1.setSy x { s1.sy x with running := false, acquiring := false, windows := 0 }).synBit x i =
      if i = 5 then false else if i = 4 then false else if i = 0 then false else if i = 1 then true else s.synBit x i := by
    rw [(s1.setSy_frame x _).synBit x i, (State.noWindows_frame _ x).synBit x i, State.synBit_wsyn _ x i false (by decide),
      State.synBit_wsyn _ x i false (by decide), State.synBit_wsyn _ x i false (by decide), s.mute_synBit hx]
  exact ⟨h.then (s1.setSy_frame x _), congrArg SynSt.running (s1.sy_setSy_self x _), hbit 0, hbit 1⟩

theorem synEn_stops {x : Fin 4} (hx : x ≠ 0) (h : s.bit (synR x) 0 = true) : Does (.synEn x false) s fun t =>
    t.bit (synR x) 0 = false ∧ (t.sy x).running = false ∧ t.synBit x 0 = false ∧ t.synBit x 1 = true ∧ SameStores s t := by
  have he : exec (.synEn x false) s = .next ((s.wbit (synR x) 0 false).synOff x) := by
    rw [show exec (.synEn x false) s = execSynEn x false s from rfl]
    exact if_neg (by simp [h, Fin.val_eq_zero_iff, hx])
  obtain ⟨hf, hrun, hlocked, hmuted⟩ := (s.wbit (synR x) 0 false).synOff_spec x.isLt
  exact ⟨_, he, (hf.bit (synR x) 0).trans (s.bit_wbit_self _ 0 false (by decide)), hrun, hlocked, hmuted,
    (s.wbit_frame (synR x) 0 false).sameStores.trans hf.sameStores⟩

theorem hfxoReady_reports (h : s.bit 0x1B08 0 = true) : Does .hfxoReady s fun t => t.bit 0x1B08 16 = true ∧
    SameRegs [devKey 0x1B08] s t := by
  have hr := (s.wbit 0x1B08 16 true).refStarts_frame 1
  have hf : Frame [.agenda, .agendaGrows, .syn, .cyc] (· = 0x1B08) s ((s.wbit 0x1B08 16 true).refStarts 1) :=
    ((s.wbit_frame 0x1B08 16 true).mono).then hr
  exact ⟨_, if_pos h, (hr.bit 0x1B08 16).trans (s.bit_wbit_self _ 16 true (by decide)), hf.sameRegs _ (by simp)⟩

/-! ### Glides -/

theorem synGlide_refused (x : Fin 4) (ofs : BitVec 24)
    (h : 2000000 < (ofs.toInt - s.effOfs x).natAbs ∨ s.synBit x 1 = true ∨ x = 0) : Does (.synGlide x ofs) s fun t =>
      t.synBit x 11 = true ∧ SameRegs [devKey (synSt x)] s t ∧ SameStores s t := by
  have he : exec (.synGlide x ofs) s = .next (s.wsyn x 11 true) := by
    rw [show exec (.synGlide x ofs) s = execSynGlide x ofs s from rfl]
    refine if_pos ?_
    simpa [or_assoc, Fin.val_eq_zero_iff] using h
  obtain ⟨hbit, hregs, hstores, -⟩ := s.wsyn_refusal x (i := 11) (by decide)
  exact ⟨_, he, hbit, hregs, hstores⟩

theorem State.glideOn_frame (x : Nat) : Frame [.agenda] noKey s (s.glideOn x) := .ite (fun _ => .refl) fun _ => s.after_frame _ _

theorem synGlide_glides (x : Fin 4) (ofs : BitVec 24) (hd : (ofs.toInt - s.effOfs x).natAbs ≤ 2000000) (hm : s.synBit x 1 = false)
    (hx : x ≠ 0) : Does (.synGlide x ofs) s fun t =>
      t.fld (synR x + 0x10) 23 0 = ofs.toNat ∧ t.synBit x 2 = decide (ofs.toInt ≠ s.effOfs x) ∧
      SameRegs [devKey (synR x + 0x10), devKey (synSt x)] s t ∧ SameStores s t := by
  let u := s.setSy x { s.sy x with eff := s.effOfs x, glideAt := s.time.mono }
  let w := (u.wfld (synR x + 0x10) 23 0 ofs.toNat).wsyn x 2 (ofs.toInt != s.effOfs x)
  let v := w.wsyn x 5 (w.gridLock x && w.synBit x 0)
  have he : exec (.synGlide x ofs) s = .next (v.glideOn x) := by
    rw [show exec (.synGlide x ofs) s = execSynGlide x ofs s from rfl]
    exact if_neg (by simp [hd, hm, Fin.val_eq_zero_iff, hx])
  have hv : Frame [.cyc] (· = synSt x) w v := w.wsyn_frame x 5 _
  have hg : Frame [.agenda] noKey v (v.glideOn x) := v.glideOn_frame x
  have hf : Frame [.syn, .cyc, .agenda] (fun k => k = synR x + 0x10 ∨ k = synSt x) s (v.glideOn x) :=
    (((((s.setSy_frame x _).mono).then (State.wfld_frame u (synR x + 0x10) 23 0 ofs.toNat)).then
      (State.wsyn_frame _ x 2 _)).then hv).then hg
  refine ⟨_, he, ?_, ?_, hf.sameRegs _ (by simp), hf.sameStores⟩
  · rw [hg.fld (synR x + 0x10) 23 0, hv.fld (synR x + 0x10) 23 0, (State.wsyn_frame _ x 2 _).fld (synR x + 0x10) 23 0,
      u.fld_wfld_self _ 23 0 _ (by decide) (by decide)]
    exact Nat.mod_eq_of_lt ofs.isLt
  · rw [hg.synBit x 2, w.synBit_wsyn x 2 _ (by decide), if_neg (by decide), State.synBit_wsyn _ x 2 _ (by decide), if_pos rfl]
    simp [bne, beq_eq_decide]

theorem glideDone_arrives (x : Fin 4) (hg : s.synBit x 2 = true) (he : s.effOfs x = sext 24 (s.fld (synR x + 0x10) 23 0)) :
    Does (.glideDone x) s fun t => t.synBit x 2 = false ∧ SameRegs [devKey (synSt x)] s t ∧ SameStores s t := by
  let u := (s.setSy x { s.sy x with eff := s.effOfs x, glideAt := s.time.mono }).wsyn x 2 false
  have hx : exec (.glideDone x) s = .next (u.wsyn x 5 (u.gridLock x && u.synBit x 0)) := by
    rw [show exec (.glideDone x) s = execGlideDone x s from rfl]
    exact if_pos (by simp [hg, he])
  have hf : Frame [.syn, .cyc] (· = synSt x) s (u.wsyn x 5 (u.gridLock x && u.synBit x 0)) :=
    (((s.setSy_frame x _).mono).then (State.wsyn_frame _ x 2 false)).then (u.wsyn_frame x 5 _)
  refine ⟨_, hx, ?_, hf.sameRegs _ (by simp), hf.sameStores⟩
  rw [u.synBit_wsyn x 2 _ (by decide), if_neg (by decide)]
  exact (State.synBit_wsyn _ x 2 false (by decide)).trans (if_pos rfl)

/-- Settles O26, command by command; what an apply puts in force is `State.applySyn_applies`. -/
theorem synthesizersTakeSettingsAndGlide : Obligations.SynthesizersTakeSettingsAndGlide :=
  ⟨fun s x => ⟨synUpdate_idle s x, fun hp => ⟨synUpdate_refused s x hp, synUpdate_applies s x hp⟩, synApplyTimeout_restores s,
      fun hx => ⟨synEn_starts s hx, synEn_stops s hx⟩, hfxoReady_reports s⟩,
    fun s x ofs => ⟨synGlide_refused s x ofs, synGlide_glides s x ofs, glideDone_arrives s x⟩⟩

end Sys2Proof.Machine
end

section
/-! SUPPORT. What parking and SAFE write of registers, by their place (R120, R121, R282, R302): neither STATUS nor LOL_CNT of a
synthesizer is among them. -/

namespace Sys2Proof.Machine

-- Proofs one after another: many that wait in threads of their own would pass the check's memory limit.
set_option Elab.async false

variable (s : State)

/-! ### Halting and parking -/

/-- The registers that parking writes: STATUS and the markers of sequencers, the admitted demand, STATUS of channels, banks and
triggers, and the interrupts that pend. -/
abbrev parkKey : Nat → Prop := fun j => (0x1000 ≤ j ∧ j < 0x1800 ∧ (j % 0x80 = 8 ∨ j % 0x80 = 0x44)) ∨ j = 0x1824 ∨
  (0x1840 ≤ j ∧ j < 0x1880) ∨ (0x1C00 ≤ j ∧ j < 0x2000 ∧ j % 0x80 = 0x2C) ∨ (0x2000 ≤ j ∧ j < 0x2800 ∧ j % 0x100 = 8) ∨
  (0x2840 ≤ j ∧ j < 0x2A40 ∧ j % 0x40 = 8) ∨ pendKey j

theorem State.parkAout_parkKey {n : Nat} (hn : n < 8) : Frame haltParts parkKey s (s.parkAout n) :=
  ((s.wbit_frame (aoutR n + 0x2C) 2 true).mono).then (State.setAo_frame _ _ _)

theorem State.stopBank_parkKey {k : Nat} (hk : k < 8) : Frame haltParts parkKey s (s.stopBank k) := by
  unfold State.stopBank State.parkBank
  exact (((s.wfld_frame (pbR k + 8) 1 0 0).mono).then (State.setPb_frame _ k _)).then (State.setPb_frame _ k _)

theorem State.releaseSems_parkKey (p : SemSt → Bool) (ab : Bool) : Frame haltParts parkKey s (s.releaseSems p ab) := by
  refine Frame.each (fun e _ u => ?_) s
  have h : Frame haltParts parkKey u (u.setSem e.1 { owner := none, epoch := 0, abandoned := ab }) := (u.setSem_frame _ _).mono
  dsimp only
  split
  · exact .ite (fun _ => h.then (State.pend_frame _ _ 8)) fun _ => h
  · exact h

theorem State.clearMarkers_parkKey {k : Nat} (hk : k < 16) : Frame haltParts parkKey s (s.clearMarkers k) := by
  have h : Frame [.fab, .inflight] noKey s (s.each (List.range 4) fun s m => s.setLevel (4 * k + m) false) :=
    Frame.each (fun m _ u => u.setLevel_frame _ false) s
  exact ((h.mono).then (State.wfld_frame _ (seqR k + 0x44) 11 8 0)).then (State.setSq_frame _ k _)

theorem State.haltSeq_parkKey {k : Nat} (hk : k < 16) (why : Nat) : Frame haltParts parkKey s (s.haltSeq k why) := by
  unfold State.haltSeq
  refine .ite (fun _ => .refl) fun _ => ?_
  extract_lets x plays s1 s2 s3 s4 s5 s6 s7 y s8 s9
  have hstatus : Frame haltParts parkKey s s2 :=
    (((s.wfld_frame (seqR k + 8) 1 0 0).mono).then (State.wfld_frame _ (seqR k + 8) 27 24 why)).then
      (State.wbit_frame s1 (seqR k + 8) 18 false)
  have hchannels : Frame haltParts parkKey s2 s3 := by
    refine Frame.each (fun n hn u => ?_) s2
    have hn' : n < 8 := List.mem_range.mp (List.mem_filter.mp hn).1
    have h : Frame haltParts parkKey u (((u.endLists n).parkAout n).wbit (aoutR n + 0x2C) 0 false) :=
      (((u.setAo_frame n _).mono).then (State.parkAout_parkKey _ hn')).then (State.wbit_frame _ (aoutR n + 0x2C) 0 false)
    exact .ite (fun _ => h.then (State.setAo_frame _ n _)) fun _ => h
  have hbanks : Frame haltParts parkKey s3 s4 :=
    Frame.each (fun b hb u => u.stopBank_parkKey (List.mem_range.mp (List.mem_filter.mp hb).1)) s3
  have hmarkers : Frame haltParts parkKey s4 s5 := (s4.clearMarkers_parkKey hk).then (State.fireP_frame _ _)
  have hdemand : Frame haltParts parkKey s5 s7 :=
    (((s5.wr_frame 0x1824 _).mono).then (State.wbit_frame s6 (0x1840 + 4 * k) 17 false)).then (State.releaseHeads_frame _ k)
  have hsems : Frame haltParts parkKey s7 s9 := ((s7.setSq_frame k _).mono).then (State.releaseSems_parkKey s8 _ _)
  have h := ((((hstatus.trans hchannels).trans hbanks).trans hmarkers).trans hdemand).trans hsems
  exact (h.then (State.pendOwner_frame s9 _ _ _)).then (State.noteStop_frame _)

theorem State.parkAll_parkKey (why : Nat) : Frame haltParts parkKey s (s.parkAll why) := by
  unfold State.parkAll
  extract_lets s1 s2 s3
  have h1 : Frame haltParts parkKey s s1 := Frame.each (fun k hk u => u.haltSeq_parkKey (List.mem_range.mp hk) why) s
  have h2 : Frame haltParts parkKey s1 s2 := Frame.each (fun n hn u => u.parkAout_parkKey (List.mem_range.mp hn)) s1
  have h3 : Frame haltParts parkKey s2 s3 := Frame.each (fun k hk u => u.stopBank_parkKey (List.mem_range.mp hk)) s2
  have h4 : Frame haltParts parkKey s3 (s3.each (List.range 8) fun s n => s.cutTrg n) :=
    Frame.each (fun n hn u => by
      have := List.mem_range.mp hn
      exact ((u.setTrg_frame n _).mono).then (State.wbit_frame _ (trgR n + 8) 1 false)) s3
  exact ((h1.trans h2).trans h3).trans h4

/-! ### SAFE -/

/-- The registers that hold the ARMED and DROPPED flags of the actions SAFE disarms. -/
abbrev disarmKey : Nat → Prop := fun j => (0x1008 ≤ j ∧ j % 0x40 = 8) ∨ j = 0x2E14 ∨ j = 0x2E94 ∨ (0x4000 ≤ j ∧ j % 0x4000 = 0x440)

/-- What a SAFE cause may write, whatever it leads to: registers outside the synthesizers', and flags of actions, which for an action
that no device has may lie among the synthesizers'. -/
abbrev causeKey : Nat → Prop := fun j => outKey j ∨ j % 0x40 = 8

theorem lateRegs_disarmKey {kind i k lb db lr : Nat} (hs : safeDisarms kind = true) (h : lateRegs kind i = some (k, lb, db, lr)) :
    disarmKey k := by
  unfold lateRegs at h
  simp only [safeDisarms, Bool.or_eq_true, beq_iff_eq] at hs
  simp only [devKey, viKey] at h
  split_ifs at h <;> simp only [Option.some.injEq, Prod.mk.injEq] at h <;> omega

theorem armedBit_disarmKey {kind i k b : Nat} (hs : safeDisarms kind = true) (h : armedBit kind i = some (k, b)) : disarmKey k := by
  unfold armedBit at h
  simp only [safeDisarms, Bool.or_eq_true, beq_iff_eq] at hs
  simp only [devKey, viKey] at h
  split_ifs at h <;> simp only [Option.some.injEq, Prod.mk.injEq] at h <;> omega

theorem State.disarm_disarmKey {a : ActId} (hs : safeDisarms a.kind.val = true) : Frame [.acts] disarmKey s (s.disarm a) := by
  have h : Frame [.acts] disarmKey s (s.setAct a {}) := (s.setAct_frame a _).mono
  unfold State.disarm State.markArmed
  split
  · next k i hk =>
    have := armedBit_disarmKey hs hk
    exact h.then (State.setKey_frame _ k _)
  · exact h

theorem State.safeDisarm_causeKey : Frame [.cyc, .acts] causeKey s s.safeDisarm := by
  refine Frame.each (fun e he u => ?_) s
  have hs : safeDisarms (e.1 / 512) = true := (Bool.and_eq_true_iff.mp (List.mem_filter.mp he).2).2
  have hkind : (actId (e.1 / 512) (e.1 % 512)).kind.val = e.1 / 512 := by
    refine Nat.mod_eq_of_lt ?_
    simp only [safeDisarms, Bool.or_eq_true, beq_iff_eq] at hs
    omega
  have hs' : safeDisarms (actId (e.1 / 512) (e.1 % 512)).kind.val = true := by rw [hkind, hs]
  have h : Frame [.cyc, .acts] causeKey u ((u.disarm (actId (e.1 / 512) (e.1 % 512))).incSat 0x420 1) :=
    ((u.disarm_disarmKey hs').mono).then (State.incSat_frame _ 0x420 1)
  dsimp only
  split
  · next k lb db lr hl =>
    have hk := lateRegs_disarmKey hs hl
    exact (h.then (State.setKey_frame _ k _)).then (State.touch_frame _ _ _)
  · exact h

theorem State.safePosture_causeKey : Frame safeParts causeKey s s.safePosture := by
  have hm (u : State) : Frame [.mode, .svc] noKey u { u with mode := { u.mode with safeN := false, wakeAfter := [], svc := false } } :=
    .part rfl
  unfold State.safePosture State.wr64
  extract_lets s1 m s2 s3
  have h1 : Frame safeParts causeKey s s1 := ((s.parkAll_parkKey 6).mono).then (State.setTrans_frame _ _)
  clear_value s1
  have h2 : Frame safeParts causeKey s s2 := (h1.then (hm s1)).then (State.setEff_frame _ _)
  clear_value s2
  have h3 : Frame safeParts causeKey s s3 := (((h2.then (s2.fireP_frame 173)).then (State.incSat_frame _ 0x41C 1)).then
    (State.wr_frame _ 0x424 _)).then (State.wr_frame _ 0x428 _)
  clear_value s3
  exact ((h3.then s3.safeDisarm_causeKey).then (State.pendAll_frame _ 12)).then (State.after_frame _ _ _)

theorem State.cause_causeKey (c : Nat) : Frame causeParts causeKey s (s.cause c) := by
  refine .ite (fun _ => ?_) fun _ => .refl
  unfold State.safeCause
  extract_lets s1
  have h1 : Frame causeParts causeKey s s1 := (s.recordCause_frame c).mono
  clear_value s1
  refine .ite (fun _ => h1) fun _ => .ite (fun _ => h1.then s1.modeRest_frame) fun _ => ?_
  split
  · exact h1.then s1.modeRest_frame
  · exact h1.then s1.modeRest_frame
  · exact .ite (fun _ => (h1.then s1.modeRest_frame).then (State.startWake_frame _ _ _)) fun _ => h1.then s1.safePosture_causeKey

end Sys2Proof.Machine
end

section
/-! PROOF. O27: the windows of an acquisition declare lock, a window beyond its limits or a lost reference takes it away, and the wakes
of the synthesizers (R175 to R180). -/

namespace Sys2Proof.Machine

-- Proofs one after another: many that wait in threads of their own would pass the check's memory limit.
set_option Elab.async false

variable (s : State)

/-! ### Lock is lost -/

/-- A loss of lock as every synthesizer takes it: LOL, its count, producer 175 and a new acquisition (R180). -/
def State.lockGone (s : State) (x : Nat) : State :=
  let s := ((s.wsyn x 8 true).incFld (synR x + 0x20) 15 0 1).fireP 175
  let s := ((s.startLoop x).wsyn x 5 false).after 0 (.calAbort .clock)
  if x = 0 then { s with time := { s.time with keepEdges := 0 } } else s

/-- SYN-A then holds over, with its SAFE cause, and another synthesizer mutes. -/
theorem State.loseLock_eq (x : Nat) : s.loseLock x =
    if x = 0 then ((s.lockGone x).wsyn 0 3 true).cause 2 else (s.lockGone x).mute x := rfl

/-- LOCKED, WAKE_LOCK and GRID clear and LOL sets; the other flags stay, and LOL_CNT counts, saturating (R180). -/
theorem State.lockGone_reads (x : Nat) : (∀ i, (s.lockGone x).synBit x i =
      if i = 5 then false else if i = 0 ∨ i = 4 then false else if i = 8 then true else s.synBit x i) ∧
    (s.lockGone x).fld (synR x + 0x20) 15 0 = min (s.fld (synR x + 0x20) 15 0 + 1) 65535 := by
  unfold State.lockGone
  extract_lets s1 s2 _
  let u := (s.wsyn x 8 true).incFld (synR x + 0x20) 15 0 1
  have hu : Frame [.cyc] (· = synR x + 0x20) (s.wsyn x 8 true) u := State.tally_frame _ _ _
  have h1 : Frame [.fab, .inflight] noKey u s1 := u.fireP_frame 175
  have h2 : Frame [.cyc, .agenda, .agendaGrows, .syn] (· = synSt x) s1 s2 :=
    (((s1.startLoop_frame_status x).mono).then (State.wsyn_frame _ x 5 false)).then (State.after_frame _ 0 _)
  have h3 : Frame [.time, .fclk] noKey s2 (if x = 0 then { s2 with time := { s2.time with keepEdges := 0 } } else s2) :=
    .ite (fun _ => s2.withTime_frame _) fun _ => .refl
  constructor
  · intro i
    rw [h3.synBit x i, (State.after_frame _ 0 _).synBit x i, State.synBit_wsyn _ x i false (by decide), (s1.startLoop_reads x).1 i,
      h1.synBit x i, hu.synBit x i, s.synBit_wsyn x i true (by decide)]
  · rw [h3.fld (synR x + 0x20) 15 0, h2.fld (synR x + 0x20) 15 0, h1.fld (synR x + 0x20) 15 0,
      (State.incFld_reads _ _ 15 0 1 (by decide) (by decide)).1, (s.wsyn_frame x 8 true).fld (synR x + 0x20) 15 0]
    rfl

/-- A loss of lock clears LOCKED, sets LOL and counts it, and mutes the outputs of SYN-B to SYN-D; of STATUS it leaves REF_LOSS
(R180). -/
theorem State.loseLock_loses {x : Nat} (hx : x < 4) : (s.loseLock x).synBit x 0 = false ∧ (s.loseLock x).synBit x 8 = true ∧
    (s.loseLock x).synBit x 9 = s.synBit x 9 ∧
    (s.loseLock x).fld (synR x + 0x20) 15 0 = min (s.fld (synR x + 0x20) 15 0 + 1) 65535 ∧
    (x ≠ 0 → (s.loseLock x).synBit x 1 = true) := by
  obtain ⟨hbit, hcnt⟩ := s.lockGone_reads x
  rw [s.loseLock_eq x]
  generalize s.lockGone x = u at *
  split
  · next h0 =>
    subst h0
    have hc := (u.wsyn 0 3 true).cause_causeKey 2
    have he {i : Nat} (hi : i ≠ 3) : ((u.wsyn 0 3 true).cause 2).synBit 0 i = u.synBit 0 i :=
      (hc.synBit 0 i).trans ((u.synBit_wsyn 0 i true (by decide)).trans (if_neg hi))
    refine ⟨(he (by decide)).trans (hbit 0), (he (by decide)).trans (hbit 8), (he (by decide)).trans (hbit 9), ?_,
      fun h => absurd rfl h⟩
    exact ((hc.fld (synR 0 + 0x20) 15 0).trans ((u.wsyn_frame 0 3 true).fld (synR 0 + 0x20) 15 0)).trans hcnt
  · have hm := u.mute_synBit hx
    exact ⟨(hm 0).trans (hbit 0), (hm 8).trans (hbit 8), (hm 9).trans (hbit 9),
      ((u.mute_frame_status x).fld (synR x + 0x20) 15 0).trans hcnt, fun _ => hm 1⟩

/-- A reference without edges sets REF_LOSS, and a locked loop loses lock (R176). -/
theorem refLoss_loses {x : Fin 4} (hr : (s.sy x).running = true) : Does (.refLoss x) s fun t =>
    t.synBit x 9 = true ∧ t.synBit x 0 = false := by
  let u := (s.wsyn x 9 true).setSy x { (s.wsyn x 9 true).sy x with lost := true }
  have he : exec (.refLoss x) s = .next (if u.synBit x 0 then (u.loseLock x).noWindows x
      else (u.setSy x { u.sy x with windows := 0 }).noWindows x) := by
    rw [show exec (.refLoss x) s = execRefLoss x s from rfl, execRefLoss, if_neg (by simp [hr])]
    exact (apply_ite Host.Outcome.next _ _ _).symm
  have hlost : u.synBit x 9 = true :=
    ((State.setSy_frame _ x _).synBit x 9).trans ((s.synBit_wsyn x 9 true (by decide)).trans (if_pos rfl))
  refine ⟨_, he, ?_⟩
  split
  · have hw := (u.loseLock x).noWindows_frame x
    obtain ⟨hunlocked, -, hkept, -⟩ := u.loseLock_loses x.isLt
    exact ⟨((hw.synBit x 9).trans hkept).trans hlost, (hw.synBit x 0).trans hunlocked⟩
  · next h =>
    have hw : Frame [.syn, .agenda, .agendaGrows] noKey u ((u.setSy x { u.sy x with windows := 0 }).noWindows x) :=
      ((u.setSy_frame x _).mono).then (State.noWindows_frame _ x)
    exact ⟨(hw.synBit x 9).trans hlost, (hw.synBit x 0).trans (eq_false_of_ne_true h)⟩

/-! ### The windows of the lock detector -/

/-- The synthesizer's reference has edges: it is not lost. -/
def State.edges (s : State) (x : Nat) : State := s.setSy x { s.sy x with lost := false }

theorem State.edges_sy (x : Nat) : (s.edges x).sy x = { s.sy x with lost := false } := s.sy_setSy_self x _

theorem State.edges_sameLoop (x : Nat) : s.SameLoop (s.edges x) x :=
  ((s.setSy_frame x _).mono (K := (· = synSt x)) (P := [.syn])).sameLoop (by rw [← State.edges, s.edges_sy x])
    (by rw [← State.edges, s.edges_sy x])

/-- A window has ended with `n` counted: its error stands in STATUS. -/
def State.windowed (s : State) (x n : Nat) : State :=
  ((s.edges x).wfld (synSt x) 31 24 ((s.edges x).windowErr x n)).fresh

theorem State.windowed_frame (x n : Nat) : Frame [.syn, .free] (· = synSt x) s (s.windowed x n) :=
  (((s.setSy_frame x _).mono).then (State.wfld_frame _ (synSt x) 31 24 _)).then (State.fresh_frame _)

theorem State.windowed_sy (x n : Nat) : (s.windowed x n).sy x = { s.sy x with lost := false } := s.edges_sy x

theorem State.windowed_synBit (x n : Nat) {i : Nat} (hi : i < 24) : (s.windowed x n).synBit x i = s.synBit x i :=
  ((s.edges x).bit_wfld_ne (synSt x) _ (by decide) (by decide) (.inl hi)).trans ((s.setSy_frame x _).synBit x i)

theorem State.windowed_sameLoop (x n : Nat) : s.SameLoop (s.windowed x n) x :=
  (s.windowed_frame x n).sameLoop (by rw [s.windowed_sy x n]) (by rw [s.windowed_sy x n])

/-- A window of an acquisition: out of range it ends the acquisition, beyond tolerance it starts the count again, and the last of the
count declares lock (R175 to R177). -/
theorem exec_synLockWindow_acquiring {x : Fin 4} (n : Nat) (b : Bool) (hr : (s.sy x).running = true)
    (ha : (s.sy x).acquiring = true) : exec (.synLockWindow x n b) s =
      let u := s.windowed x n
      let count (m : Nat) := u.setSy x { s.sy x with lost := false, windows := m }
      if !b then ok ((u.wsyn x 12 true).setSy x { s.sy x with lost := false, acquiring := false, ranged := true })
      else if !s.within x n (s.lockTol x) then ok ((count 0).after ((count 0).windowTu x) (.synLockWindow x n b))
      else if (s.sy x).windows + 1 < u.fld (synR x + 0xC) 11 8 then
        ok ((count ((s.sy x).windows + 1)).after (u.windowTu x) (.synLockWindow x n b))
      else ok (u.lockSyn x) := by
  have hw := s.windowed_sameLoop x n
  rw [← hw.within, ← hw.lockTol, show exec (.synLockWindow x n b) s = execSynLockWindow x n b s from rfl]
  unfold execSynLockWindow
  dsimp only
  rw [if_neg (by simp [hr, ha]), if_pos ha]
  rfl

/-- A window of a locked loop past its wake keeps lock or loses it (R176). -/
theorem exec_synLockWindow_locked {x : Fin 4} (n : Nat) (b : Bool) (hr : (s.sy x).running = true) (ha : (s.sy x).acquiring = false)
    (hl : s.synBit x 0 = true) (hwake : s.synBit x 4 = false) : exec (.synLockWindow x n b) s =
      if s.within x n (max (s.fld (synR x + 0xC) 31 24) (s.lockTol x)) then ok (s.windowed x n)
      else ok ((s.windowed x n).loseLock x) := by
  have hw := s.windowed_sameLoop x n
  have hf := s.windowed_frame x n
  rw [← hw.within, ← hw.lockTol, ← hf.fld (synR x + 0xC) 31 24,
    show exec (.synLockWindow x n b) s = execSynLockWindow x n b s from rfl]
  have hedge : (s.edges x).synBit x 0 = true := ((s.setSy_frame x _).synBit x 0).trans hl
  unfold execSynLockWindow
  change (if (!(s.sy x).running || (!(s.sy x).acquiring && !(s.edges x).synBit x 0)) = true then _
    else if (s.sy x).acquiring = true then _ else if (s.windowed x n).synBit x 4 = true then _ else _) = _
  rw [s.windowed_synBit x n (by decide), hwake, if_neg (by simp [hr, hedge]), if_neg (by simp [ha]), if_neg (by decide)]
  rfl

theorem synLockWindow_locks {x : Fin 4} {n : Nat} (hr : (s.sy x).running = true) (ha : (s.sy x).acquiring = true)
    (hw : s.within x n (s.lockTol x) = true) (hn : s.fld (synR x + 0xC) 11 8 ≤ (s.sy x).windows + 1) :
    Does (.synLockWindow x n true) s fun t => t.synBit x 0 = true ∧ t.synBit x 1 = false ∧ (t.sy x).acquiring = false ∧
      (x = 0 → t.time.fclk = true) := by
  have he : exec (.synLockWindow x n true) s = ok ((s.windowed x n).lockSyn x) := by
    rw [exec_synLockWindow_acquiring s n true hr ha]
    dsimp only
    rw [if_neg (by decide), if_neg (by simp [hw]), (s.windowed_frame x n).fld (synR x + 0xC) 11 8, if_neg (by omega)]
  obtain ⟨hlocked, hopen, hacq, hfclk⟩ := (s.windowed x n).lockSyn_locks x.isLt
  exact ⟨_, he, hlocked, hopen, hacq, fun h => hfclk (congrArg Fin.val h)⟩

/-- An output out of its range ends the acquisition (R177). -/
theorem synLockWindow_outOfRange {x : Fin 4} (n : Nat) (hr : (s.sy x).running = true) (ha : (s.sy x).acquiring = true) :
    Does (.synLockWindow x n false) s fun t => t.synBit x 12 = true ∧ (t.sy x).acquiring = false ∧ SameRegs [devKey (synSt x)] s t := by
  let y : SynSt := { s.sy x with lost := false, acquiring := false, ranged := true }
  have hf : Frame [.syn, .free, .cyc] (· = synSt x) s (((s.windowed x n).wsyn x 12 true).setSy x y) :=
    (((s.windowed_frame x n).mono).then (State.wsyn_frame _ x 12 true)).then (State.setSy_frame _ x y)
  refine ⟨_, exec_synLockWindow_acquiring s n false hr ha, ?_, congrArg SynSt.acquiring (State.sy_setSy_self _ x y),
    hf.sameRegs _ (by simp)⟩
  exact ((State.setSy_frame _ x y).synBit x 12).trans (State.bit_wbit_self _ (synSt x) 12 true (by decide))

/-- A window beyond tolerance starts the count of an acquisition again (R176). -/
theorem synLockWindow_restarts {x : Fin 4} {n : Nat} (hr : (s.sy x).running = true) (ha : (s.sy x).acquiring = true)
    (hw : s.within x n (s.lockTol x) = false) : Does (.synLockWindow x n true) s fun t => (t.sy x).windows = 0 ∧
      (t.sy x).acquiring = true ∧ SameRegs [devKey (synSt x)] s t := by
  let y : SynSt := { s.sy x with lost := false, windows := 0 }
  let u := (s.windowed x n).setSy x y
  have he : exec (.synLockWindow x n true) s = ok (u.after (u.windowTu x) (.synLockWindow x n true)) := by
    rw [exec_synLockWindow_acquiring s n true hr ha]
    dsimp only
    rw [if_neg (by decide), if_pos (by simp [hw])]
  have hu := u.after_frame (u.windowTu x) (.synLockWindow x n true)
  have hf : Frame [.syn, .free, .agenda] (· = synSt x) s (u.after (u.windowTu x) (.synLockWindow x n true)) :=
    (((s.windowed_frame x n).mono).then (State.setSy_frame _ x y)).then hu
  have hy : (u.after (u.windowTu x) (.synLockWindow x n true)).sy x = y := (hu.sy x).trans (State.sy_setSy_self _ x y)
  exact ⟨_, he, congrArg SynSt.windows hy, (congrArg SynSt.acquiring hy).trans ha, hf.sameRegs _ (by simp)⟩

/-- A good window keeps lock; one beyond the limits loses it (R176, R180). -/
theorem synLockWindow_watches {x : Fin 4} (n : Nat) (b : Bool) (hr : (s.sy x).running = true) (ha : (s.sy x).acquiring = false)
    (hl : s.synBit x 0 = true) (hwake : s.synBit x 4 = false) :
    let lim := max (s.fld (synR x + 0xC) 31 24) (s.lockTol x)
    (s.within x n lim = true → Does (.synLockWindow x n b) s fun t => t.synBit x 0 = true ∧ SameRegs [devKey (synSt x)] s t) ∧
    (s.within x n lim = false → Does (.synLockWindow x n b) s fun t => t.synBit x 0 = false ∧ t.synBit x 8 = true ∧
      t.fld (synR x + 0x20) 15 0 = min (s.fld (synR x + 0x20) 15 0 + 1) 65535 ∧ (x ≠ 0 → t.synBit x 1 = true)) := by
  have he := exec_synLockWindow_locked s n b hr ha hl hwake
  have hf := s.windowed_frame x n
  refine ⟨fun hw => ⟨_, he.trans (if_pos hw), ?_, hf.sameRegs _ (by simp)⟩, fun hw => ⟨_, he.trans (if_neg (by simp [hw])), ?_⟩⟩
  · exact (s.windowed_synBit x n (by decide)).trans hl
  · obtain ⟨hunlocked, hlol, -, hcnt, hmuted⟩ := (s.windowed x n).loseLock_loses x.isLt
    exact ⟨hunlocked, hlol, hf.fld (synR x + 0x20) 15 0 ▸ hcnt, fun hx => hmuted fun h => hx (Fin.ext h)⟩

/-! ### Wakes -/

/-- One good wake window declares lock (R178). -/
theorem wakeWindow_locks {x : Fin 4} {e : Int} (ha : (s.sy x).acquiring = true) (hret : (s.sy x).retained = true)
    (hc : s.coreOk x = true) (hw : e.natAbs ≤ s.lockTol x) : Does (.wakeWindow x e) s fun t => t.synBit x 0 = true ∧
      t.synBit x 4 = true ∧ t.synBit x 1 = false := by
  let u := (s.edges x).setSy x { (s.edges x).sy x with retained := false }
  have hs := s.edges_sameLoop x
  have he : exec (.wakeWindow x e) s = .next ((u.lockSyn x).wsyn x 4 true) := by
    rw [show exec (.wakeWindow x e) s = execWakeWindow x e s from rfl]
    unfold execWakeWindow
    change (if (((s.edges x).sy x).acquiring && ((s.edges x).sy x).retained && !(s.edges x).coreOk x) = true then _
      else if (((s.edges x).sy x).acquiring && ((s.edges x).sy x).retained && decide (e.natAbs ≤ (s.edges x).lockTol x)) = true then _
      else _) = _
    rw [hs.coreOk, hs.lockTol, s.edges_sy x, if_neg (by simp [hc]), if_pos (by simp [ha, hret, hw])]
    rfl
  obtain ⟨hlocked, hopen, -⟩ := u.lockSyn_locks x.isLt
  have hbit (i : Nat) := (u.lockSyn x).synBit_wsyn x i (i := 4) true (by decide)
  exact ⟨_, he, (hbit 0).trans hlocked, hbit 4, (hbit 1).trans hopen⟩

/-- An output out of its range ends a wake's acquisition too (R177). -/
theorem wakeWindow_outOfRange {x : Fin 4} (e : Int) (ha : (s.sy x).acquiring = true) (hret : (s.sy x).retained = true)
    (hc : s.coreOk x = false) : Does (.wakeWindow x e) s fun t => t.synBit x 12 = true ∧ (t.sy x).acquiring = false ∧
      SameRegs [devKey (synSt x)] s t := by
  let w := (s.edges x).wsyn x 12 true
  let u := w.setSy x { w.sy x with acquiring := false, retained := false, ranged := true }
  have hs := s.edges_sameLoop x
  have he : exec (.wakeWindow x e) s = .next u.wakeOn := by
    rw [show exec (.wakeWindow x e) s = execWakeWindow x e s from rfl]
    unfold execWakeWindow
    change (if (((s.edges x).sy x).acquiring && ((s.edges x).sy x).retained && !(s.edges x).coreOk x) = true then _ else _) = _
    rw [hs.coreOk, s.edges_sy x, if_pos (by simp [hc, ha, hret])]
    rfl
  have hu := u.wakeOn_frame
  have hf : Frame [.syn, .cyc, .agenda] (· = synSt x) s u.wakeOn :=
    ((((s.setSy_frame x _).mono).then (State.wsyn_frame (s.edges x) x 12 true)).then (w.setSy_frame x _)).then hu
  have hy : u.wakeOn.sy x = { w.sy x with acquiring := false, retained := false, ranged := true } :=
    (hu.sy x).trans (w.sy_setSy_self x _)
  refine ⟨_, he, ?_, congrArg SynSt.acquiring hy, hf.sameRegs _ (by simp)⟩
  exact ((hu.synBit x 12).trans ((w.setSy_frame x _).synBit x 12)).trans ((s.edges x).bit_wbit_self (synSt x) 12 true (by decide))

/-- The synthesizers other than SYN-A that a slow wake finds acquiring fall back to the cold acquisition (R179). -/
def State.othersCold (s : State) : State :=
  (s.each ([1, 2, 3].filter fun x => (s.sy x).acquiring && (s.sy x).retained) fun s x =>
    (s.setSy x { s.sy x with retained := false }).startLoop x).wakeOn

theorem State.othersCold_spec :
    Frame [.cyc, .agenda, .agendaGrows, .syn] (fun k => k = synSt 1 ∨ k = synSt 2 ∨ k = synSt 3) s s.othersCold ∧
      s.othersCold.sy 0 = s.sy 0 := by
  let l := [1, 2, 3].filter fun x => (s.sy x).acquiring && (s.sy x).retained
  let f (s : State) (x : Nat) := (s.setSy x { s.sy x with retained := false }).startLoop x
  have hl {x : Nat} (hx : x ∈ l) : x = 1 ∨ x = 2 ∨ x = 3 := by simpa using (List.mem_filter.mp hx).1
  have hf : Frame [.cyc, .agenda, .agendaGrows, .syn] (fun k => k = synSt 1 ∨ k = synSt 2 ∨ k = synSt 3) s (s.each l f) := by
    refine Frame.each (fun x hx u => ?_) s
    have hkey : synSt x = synSt 1 ∨ synSt x = synSt 2 ∨ synSt x = synSt 3 := by rcases hl hx with rfl | rfl | rfl <;> simp
    exact ((u.setSy_frame x _).mono).then (State.startLoop_frame_status _ x) (hK := fun k hk => hk ▸ hkey)
  have hsy : (s.each l f).sy 0 = s.sy 0 := by
    refine State.each_keeps_mem (fun u => u.sy 0) (fun x hx u => ?_) s
    have h0 : 0 ≠ x := by have := hl hx; omega
    rw [State.startLoop_sy_ne _ h0, State.sy_setSy, if_neg h0]
  have hw := (s.each l f).wakeOn_frame
  exact ⟨hf.then hw, (hw.sy 0).trans hsy⟩

theorem Frame.srcOf {P : List Aspect} {K : Nat → Prop} {s t : State} (h : Frame P K s t) (p : Nat) (hK : ¬ K 0x3404)
    (ht : Aspect.time ∉ P := by decide) : t.srcOf p t.now = s.srcOf p s.now := by
  simp only [State.srcOf, State.unit, State.now, h.fld 0x3404 31 24 hK, show t.time = s.time from h.keeps .time ht]

/-- WAKE_SLOW sets and producer 175 enters the fabric. -/
def State.wakeSlowTold (s : State) : State :=
  let u := s.wsyn 0 13 true
  { u with fab := { u.fab with inflight := u.fab.inflight ++ [(0, u.srcOf 175 u.now)] } }

/-- A slow wake: WAKE_SLOW, producer 175, and the cold acquisition of SYN-A (R179). -/
theorem wakeSlow_coldStarts (ht : s.mode.trans = .waking ∨ s.mode.trans = .shelfExit) (hl : s.synBit 0 0 = false)
    (hr : (s.sy 0).ranged = false) : Does .wakeSlow s fun t => t.synBit 0 13 = true ∧ (t.sy 0).acquiring = true ∧
      (t.sy 0).retained = false ∧ t.fab.inflight = s.fab.inflight ++ [(0, s.srcOf 175 s.now)] := by
  obtain ⟨hothers, hsy⟩ := s.othersCold_spec
  let u := s.othersCold.wakeSlowTold
  let w := u.setSy 0 { u.sy 0 with retained := false }
  have he : exec .wakeSlow s = .next (w.startLoop 0) := by
    have htrans : s.othersCold.mode.trans = s.mode.trans := congrArg ModeSt.trans (hothers.keeps .mode (by decide))
    have hlocked : (!s.othersCold.synBit 0 0) = true := by rw [hothers.synBit 0 0, hl]; rfl
    have hranged : (!(s.othersCold.sy 0).ranged) = true := by rw [hsy, hr]; rfl
    exact if_pos ⟨htrans ▸ ht, hlocked, hranged⟩
  have hslow := s.othersCold.wsyn_frame 0 13 true
  have hf : Frame [.cyc, .agenda, .agendaGrows, .syn] (fun k => k = synSt 0 ∨ k = synSt 1 ∨ k = synSt 2 ∨ k = synSt 3) s
      (s.othersCold.wsyn 0 13 true) := (hothers.mono).then hslow
  have hinflight : u.fab.inflight = s.fab.inflight ++ [(0, s.srcOf 175 s.now)] := by
    rw [← hf.srcOf 175 (by simp only [synSt, synR]; omega), ← show _ = s.fab.inflight from hf.keeps .inflight (by decide)]
    rfl
  have htold : w.synBit 0 13 = true := s.othersCold.bit_wbit_self (synSt 0) 13 true (by decide)
  obtain ⟨hbits, -, hacq, hret⟩ := w.startLoop_reads 0
  have hloop : Frame [.cyc, .agenda, .agendaGrows, .syn] (· = synSt 0) u (w.startLoop 0) :=
    ((u.setSy_frame 0 _).mono).then (w.startLoop_frame_status 0)
  exact ⟨_, he, (hbits 13).trans htold, hacq, hret.trans (congrArg SynSt.retained (u.sy_setSy_self 0 _)),
    Eq.trans (hloop.keeps .inflight (by decide)) hinflight⟩

/-- Settles O27, by the outcomes of a window (`exec_synLockWindow_acquiring`, `exec_synLockWindow_locked`), of a lost reference and of
the wakes. -/
theorem lockIsDeclaredAndLost : Obligations.LockIsDeclaredAndLost := fun s _ hr =>
  ⟨fun n ha => ⟨synLockWindow_locks s hr ha, synLockWindow_outOfRange s n hr ha, synLockWindow_restarts s hr ha⟩,
    fun n b ha hl hwake => synLockWindow_watches s n b hr ha hl hwake, refLoss_loses s hr,
    fun e ha hret => ⟨wakeWindow_locks s ha hret, wakeWindow_outOfRange s e ha hret⟩, wakeSlow_coldStarts s⟩

end Sys2Proof.Machine
end

section
/-! SUPPORT. Where the addresses of a VI lead (R196 to R199), what reads under the code count (R193), what a validation and a store of bytes
leave (R206, R211, R300). -/

namespace Sys2Proof.Machine

-- Proofs one after another: many that wait in threads of their own would pass the check's memory limit.
set_option Elab.async false

variable {P : List Aspect} {K : Nat → Prop} {s t : State}

/-! ### Where the resources and addresses of a VI stand -/

section
variable (h : Frame P K s t) (hK : Frame.Numbers K)
include h hK

theorem Frame.owned_of (v : Nat) (c : Kind) : t.owned v c = s.owned v c := by
  have hc : c.count ≤ 256 := by cases c <;> decide
  exact List.filter_congr fun i hi => h.owns_of hK v c (by have := List.mem_range.mp hi; omega)

theorem Frame.vatAddr_of (v a : Nat) : t.vatAddr v a = s.vatAddr v a := by
  simp only [State.vatAddr, h.owned_of hK v .vat]

theorem Frame.memAddr_of (hsize : ¬ K 0x1800) (v a : Nat) : t.memAddr v a = s.memAddr v a := by
  simp only [State.memAddr, h.owned_of hK v .mem, h.fld 0x1800 24 16 hsize]

theorem Frame.ranges_of (hsize : ¬ K 0x1800) (v : Nat) (mem : Bool) (a n : Nat) : t.ranges v mem a n = s.ranges v mem a n := by
  simp only [State.ranges, h.vatAddr_of hK v, h.memAddr_of hK hsize v]

/-- What a VI's space holds stands where the stores stand. -/
theorem Frame.loadVi_of (hsize : ¬ K 0x1800) (hs : Aspect.stores ∉ P) (v : Nat) (mem : Bool) (a n : Nat) :
    t.loadVi v mem a n = s.loadVi v mem a n := by
  obtain ⟨hvat, hmem, -⟩ := h.sameStores hs
  simp only [State.loadVi, h.vatAddr_of hK v, h.memAddr_of hK hsize v, hvat, hmem]

end

theorem SameStores.symm (h : SameStores s t) : SameStores t s :=
  ⟨fun a => (h.1 a).symm, fun a => (h.2.1 a).symm, fun a => (h.2.2 a).symm⟩

variable (s)

/-! ### Reads under the code of R193 -/

/-- The counts of corrected and of uncorrectable words, and the place of the last of these (R193). -/
abbrev eccKey : Nat → Prop := fun k => k = 0x1808 ∨ k = 0x180C ∨ k = 0x1810

theorem eccKey_numbers : Frame.Numbers eccKey := ⟨fun k _ _ => by omega, by decide⟩

theorem State.readWords_eccKey (vat : Bool) (p n : Nat) : Frame [.cyc] eccKey s (s.readWords vat p n) := by
  unfold State.readWords
  exact Frame.trans (Frame.each (fun _ _ u => (u.incSat_frame 0x1808 1).mono) s)
    (Frame.each (fun _ _ u => ((u.incSat_frame 0x180C 1).mono).then (State.wr_frame _ 0x1810 _)) _)

theorem State.readVi_eccKey (v : Nat) (mem : Bool) (a n : Nat) : Frame [.cyc] eccKey s (s.readVi v mem a n) :=
  Frame.each (fun r _ u => u.readWords_eccKey (!mem) r.1 r.2) s

theorem satAdd_zero (x : Word) : satAdd x 0 = x := by
  apply BitVec.eq_of_toNat_eq
  have := x.isLt
  simp only [satAdd, BitVec.toNat_ofNat]
  omega

theorem satAdd_satAdd (x : Word) (m n : Nat) : satAdd (satAdd x m) n = satAdd x (m + n) := by
  simp only [satAdd, BitVec.toNat_ofNat]
  congr 1
  omega

/-- A count that each element of a list raises by one rises by the list's length. -/
theorem State.each_counts {α : Type} {f : State → α → State} (o : Nat) (h : ∀ u a, (f u a).rd o = satAdd (u.rd o) 1) (l : List α) :
    (s.each l f).rd o = satAdd (s.rd o) l.length := by
  induction l generalizing s with
  | nil => exact (satAdd_zero _).symm
  | cons a l ih => rw [State.each_cons, ih, h, satAdd_satAdd, Nat.add_comm, List.length_cons]

theorem State.rd_incSat (o n : Nat) : (s.incSat o n).rd o = satAdd (s.rd o) n := by
  simp [State.rd, State.incSat, State.tally_getKey]

/-- Words read count by kind: those corrected, and those that could not be (R193). -/
theorem State.readWords_counts (vat : Bool) (p n : Nat) :
    (s.readWords vat p n).rd 0x1808 = satAdd (s.rd 0x1808) (s.errsIn vat p n 1).length ∧
      (s.readWords vat p n).rd 0x180C = satAdd (s.rd 0x180C) (s.errsIn vat p n 2).length := by
  have hmulti (u : State) (a : Nat) (o : Nat) (ho : o ≠ 0x1810) :
      ((u.incSat 0x180C 1).wr 0x1810 (BitVec.ofNat 32 (a / 32 * 32 + b2n vat))).rd o = (u.incSat 0x180C 1).rd o :=
    State.rd_wr_ne _ _ ho
  unfold State.readWords
  constructor
  · rw [State.each_keeps _ (fun u => u.rd 0x1808) _ (fun u a => (hmulti u a _ (by decide)).trans ((u.incSat_frame 0x180C 1).rd 0x1808)),
      s.each_counts 0x1808 fun u _ => u.rd_incSat _ 1]
  · rw [State.each_counts _ 0x180C (fun u a => (hmulti u a _ (by decide)).trans (u.rd_incSat _ 1)),
      s.each_keeps (fun u => u.rd 0x180C) _ fun u _ => (u.incSat_frame 0x1808 1).rd 0x180C]

/-! ### Validation -/

/-- A change of the stores' own records that leaves what the stores hold. -/
theorem State.memRest_frame {m : MemSt} (hv : m.vat = s.mem.vat := by rfl) (hm : m.mem = s.mem.mem := by rfl)
    (hn : m.nvm = s.mem.nvm := by rfl) (hr : m.nvmRanges = s.mem.nvmRanges := by rfl) (hl : m.lost = s.mem.lost := by rfl) :
    Frame [.mem] noKey s { s with mem := m } :=
  .part rfl fun p hp => by cases p <;> simp_all [State.Keeps]

theorem State.setDirState_frame (p c : Nat) : Frame [.mem] noKey s (s.setDirState p c) :=
  s.memRest_frame

/-- A validation counts what it reads and records its result (R206). -/
theorem State.validate_eccKey (v p : Nat) : Frame [.mem, .cyc] eccKey s (s.validate v p) :=
  ((s.readWords_eccKey true p 32).mono).then (State.setDirState_frame _ _ _)

theorem State.validateNew_eccKey (v p : Nat) : Frame [.mem, .cyc] eccKey s (s.validateNew v p) :=
  .ite (fun _ => s.validate_eccKey v p) fun _ => .refl

/-- What a validation leaves of the entries' states: its own entry is no longer UNCHECKED. -/
theorem State.validate_dirState (v p q : Nat) : (p = q → (s.validate v p).dirState q ≠ 0) ∧
    (s.dirState q ≠ 0 → (s.validate v p).dirState q ≠ 0) := by
  have hmem : (s.readWords true p 32).mem = s.mem := (s.readWords_eccKey true p 32).keeps .mem (by decide)
  unfold State.validate
  generalize s.readWords true p 32 = u at hmem
  have hr (r : Nat) : (if r = 0 then 1 else 2 + 16 * r) ≠ 0 := by split <;> omega
  simp only [State.dirState, State.setDirState, Tab.get_set, hmem]
  refine ⟨fun h => ?_, fun h => ?_⟩
  · rw [if_pos (by rw [h])]
    exact hr _
  · split
    · exact hr _
    · exact h

/-- Once its entry has been validated, what follows leaves it so. -/
theorem State.each_validate_dirState {α : Type} (v : Nat) (f : α → Nat) {l : List α} {q : Nat}
    (h : (∃ a ∈ l, f a = q) ∨ s.dirState q ≠ 0) : (s.each l fun s a => s.validate v (f a)).dirState q ≠ 0 := by
  induction l generalizing s with
  | nil =>
    rcases h with ⟨a, ha, -⟩ | h
    · simp at ha
    · exact h
  | cons b l ih =>
    obtain ⟨hown, hkeep⟩ := s.validate_dirState v (f b) q
    refine ih _ ?_
    rcases h with ⟨a, ha, hq⟩ | h
    · rcases List.mem_cons.mp ha with rfl | ha
      · exact .inr (hown hq)
      · exact .inl ⟨a, ha, hq⟩
    · exact .inr (hkeep h)

/-! ### Bytes stored -/

variable {s}

/-- Storing the same bytes keeps the stores alike. -/
theorem SameStores.putBytes (h : SameStores s t) (vat : Bool) (a : Nat) (l : List Byte) :
    SameStores (s.putBytes vat a l) (t.putBytes vat a l) := by
  induction l generalizing s t a with
  | nil => exact h
  | cons b l ih =>
    obtain ⟨hv, hm, hn⟩ := h
    refine ih ?_ (a + 1)
    cases vat
    · exact ⟨hv, fun j => by simp [hm], hn⟩
    · exact ⟨fun j => by simp [hv], hm, hn⟩

variable (s)

theorem State.mend_frame (vat : Bool) (p n : Nat) : Frame [.mem] noKey s (s.mend vat p n) := by
  unfold State.mend
  exact .ite (fun _ => .refl) fun _ => s.memRest_frame

theorem State.restartScan_stands (k : Nat) : Frame [.mem, .agenda, .agendaGrows] noKey s (s.restartScan k) := by
  unfold State.restartScan
  refine .ite (fun _ => .refl) fun _ => ?_
  extract_lets m u
  have h : Frame [.mem] noKey s u := s.memRest_frame
  clear_value u
  exact ((h.mono).then (u.cancel_frame _)).then (State.after_frame _ _ _)

/-- What a write of the Vat does beside storing leaves the stores alone. -/
theorem State.vatWritten_stands (p n : Nat) : Frame [.mem, .cyc, .agenda, .agendaGrows] anyKey s (s.vatWritten p n) := by
  unfold State.vatWritten
  refine .ite (fun _ => .refl) fun _ => ?_
  extract_lets gs s1 lo hi m s2 s3
  have h1 : Frame [.mem, .cyc, .agenda, .agendaGrows] anyKey s s1 := Frame.each (fun g _ u => (u.memRest_frame).mono) s
  have h2 : Frame [.mem, .cyc, .agenda, .agendaGrows] anyKey s1 s2 := .ite (fun _ => (s1.memRest_frame).mono) fun _ => .refl
  have h3 : Frame [.mem, .cyc, .agenda, .agendaGrows] anyKey s2 s3 := by
    refine Frame.each (fun g _ u => Frame.each (fun k _ u => ?_) u) s2
    exact ((u.wbit_frame (0x1840 + 4 * k) 16 false).mono).then (State.restartScan_stands _ k)
  exact ((h1.trans h2).trans h3).then (State.dropTables_frame _ _ _ _)

theorem State.store_putBytes (vat : Bool) (p : Nat) (b : List Byte) : SameStores (s.putBytes vat p b) (s.store vat p b) := by
  have hm := ((s.putBytes vat p b).mend_frame vat p b.length).sameStores
  unfold State.store
  dsimp only
  split
  · exact hm.trans (State.vatWritten_stands _ _ _).sameStores
  · exact hm.trans (State.dropTables_frame _ _ _ _).sameStores

variable {s}

theorem SameStores.store (h : SameStores s t) (vat : Bool) (p : Nat) (b : List Byte) :
    SameStores (s.store vat p b) (t.store vat p b) :=
  ((s.store_putBytes vat p b).symm.trans (h.putBytes vat p b)).trans (t.store_putBytes vat p b)

/-- Bytes stored from a VI address on leave the stores alike, where the address leads to the same places. -/
theorem SameStores.storeVi (h : SameStores s t) {v : Nat} {mem : Bool} {a : Nat} {b : List Byte}
    (hr : t.ranges v mem a b.length = s.ranges v mem a b.length) : SameStores (s.storeVi v mem a b) (t.storeVi v mem a b) := by
  unfold State.storeVi
  rw [hr]
  generalize s.ranges v mem a b.length = l
  clear hr
  induction l generalizing s t b with
  | nil => exact h
  | cons r l ih => exact ih (h.store (!mem) r.1 (b.take r.2))

end Sys2Proof.Machine
end

section
/-! PROOF. Load engines (R216, R217): the check before a copy, a start, what every end leaves, a stop, and LDE_DONE. -/

namespace Sys2Proof.Machine

-- Proofs one after another: many that wait in threads of their own would pass the check's memory limit.
set_option Elab.async false

variable {P : List Aspect} {K : Nat → Prop} (s : State)

/-! ### The check before a copy -/

/-- LDEn_STAT and LDEn_DONE_BYTES. -/
abbrev ldeStKey (e : Nat) : Nat → Prop := fun k => k = ldeR e + 0x18 ∨ k = ldeR e + 0x1C

theorem ldeStKey_numbers {e : Nat} (he : e < 4) : Frame.Numbers (ldeStKey e) :=
  ⟨fun k _ _ => by simp only [ldeStKey, ldeR]; omega, by simp only [ldeStKey, ldeR, viKey]; omega⟩

theorem Frame.lde {s t : State} (h : Frame P K s t) (e : Nat) (hm : Aspect.mem ∉ P := by decide) : t.lde e = s.lde e := by
  simp only [State.lde, show t.mem = s.mem from h.keeps .mem hm]

/-- The check of a copy reads neither its engine's status nor its byte count. -/
theorem Frame.ldeCheck {s t : State} {e : Nat} (h : Frame P (ldeStKey e) s t) (he : e < 4) (hm : Aspect.eff ∉ P) :
    t.ldeCheck e = s.ldeCheck e := by
  have hrd (o : Nat) (ho : o < 0x18 ∨ 0x200 ≤ o) : t.rd (ldeR e + o) = s.rd (ldeR e + o) :=
    h.rd _ (by simp only [ldeStKey, ldeR]; omega)
  have hvi : t.ldeVi e = s.ldeVi e :=
    h.ownerVi .lde e (by simp only [ldeStKey, ldeR]; omega) (by simp only [ldeStKey, ldeR, Kind.base]; omega)
  have hranges := h.ranges_of (ldeStKey_numbers he) (by simp only [ldeStKey, ldeR]; omega)
  have hbind (v : Nat) : t.bindOf v = s.bindOf v := h.fld _ _ _ (by simp only [ldeStKey, ldeR]; omega)
  have hsize : t.nvmSize = s.nvmSize :=
    congrArg (fun n => min (2 ^ n) 0x10000000) (h.fld 0x3820 31 24 (by simp only [ldeStKey, ldeR]; omega))
  have heff : t.mode.eff = s.mode.eff := h.keeps .eff hm
  have hside (v a b c : Nat) (d : Bool) : t.ldeSide v a b c d = s.ldeSide v a b c d := by
    simp only [State.ldeSide, hranges, hbind, hsize, heff]
  have hsrc : t.rd64 (ldeR e) (ldeR e + 4) = s.rd64 (ldeR e) (ldeR e + 4) := congrArg₂ cat64 (hrd 4 (by omega)) (hrd 0 (by omega))
  have hdst : t.rd64 (ldeR e + 8) (ldeR e + 12) = s.rd64 (ldeR e + 8) (ldeR e + 12) :=
    congrArg₂ cat64 (hrd 12 (by omega)) (hrd 8 (by omega))
  unfold State.ldeCheck State.fld
  rw [hvi, hsrc, hdst, hrd 16 (by omega), hrd 0x14 (by omega)]
  simp only [hside]

theorem State.ldeSide_lt (v space addr len : Nat) (dst : Bool) : s.ldeSide v space addr len dst < 16 := by
  unfold State.ldeSide
  split <;> (try split_ifs) <;> omega

theorem State.ldeCheck_lt (e : Nat) : s.ldeCheck e < 16 := by
  unfold State.ldeCheck
  extract_lets v src dst len a b align
  have ha : a < 16 := s.ldeSide_lt _ _ _ _ _
  have hb : b < 16 := s.ldeSide_lt _ _ _ _ _
  have hc : align < 16 := by simp only [align]; split <;> omega
  clear_value a b align
  cases hm : ([a, b, align].filter (· ≠ 0)).min? with
  | none => exact Nat.zero_lt_succ _
  | some m =>
    have := (List.mem_filter.mp (List.min?_mem hm)).1
    simp only [List.mem_cons, List.not_mem_nil, or_false] at this
    simp only [Option.getD_some]
    omega

/-! ### The status -/

/-- LDEn_STAT takes a bit and a reason. -/
def State.ldeNote (s : State) (e i r : Nat) : State := (s.wbit (ldeR e + 0x18) i true).wfld (ldeR e + 0x18) 11 8 r

theorem State.ldeNote_frame (e i r : Nat) : Frame [.cyc] (· = ldeR e + 0x18) s (s.ldeNote e i r) :=
  (s.wbit_frame _ i true).then (State.wfld_frame _ _ 11 8 r)

theorem State.ldeNote_reads (e : Nat) {i r : Nat} (hi : i < 8) (hr : r < 16) : let t := s.ldeNote e i r
    t.bit (ldeR e + 0x18) i = true ∧ t.fld (ldeR e + 0x18) 11 8 = r ∧
      ∀ j, j < 8 → j ≠ i → t.bit (ldeR e + 0x18) j = s.bit (ldeR e + 0x18) j := by
  refine ⟨?_, ?_, fun j hj hne => ?_⟩
  · exact (State.bit_wfld_ne _ _ _ (by decide) (by decide) (by omega)).trans (s.bit_wbit_self _ i true (by omega))
  · exact (State.fld_wfld_self _ _ _ _ _ (by decide) (by decide)).trans (Nat.mod_eq_of_lt hr)
  · exact (State.bit_wfld_ne _ _ _ (by decide) (by decide) (by omega)).trans (s.bit_wbit_ne _ true (by omega) hne)

/-! ### A start -/

/-- A copy that starts has no count and no reason yet (R217). -/
def State.ldeCleared (s : State) (e : Nat) : State := (s.wr (ldeR e + 0x1C) 0).wfld (ldeR e + 0x18) 11 8 0

theorem State.ldeCleared_frame (e : Nat) : Frame [] (ldeStKey e) s (s.ldeCleared e) :=
  ((s.wr_frame _ _).mono).then (State.wfld_frame _ _ 11 8 0)

/-- A copy begun in this cycle, as its engine's registers describe it (R217). -/
def State.ldeTaken (s : State) (e : Nat) : LdeSt :=
  let x : LdeSt := { busy := true, stopAt := (s.lde e).stopAt, ctrl := s.rd (ldeR e + 0x14),
                     src := s.rd64 (ldeR e) (ldeR e + 4), dst := s.rd64 (ldeR e + 8) (ldeR e + 12),
                     len := (s.rd (ldeR e + 16)).toNat }
  let x := { x with nvmQ := if x.nvm then s.nvmOps else [] }
  { x with next := s.time.mono + x.blockTu }

theorem exec_ldeStart {e : Fin 4} (hb : (s.lde e).busy = false) (hstop : (s.lde e).stopAt ≠ some s.time.mono) :
    exec (.ldeStart e) s =
      let u := s.ldeCleared e
      let w := (u.setLde e (u.ldeTaken e)).wbit (ldeR e + 0x18) 0 true
      if s.ldeCheck e ≠ 0 then .next ((u.ldeNote e 2 (s.ldeCheck e)).pendOwner .lde e 15)
      else if w.ldeNoBus e then .next (w.after 0 (.ldeDone e (.err 5 0))) else .next w := by
  rw [← (s.ldeCleared_frame e).ldeCheck e.isLt (by decide)]
  exact if_neg (by simp [hb, hstop])

/-- A copy that breaks a rule ends at once (R217). -/
theorem ldeStart_refused {e : Fin 4} (hb : (s.lde e).busy = false) (hstop : (s.lde e).stopAt ≠ some s.time.mono)
    (hc : s.ldeCheck e ≠ 0) : Does (.ldeStart e) s fun t => t.bit (ldeR e + 0x18) 2 = true ∧
      t.fld (ldeR e + 0x18) 11 8 = s.ldeCheck e ∧ (t.lde e).busy = false ∧ SameStores s t := by
  have hf := s.ldeCleared_frame e
  obtain ⟨hbit, hfld, -⟩ := (s.ldeCleared e).ldeNote_reads e (i := 2) (by decide) (s.ldeCheck_lt e)
  have hn := (s.ldeCleared e).ldeNote_frame e 2 (s.ldeCheck e)
  have hp := State.pendOwner_frame ((s.ldeCleared e).ldeNote e 2 (s.ldeCheck e)) .lde e 15
  have hall : Frame [.cyc, .out] (fun k => ldeStKey e k ∨ pendKey k) s
      (((s.ldeCleared e).ldeNote e 2 (s.ldeCheck e)).pendOwner .lde e 15) := ((hf.mono).then hn).then hp
  have hst : ¬ pendKey (ldeR e + 0x18) := by simp only [pendKey, ldeR]; omega
  refine ⟨_, (exec_ldeStart s hb hstop).trans (if_pos hc), (hp.bit _ _ hst).trans hbit, (hp.fld _ _ _ hst).trans hfld, ?_,
    hall.sameStores⟩
  rw [hall.lde, hb]

/-- A copy that passes runs, as its registers describe it (R217). -/
theorem ldeStart_runs {e : Fin 4} (hb : (s.lde e).busy = false) (hstop : (s.lde e).stopAt ≠ some s.time.mono)
    (hc : s.ldeCheck e = 0) : Does (.ldeStart e) s fun t =>
      t.bit (ldeR e + 0x18) 0 = true ∧ t.rd (ldeR e + 0x1C) = 0 ∧ (t.lde e).busy = true ∧
      (t.lde e).src = s.rd64 (ldeR e) (ldeR e + 4) ∧
      (t.lde e).dst = s.rd64 (ldeR e + 8) (ldeR e + 12) ∧ (t.lde e).len = (s.rd (ldeR e + 16)).toNat ∧
      SameRegs [devKey (ldeR e + 0x18), devKey (ldeR e + 0x1C)] s t ∧ SameStores s t := by
  have hf := s.ldeCleared_frame e
  have hdone : (s.ldeCleared e).rd (ldeR e + 0x1C) = 0 :=
    ((State.wfld_frame _ (ldeR e + 0x18) 11 8 0).rd _ (by omega)).trans (s.rd_wr_self _ 0)
  have hregs (o : Nat) (ho : o < 0x18) : (s.ldeCleared e).rd (ldeR e + o) = s.rd (ldeR e + o) := hf.rd _ (by omega)
  have hrun : ∃ t : State, exec (.ldeStart e) s = .next t ∧ Frame [.cyc, .mem, .agenda] (· = ldeR e + 0x18) (s.ldeCleared e) t ∧
      t.bit (ldeR e + 0x18) 0 = true ∧ t.lde e = (s.ldeCleared e).ldeTaken e := by
    rw [exec_ldeStart s hb hstop]
    generalize s.ldeCleared e = u
    have hw := ((u.setLde_frame e (u.ldeTaken e)).mono (P := [.cyc, .mem, .agenda]) (K := (· = ldeR e + 0x18))).then
      (State.wbit_frame _ (ldeR e + 0x18) 0 true)
    have hbit := (u.setLde e (u.ldeTaken e)).bit_wbit_self (ldeR e + 0x18) 0 true (by decide)
    have hlde := ((u.setLde e (u.ldeTaken e)).wbit_frame (ldeR e + 0x18) 0 true).lde e |>.trans (u.lde_setLde_self _ _)
    dsimp only
    rw [if_neg (by simp [hc])]
    split
    · have ha := State.after_frame ((u.setLde e (u.ldeTaken e)).wbit (ldeR e + 0x18) 0 true) 0 (.ldeDone e (.err 5 0))
      exact ⟨_, rfl, hw.then ha, (ha.bit _ 0).trans hbit, (ha.lde e).trans hlde⟩
    · exact ⟨_, rfl, hw, hbit, hlde⟩
  obtain ⟨t, he, ht, hbit, hlde⟩ := hrun
  have hall : Frame [.cyc, .mem, .agenda] (ldeStKey e) s t := (hf.mono).then ht
  refine ⟨t, he, hbit, (ht.rd _ (by omega)).trans hdone, ?_, ?_, ?_, ?_,
    hall.sameRegs _ (fun k hk => by simpa using hk), hall.sameStores⟩
  all_goals rw [hlde]
  · rfl
  · exact congrArg₂ cat64 (hregs 4 (by decide)) (hregs 0 (by decide))
  · exact congrArg₂ cat64 (hregs 12 (by decide)) (hregs 8 (by decide))
  · exact congrArg BitVec.toNat (hregs 16 (by decide))

/-! ### How a copy ends -/

theorem State.ldeValidate_eccKey (e n : Nat) : Frame [.mem, .cyc] eccKey s (s.ldeValidate e n) := by
  unfold State.ldeValidate
  exact .ite (fun _ => Frame.each (fun p _ u => .ite (fun _ => u.validate_eccKey _ p) fun _ => .refl) s) fun _ => .refl

/-- An engine that waits for the NVM no more runs as before. -/
theorem State.nvmNext_busy (op e : Nat) : ((s.nvmNext op).lde e).busy = (s.lde e).busy := by
  refine s.each_keeps (fun u => (u.lde e).busy) _ (fun u j => ?_) _
  dsimp only
  rw [u.lde_setLde]
  split
  · next h => rw [h]
  · rfl

/-- The engine has ended in `t` after `n` bytes, with bit `i` and reason `r` in its status (R217). -/
structure State.LdeEnded (t : State) (e n i r : Nat) : Prop where
  idle : (t.lde e).busy = false
  bit : t.bit (ldeR e + 0x18) i = true
  notBusy : t.bit (ldeR e + 0x18) 0 = false
  reason : t.fld (ldeR e + 0x18) 11 8 = r
  bytes : t.rd (ldeR e + 0x1C) = BitVec.ofNat 32 n

/-- The end of a copy leaves the stores as the copy left them. -/
theorem State.ldeEnd_ends (e n : Nat) {i r : Nat} (hi : 0 < i ∧ i < 8) (hr : r < 16) :
    (s.ldeEnd e n i r).LdeEnded e n i r ∧ SameStores s (s.ldeEnd e n i r) := by
  unfold State.ldeEnd
  extract_lets u w x
  have hu : SameStores s u := (((s.ldeValidate_eccKey e n).sameStores).trans (State.setLde_frame _ e _).sameStores).trans
    (State.nvmNext_frame _ e).sameStores
  have hidle : (u.lde e).busy = false := (State.nvmNext_busy _ e e).trans (congrArg LdeSt.busy (State.lde_setLde_self _ e _))
  clear_value u
  obtain ⟨hbit, hfld, hothers⟩ := (u.wbit (ldeR e + 0x18) 0 false).ldeNote_reads e (i := i) hi.2 hr
  have hw : Frame [.cyc] (· = ldeR e + 0x18) u w := (u.wbit_frame _ 0 false).trans (State.ldeNote_frame _ e i r)
  have hnot : w.bit (ldeR e + 0x18) 0 = false := (hothers 0 (by decide) (by omega)).trans (u.bit_wbit_self _ 0 false (by decide))
  change w.bit _ _ = true at hbit
  change w.fld _ _ _ = r at hfld
  clear_value w
  have hp := (w.wr (ldeR e + 0x1C) (BitVec.ofNat 32 n)).pendOwner_frame .lde e 15
  have hx : Frame [.cyc, .out] (fun k => k = ldeR e + 0x1C ∨ pendKey k) w x := ((w.wr_frame _ _).mono).then hp
  have hbytes : x.rd (ldeR e + 0x1C) = BitVec.ofNat 32 n :=
    (hp.rd _ (by simp only [pendKey, ldeR]; omega)).trans (w.rd_wr_self _ _)
  clear_value x
  have hst : ¬ (ldeR e + 0x18 = ldeR e + 0x1C ∨ pendKey (ldeR e + 0x18)) := by simp only [pendKey, ldeR]; omega
  have hended : x.LdeEnded e n i r :=
    ⟨by rw [hx.lde e, hw.lde e, hidle], (hx.bit _ i hst).trans hbit, (hx.bit _ 0 hst).trans hnot,
      (hx.fld _ 11 8 hst).trans hfld, hbytes⟩
  have hstores : SameStores s x := (hu.trans hw.sameStores).trans hx.sameStores
  split
  · obtain ⟨h1, h2, h3, h4, h5⟩ := hended
    exact ⟨⟨h1, h2, h3, h4, h5⟩, hstores⟩
  · exact ⟨hended, hstores⟩

/-! ### A stop -/

/-- STOP at an engine, at the present (R217). -/
def State.ldeStopped (s : State) (e : Nat) : State := s.setLde e { s.lde e with stopAt := some s.time.mono }

theorem exec_ldeStop {e : Fin 4} (hb : (s.lde e).busy = true) : exec (.ldeStop e) s =
    if (s.lde e).local_ = true then
      if (s.lde e).next = s.time.mono + (s.lde e).blockTu ∧ (s.lde e).done = 0 then .next ((s.ldeStopped e).ldeEnd e 0 3 0)
      else .next ((s.ldeStopped e).setLde e { s.lde e with stop := true, stopAt := some s.time.mono })
    else .next ((s.ldeStopped e).stopLde e) := by
  show execLdeStop e s = _
  unfold execLdeStop
  extract_lets src u x
  have hx : x = { s.lde e with stopAt := some s.time.mono } := s.lde_setLde_self e _
  clear_value x
  subst hx
  exact if_neg (by simp [hb])

/-- A copy of the model's own that was started in this cycle copies nothing (R217, log entry 21). -/
theorem ldeStop_atStart {e : Fin 4} (hb : (s.lde e).busy = true) (hl : (s.lde e).local_ = true)
    (hs : (s.lde e).next = s.time.mono + (s.lde e).blockTu ∧ (s.lde e).done = 0) :
    Does (.ldeStop e) s fun t => ((t.lde e).busy = false ∧ t.bit (ldeR e + 0x18) 3 = true ∧ t.bit (ldeR e + 0x18) 0 = false) ∧
      t.rd (ldeR e + 0x1C) = 0 ∧ SameStores s t := by
  obtain ⟨⟨hidle, hbit, hnot, -, hbytes⟩, hstores⟩ := (s.ldeStopped e).ldeEnd_ends e 0 (i := 3) (r := 0) (by decide) (by decide)
  refine ⟨_, ?_, ⟨hidle, hbit, hnot⟩, hbytes, (s.setLde_frame e _).sameStores.trans hstores⟩
  rw [exec_ldeStop s hb, if_pos hl, if_pos hs]

/-- One with a block in flight goes on to that block's end (R217). -/
theorem ldeStop_inFlight {e : Fin 4} (hb : (s.lde e).busy = true) (hl : (s.lde e).local_ = true)
    (hs : ¬ ((s.lde e).next = s.time.mono + (s.lde e).blockTu ∧ (s.lde e).done = 0)) :
    Does (.ldeStop e) s fun t => t.lde e = { s.lde e with stop := true, stopAt := some s.time.mono } ∧ SameRegs [] s t ∧
      SameStores s t := by
  refine ⟨(s.ldeStopped e).setLde e { s.lde e with stop := true, stopAt := some s.time.mono }, ?_, State.lde_setLde_self _ _ _,
    fun _ _ => rfl, fun _ => rfl, fun _ => rfl, fun _ => rfl⟩
  rw [exec_ldeStop s hb, if_pos hl, if_neg hs]

/-- A copy with the host, or a program, ends after blocks whose number is a free value (R217, log entry 21). -/
theorem ldeStop_outside {e : Fin 4} (hb : (s.lde e).busy = true) (hl : (s.lde e).local_ = false) (hn : 32 ≤ (s.lde e).len) :
    Does (.ldeStop e) s fun t => ((t.lde e).busy = false ∧ t.bit (ldeR e + 0x18) 3 = true ∧ t.bit (ldeR e + 0x18) 0 = false) ∧
      ∃ n, 1 ≤ n ∧ n ≤ (s.lde e).len / 32 ∧ t.rd (ldeR e + 0x1C) = BitVec.ofNat 32 (32 * n) := by
  let m := (Config.openWord 4 s.free).toNat % ((s.lde e).len / 32) + 1
  have hm : m ≤ (s.lde e).len / 32 := Nat.mod_lt _ (by omega)
  obtain ⟨⟨hidle, hbit, hnot, -, hbytes⟩, -⟩ :=
    ((s.ldeStopped e).fresh.ldeCopy e 0 (32 * m) []).ldeEnd_ends e (32 * m) (i := 3) (r := 0) (by decide) (by decide)
  refine ⟨_, ?_, ⟨hidle, hbit, hnot⟩, m, by omega, hm, hbytes⟩
  have hx : (s.ldeStopped e).lde e = { s.lde e with stopAt := some s.time.mono } := s.lde_setLde_self e _
  rw [exec_ldeStop s hb, if_neg (by simp [hl]), State.stopLde, hx]
  have hl' : ({ s.lde e with stopAt := some s.time.mono } : LdeSt).local_ = false := hl
  dsimp only
  rw [if_neg (by simp [hb]), if_neg (by rw [hl']; decide)]
  rfl

/-! ### The end by LDE_DONE -/

/-- With the engine at work, LDE_DONE ends the copy: all of it, or with an error and its reason (R217). -/
theorem exec_ldeDone {e : Fin 4} (how : LdeEnd) (hb : (s.lde e).busy = true) (hs : (s.lde e).suspended = false)
    (hq : (s.lde e).nvmQ = []) :
    (∀ host, how = .ok host → s.ldeNoBus e = false → exec (.ldeDone e how) s =
      .next ((s.ldeCopy e (s.lde e).done ((s.lde e).len - (s.lde e).done) host).ldeEnd e (s.lde e).len 1 0)) ∧
    (∀ r n, how = .err r n → ∃ u m, exec (.ldeDone e how) s = .next (State.ldeEnd u e m 2 r)) := by
  have hrun : exec (.ldeDone e how) s = _ :=
    (if_neg (by simp [hb])).trans ((if_neg (by simp [hs])).trans (if_neg (by simp [hq])))
  refine ⟨fun host h hn => ?_, fun r n h => ?_⟩
  · subst h
    rw [hrun, hn]
  · subst h
    exact ⟨_, _, hrun⟩

theorem ldeDone_ends {e : Fin 4} (host : List Byte) (hb : (s.lde e).busy = true) (hs : (s.lde e).suspended = false)
    (hq : (s.lde e).nvmQ = []) :
    (s.ldeNoBus e = false → Does (.ldeDone e (.ok host)) s fun t => (t.lde e).busy = false ∧ t.bit (ldeR e + 0x18) 1 = true ∧
      t.rd (ldeR e + 0x1C) = BitVec.ofNat 32 (s.lde e).len ∧
      SameStores (s.ldeCopy e (s.lde e).done ((s.lde e).len - (s.lde e).done) host) t) ∧
    (∀ (r : Fin 16) (n : Nat), Does (.ldeDone e (.err r n)) s fun t => (t.lde e).busy = false ∧ t.bit (ldeR e + 0x18) 2 = true ∧
      t.fld (ldeR e + 0x18) 11 8 = r) := by
  refine ⟨fun hn => ?_, fun r n => ?_⟩
  · obtain ⟨⟨hidle, hbit, -, -, hbytes⟩, hstores⟩ := State.ldeEnd_ends
      (s.ldeCopy e (s.lde e).done ((s.lde e).len - (s.lde e).done) host) e (s.lde e).len (i := 1) (r := 0) (by decide) (by decide)
    exact ⟨_, (exec_ldeDone s _ hb hs hq).1 host rfl hn, hidle, hbit, hbytes, hstores⟩
  · obtain ⟨u, m, he⟩ := (exec_ldeDone s _ hb hs hq).2 r n rfl
    obtain ⟨⟨hidle, hbit, -, hreason, -⟩, -⟩ := u.ldeEnd_ends e m (i := 2) (by decide) r.isLt
    exact ⟨_, he, hidle, hbit, hreason⟩

end Sys2Proof.Machine
end

section
/-! PROOF. The directory (R206) and the scans of a programme (R210 to R212): validations, a scan's beginning, and a precheck. -/

namespace Sys2Proof.Machine

-- Proofs one after another: many that wait in threads of their own would pass the check's memory limit.
set_option Elab.async false

variable {P : List Aspect} {K : Nat → Prop} (s : State)

/-! ### Directory validation -/

/-- The record of a validation's result has BUSY clear (DIR_VAL_STAT). -/
theorem tb_dirResult (r i : Nat) : tb (setFld (setFld (0 : Word) 31 28 r) 27 12 i) 0 = false := by
  rw [tb_setFld_ne _ _ (by decide) (by decide) (by omega), tb_setFld_ne _ _ (by decide) (by decide) (by omega)]
  rfl

/-- A validation of 1 to 65,536 entries runs at 2 cycles an entry (R206). -/
theorem dirValGo_runs {v : Fin 32} {n : BitVec 17} (h1 : 1 ≤ n.toNat) (h2 : n.toNat ≤ 65536) (hb : s.bitv v 0x1888 0 = false) :
    Does (.dirValGo v n) s fun t => t.bitv v 0x1888 0 = true ∧
      (s.time.mono + 64 * n.toNat, Instr.dirValDone v) ∈ t.agenda ∧ SameRegs [viKey v 0x1888] s t ∧ SameStores s t := by
  let m : MemSt := { s.mem with
    dirVal := Tab.set (fun _ => none) s.mem.dirVal v (some (s.fldv v 0x1880 15 0, n.toNat)) }
  let u : State := { s with mem := m }
  have hu : Frame [.mem] noKey s u := s.memRest_frame
  have hw := u.wbitv_frame v 0x1888 0 true
  have ha := (u.wbitv v 0x1888 0 true).after_frame (64 * n.toNat) (.dirValDone v)
  have hall : Frame [.mem, .cyc, .agenda] (· = viKey v 0x1888) s ((u.wbitv v 0x1888 0 true).after (64 * n.toNat) (.dirValDone v)) :=
    ((hu.mono).then hw).then ha
  have htime : (u.wbitv v 0x1888 0 true).time.mono = s.time.mono := hw.mono_eq
  refine ⟨_, if_neg ?_, (ha.bitv v 0x1888 0).trans (u.bitv_wbitv_self v 0x1888 0 true (by decide)), ?_,
    hall.sameRegs _ (fun k hk => by simpa using hk), hall.sameStores⟩
  · rw [hb]
    simp only [Bool.false_eq_true, or_false]
    omega
  · rw [← htime]
    exact State.mem_after _ _ _

/-- Its end leaves no entry of it UNCHECKED (R206). -/
theorem dirValDone_validates {v : Fin 32} {f n : Nat} (h : Tab.get (fun _ => none) s.mem.dirVal v = some (f, n)) :
    Does (.dirValDone v) s fun t => t.bitv v 0x1888 0 = false ∧
      (∀ i < n, ∀ p, s.dirEntry v (f + i) = some p → t.dirState p ≠ 0) ∧ SameStores s t := by
  let es := (List.range n).filterMap fun i => (s.dirEntry v (f + i)).map fun p => (f + i, p)
  have hone : exec (.dirValDone v) s = execDirValDone v s := rfl
  unfold execDirValDone at hone
  rw [h] at hone
  refine ⟨_, hone, ?_, fun i hi p hp => ?_, ?_⟩
  · rw [State.bitv, State.rdv_wrv_self]
    split
    · exact tb_dirResult _ _
    · rfl
  · exact s.each_validate_dirState v (fun e : Nat × Nat => e.2) (l := es)
      (.inl ⟨(f + i, p), List.mem_filterMap.mpr ⟨i, List.mem_range.mpr hi, by rw [hp]; rfl⟩, rfl⟩)
  · have hv : Frame [.mem, .cyc] eccKey s (s.each es fun s e => s.validate v e.2) := Frame.each (fun e _ u => u.validate_eccKey v e.2) s
    exact (hv.sameStores.trans (State.memRest_frame _).sameStores).trans (State.wrv_frame _ v 0x1888 _).sameStores

/-! ### Scans -/

/-- Where no register changes, nothing a scan's length rests on does, as long as the stores stand. -/
theorem Frame.scanTu {s t : State} (h : Frame P noKey s t) (hs : Aspect.stores ∉ P) (k : Nat) : t.scanTu k = s.scanTu k := by
  have hrd (o : Nat) : t.rd o = s.rd o := h.rd o (Nat.not_lt_zero _)
  have howner (c : Kind) (i : Nat) : t.owner c i = s.owner c i := by
    unfold State.owner State.inForce State.bit
    rw [hrd, hrd]
  have hvat (v a : Nat) : t.vatAddr v a = s.vatAddr v a := h.vatAddr_of ⟨fun _ _ _ => Nat.not_lt_zero _, Nat.not_lt_zero _⟩ v a
  have hvatB (a : Nat) : t.vatB a = s.vatB a := (h.sameStores hs).1 a
  have hstep (v i : Nat) : t.stepWord v i = s.stepWord v i := by
    unfold State.stepWord State.stepAddr State.owns State.bytes
    simp only [hvat, howner, if_true, hvatB]
  have hreach (v a b n : Nat) (todo seen : List Nat) : t.reach v a b n todo seen = s.reach v a b n todo seen := by
    induction n generalizing todo seen with
    | zero => simp only [State.reach]
    | succ n ih => cases todo <;> simp only [State.reach, ih, hstep]
  simp only [State.scanTu, State.reachOf, State.fld, hrd, State.ownerVi, howner, hreach]

theorem Frame.scanOf {s t : State} (h : Frame P K s t) (k : Nat) (hm : Aspect.mem ∉ P := by decide) : t.scanOf k = s.scanOf k := by
  simp only [State.scanOf, show t.mem = s.mem from h.keeps .mem hm]

/-- A scan begins: BUSY shows, and its end comes after the time it takes (R210). -/
theorem State.startScan_spec (k : Fin 16) (p : ScanFor) : let t := s.startScan k p
    Frame [.mem, .cyc, .agenda] (· = viKey (s.ownerVi .seq k) 0x182C) s t ∧ t.scanOf k = p ∧
      t.bitv (s.ownerVi .seq k) 0x182C 0 = true ∧ (s.time.mono + s.scanTu k, Instr.admitScanDone k) ∈ t.agenda := by
  unfold State.startScan
  extract_lets v m u
  have hu : Frame [.mem] noKey s u := s.memRest_frame
  clear_value u
  let w := (u.setScan k p).wbitv v 0x182C 0 true
  have hset : Frame [.mem] noKey u (u.setScan k p) := u.memRest_frame
  have hw : Frame [.cyc] (· = viKey v 0x182C) (u.setScan k p) w := State.wbitv_frame _ v 0x182C 0 true
  have h : Frame [.mem, .cyc] (· = viKey v 0x182C) s w := ((hu.mono).then hset).then hw
  have ha := w.after_frame (u.scanTu k) (.admitScanDone (Fin.ofNat 16 k))
  have hbit : w.bitv v 0x182C 0 = true := State.bitv_wbitv_self _ v 0x182C 0 true (by decide)
  refine ⟨(h.mono).then ha, ?_, (ha.bitv v 0x182C 0).trans hbit, ?_⟩
  · exact (ha.scanOf k).trans ((hw.scanOf k).trans (u.scanOf_setScan_self k p))
  · have he : (w.time.mono + u.scanTu k, Instr.admitScanDone (Fin.ofNat 16 k)) = (s.time.mono + s.scanTu k, .admitScanDone k) := by
      rw [hu.scanTu (by decide), h.mono_eq, Fin.ofNat_val_eq_self]
    rw [← he]
    exact w.mem_after _ _

/-- A precheck scans (R211). -/
theorem precheck_scans {k : Fin 16} (hi : s.scanOf k = .idle) : Does (.precheck k) s fun t => t.scanOf k = .precheck ∧
    t.bitv (s.ownerVi .seq k) 0x182C 0 = true ∧ (s.time.mono + s.scanTu k, Instr.admitScanDone k) ∈ t.agenda ∧
    SameRegs [viKey (s.ownerVi .seq k) 0x182C] s t ∧ SameStores s t := by
  obtain ⟨hf, hscan, hbit, hmem⟩ := s.startScan_spec k .precheck
  exact ⟨_, if_pos hi, hscan, hbit, hmem, hf.sameRegs _ (fun j hj => by simpa using hj), hf.sameStores⟩

/-! ### The end of a precheck -/

theorem State.scan_frame (k : Nat) : Frame [.mem, .cyc] eccKey s (s.scan k).1 :=
  Frame.each (fun p _ u => u.validateNew_eccKey _ p) s

/-- What a scan that has ended gives back: the requests that waited for it proceed (R508). -/
theorem State.releaseAper_mem : s.releaseAper.mem = { s.mem with heldAper := [] } := by
  unfold State.releaseAper
  extract_lets l src u
  have hacc (w : State) (p : HostAcc → Bool) : (w.releaseAcc p).mem = w.mem := (w.releaseAcc_frame p).keeps .mem (by decide)
  have heach : (u.each l fun s a => s.after 0 (aperCmd a)).mem = u.mem :=
    u.each_keeps (·.mem) (fun s a => s.after 0 (aperCmd a)) (fun _ _ => rfl) l
  split
  · rfl
  · exact (hacc _ _).trans heach

theorem State.releaseAper_stands : Frame [.agenda, .mode, .heldAcc, .mem] noKey s s.releaseAper ∧ SameStores s s.releaseAper := by
  have hm := s.releaseAper_mem
  refine ⟨s.releaseAper_frame, fun a => ?_, fun a => ?_, fun a => ?_⟩
  · simp only [State.vatB, hm]; rfl
  · simp only [State.memB, hm]; rfl
  · simp only [State.nvmB, hm]; rfl

theorem State.releaseAper_scanOf (k : Nat) : s.releaseAper.scanOf k = s.scanOf k := by
  simp only [State.scanOf, s.releaseAper_mem]

/-- A cached demand stands in the sequencer's own register (R211). -/
theorem State.cacheScan_caches {k : Nat} (hk : k < 16) (need : Nat) (short : Bool) :
    Frame [.cyc] (fun j => j = 0x1840 + 4 * k ∨ 0x4000 ≤ j) s (s.cacheScan k need short) ∧
      (s.cacheScan k need short).bit (0x1840 + 4 * k) 16 = true ∧
      (s.cacheScan k need short).fld (0x1840 + 4 * k) 15 0 = need % 65536 := by
  unfold State.cacheScan
  extract_lets v a w x
  have hw : Frame [.cyc] (· = a) s w :=
    (((s.wfld_frame a 15 0 need).mono).then (State.wbit_frame _ a 16 true)).then (State.wbit_frame _ a 18 short)
  have hbit : w.bit a 16 = true :=
    (State.bit_wbit_ne _ a short (by decide) (by decide)).trans (State.bit_wbit_self _ a 16 true (by decide))
  have hfld : w.fld a 15 0 = need % 65536 :=
    (State.fld_wbit_ne _ a short (by decide) (by decide)).trans
      ((State.fld_wbit_ne _ a true (by decide) (by decide)).trans (s.fld_wfld_self a 15 0 need (by decide) (by decide)))
  have ha : a = 0x1840 + 4 * k := rfl
  clear_value w a
  subst ha
  have hx : Frame [.cyc] (0x4000 ≤ ·) w x := ((w.wfldv_frame v 0x182C 31 16 need).mono).then (State.wfldv_frame _ v 0x182C 15 12 _)
  have hrest : Frame [.cyc] (0x4000 ≤ ·) w (if short then x.wbitv v 0x182C 3 true else x) :=
    .ite (fun _ => hx.then (State.wbitv_frame _ v 0x182C 3 true)) fun _ => hx
  exact ⟨(hw.mono).then hrest, (hrest.bit _ 16 (by omega)).trans hbit, (hrest.fld _ 15 0 (by omega)).trans hfld⟩

/-- A scan is over: BUSY shows whether another of the VI runs (R210). -/
def State.scanOver (s : State) (k : Nat) : State :=
  let u := (s.scan k).1.setScan k .idle
  u.wbitv (s.ownerVi .seq k) 0x182C 0 ((List.range 16).any fun j => u.ownerVi .seq j == s.ownerVi .seq k && u.scanOf j != .idle)

theorem State.scanOver_spec (k : Nat) : Frame [.mem, .cyc] (fun j => eccKey j ∨ 0x4000 ≤ j) s (s.scanOver k) ∧
    (s.scanOver k).scanOf k = .idle := by
  unfold State.scanOver
  extract_lets u
  have hu : Frame [.mem, .cyc] eccKey s u := (s.scan_frame k).then (State.memRest_frame _)
  have hi : u.scanOf k = .idle := State.scanOf_setScan_self _ k .idle
  clear_value u
  have hw := u.wbitv_frame (s.ownerVi .seq k) 0x182C 0
    ((List.range 16).any fun j => u.ownerVi .seq j == s.ownerVi .seq k && u.scanOf j != .idle)
  exact ⟨(hu.mono).then hw, (hw.scanOf k).trans hi⟩

theorem exec_admitScanDone_precheck {k : Fin 16} (hp : s.scanOf k = .precheck) : exec (.admitScanDone k) s =
    if (s.scan k).2.1 = true then .next ((s.scanOver k).cacheScan k (s.scan k).2.2.1 (s.scan k).2.2.2).releaseAper
    else .next ((s.scanOver k).releaseAper.wbitv (s.ownerVi .seq k) 0x182C 2 true) := by
  have hrun : exec (.admitScanDone k) s = _ := (if_neg (by simp [hp])).trans (if_neg (by simp [hp]))
  rw [hrun, hp, State.scanOver]
  obtain ⟨u, good, need, short⟩ := s.scan k
  cases good <;> rfl

/-- The end of a precheck reports a good programme's demand, or DESC (R211, R212). -/
theorem admitScanDone_reports {k : Fin 16} (hp : s.scanOf k = .precheck) : Does (.admitScanDone k) s fun t =>
    t.scanOf k = .idle ∧ SameStores s t ∧
      ((s.scan k).2.1 = true → t.bit (0x1840 + 4 * k) 16 = true ∧ t.fld (0x1840 + 4 * k) 15 0 = (s.scan k).2.2.1 % 65536) ∧
      ((s.scan k).2.1 = false → t.bitv (s.ownerVi .seq k) 0x182C 2 = true) := by
  obtain ⟨hover, hidle⟩ := s.scanOver_spec k
  have hend := exec_admitScanDone_precheck s hp
  cases hg : (s.scan k).2.1
  · rw [hg] at hend
    obtain ⟨-, hrel⟩ := (s.scanOver k).releaseAper_stands
    have hw := (s.scanOver k).releaseAper.wbitv_frame (s.ownerVi .seq k) 0x182C 2 true
    refine ⟨_, hend, ?_, (hover.sameStores.trans hrel).trans hw.sameStores, fun h => absurd h (by decide),
      fun _ => State.bitv_wbitv_self _ _ _ 2 true (by decide)⟩
    rw [hw.scanOf, State.releaseAper_scanOf, hidle]
  · rw [hg] at hend
    obtain ⟨hcache, hbit, hfld⟩ := (s.scanOver k).cacheScan_caches k.isLt (s.scan k).2.2.1 (s.scan k).2.2.2
    obtain ⟨hf, hrel⟩ := ((s.scanOver k).cacheScan k (s.scan k).2.2.1 (s.scan k).2.2.2).releaseAper_stands
    refine ⟨_, hend, ?_, (hover.sameStores.trans hcache.sameStores).trans hrel,
      fun _ => ⟨(hf.bit _ 16).trans hbit, (hf.fld _ 15 0).trans hfld⟩, fun h => absurd h (by decide)⟩
    rw [State.releaseAper_scanOf, hcache.scanOf, hidle]

end Sys2Proof.Machine
end

section
/-! PROOF. O28: BAR2 (R440, R442), the scrub of the Vat (R195), and with them what reaches the stores. -/

namespace Sys2Proof.Machine

-- Proofs one after another: many that wait in threads of their own would pass the check's memory limit.
set_option Elab.async false

variable {P : List Aspect} {K : Nat → Prop} (s : State)

/-! ### BAR2 -/

/-- In P5, awake with FCLK running, a BAR2 request of a function that carries requests and holds none is served at once (R442). -/
theorem State.aperReq_served {a : Aper} {wait : Bool} (go : State → State) (hs : s.starting = false) (ha : s.awake = true)
    (hf : s.time.fclk = true) (hb : s.pcieBad a.vi 1 = false) (hh : ∀ b ∈ s.mem.heldAper, b.vi ≠ a.vi) (hw : wait = false) :
    s.aperReq a wait go = .next ((go s).pcieStatus 0) := by
  have hshelf : s.mode.eff ≠ .shelf := fun h => by simp [State.awake, h] at ha
  have hlisten : s.mode.eff ≠ .listen := fun h => by simp [State.awake, h] at ha
  have hheld : s.mem.heldAper.any (fun b => b.vi == a.vi) = false := by simpa using hh
  unfold State.aperReq
  rw [if_neg (by simp [hs, hshelf]), if_neg (by simp [hb]), if_neg hlisten, if_neg (by simp [hw, hf, hheld])]

/-- Where no new error arises, no word takes one. -/
theorem State.spoils_none (vat : Bool) : s.spoils vat {} = s := rfl

theorem State.pcieStatus_frame (n : Nat) : Frame [.host] noKey s (s.pcieStatus n) := s.withHost_frame _

theorem State.withData_frame (r : Option (Word × Bool)) (b : List Byte) :
    Frame [.rdata, .burst] noKey s { s with rdata := r, burst := b } := .part rfl

/-- A read counts what it reads under the code and answers with the bytes (R193, R440). -/
theorem State.aperRead_eq (v : Fin 32) (ofs len : Nat) : s.aperRead v ofs len {} =
    let u := s.readVi v (s.aper v ofs).1 (s.aper v ofs).2 len
    let b := u.loadVi v (s.aper v ofs).1 (s.aper v ofs).2 len
    { u with rdata := some (BitVec.ofNat 32 (leNat (b.take 4)), (s.firstBad v (s.aper v ofs).1 (s.aper v ofs).2 len).isSome),
             burst := b } := by
  unfold State.aperRead
  obtain ⟨mem, a⟩ := s.aper v ofs
  rfl

/-- A read returns the bytes of the VI's space, poisoned where a word of them is uncorrectable (R193, R440). -/
theorem apertureRead_reads {v : Fin 32} (hs : s.starting = false) (ha : s.awake = true) (hf : s.time.fclk = true)
    (hb : s.pcieBad v 1 = false) (hh : ∀ a ∈ s.mem.heldAper, a.vi ≠ v) (ofs len : Nat) :
    Does (.apertureRead v ofs len {}) s fun t =>
      t.burst = s.loadVi v (s.aper v ofs).1 (s.aper v ofs).2 len ∧
      t.rdata = some (BitVec.ofNat 32 (leNat (t.burst.take 4)), (s.firstBad v (s.aper v ofs).1 (s.aper v ofs).2 len).isSome) ∧
      t.host.status = 0 ∧ SameRegs ([0x1808, 0x180C, 0x1810].map devKey) s t ∧ SameStores s t := by
  have hr := s.readVi_eccKey v (s.aper v ofs).1 (s.aper v ofs).2 len
  have hload := hr.loadVi_of eccKey_numbers (by decide) (by decide) v (s.aper v ofs).1 (s.aper v ofs).2 len
  have he : exec (.apertureRead v ofs len {}) s = .next ((s.aperRead v ofs len {}).pcieStatus 0) :=
    s.aperReq_served (fun s => s.aperRead v ofs len {}) hs ha hf hb hh rfl
  have hall : Frame [.cyc, .rdata, .burst, .host] eccKey s ((s.aperRead v ofs len {}).pcieStatus 0) := by
    rw [s.aperRead_eq]
    exact ((hr.mono).then (State.withData_frame _ _ _)).then (State.pcieStatus_frame _ 0)
  refine ⟨_, he, ?_, ?_, rfl, hall.sameRegs _ fun k hk => by simpa [devKey] using hk, hall.sameStores⟩
  · rw [s.aperRead_eq]
    exact hload
  · rw [s.aperRead_eq]
    rfl

/-- The byte at VI address `a` has a place that BAR2 may write: in the VI's space, and in the Vat outside the log's area (R197, R442). -/
def State.placeOk (s : State) (v : Nat) (mem : Bool) (a : Nat) : Bool :=
  s.inView v mem a && (mem || match s.vatAddr v a with
    | some p => !(0x600000 ≤ p && p < 0x610000)
    | none => false)

theorem State.placeOk_iff (v : Nat) (mem : Bool) (a : Nat) : s.placeOk v mem a = true ↔
    s.inView v mem a = true ∧ (mem = true ∨ ∀ p, s.vatAddr v a = some p → p < 0x600000 ∨ 0x610000 ≤ p) := by
  unfold State.placeOk State.inView
  cases mem
  · cases s.vatAddr v a with
    | none => simp
    | some p => simp
  · simp

theorem Frame.placeOk_of {s t : State} (h : Frame P K s t) (hK : Frame.Numbers K) (hsize : ¬ K 0x1800) (v : Nat) (mem : Bool) (a : Nat) :
    t.placeOk v mem a = s.placeOk v mem a := by
  unfold State.placeOk State.inView
  rw [h.vatAddr_of hK, h.memAddr_of hK hsize]

/-- A write whose bytes all have a place, and whose partly written words are sound, stores them (R442). -/
theorem State.aperWrite_stores {v : Fin 32} {ofs : Nat} {b : List Byte}
    (hplace : ∀ i < b.length, s.placeOk v (s.aper v ofs).1 ((s.aper v ofs).2 + i) = true)
    (hpart : ∀ w ∈ partWords (s.aper v ofs).2 b.length, s.firstBad v (s.aper v ofs).1 w 8 = none) :
    SameStores (s.storeVi v (s.aper v ofs).1 (s.aper v ofs).2 b) (s.aperWrite v ofs b {}) := by
  unfold State.aperWrite
  generalize s.aper v ofs = ap at hplace hpart ⊢
  obtain ⟨mem, a⟩ := ap
  dsimp only at hplace hpart ⊢
  rw [s.spoils_none]
  have hu : Frame [.cyc] eccKey s (s.each (partWords a b.length) fun s w => s.readVi v mem w 8) :=
    Frame.each (fun w _ u => u.readVi_eccKey v mem w 8) s
  generalize s.each (partWords a b.length) (fun s w => s.readVi v mem w 8) = u at hu ⊢
  have hbad : ¬ ((partWords a b.length).any fun w => (s.firstBad v mem w 8).isSome) = true := by
    rw [List.any_eq_true]
    rintro ⟨w, hw, h⟩
    simp [hpart w hw] at h
  have hkept : ¬ ((List.range b.length).any fun i => !u.placeOk v mem (a + i)) = true := by
    rw [List.any_eq_true]
    rintro ⟨i, hi, h⟩
    simp [hu.placeOk_of eccKey_numbers (by decide) v mem, hplace i (List.mem_range.mp hi)] at h
  rw [if_neg hbad]
  show SameStores _ (if ((List.range b.length).any fun i => !u.placeOk v mem (a + i)) = true then _ else
    if (!(List.range b.length).any fun i => !u.placeOk v mem (a + i)) = true then u.storeVi v mem a b else _)
  rw [if_neg hkept, if_pos (by simpa using hkept)]
  exact hu.sameStores.storeVi (hu.ranges_of eccKey_numbers (by decide) v mem a b.length)

theorem apertureWrite_stores {v : Fin 32} (hs : s.starting = false) (ha : s.awake = true) (hf : s.time.fclk = true)
    (hb : s.pcieBad v 1 = false) (hh : ∀ a ∈ s.mem.heldAper, a.vi ≠ v) (ofs : Nat) (b : List Byte)
    (hscan : (s.aper v ofs).1 = false → s.scanHolds v (s.aper v ofs).2 b.length = false)
    (hplace : ∀ i < b.length, s.inView v (s.aper v ofs).1 ((s.aper v ofs).2 + i) = true ∧
      ((s.aper v ofs).1 = true ∨ ∀ p, s.vatAddr v ((s.aper v ofs).2 + i) = some p → p < 0x600000 ∨ 0x610000 ≤ p))
    (hpart : ∀ w ∈ partWords (s.aper v ofs).2 b.length, s.firstBad v (s.aper v ofs).1 w 8 = none) :
    Does (.apertureWrite v ofs b {}) s fun t =>
      SameStores (s.storeVi v (s.aper v ofs).1 (s.aper v ofs).2 b) t ∧ t.host.status = 0 := by
  have hwait : (!(s.aper v ofs).1 && s.scanHolds v (s.aper v ofs).2 b.length) = false := by
    cases hm : (s.aper v ofs).1
    · exact hscan hm
    · rfl
  have hstores := s.aperWrite_stores (fun i hi => (s.placeOk_iff v _ _).mpr (hplace i hi)) hpart
  refine ⟨_, s.aperReq_served (fun s => s.aperWrite v ofs b {}) hs ha hf hb hh hwait, ?_, rfl⟩
  exact hstores.trans (State.pcieStatus_frame _ 0).sameStores

/-! ### The scrub -/

/-- The kind of error that the word at an address of the Vat holds: 0 none, 1 single-bit, 2 uncorrectable (R193). -/
def State.vatErr (s : State) (a : Nat) : Nat := Tab.get (fun _ => 0) s.mem.errs (errKey true a)

/-- Bytes stored in the Vat leave the other stores and the errors. -/
theorem State.putBytes_vat (a : Nat) (l : List Byte) : (s.putBytes true a l).mem.errs = s.mem.errs ∧
    (∀ j, (s.putBytes true a l).memB j = s.memB j) ∧ ∀ j, (s.putBytes true a l).nvmB j = s.nvmB j := by
  induction l generalizing s a with
  | nil => exact ⟨rfl, fun _ => rfl, fun _ => rfl⟩
  | cons b l ih => exact ih (s.wVat a b) (a + 1)

/-- A word of the Vat takes an error: the worse one stands (R193). -/
theorem State.vatErr_spoil (a e q : Nat) :
    (s.spoil true a e).vatErr q = if errKey true q = errKey true a then max (s.vatErr a) e else s.vatErr q := by
  have h (u : State) (l : List Byte) (p : Nat) : ((u.putBytes true p l).fresh).vatErr q = u.vatErr q :=
    congrArg (fun t => Tab.get (fun _ => 0) t (errKey true q)) (u.putBytes_vat p l).1
  unfold State.spoil
  extract_lets k old m u
  have hu : u.vatErr q = if errKey true q = errKey true a then max (s.vatErr a) e else s.vatErr q :=
    Tab.get_set _ _ _ _ _
  split
  · exact (h u _ _).trans hu
  · exact hu

/-- The stores beside the Vat stand, and so does every byte of the Vat outside a word that an uncorrectable error takes. -/
theorem State.spoil_stores (a e : Nat) : (∀ q, (e = 2 → a / 8 ≠ q / 8) → (s.spoil true a e).vatB q = s.vatB q) ∧
    (∀ q, (s.spoil true a e).memB q = s.memB q) ∧ ∀ q, (s.spoil true a e).nvmB q = s.nvmB q := by
  unfold State.spoil
  extract_lets k old m u
  split
  · next h =>
    have hlen : ((List.range 8).map fun i => Config.openByte (a / 8 * 8 + i) u.free).length = 8 := by simp
    generalize (List.range 8).map (fun i => Config.openByte (a / 8 * 8 + i) u.free) = l at hlen
    obtain ⟨-, hmem, hnvm⟩ := u.putBytes_vat (a / 8 * 8) l
    obtain ⟨hvat', hmem', hnvm'⟩ := (u.putBytes true (a / 8 * 8) l).fresh_frame.sameStores
    refine ⟨fun q hq => (hvat' q).trans ?_, fun q => (hmem' q).trans (hmem q), fun q => (hnvm' q).trans (hnvm q)⟩
    have hne := hq h.1
    exact (u.vatB_putBytes _ q _).trans (if_neg (by omega))
  · exact ⟨fun _ _ => rfl, fun _ => rfl, fun _ => rfl⟩

theorem State.spoil_frame (vat : Bool) (a e : Nat) : Frame [.mem, .stores, .free] noKey s (s.spoil vat a e) := by
  unfold State.spoil
  extract_lets k old m u
  have hu : Frame [.mem, .stores, .free] noKey s u := (s.withMem_frame _).mono
  clear_value u
  exact .ite (fun _ => (hu.then (u.putBytes_frame _ _ _)).then (State.fresh_frame _)) fun _ => hu

theorem State.spoils_frame (vat : Bool) (e : Ecc) : Frame [.mem, .stores, .free] noKey s (s.spoils vat e) :=
  Frame.trans (Frame.each (fun a _ u => u.spoil_frame vat a 1) s) (Frame.each (fun a _ u => u.spoil_frame vat a 2) _)

/-- A word that has taken an error is no better after what follows. -/
theorem State.le_vatErr_each {l : List Nat} {a e : Nat} (h : a ∈ l ∨ e ≤ s.vatErr a) :
    e ≤ (s.each l fun s a => s.spoil true a e).vatErr a := by
  induction l generalizing s with
  | nil => simpa using h
  | cons b l ih =>
    refine ih _ ?_
    rw [s.vatErr_spoil b e a]
    rcases h with h | h
    · rcases List.mem_cons.mp h with rfl | h
      · exact .inr (by simp)
      · exact .inl h
    · refine .inr ?_
      split
      · exact le_max_right _ _
      · exact h

theorem Tab.find_filter_some {α : Type} {t : Tab α} {k : Nat} {v : α} {p : Nat × α → Bool} (h : Tab.find t k = some v)
    (hp : p (k, v) = true) : Tab.find (t.filter p) k = some v := by
  induction t with
  | nil => simp [Tab.find] at h
  | cons e t ih =>
    obtain ⟨j, w⟩ := e
    rw [Tab.find] at h
    split at h
    · next hj =>
      subst hj
      obtain rfl := Option.some.inj h
      simp [hp, Tab.find]
    · next hj =>
      rw [List.filter_cons]
      split
      · simp [Tab.find, hj, ih h]
      · exact ih h

theorem Tab.mem_of_find {α : Type} {t : Tab α} {k : Nat} {v : α} (h : Tab.find t k = some v) : (k, v) ∈ t := by
  induction t with
  | nil => simp [Tab.find] at h
  | cons e t ih =>
    rw [Tab.find] at h
    split at h
    · next hj =>
      obtain rfl := Option.some.inj h
      exact hj ▸ .head _
    · exact .tail _ (ih h)

/-- Single-bit errors of the Vat are written back corrected (R195). -/
def State.corrected (s : State) : State :=
  { s with mem := { s.mem with errs := s.mem.errs.filter fun x => !(x.1 % 2 == 1 && x.2 == 1),
                               scrubAt := s.time.mono + 51200000000 } }

theorem State.corrected_vatErr (a : Nat) : s.corrected.vatErr a ≠ 1 ∧ (2 ≤ s.vatErr a → 2 ≤ s.corrected.vatErr a) := by
  have hodd : errKey true a % 2 = 1 := by simp [errKey, b2n]
  constructor
  · intro h
    unfold State.vatErr Tab.get at h
    cases hf : Tab.find s.corrected.mem.errs (errKey true a) with
    | none => rw [hf] at h; exact absurd h (by simp)
    | some v =>
      rw [hf] at h
      obtain rfl : v = 1 := h
      have := (List.mem_filter.mp (Tab.mem_of_find hf)).2
      simp [hodd] at this
  · intro h
    unfold State.vatErr Tab.get at h ⊢
    cases hf : Tab.find s.mem.errs (errKey true a) with
    | none => rw [hf] at h; exact absurd h (by simp)
    | some v =>
      rw [hf] at h
      have hv : 2 ≤ v := h
      rw [show Tab.find s.corrected.mem.errs (errKey true a) = some v from
        Tab.find_filter_some hf (by simp only [Bool.not_eq_true', Bool.and_eq_false_iff, beq_eq_false_iff_ne]; omega)]
      exact hv

/-- The errors of a pass of the scrub leave the other stores, and the words of the Vat that none of the uncorrectable ones takes. -/
theorem State.spoils_stores (l u : List Nat) : let w := s.spoils true { single := l, multi := u }
    (∀ a, (∀ x ∈ u, x / 8 ≠ a / 8) → w.vatB a = s.vatB a) ∧ (∀ a, w.memB a = s.memB a) ∧ ∀ a, w.nvmB a = s.nvmB a := by
  refine ⟨fun a ha => ?_, fun a => ?_, fun a => ?_⟩
  · exact (State.each_keeps_mem (·.vatB a) (fun x hx t => (t.spoil_stores x 2).1 a fun _ => ha x hx) _).trans
      (State.each_keeps_mem (·.vatB a) (fun x _ t => (t.spoil_stores x 1).1 a fun h => absurd h (by decide)) s)
  · exact (State.each_keeps_mem (·.memB a) (fun x _ t => (t.spoil_stores x 2).2.1 a) _).trans
      (State.each_keeps_mem (·.memB a) (fun x _ t => (t.spoil_stores x 1).2.1 a) s)
  · exact (State.each_keeps_mem (·.nvmB a) (fun x _ t => (t.spoil_stores x 2).2.2 a) _).trans
      (State.each_keeps_mem (·.nvmB a) (fun x _ t => (t.spoil_stores x 1).2.2 a) s)

/-- A pass counts what it corrected and what it could not, and leaves no single-bit error in the Vat (R195). -/
theorem vatScrub_scrubs (l u : List Nat) (ha : s.awake = true) : let w := s.spoils true { single := l, multi := u }
    Does (.vatScrub l u) s fun t =>
      (∀ a ∈ u, 2 ≤ Tab.get (fun _ => 0) t.mem.errs (errKey true a)) ∧
      (∀ a, Tab.get (fun _ => 0) t.mem.errs (errKey true a) ≠ 1) ∧
      t.rd 0x1808 = satAdd (s.rd 0x1808) (w.errsIn true 0 0x2000000 1).length ∧
      t.rd 0x180C = satAdd (s.rd 0x180C) (w.errsIn true 0 0x2000000 2).length ∧
      (∀ a, (∀ x ∈ u, x / 8 ≠ a / 8) → t.vatB a = s.vatB a) ∧ (∀ a, t.memB a = s.memB a) ∧ (∀ a, t.nvmB a = s.nvmB a) ∧
      SameRegs ([0x1808, 0x180C, 0x1810].map devKey) s t := by
  intro w
  have he : exec (.vatScrub l u) s = .next (w.readWords true 0 0x2000000).corrected := if_neg (by simp [ha])
  have hw : Frame [.mem, .stores, .free] noKey s w := s.spoils_frame true _
  have herr (a : Nat) (hm : a ∈ u) : 2 ≤ w.vatErr a := State.le_vatErr_each _ (.inl hm)
  obtain ⟨hvat, hmem, hnvm⟩ := s.spoils_stores l u
  change ∀ a, _ → w.vatB a = _ at hvat
  change ∀ a, w.memB a = _ at hmem
  change ∀ a, w.nvmB a = _ at hnvm
  obtain ⟨hone, hmulti⟩ := w.readWords_counts true 0 0x2000000
  have hread := w.readWords_eccKey true 0 0x2000000
  have hread' (a : Nat) : (w.readWords true 0 0x2000000).vatErr a = w.vatErr a :=
    congrArg (fun m : MemSt => Tab.get (fun _ => 0) m.errs (errKey true a)) (hread.keeps .mem (by decide))
  generalize w.readWords true 0 0x2000000 = r at he hone hmulti hread hread'
  have hc : Frame [.mem] noKey r r.corrected := r.memRest_frame
  obtain ⟨hvat', hmem', hnvm'⟩ := hread.sameStores.trans hc.sameStores
  have hall : Frame [.mem, .stores, .free, .cyc] eccKey s r.corrected := ((hw.mono).then hread).then hc
  refine ⟨_, he, fun a hm => (r.corrected_vatErr a).2 ((hread' a).symm ▸ herr a hm), fun a => (r.corrected_vatErr a).1, ?_, ?_,
    fun a h => (hvat' a).trans (hvat a h), fun a => (hmem' a).trans (hmem a), fun a => (hnvm' a).trans (hnvm a),
    hall.sameRegs _ fun k hk => by simpa [devKey] using hk⟩
  · rw [hc.rd 0x1808, hone, hw.rd 0x1808]
  · rw [hc.rd 0x180C, hmulti, hw.rd 0x180C]

/-- Settles O28: a load engine by its commands, the directory and the scans by what begins and ends them, BAR2 by its requests, and the
scrub by its pass. -/
theorem enginesScansAndTheApertureReachTheStores : Obligations.EnginesScansAndTheApertureReachTheStores :=
  ⟨fun s _ => ⟨ldeStart_refused s, ldeStart_runs s,
      fun hb => ⟨ldeStop_atStart s hb, ldeStop_inFlight s hb, ldeStop_outside s hb⟩, fun host => ldeDone_ends s host⟩,
    fun s => ⟨fun _ _ => dirValGo_runs s, fun _ _ _ => dirValDone_validates s, fun _ => precheck_scans s,
      fun _ => admitScanDone_reports s⟩,
    fun s => ⟨fun _ hs ha hf hb hh => ⟨apertureRead_reads s hs ha hf hb hh, apertureWrite_stores s hs ha hf hb hh⟩,
      vatScrub_scrubs s⟩⟩

end Sys2Proof.Machine
end

section
/-! SUPPORT. Starts of a sequencer: why they are refused (R259), how they are accepted (R260), admitted (R212) and begun (R223, R258). -/

namespace Sys2Proof.Machine

-- Proofs one after another: many that wait in threads of their own would pass the check's memory limit.
set_option Elab.async false

variable {P : List Aspect} {K : Nat → Prop} (s : State)

/-! ### Refusals -/

/-- A refused start shows with its reason (R259). -/
theorem State.refuseSeq_spec (k : Nat) {r : Nat} (hr : r < 16) : let t := s.refuseSeq k r
    Frame [.cyc] (· = seqR k + 8) s t ∧ t.bit (seqR k + 8) 14 = true ∧ t.fld (seqR k + 8) 31 28 = r :=
  ⟨(s.wbit_frame (seqR k + 8) 14 true).then (State.wfld_frame _ _ 31 28 r),
    (State.bit_wfld_ne _ _ _ (by decide) (by decide) (by decide)).trans (s.bit_wbit_self _ 14 true (by decide)),
    (State.fld_wfld_self _ _ _ _ _ (by decide) (by decide)).trans (Nat.mod_eq_of_lt hr)⟩

theorem State.startWhy_lt {k r : Nat} {timed : Bool} (h : s.startWhy k timed = some r) : r < 16 := by
  unfold State.startWhy at h
  split_ifs at h <;> simp only [Option.some.injEq] at h <;> omega

/-! ### What a start's refusal rests on -/

theorem seqStatus_numbers {k : Nat} (hk : k < 16) : Frame.Numbers (· = seqR k + 8) :=
  ⟨fun j hj _ he => by simp only [seqR] at he; omega, by simp only [seqR, viKey]; omega⟩

section
variable {s} {t : State} {k : Nat} (h : Frame P (· = seqR k + 8) s t) (hk : k < 16)
include h hk

theorem Frame.owner_ofSeq (c : Kind) (i : Nat) : t.owner c i = s.owner c i := by
  have hb : 0x3C00 ≤ c.base := by cases c <;> decide
  unfold State.owner State.inForce
  rw [h.bit 0x3C08 0, h.rd (c.base + 4 * (i / 4))]

theorem Frame.ownerVi_ofSeq (c : Kind) (i : Nat) : t.ownerVi c i = s.ownerVi c i := by
  simp only [State.ownerVi, h.owner_ofSeq hk]

theorem Frame.stepAddr_ofSeq (v i : Nat) : t.stepAddr v i = s.stepAddr v i := by
  unfold State.stepAddr State.owns
  simp only [h.vatAddr_of (seqStatus_numbers hk), h.owner_ofSeq hk]

theorem Frame.notLoaded_ofSeq (hl : t.mem.notLoaded = s.mem.notLoaded) : t.notLoaded k = s.notLoaded k := by
  simp only [State.notLoaded, State.dirG, h.ownerVi_ofSeq hk, h.stepAddr_ofSeq hk, h.owned_of (seqStatus_numbers hk), hl,
    h.fld (seqR k + 0x10) 17 0, h.fld (seqR k + 0x14) 17 0]

theorem Frame.rangeOk_ofSeq : t.rangeOk k = s.rangeOk k := by
  simp only [State.rangeOk, h.ownerVi_ofSeq hk, h.stepAddr_ofSeq hk, h.fld (seqR k + 0x10) 17 0, h.fld (seqR k + 0x14) 17 0,
    h.fld (seqR k + 0x18) 17 0]

omit hk in
theorem Frame.banksOf_ofSeq : t.banksOf k = s.banksOf k :=
  List.filter_congr fun b _ => h.bit (seqR k + 0xC) (8 + b)

omit hk in
theorem Frame.aoutsOf_ofSeq : t.aoutsOf k = s.aoutsOf k :=
  List.filter_congr fun n _ => h.bit (seqR k + 0xC) n

omit hk in
theorem Frame.rateMix_ofSeq : t.rateMix k = s.rateMix k := by
  have hb (b : Nat) : t.fld (pbR b + 0x14) 11 0 = s.fld (pbR b + 0x14) 11 0 := h.fld _ 11 0
  simp only [State.rateMix, h.banksOf_ofSeq, hb]

/-- A timed start is refused for the same reason where the mode, the sequencer's state and what is loaded stand (R259, R263). -/
theorem Frame.startWhy_ofSeq (hl : t.mem.notLoaded = s.mem.notLoaded) (hm : t.mode = s.mode) (hon : t.seqOn k = s.seqOn k) :
    t.startWhy k true = s.startWhy k true := by
  simp only [State.startWhy, h.bit (seqR k) 0, hon, State.noStart, hm, h.notLoaded_ofSeq hk hl, h.rangeOk_ofSeq hk, h.banksOf_ofSeq,
    h.aoutsOf_ofSeq, h.rateMix_ofSeq, Bool.not_true, Bool.false_and]

end

/-! ### A start accepted in its cycle -/

section
variable {s} {k : Fin 16}

/-- A refused start changes its status alone (R259). -/
theorem State.startSeq_refused {r : Nat} (hw : s.startWhy k false = some r) : let t := s.startSeq k
    t.bit (seqR k + 8) 14 = true ∧ t.fld (seqR k + 8) 31 28 = r ∧ SameRegs [devKey (seqR k + 8)] s t ∧ SameStores s t := by
  have he : s.startSeq k = s.refuseSeq k r := by rw [State.startSeq, hw]
  obtain ⟨hf, hbit, hfld⟩ := s.refuseSeq_spec k (s.startWhy_lt hw)
  rw [he]
  exact ⟨hbit, hfld, hf.sameRegs _ (fun j hj => by simpa using hj), hf.sameStores⟩

/-- With a cached demand admission follows 2 cycles later (R212). -/
theorem State.startSeq_enters (hw : s.startWhy k false = none) (hi : s.scanOf k = .idle) (hc : s.bit (0x1840 + 4 * k) 16 = true) :
    let t := s.startSeq k
    t.scanOf k = .entering ∧ (s.time.mono + 64, Instr.admitScanDone k) ∈ t.agenda ∧ SameRegs [] s t := by
  let u := s.setSq k { s.sq k with asked := s.time.mono }
  have hu : Frame [.seqs] noKey s u := s.setSq_frame k _
  have he : s.startSeq k = (u.setScan k .entering).after 64 (.admitScanDone (Fin.ofNat 16 k)) := by
    rw [State.startSeq, hw]
    exact (if_neg (not_not_intro ((hu.scanOf k).trans hi))).trans (if_pos ((hu.bit _ 16).trans hc))
  have hs := u.setScan_frame k .entering
  have ha := (u.setScan k .entering).after_frame 64 (.admitScanDone (Fin.ofNat 16 k))
  rw [he]
  refine ⟨(ha.scanOf k).trans (u.scanOf_setScan_self k .entering), ?_, ?_⟩
  · have hat : ((u.setScan k .entering).time.mono + 64, Instr.admitScanDone (Fin.ofNat 16 k)) =
        (s.time.mono + 64, .admitScanDone k) := by
      rw [hs.mono_eq, hu.mono_eq, Fin.ofNat_val_eq_self]
    rw [← hat]
    exact State.mem_after _ _ _
  · exact (((hu.mono (P := [.seqs, .mem, .stores, .agenda])).then hs).then ha).sameRegs [] fun j hj => absurd hj (Nat.not_lt_zero j)

/-- Without one a scan goes first (R210, R260). -/
theorem State.startSeq_scans (hw : s.startWhy k false = none) (hi : s.scanOf k = .idle) (hc : s.bit (0x1840 + 4 * k) 16 = false) :
    let t := s.startSeq k
    t.scanOf k = .start ∧ (s.time.mono + s.scanTu k, Instr.admitScanDone k) ∈ t.agenda ∧
      SameRegs [viKey (s.ownerVi .seq k) 0x182C] s t := by
  let u := s.setSq k { s.sq k with asked := s.time.mono }
  have hu : Frame [.seqs] noKey s u := s.setSq_frame k _
  have he : s.startSeq k = u.startScan k .start := by
    rw [State.startSeq, hw]
    exact (if_neg (not_not_intro ((hu.scanOf k).trans hi))).trans (if_neg (by rw [show _ = false from (hu.bit _ 16).trans hc]; decide))
  obtain ⟨hf, hscan, -, hmem⟩ := u.startScan_spec k .start
  have hown : u.ownerVi .seq k = s.ownerVi .seq k := hu.ownerVi .seq k (Nat.not_lt_zero _) (Nat.not_lt_zero _)
  rw [he]
  rw [hu.mono_eq, hu.scanTu (by decide)] at hmem
  rw [hown] at hf
  exact ⟨hscan, hmem, ((hu.mono (P := [.seqs, .mem, .cyc, .agenda]) (K := (· = viKey (s.ownerVi .seq k) 0x182C))).then hf).sameRegs _
    fun j hj => by simpa using hj⟩

end

/-! ### Admission with the cached demand (R212) -/

/-- What an admission writes: ADMIT_USED, the sequencer's own admission register, and its VI's status. -/
abbrev admitKey (k : Nat) : Nat → Prop := fun j => j = 0x1824 ∨ j = 0x1840 + 4 * k ∨ 0x4000 ≤ j

/-- A demand that fits joins ADMIT_USED. -/
theorem State.takeIn_fits {k : Nat} (hk : k < 16)
    (h : s.fld 0x1824 15 0 + s.fld (0x1840 + 4 * k) 15 0 ≤ s.fld 0x1820 15 0) : (s.takeIn k).2 = true ∧
    Frame [.cyc, .seqs] (admitKey k) s (s.takeIn k).1 ∧
      (s.takeIn k).1.rd 0x1824 = BitVec.ofNat 32 (s.fld 0x1824 15 0 + s.fld (0x1840 + 4 * k) 15 0) := by
  unfold State.takeIn
  extract_lets need used u w
  have hu : Frame [] (0x4000 ≤ ·) s u := ((s.wfldv_frame (s.ownerVi .seq k) 0x182C 31 16 need).mono).then
    (State.wfldv_frame _ (s.ownerVi .seq k) 0x182C 15 12 _)
  clear_value u
  have hbit : Frame [.cyc] (· = 0x1840 + 4 * k) (u.wr 0x1824 (BitVec.ofNat 32 (used + need))) w := State.wbit_frame _ _ 17 true
  have hset : Frame [.seqs] noKey w (w.setSq k { w.sq k with demand := need }) := w.setSq_frame k _
  rw [if_pos ((hu.fld 0x1820 15 0 (by omega)).symm ▸ h)]
  refine ⟨rfl, (((hu.mono).then (u.wr_frame 0x1824 _)).then hbit).then hset, ?_⟩
  rw [hset.rd 0x1824, hbit.rd 0x1824, State.rd_wr_self]

/-! ### The programme's beginning (R223, R258) -/

theorem Frame.sq {s t : State} (h : Frame P K s t) (k : Nat) (hs : Aspect.seqs ∉ P := by decide) : t.sq k = s.sq k := by
  simp only [State.sq, show t.seqs = s.seqs from h.keeps .seqs hs]

theorem State.domainOf_le (k : Nat) : s.domainOf k ≤ 2 := by
  unfold State.domainOf
  split_ifs <;> decide

/-- The registers of the analog channels and of the pattern banks. -/
abbrev boundKey : Nat → Prop := fun j => 0x1C00 ≤ j ∧ j < 0x2800

theorem State.aoutStart_frame {n : Nat} (hn : n < 8) :
    Frame [.cyc, .aouts, .phaseRefs, .cal] boundKey s (s.aoutStart n) := by
  have hcal (u : State) (c : CalSt) : Frame [.cal] noKey u { u with cal := c } := .part rfl
  exact ((((s.setAo_frame n _).mono).then (hcal _ _)).then (State.wbit_frame _ (aoutR n + 0x2C) 3 false)).then
    (State.wbit_frame _ (aoutR n + 0x2C) 0 true)

theorem State.bankStart_frame {n : Nat} (hn : n < 8) (st : Nat) :
    Frame [.cyc, .pbs] boundKey s (s.bankStart n st) := by
  have hpb (u : State) (i : Nat) (b : Bool) : Frame [.cyc, .pbs] boundKey u (u.wpb n i b) :=
    (u.wbit_frame (pbR n + 8) i b).mono
  unfold State.bankStart
  extract_lets a b x c d
  have ha : Frame [.cyc, .pbs] boundKey s a :=
    (((s.wfld_frame (pbR n + 8) 1 0 st).mono).trans (hpb _ 2 false)).trans (hpb _ 3 false)
  have hb : Frame [.cyc, .pbs] boundKey a b :=
    ((((a.wr_frame (pbR n + 0x30) 0).mono).then (State.wr_frame _ (pbR n + 0x34) 0)).then (State.wr_frame _ (pbR n + 0x38) 0)).then
      (State.wr_frame _ (pbR n + 0x3C) 0)
  have hc : Frame [.pbs] noKey b c := b.setPb_frame n _
  have hd : Frame [.cyc, .pbs] boundKey c d := .ite (fun _ => (c.setPb_frame n _).mono) fun _ => hpb c 6 true
  have h := ((ha.trans hb).then hc).trans hd
  exact .ite (fun _ => h.trans (hpb d 3 true)) fun _ => h

/-- The registers of the sequencer itself that a beginning writes: its configuration's shadow, its status, its counters and its flags. -/
abbrev seqClearedKey (k : Nat) : Nat → Prop := fun j => j = seqR k ∨ j = seqR k + 8 ∨ seqR k + 0x40 ≤ j ∧ j < seqR k + 0x80

/-- What a beginning clears in the sequencer's registers, and the boundary of its configuration (R86, R223). -/
def State.seqCleared (s : State) (k : Nat) : State :=
  let s := (((s.setSeqState k 1).wfld (seqR k + 8) 23 22 (s.domainOf k)).wr (seqR k + 0x48) 0).wr (seqR k + 0x4C) 0
  let s := (s.each (List.range 4) fun s n => (s.wr (loopR k n) 0).wr (loopR k n + 4) 0).wfld (seqR k + 0x44) 3 0 0
  let s := (s.touch (seqR k + 0x44) 0xF).wr (seqR k + 0x40) 0
  s.boundary (· == seqR k)

theorem State.seqCleared_spec (k : Nat) :
    Frame [.cyc, .shadows] (seqClearedKey k) s (s.seqCleared k) ∧ (s.seqCleared k).seqState k = 1 := by
  unfold State.seqCleared
  extract_lets a b c
  let st := (s.setSeqState k 1).wfld (seqR k + 8) 23 22 (s.domainOf k)
  have hst : Frame [] (· = seqR k + 8) s st := (s.wfld_frame (seqR k + 8) 1 0 1).then (State.wfld_frame _ _ 23 22 _)
  have hone : st.seqState k = 1 := (State.fld_wfld_ne _ _ _ (by decide) (by decide) (by decide)).trans
    (s.fld_wfld_self (seqR k + 8) 1 0 1 (by decide) (by decide))
  have ha : Frame [] (fun j => seqR k + 0x40 ≤ j ∧ j < seqR k + 0x80) st a :=
    ((st.wr_frame (seqR k + 0x48) 0).mono).then (State.wr_frame _ (seqR k + 0x4C) 0)
  have hb : Frame [] (fun j => seqR k + 0x40 ≤ j ∧ j < seqR k + 0x80) a b := by
    refine (Frame.each (fun n hn u => ?_) a).then (State.wfld_frame _ (seqR k + 0x44) 3 0 0)
    have hn := List.mem_range.mp hn
    exact ((u.wr_frame (loopR k n) 0).mono (hK := fun j hj => by simp only [loopR] at hj ⊢; omega)).then
      (State.wr_frame _ (loopR k n + 4) 0) (hK := fun j hj => by simp only [loopR] at hj ⊢; omega)
  have hc : Frame [.cyc] (fun j => seqR k + 0x40 ≤ j ∧ j < seqR k + 0x80) b c :=
    ((b.touch_frame (seqR k + 0x44) 0xF).mono).then (State.wr_frame _ (seqR k + 0x40) 0)
  have hd := c.boundary_frame (· == seqR k)
  have hrest : Frame [.cyc, .shadows] (fun j => j = seqR k ∨ seqR k + 0x40 ≤ j ∧ j < seqR k + 0x80) st (c.boundary (· == seqR k)) :=
    (((ha.mono).then hb).then hc).then hd (hK := fun j hj => .inl (by simpa using hj))
  exact ⟨(hst.mono (hK := fun j hj => .inr (.inl hj))).then hrest (hK := fun j hj => hj.imp id .inr),
    (hrest.fld (seqR k + 8) 1 0).trans hone⟩

/-- The channels and the banks that the sequencer binds start with it (R303, R312). -/
def State.startBound (s : State) (k : Nat) : State :=
  let s := s.each (s.aoutsOf k) fun s n => s.aoutStart n
  s.each (s.banksOf k) fun s n => s.bankStart n 1

theorem State.startBound_frame (k : Nat) :
    Frame [.cyc, .aouts, .phaseRefs, .cal, .pbs] boundKey s (s.startBound k) := by
  have hlt {p : Nat → Bool} {n : Nat} (h : n ∈ (List.range 8).filter p) : n < 8 := List.mem_range.mp (List.mem_of_mem_filter h)
  exact (Frame.each (fun n hn u => (u.aoutStart_frame (hlt hn)).mono) s).trans
    (Frame.each (fun n hn u => (u.bankStart_frame (hlt hn) 1).mono) _)

/-- A programme before its first step: nothing on its stack, and its first boundary known. -/
def State.firstSq (s : State) (k dom c0 b : Nat) (tm : Option Nat) : SeqSt :=
  let l := s.firstBoundary k dom b
  { pc := s.fld (seqR k + 0x18) 17 0, tl := l.1, target := some l.2, done := l.2, whey := (s.sq k).whey, demand := (s.sq k).demand,
    lastC := c0 - 32, memB0 := tm, asked := (s.sq k).asked, loose := s.bit (0x1840 + 4 * k) 18 }

/-- With its clock muted the programme begins paused (R280). -/
def State.pauseMuted (s : State) (k dom b : Nat) : State :=
  if dom ≠ 0 ∧ s.synBit dom 1 = true then
    (s.wseq k 18 true).setSq k { s.sq k with pausedAt := s.time.mono, target := none, aim := some b }
  else s

theorem State.beginSeq_eq (k c0 b : Nat) (tm : Option Nat) : s.beginSeq k c0 b tm =
    ((((s.seqCleared k).setSq k ((s.seqCleared k).firstSq k (s.domainOf k) c0 b tm)).startBound k).pauseMuted k (s.domainOf k) b).after 0
      (.calAbort .start) := by
  rfl

theorem State.pauseMuted_spec (k dom b : Nat) : let t := s.pauseMuted k dom b
    Frame [.cyc, .seqs] (· = seqR k + 8) s t ∧ t.seqState k = s.seqState k ∧ (t.sq k).pc = (s.sq k).pc ∧
      (t.sq k).stack = (s.sq k).stack ∧ (dom = 0 ∨ s.synBit dom 1 = false → (t.sq k).target = (s.sq k).target) := by
  unfold State.pauseMuted
  split
  · next hc =>
    have hset := (s.wseq k 18 true).setSq_frame k { s.sq k with pausedAt := s.time.mono, target := none, aim := some b }
    refine ⟨((s.wbit_frame (seqR k + 8) 18 true).mono).then hset, ?_, ?_, ?_, fun h => ?_⟩
    · exact (hset.fld _ 1 0).trans (s.fld_wbit_ne (seqR k + 8) true (by decide) (by decide))
    · rw [State.sq_setSq_self]
    · rw [State.sq_setSq_self]
    · exact absurd hc.2 (by simp [h.resolve_left hc.1])
  · exact ⟨.refl, rfl, rfl, rfl, fun _ => rfl⟩

/-- What a beginning writes: of the sequencer, and of the channels and banks it binds. -/
abbrev beginKey (k : Nat) : Nat → Prop := fun j => seqClearedKey k j ∨ boundKey j

abbrev beginParts : List Aspect := [.cyc, .shadows, .seqs, .aouts, .phaseRefs, .cal, .pbs, .agenda]

/-- The programme stands before its first step, with its first boundary known unless its clock is muted (R223, R258, R280). -/
theorem State.beginSeq_spec {k : Nat} (hk : k < 16) (c0 b : Nat) (tm : Option Nat) : let t := s.beginSeq k c0 b tm
    Frame beginParts (beginKey k) s t ∧ t.seqState k = 1 ∧ (t.sq k).pc = s.fld (seqR k + 0x18) 17 0 ∧ (t.sq k).stack = [] ∧
      (s.domainOf k = 0 ∨ s.synBit (s.domainOf k) 1 = false → (t.sq k).target.isSome = true) := by
  obtain ⟨hu, hone⟩ := s.seqCleared_spec k
  rw [State.beginSeq_eq]
  have hdom := s.domainOf_le k
  generalize s.seqCleared k = u at hu hone ⊢
  let x := u.firstSq k (s.domainOf k) c0 b tm
  let w := (u.setSq k x).startBound k
  have hset : Frame [.seqs] noKey u (u.setSq k x) := u.setSq_frame k x
  have hbound : Frame _ _ (u.setSq k x) w := State.startBound_frame _ k
  have hsq : w.sq k = x := (hbound.sq k).trans (u.sq_setSq_self k x)
  have hw : Frame beginParts (beginKey k) u w := (hset.mono).then hbound (hK := fun _ hj => .inr hj)
  have hsw : Frame beginParts (beginKey k) s w := (hu.mono (hK := fun _ hj => .inl hj)).trans hw
  have hmuted : w.synBit (s.domainOf k) 1 = s.synBit (s.domainOf k) 1 :=
    hsw.bit _ 1 (by simp only [beginKey, seqClearedKey, boundKey, seqR, synSt, synR]; omega)
  have hwone : w.seqState k = 1 := (hbound.fld (seqR k + 8) 1 0).trans ((hset.fld _ 1 0).trans hone)
  obtain ⟨hp, hstate, hpc, hstack, htgt⟩ := w.pauseMuted_spec k (s.domainOf k) b
  have ha := (w.pauseMuted k (s.domainOf k) b).after_frame 0 (.calAbort .start)
  refine ⟨(hsw.then hp (hK := fun _ hj => .inl (.inr (.inl hj)))).then ha, ?_, ?_, ?_, fun hd => ?_⟩
  · exact (ha.fld _ 1 0).trans (hstate.trans hwone)
  · rw [ha.sq, hpc, hsq]
    exact hu.fld _ 17 0 (by simp only [seqClearedKey, seqR]; omega)
  · rw [ha.sq, hstack, hsq]
    rfl
  · rw [ha.sq, htgt (hmuted ▸ hd), hsq]
    rfl

end Sys2Proof.Machine
end

section
/-! PROOF. O33: starts by register and by event, their admission, and timed starts (R210 to R212, R260 to R264). -/

namespace Sys2Proof.Machine

-- Proofs one after another: many that wait in threads of their own would pass the check's memory limit.
set_option Elab.async false

variable {P : List Aspect} {K : Nat → Prop} (s : State)

/-! ### A start's beginning after its admission -/

/-- The programme of sequencer `k`, admitted as `s` stood, stands before its first step in `t`. -/
def State.Begun (s t : State) (k : Nat) : Prop :=
  t.seqState k = 1 ∧ (t.sq k).pc = s.fld (seqR k + 0x18) 17 0 ∧
    (s.domainOf k = 0 ∨ s.synBit (s.domainOf k) 1 = false → (t.sq k).target.isSome = true) ∧ (t.sq k).stack = [] ∧
    t.rd 0x1824 = BitVec.ofNat 32 (s.fld 0x1824 15 0 + s.fld (0x1840 + 4 * k) 15 0)

/-- It stands so as long as its status, its registers held per unit and ADMIT_USED stand. -/
theorem State.Begun.later {s t u : State} {k : Nat} (hb : s.Begun t k) (h : Frame P K t u) (hs : Aspect.seqs ∉ P)
    (hst : ¬ K (seqR k + 8)) (hu : ¬ K 0x1824) : s.Begun u k := by
  obtain ⟨hone, hpc, htgt, hstack, hused⟩ := hb
  have hsq := h.sq k hs
  exact ⟨(h.fld _ 1 0 hst).trans hone, hsq ▸ hpc, hsq ▸ htgt, hsq ▸ hstack, (h.rd _ hu).trans hused⟩

/-- The output domain of a sequencer stands in its binding (R258). -/
theorem domainOf_congr {s t : State} {k : Nat} (h : ∀ i, t.bit (seqR k + 0xC) i = s.bit (seqR k + 0xC) i) :
    t.domainOf k = s.domainOf k := by
  have ha : t.aoutsOf k = s.aoutsOf k := List.filter_congr fun n _ => h n
  have hb : t.banksOf k = s.banksOf k := List.filter_congr fun b _ => h (8 + b)
  rw [State.domainOf, ha, hb]
  rfl

/-- What goes before at the sequencer's status leaves what the programme is admitted with. -/
theorem State.Begun.earlier {s t u : State} {k : Nat} (h : Frame P (· = seqR k + 8) s u) (hk : k < 16) (hb : u.Begun t k) :
    s.Begun t k := by
  have hdom : u.domainOf k = s.domainOf k := domainOf_congr fun i => h.bit _ i
  have hsyn : u.synBit (s.domainOf k) 1 = s.synBit (s.domainOf k) 1 := h.bit _ 1
  unfold State.Begun at hb ⊢
  rwa [hdom, hsyn, h.fld (seqR k + 0x18) 17 0, h.fld 0x1824 15 0, h.fld (0x1840 + 4 * k) 15 0] at hb

/-- A programme that fits is admitted, and begins (R212, R223). -/
theorem State.takeIn_begins {k : Nat} (hk : k < 16) (h : s.fld 0x1824 15 0 + s.fld (0x1840 + 4 * k) 15 0 ≤ s.fld 0x1820 15 0)
    (c0 b : Nat) (tm : Option Nat) : (s.takeIn k).2 = true ∧
      Frame beginParts (fun _ => True) s ((s.takeIn k).1.beginSeq k c0 b tm) ∧ s.Begun ((s.takeIn k).1.beginSeq k c0 b tm) k := by
  obtain ⟨hgood, hin, hused⟩ := s.takeIn_fits hk h
  generalize (s.takeIn k).1 = u at hin hused ⊢
  obtain ⟨hf, hone, hpc, hstack, htgt⟩ := u.beginSeq_spec hk c0 b tm
  have hdom : u.domainOf k = s.domainOf k := domainOf_congr fun i => hin.bit _ i
  have hle := s.domainOf_le k
  have hsyn : u.synBit (s.domainOf k) 1 = s.synBit (s.domainOf k) 1 := hin.bit _ 1
  rw [hdom, hsyn] at htgt
  refine ⟨hgood, (hin.mono).then hf, hone, hpc.trans (hin.fld _ 17 0), htgt, hstack, ?_⟩
  rw [hf.rd 0x1824 (by simp only [beginKey, seqClearedKey, boundKey, seqR]; omega), hused]

theorem State.raiseRun_frame (tu : Nat) : Frame [.agenda, .mode] noKey s (s.raiseRun tu) := by
  have hmode (t : Nat) : Frame [.agenda, .mode] noKey s (({ s with mode := { s.mode with runAt := t } } : State).at_ t .holdExpiry) :=
    (s.modeRest_frame.mono).then (State.at_frame _ _ _)
  exact .ite (fun _ => hmode _) fun _ => .refl

/-- A start whose admission is due, with its demand cached and none before it (R212, R213, R260). -/
theorem State.startNow_begins {k : Nat} (hk : k < 16) (hw : s.admitWaits k = false)
    (h : s.fld 0x1824 15 0 + s.fld (0x1840 + 4 * k) 15 0 ≤ s.fld 0x1820 15 0) : s.Begun (s.startNow k) k := by
  unfold State.startNow
  rw [if_neg (by simp [hw])]
  have hbegins := fun c0 b tm => s.takeIn_begins hk h c0 b tm
  generalize s.takeIn k = p at hbegins ⊢
  obtain ⟨u, good⟩ := p
  obtain rfl : good = true := (hbegins 0 0 none).1
  dsimp only
  rw [if_neg (by decide)]
  split
  · exact (hbegins _ _ _).2.2.later (State.raiseRun_frame _ 256) (by decide) (by omega) (by omega)
  · exact (hbegins _ _ _).2.2

/-- A sequencer waits only for those below it (R213). -/
theorem State.admitWaits_setScan (k : Nat) (x : ScanFor) : (s.setScan k x).admitWaits k = s.admitWaits k := by
  have hsq (j : Nat) : (s.setScan k x).sq j = s.sq j := rfl
  refine Bool.eq_iff_iff.mpr ?_
  simp only [State.admitWaits, List.any_eq_true, List.mem_range, hsq]
  refine exists_congr fun j => and_congr_right fun hj => ?_
  rw [State.scanOf_setScan, if_neg (by omega)]

/-- With the demand cached, an admission that is due begins the programme (R212, R260). -/
theorem admitScanDone_begins {k : Fin 16} (hp : s.scanOf k = .entering) (hw : s.admitWaits k = false) (hn : s.startWhy k true = none)
    (hc : s.bit (0x1840 + 4 * k) 16 = true) (h : s.fld 0x1824 15 0 + s.fld (0x1840 + 4 * k) 15 0 ≤ s.fld 0x1820 15 0) :
    Does (.admitScanDone k) s fun t => s.Begun t k := by
  have hf := s.setScan_frame k .idle
  have hst : Frame [.mem, .stores] (· = seqR k + 8) s (s.setScan k .idle) := hf.mono
  have hwhy : (s.setScan k .idle).startWhy k true = none := (hst.startWhy_ofSeq k.isLt rfl rfl (by rfl)).trans hn
  have hone : exec (.admitScanDone k) s =
      match (s.setScan k .idle).startWhy k true with
      | some w => .next ((s.setScan k .idle).refuseSeq k w)
      | none => if (s.setScan k .idle).bit (0x1840 + 4 * k) 16 then .next ((s.setScan k .idle).startNow k)
        else .next ((s.setScan k .idle).startScan k .start) :=
    (if_neg (by simp [hp])).trans (if_pos hp)
  rw [hwhy] at hone
  refine ⟨_, hone.trans (if_pos ((hf.bit _ 16).trans hc)), ?_⟩
  refine .earlier hst k.isLt (State.startNow_begins _ k.isLt ((s.admitWaits_setScan k .idle).trans hw) ?_)
  rwa [hf.fld 0x1824 15 0, hf.fld (0x1840 + 4 * k) 15 0, hf.fld 0x1820 15 0]

/-! ### A timed start's ARMED bit and its readiness -/

section
variable (k : Fin 16)

theorem actId_seq_inst : (actId 3 k).inst.val = k.val := by
  simp only [actId, Fin.ofNat_eq_cast, Fin.val_natCast]
  omega

theorem State.markArmed_seq (b : Bool) :
    s.markArmed (actId 3 k) b = s.wr (seqR k + 8) (setBit (s.rd (seqR k + 8)) 2 b) := by
  have hk : devKey (0x1008 + 0x80 * k) = seqR k + 8 := by simp only [devKey, seqR]; omega
  simp only [State.markArmed, armedBit, actId_seq_inst, show (actId 3 k).kind.val = 3 from rfl, hk]
  rfl

/-- The ARMED bit of a timed start reads as marked. -/
theorem State.markArmed_seq_spec (b : Bool) : let t := s.markArmed (actId 3 k) b
    Frame [] (· = seqR k + 8) s t ∧ t.bit (seqR k + 8) 2 = b := by
  simp only [State.markArmed_seq]
  refine ⟨s.wr_frame _ _, ?_⟩
  rw [State.bit, State.rd_wr_self]
  exact tb_setBit_self _ 2 b (by decide)

/-- A timed start needs SEQ's domain and those of the channels and banks it binds (R40, R257). -/
theorem Frame.seqActReady {s t : State} (h : Frame P (· = seqR k + 8) s t) (ht : Aspect.time ∉ P) (hd : Aspect.doms ∉ P) :
    t.actReady (actId 3 k) = s.actReady (actId 3 k) := by
  have hdoms : t.actDoms (actId 3 k) = s.actDoms (actId 3 k) := by
    simp only [State.actDoms, show (actId 3 k).kind.val = 3 from rfl, actId_seq_inst]
    exact congrArg (fun l => 3 :: l.map (6 + ·)) (List.filter_congr fun j _ => h.bit (0x100C + 0x80 * k) j)
  have hdom : t.domOn = s.domOn := by
    funext d
    simp only [State.domOn, h.dom d hd]
  simp only [State.actReady, hdoms, hdom, show t.time = s.time from h.keeps .time ht]

/-- A timed start armed in time stands as armed, judged (R41, R262). -/
theorem State.armAct_seq_inTime (x : Act) (hr : s.actReady (actId 3 k) = true) (hl : 2048 ≤ lead x.target s.now) :
    let t := s.armAct (actId 3 k) x
    t.act (actId 3 k) = { x with defer := false } ∧ t.bit (seqR k + 8) 2 = true := by
  obtain ⟨hm, hb⟩ := (s.setAct (actId 3 k) x).markArmed_seq_spec k true
  have hf := ((s.setAct_frame (actId 3 k) x).mono (P := [.acts]) (K := (· = seqR k + 8))).then hm
  have hr' := (hf.seqActReady k (by decide) (by decide)).trans hr
  unfold State.armAct
  generalize (s.setAct (actId 3 k) x).markArmed (actId 3 k) true = u at hf hb hr'
  have hnow : u.now = s.now := by simp only [State.now, show u.time = s.time from hf.keeps .time (by decide)]
  rw [if_pos hr', hnow, u.judge_inTime _ _ _ hl]
  exact ⟨State.act_setAct_self _ _ _, ((u.setAct_frame _ _).bit (seqR k + 8) 2).trans hb⟩

/-- A disarmed start holds nothing, and its other flags stay. -/
theorem State.disarm_seq : let t := s.disarm (actId 3 k)
    Frame [.acts] (· = seqR k + 8) s t ∧ t.act (actId 3 k) = {} ∧ t.bit (seqR k + 8) 2 = false := by
  obtain ⟨hm, hb⟩ := (s.setAct (actId 3 k) {}).markArmed_seq_spec k false
  exact ⟨((s.setAct_frame (actId 3 k) {}).mono).then hm, (hm.act _).trans (State.act_setAct_self _ _ _), hb⟩

/-- A disarmed start is refused for the same reason at its staging. -/
theorem State.startWhy_disarm : (s.disarm (actId 3 k)).startWhy k true = s.startWhy k true := by
  obtain ⟨hf, -⟩ := s.disarm_seq k
  have hon : (s.disarm (actId 3 k)).seqOn k = s.seqOn k := by rw [State.seqOn, s.disarm_seqState _ k.isLt, State.seqOn]
  exact hf.startWhy_ofSeq k.isLt (congrArg MemSt.notLoaded (hf.keeps .mem (by decide))) (hf.keeps .mode (by decide)) hon

/-- A review of the mode leaves the sequencers' registers and what is scheduled. -/
theorem State.reviewMode_seq : (s.reviewMode).act (actId 3 k) = s.act (actId 3 k) ∧
    ∀ i, s.reviewMode.bit (seqR k + 8) i = s.bit (seqR k + 8) i :=
  ⟨s.reviewMode_frame.act _, fun i => s.reviewMode_frame.bit _ i⟩

end

/-! ### Timed starts are armed, disarmed and staged (R262, R263) -/

variable {s} {k : Fin 16}

/-- In SERVICE and in SAFE arming is refused (R118, R122). -/
theorem seqArm_refused (h : s.noStart = true) : Does (.seqArm k) s fun t => t.bit (seqR k + 8) 14 = true ∧ t.fld (seqR k + 8) 31 28 = 3 ∧
    SameRegs [devKey (seqR k + 8)] s t := by
  obtain ⟨hf, hbit, hfld⟩ := s.refuseSeq_spec k (show 3 < 16 by decide)
  exact ⟨_, if_pos h, hbit, hfld, hf.sameRegs _ fun j hj => by simpa using hj⟩

theorem seqArm_arms (h : s.noStart = false) (hr : s.actReady (actId 3 k) = true)
    (hl : 2048 ≤ lead (s.rd64 (seqR k + 0x1C) (seqR k + 0x20)) s.now) : Does (.seqArm k) s fun t =>
      t.act (actId 3 k) = { armed := true, target := s.rd64 (seqR k + 0x1C) (seqR k + 0x20), drop := s.bit (seqR k) 12 } ∧
        t.bit (seqR k + 8) 2 = true := by
  obtain ⟨ha, hb⟩ := s.armAct_seq_inTime k
    { armed := true, target := s.rd64 (seqR k + 0x1C) (seqR k + 0x20), drop := s.bit (seqR k) 12, defer := true, data := 0 } hr hl
  let u := s.arm (actId 3 k) (s.rd64 (seqR k + 0x1C) (seqR k + 0x20)) (s.bit (seqR k) 12) 0
  change u.act (actId 3 k) = _ at ha
  change u.bit (seqR k + 8) 2 = true at hb
  let w := if u.bit (0x1840 + 4 * k) 16 || u.scanOf k != .idle then u else u.startScan k .arm
  have hw : Frame [.mem, .cyc, .agenda] (0x4000 ≤ ·) u w :=
    .ite (fun _ => .refl) fun _ => (u.startScan_spec k .arm).1.mono
  obtain ⟨hact, hbits⟩ := w.reviewMode_seq k
  exact ⟨w.reviewMode, if_neg (by simp [h]), hact.trans ((hw.act _).trans ha), (hbits 2).trans ((hw.bit _ 2).trans hb)⟩

theorem seqDisarm_disarms : Does (.seqDisarm k) s fun t => t.act (actId 3 k) = {} ∧ t.bit (seqR k + 8) 2 = false := by
  obtain ⟨-, ha, hb⟩ := s.disarm_seq k
  obtain ⟨hact, hbits⟩ := (s.disarm (actId 3 k)).reviewMode_seq k
  exact ⟨_, rfl, hact.trans ha, (hbits 2).trans hb⟩

/-- A timed start that is not ready at its staging is refused with the reason (R263). -/
theorem seqStage_refused {r : Nat} (hd : s.stageDue k = true) (hw : s.startWhy k true = some r) : Does (.seqStage k) s fun t =>
    t.bit (seqR k + 8) 14 = true ∧ t.fld (seqR k + 8) 31 28 = r ∧ t.act (actId 3 k) = {} := by
  obtain ⟨-, ha, -⟩ := s.disarm_seq k
  have hwhy := (s.startWhy_disarm k).trans hw
  have hone : exec (.seqStage k) s = _ := if_neg (by simp [hd])
  dsimp only at hone
  rw [hwhy] at hone
  generalize s.disarm (actId 3 k) = u at ha hone
  obtain ⟨hf, hbit, hfld⟩ := u.refuseSeq_spec k (s.startWhy_lt hw)
  obtain ⟨hact, hbits⟩ := (u.refuseSeq k r).reviewMode_seq k
  exact ⟨_, hone, (hbits 14).trans hbit, ((State.reviewMode_frame _).fld _ 31 28).trans hfld, hact.trans ((hf.act _).trans ha)⟩

/-- With the demand cached, a timed start that fits begins at its staging (R263). -/
theorem seqStage_begins (hd : s.stageDue k = true) (hw : s.startWhy k true = none) (hc : s.bit (0x1840 + 4 * k) 16 = true)
    (h : s.fld 0x1824 15 0 + s.fld (0x1840 + 4 * k) 15 0 ≤ s.fld 0x1820 15 0) : Does (.seqStage k) s fun t =>
      s.Begun t k ∧ t.act (actId 3 k) = {} := by
  obtain ⟨hf, ha, -⟩ := s.disarm_seq k
  have hwhy := (s.startWhy_disarm k).trans hw
  have hone : exec (.seqStage k) s = _ := if_neg (by simp [hd])
  dsimp only at hone
  rw [hwhy] at hone
  generalize s.disarm (actId 3 k) = u at hf ha hone
  have hfit : u.fld 0x1824 15 0 + u.fld (0x1840 + 4 * k) 15 0 ≤ u.fld 0x1820 15 0 := by
    rwa [hf.fld 0x1824 15 0, hf.fld (0x1840 + 4 * k) 15 0, hf.fld 0x1820 15 0]
  have hbegins := u.takeIn_begins k.isLt hfit
  replace hone := hone.trans (if_pos ((hf.bit _ 16).trans hc))
  generalize u.takeIn k = p at hbegins hone
  obtain ⟨w, good⟩ := p
  obtain rfl : good = true := (hbegins 0 0 none).1
  replace hone := hone.trans (if_pos rfl)
  obtain ⟨-, hkept, hbegun⟩ := hbegins w.time.mono (w.stageAt (s.act (actId 3 k))) none
  have hr := State.reviewMode_frame (w.beginSeq k w.time.mono (w.stageAt (s.act (actId 3 k))) none)
  exact ⟨_, hone, (hbegun.earlier hf k.isLt).later hr (by decide) (by simp only [seqR, pendKey]; omega) (by simp only [pendKey]; omega),
    (hr.act _).trans ((hkept.act _).trans ha)⟩

/-- A start by register or by an event at the start input, refused or admitted with a cached demand or after a scan, is
settled by what accepts it (R259, R260, R261). -/
theorem startSeq_settles {c : Instr} (hc : exec c s = .next (s.startSeq k)) :
    (∀ r, s.startWhy k false = some r → Does c s fun t => t.bit (seqR k + 8) 14 = true ∧ t.fld (seqR k + 8) 31 28 = r ∧
      SameRegs [devKey (seqR k + 8)] s t ∧ SameStores s t) ∧
    (s.startWhy k false = none → s.scanOf k = .idle →
      (s.bit (0x1840 + 4 * k) 16 = true → Does c s fun t => t.scanOf k = .entering ∧
        (s.time.mono + 64, Instr.admitScanDone k) ∈ t.agenda ∧ SameRegs [] s t) ∧
      (s.bit (0x1840 + 4 * k) 16 = false → Does c s fun t => t.scanOf k = .start ∧
        (s.time.mono + s.scanTu k, Instr.admitScanDone k) ∈ t.agenda ∧ SameRegs [viKey (s.ownerVi .seq k) 0x182C] s t)) :=
  ⟨fun _ hw => ⟨_, hc, State.startSeq_refused hw⟩, fun hw hi =>
    ⟨fun hb => ⟨_, hc, State.startSeq_enters hw hi hb⟩, fun hb => ⟨_, hc, State.startSeq_scans hw hi hb⟩⟩⟩

/-- An event at the start input of a halted sequencer starts it (R261). -/
theorem exec_seqEventInput_starts {i : Fin 4} (h4 : s.bit (seqR k) 4 = true) (hon : s.seqOn k = false) (hi : s.fld (seqR k) 6 5 = i.val) :
    exec (.seqEventInput k i) s = .next (s.startSeq k) :=
  (if_pos (by simp [hon])).trans (if_pos (by simp [h4, hi]))

/-- Settles O33: a start runs through its refusals, its admission and its beginning; a timed one is armed, disarmed and staged. -/
theorem startsAreRefusedOrAdmitted : Obligations.StartsAreRefusedOrAdmitted := by
  intro s k go fits begun tgt
  exact ⟨startSeq_settles rfl,
    fun h4 hon => ⟨startSeq_settles (if_pos (by simp [h4, hon])), fun i hi => startSeq_settles (exec_seqEventInput_starts h4 hon hi)⟩,
    fun hp hw hn hc hf => admitScanDone_begins s hp hw hn hc hf, seqArm_refused, seqArm_arms, seqDisarm_disarms,
    fun hd hw hc hf => seqStage_begins hd hw hc hf, fun r hd hw => seqStage_refused hd hw⟩

end Sys2Proof.Machine
end

section
/-! SUPPORT. What a read of words under the code count leaves as it was (R193): the resources, ranges, descriptors and flags that a step's
fields are judged by (R226 to R228). -/

namespace Sys2Proof.Machine

-- Proofs one after another: many that wait in threads of their own would pass the check's memory limit.
set_option Elab.async false

section
variable {s t : State} (h : Frame [.cyc] eccKey s t)
include h

/-! ### Resources -/

theorem Frame.owner_read (c : Kind) (i : Nat) : t.owner c i = s.owner c i := by
  have hb : 0x3C00 ≤ c.base := by cases c <;> decide
  rw [State.owner, State.owner, State.inForce, State.inForce, h.bit 0x3C08 0, h.rd (c.base + 4 * (i / 4))]

theorem Frame.owns_read (v : Nat) (c : Kind) (i : Nat) : t.owns v c i = s.owns v c i := by
  rw [State.owns, State.owns, h.owner_read]

theorem Frame.ownerVi_read (c : Kind) (i : Nat) : t.ownerVi c i = s.ownerVi c i := by
  rw [State.ownerVi, State.ownerVi, h.owner_read]

theorem Frame.phys_read (v : Nat) (c : Kind) (j : Nat) : t.phys v c j = s.phys v c j :=
  h.phys (fun k hk he => by omega) v c j

theorem Frame.own_read (v : Nat) (c : Kind) (j : Nat) : t.own v c j = s.own v c j := by
  simp only [State.own, h.phys_read, show t.owns v c = s.owns v c from funext (h.owns_read v c)]

theorem Frame.chOwn_read (v n : Nat) : t.chOwn v n = s.chOwn v n := by
  simp only [State.chOwn, h.own_read]

theorem Frame.virt_read (v : Nat) (c : Kind) (i : Nat) : t.virt v c i = s.virt v c i := by
  simp only [State.virt, h.physView_of eccKey_numbers, h.owns_read, h.owned_of eccKey_numbers]

/-! ### A sequencer's range and outputs -/

theorem Frame.inTable_read (k : Fin 16) (i : Nat) : t.inTable k i = s.inTable k i := by
  simp only [State.inTable, h.fld (seqR k + 0x10) 17 0, h.fld (seqR k + 0x14) 17 0]

theorem Frame.boundAout_read (v : Nat) (k : Fin 16) (n : Nat) : t.boundAout v k n = s.boundAout v k n := by
  have hb (c : Nat) : t.bindsAout k c = s.bindsAout k c := h.bit (seqR k + 0xC) c
  simp only [State.boundAout, h.phys_read, hb]

theorem Frame.boundBanks_read (v : Nat) (k : Fin 16) (n w : Nat) : t.boundBanks v k n w = s.boundBanks v k n w := by
  have hb (c : Nat) : t.bindsBank k c = s.bindsBank k c := h.bit (seqR k + 0xC) (8 + c)
  simp only [State.boundBanks, h.phys_read, hb]

/-! ### Descriptors -/

theorem Frame.bytes_read (vat : Bool) (a n : Nat) : t.bytes vat a n = s.bytes vat a n := by
  obtain ⟨hv, hm, -⟩ := h.sameStores
  simp only [State.bytes, hv, hm]

theorem Frame.dirEntry_read (v d : Nat) : t.dirEntry v d = s.dirEntry v d := by
  unfold State.dirEntry State.stepG
  dsimp only
  rw [h.owned_of eccKey_numbers, h.vatAddr_of eccKey_numbers]
  simp only [h.owns_read]

theorem Frame.validDesc_read (v d : Nat) : t.validDesc v d = s.validDesc v d := by
  have hst (p : Nat) : t.dirState p = s.dirState p := by
    simp only [State.dirState, show t.mem = s.mem from h.keeps .mem (by decide)]
  have hd (p : Nat) : t.descAt p = s.descAt p := by simp only [State.descAt, h.bytes_read]
  simp only [State.validDesc, h.dirEntry_read, hst, hd]

theorem Frame.listFor_read (v : Nat) (w : BitVec 128) (dwell ramp : Nat) : t.listFor v w dwell ramp = s.listFor v w dwell ramp := by
  simp only [State.listFor, h.validDesc_read, State.paramElems, h.loadVi_of eccKey_numbers (by decide) (by decide)]

theorem Frame.playDest_read (v : Nat) (w : BitVec 128) : t.playDest v w = s.playDest v w := by
  simp only [State.playDest, h.phys_read]

theorem Frame.perElem_read (v : Nat) (w : BitVec 128) (d : Desc) : t.perElem v w d = s.perElem v w d := by
  simp only [State.perElem, h.playDest_read, State.interp, h.fld (aoutR (s.playDest v w) + 4) 1 0, h.fld (aoutR (s.playDest v w) + 4) 5 4]

theorem Frame.playBad_read (v : Nat) (k : Fin 16) (w : BitVec 128) (table : Bool) : t.playBad v k w table = s.playBad v k w table := by
  have hm (c : Nat) : t.fld (aoutR c + 4) 1 0 = s.fld (aoutR c + 4) 1 0 := h.fld (aoutR c + 4) 1 0
  simp only [State.playBad, h.boundBanks_read, h.validDesc_read, h.boundAout_read, hm]

/-! ### What a run sees -/

theorem Frame.vi_read (v : Nat) : t.vi v = s.vi v := by
  simp only [State.vi, show t.vis = s.vis from h.keeps .vis (by decide)]

theorem Frame.seen_read (k : Fin 16) : t.seen k = s.seen k := by
  have hev (c : Nat) (hc : c < 64) : t.rd (0xB00 + 4 * c) = s.rd (0xB00 + 4 * c) := h.rd _
  have hevs : (List.range 64).map (fun c => t.rd (0xB00 + 4 * c)) = (List.range 64).map fun c => s.rd (0xB00 + 4 * c) :=
    List.map_congr_left fun c hc => hev c (List.mem_range.mp hc)
  have hcnt (b : Nat) : t.rd (pbR b + 0x34) = s.rd (pbR b + 0x34) := h.rd _
  have hfail (b : Nat) : t.pbBit b 2 = s.pbBit b 2 := h.bit (pbR b + 8) 2
  have hcmp (n : Nat) : t.bit (0x2B44 + 0x10 * n) 0 = s.bit (0x2B44 + 0x10 * n) 0 := h.bit _ 0
  simp only [State.seen, State.snapshot, h.sq, h.fld (seqR k + 0x44) 3 0, hevs, hcnt, hfail, hcmp, h.vi_read, h.ownerVi_read]

/-- The condition of a BRANCH, on a counter the sequencer has (R239). -/
theorem Frame.branchCond_read (v : Nat) (k : Fin 16) (w : BitVec 128) (hsel : bf w 119 116 = 4 → bf w 107 104 < 4) :
    t.branchCond v k w = s.branchCond v k w := by
  unfold State.branchCond
  simp only [h.own_read, h.seen_read]
  split <;> try rfl
  next h4 =>
    have := hsel h4
    rw [h.rd (seqR k + 0x70 + 4 * bf w 107 104)]

theorem Frame.loopAgain_read (k : Fin 16) {n : Nat} (hn : n < 4) : t.loopAgain k n = s.loopAgain k n := by
  simp only [State.loopAgain, h.bit (loopR k n + 4) 30 (by simp only [loopR, seqR]; omega), h.rd (loopR k n) (by simp only [loopR, seqR]; omega)]

/-- Queues of the scan-out, and the slots committed FLIPs hold, are no registers of a read (R252). -/
theorem Frame.flipFull_read (l : Nat) : t.flipFull l = s.flipFull l := by
  have hlock : t.lock2 = s.lock2 := h.bit 0x2C00 12
  have hlink (l : Nat) : t.qLink l = s.qLink l := by simp only [State.qLink, hlock]
  have hq (l : Nat) : t.dsiQ l = s.dsiQ l := by
    simp only [State.dsiQ, State.lk, show t.disp = s.disp from h.keeps .disp (by decide), h.act]
  have hr (l : Nat) : t.dsiReserved l = s.dsiReserved l := by
    simp only [State.dsiReserved, hlink, show t.seqs = s.seqs from h.keeps .seqs (by decide)]
  simp only [State.flipFull, State.dsiFull, hlink, hq, hr]

end

end Sys2Proof.Machine
end

section
/-! SUPPORT. The commit of a step (R227, R255, R265): what a commit cycle reads before the step acts, what it answers with and without a
fault cause, and what a control step and the end of a run leave behind. -/

namespace Sys2Proof.Machine

-- Proofs one after another: many that wait in threads of their own would pass the check's memory limit.
set_option Elab.async false

variable {P : List Aspect} {K : Nat → Prop} {s u t : State} {k : Fin 16} {op b : Nat} {w : BitVec 128}

/-! ### The rows of the step words -/

theorem exec_play : exec (.play k) s = execPlay k s := rfl
theorem exec_playloop : exec (.playloop k) s = execPlayloop k s := rfl
theorem exec_hold : exec (.hold k) s = execHold k s := rfl
theorem exec_waitEvent : exec (.waitEvent k) s = execWaitEvent k s := rfl
theorem exec_waitTime : exec (.waitTime k) s = execWaitTime k s := rfl
theorem exec_branch : exec (.branch k) s = execBranch k s := rfl
theorem exec_loopBegin : exec (.loopBegin k) s = execLoopBegin k s := rfl
theorem exec_loopEnd : exec (.loopEnd k) s = execLoopEnd k s := rfl
theorem exec_call : exec (.call k) s = execCall k s := rfl
theorem exec_ret : exec (.ret k) s = execRet k s := rfl
theorem exec_setFreq : exec (.setFreq k) s = execSetFreq k s := rfl
theorem exec_setPhase : exec (.setPhase k) s = execSetPhase k s := rfl
theorem exec_setAmpl : exec (.setAmpl k) s = execSetAmpl k s := rfl
theorem exec_marker : exec (.marker k) s = execMarker k s := rfl
theorem exec_sync : exec (.sync k) s = execSync k s := rfl
theorem exec_signalPost : exec (.signalPost k) s = execSignalPost k s := rfl
theorem exec_signalFire : exec (.signalFire k) s = execSignalFire k s := rfl
theorem exec_count : exec (.count k) s = execCount k s := rfl
theorem exec_flip : exec (.flip k) s = execFlip k s := rfl
theorem exec_timing : exec (.timing k) s = execTiming k s := rfl
theorem exec_endStep : exec (.endStep k) s = execEndStep k s := rfl

/-! ### The words a commit reads -/

/-- The state a step acts in: its fields can be judged, and its own word has been read under the code (R193). -/
def State.stepRead (s : State) (k : Nat) (w : BitVec 128) : State :=
  match (s.fetched k w).stepAddr (s.ownerVi .seq k) (s.sq k).pc with
  | some p => (s.fetched k w).readWords true p 16
  | none => s.fetched k w

theorem State.stepRead_frame (s : State) (k : Nat) (w : BitVec 128) : Frame [.cyc] eccKey (s.fetched k w) (s.stepRead k w) := by
  unfold State.stepRead
  split
  · exact State.readWords_eccKey _ _ _ _
  · exact .refl

theorem State.fetched_frame (s : State) (k : Nat) (w : BitVec 128) :
    Frame [.mem, .cyc] (fun j => eccKey j ∨ j = seqR k + 0x40) s (s.fetched k w) := by
  have hf := s.wr_frame (seqR k + 0x40) (BitVec.ofNat 32 (s.sq k).pc)
  unfold State.fetched
  dsimp only
  split
  · exact (hf.mono).then (State.validateNew_eccKey _ _ _) (hK := fun _ hj => .inl hj)
  · exact hf.mono

/-- SEQk_PC shows the step in its commit cycle (R265). -/
theorem State.fetched_shows (s : State) (k : Fin 16) (w : BitVec 128) :
    (s.fetched k w).rd (seqR k + 0x40) = BitVec.ofNat 32 (s.sq k).pc := by
  unfold State.fetched
  dsimp only
  split
  · rw [(State.validateNew_eccKey _ _ _).rd (seqR k + 0x40), State.rd_wr_self]
  · exact State.rd_wr_self _ _ _

/-- Validating a descriptor leaves which words hold errors. -/
theorem State.fetched_errs (s : State) (k : Nat) (w : BitVec 128) : (s.fetched k w).mem.errs = s.mem.errs := by
  have hv (u : State) (v p : Nat) : (u.validateNew v p).mem.errs = u.mem.errs := by
    unfold State.validateNew
    split
    · have hm : (u.readWords true p 32).mem = u.mem := (u.readWords_eccKey true p 32).keeps .mem (by decide)
      simp only [State.validate, State.setDirState, hm]
    · rfl
  unfold State.fetched
  dsimp only
  split
  · exact hv _ _ _
  · rfl

theorem State.fetched_badStep (s : State) (k : Nat) (w : BitVec 128) (p : Nat) : (s.fetched k w).badStep p = s.badStep p := by
  simp only [State.badStep, State.errsIn, Bool.true_or, if_true, s.fetched_errs k w]

theorem State.fetched_stepAddr (s : State) (k : Fin 16) (w : BitVec 128) (v i : Nat) :
    (s.fetched k w).stepAddr v i = s.stepAddr v i := by
  have h := s.fetched_frame k w
  have hn : Frame.Numbers fun j => eccKey j ∨ j = seqR k + 0x40 := ⟨fun j _ _ => by simp only [seqR]; omega, by simp only [seqR, viKey]; omega⟩
  have ho (p : Nat) (hp : p < 0x400000) : (s.fetched k w).owns v .vat (p / 0x40000) = s.owns v .vat (p / 0x40000) :=
    h.owns_of hn v .vat (by omega)
  unfold State.stepAddr
  rw [h.vatAddr_of hn]
  split
  · next p _ =>
    by_cases hp : p < 0x400000
    · simp only [ho p hp]
    · simp only [hp, false_and, if_false]
  · rfl

/-! ### Fault causes -/

theorem lowest_none {l : List (Bool × Nat)} (h : ∀ c ∈ l, c.1 = false) : lowest l = none := by
  have hl : l.filter (·.1) = [] := List.filter_eq_nil_iff.mpr fun c hc => by simp [h c hc]
  simp [lowest, hl]

theorem answer_eq (o : Option Nat) (f : Nat → State) (t : State) : (match o with
    | some c => ok (f c)
    | none => ok t : Res) = o.elim (ok t) fun c => ok (f c) := by
  cases o <;> rfl

variable {sel : BitVec 128 → Bool} {chk : State → Nat → BitVec 128 → List (Bool × Nat)} {run : State → Nat → Nat → BitVec 128 → State}

/-- What a commit answers: the step's lowest fault, or what the step does (R255, R265). -/
theorem State.Commits.commitStep_eq (h : s.Commits k op b w) {o : Nat}
    (ho : (op == o && sel w || (!opcodes.contains op && o == 1)) = true) :
    s.commitStep k o sel chk run =
      (lowest (if !opcodes.contains op then [(true, 1)] else
        chk (s.stepRead k w) (s.ownerVi .seq k) w ++ [(false, 0x0C)])).elim
          (ok (run (s.stepRead k w) (s.ownerVi .seq k) b w)) fun c => ok ((s.stepRead k w).stepFault k c) := by
  obtain ⟨hon, htgt, hstop, rfl, rfl, herr⟩ := h
  generalize hw : s.stepWord (s.ownerVi .seq k) (s.sq k).pc = w at ho ⊢
  have hbad : ((s.fetched k w).stepAddr (s.ownerVi .seq k) (s.sq k).pc).any (s.fetched k w).badStep = false := by
    rw [s.fetched_stepAddr k]
    cases hp : s.stepAddr (s.ownerVi .seq k) (s.sq k).pc with
    | none => rfl
    | some p => exact (s.fetched_badStep k _ p).trans (herr p hp)
  unfold State.commitStep
  dsimp only
  rw [htgt]
  dsimp only
  rw [if_neg (by rcases hstop with h0 | h0 <;> simp [h0]), hw, if_neg (by simp only [hon, ho]; decide), ← hbad]
  exact answer_eq _ _ _

/-- A step of the row's own opcode with no fault cause does what the row says. -/
theorem State.Commits.does (h : s.Commits k op b w) {c : Instr} (he : exec c s = s.commitStep k op sel chk run)
    (hop : opcodes.contains op = true) (hsel : sel w = true) (hc : ∀ c ∈ chk (s.stepRead k w) (s.ownerVi .seq k) w, c.1 = false)
    {Q : State → Prop} (hQ : Q (run (s.stepRead k w) (s.ownerVi .seq k) b w)) : Does c s Q := by
  have hall : ∀ c ∈ chk (s.stepRead k w) (s.ownerVi .seq k) w ++ [(false, 0x0C)], c.1 = false := fun c hm =>
    (List.mem_append.mp hm).elim (hc c) fun hm => by rw [List.mem_singleton.mp hm]
  refine ⟨_, ?_, hQ⟩
  rw [he, h.commitStep_eq (by simp [hsel]), if_neg (by rw [hop]; decide), lowest_none hall]
  rfl

/-- What a step fault of sequencer `k` shows: its code with the step's index, and a halt at the next boundary (R255, R283). -/
def State.Faults (s t : State) (k code : Nat) : Prop :=
  t.rd (seqR k + 0x48) = BitVec.ofNat 32 (code * 2 ^ 24 + (s.sq k).pc) ∧ (t.sq k).target = none ∧
    (t.sq k).stopT = ((s.sq k).stopFrom s.time.mono 2).stopT

/-! ### A step in its commit cycle -/

/-- In `u` the step of sequencer `k` that was up in `s` is being committed: its run, its boundary and the stores stand, and SEQk_PC shows
it. -/
structure State.AtStep (s u : State) (k : Nat) : Prop where
  pc : (u.sq k).pc = (s.sq k).pc
  eff : (u.sq k).eff = (s.sq k).eff
  runLen : (u.sq k).runLen = (s.sq k).runLen
  target : (u.sq k).target = (s.sq k).target
  memB0 : (u.sq k).memB0 = (s.sq k).memB0
  time : u.time = s.time
  shown : u.rd (seqR k + 0x40) = BitVec.ofNat 32 (s.sq k).pc
  stores : SameStores s u

/-- What leaves the sequencers, the time, the stores and SEQk_PC leaves the commit. -/
theorem State.AtStep.frame {k : Nat} (h : s.AtStep u k) (hf : Frame P K u t) (hs : Aspect.seqs ∉ P := by decide)
    (ht : Aspect.time ∉ P := by decide) (hm : Aspect.stores ∉ P := by decide) (hK : ¬ K (seqR k + 0x40) := by
      simp -failIfUnchanged only [devKey, viKey, seqR, aoutR, pbR] at *; omega) : s.AtStep t k := by
  obtain ⟨hpc, heff, hlen, htgt, hb0, htime, hshown, hstores⟩ := h
  have hq : t.sq k = u.sq k := hf.sq k hs
  exact ⟨hq ▸ hpc, hq ▸ heff, hq ▸ hlen, hq ▸ htgt, hq ▸ hb0, Eq.trans (hf.keeps .time ht) htime, (hf.rd _ hK).trans hshown,
    hstores.trans (hf.sameStores hm)⟩

/-- A change of what else a sequencer holds leaves the commit. -/
theorem State.AtStep.setSq {k : Nat} (h : s.AtStep u k) {x : SeqSt} (hpc : x.pc = (u.sq k).pc := by rfl)
    (heff : x.eff = (u.sq k).eff := by rfl) (hlen : x.runLen = (u.sq k).runLen := by rfl)
    (htgt : x.target = (u.sq k).target := by rfl) (hb0 : x.memB0 = (u.sq k).memB0 := by rfl) : s.AtStep (u.setSq k x) k := by
  refine ⟨?_, ?_, ?_, ?_, ?_, h.time, h.shown, h.stores⟩ <;> rw [State.sq_setSq_self]
  · exact hpc.trans h.pc
  · exact heff.trans h.eff
  · exact hlen.trans h.runLen
  · exact htgt.trans h.target
  · exact hb0.trans h.memB0

theorem State.stepRead_atStep (s : State) (k : Fin 16) (w : BitVec 128) : s.AtStep (s.stepRead k w) k := by
  have hf := s.fetched_frame k w
  have hq := hf.sq k
  have h : s.AtStep (s.fetched k w) k := ⟨by rw [hq], by rw [hq], by rw [hq], by rw [hq], by rw [hq], hf.keeps .time (by decide),
    s.fetched_shows k w, hf.sameStores⟩
  exact h.frame (s.stepRead_frame k w)

/-- The sequencer's own state is as it was when the step came up. -/
theorem State.stepRead_sq (s : State) (k : Nat) (w : BitVec 128) (j : Nat) : (s.stepRead k w).sq j = s.sq j :=
  ((s.stepRead_frame k w).sq j).trans ((s.fetched_frame k w).sq j)

theorem State.nextBad_stepRead {s : State} {k : Fin 16} {w : BitVec 128} (h : (s.fetched k w).inTable k ((s.sq k).pc + 1) = true) :
    (s.stepRead k w).nextBad k = false := by
  simp only [State.nextBad, s.stepRead_sq, (s.stepRead_frame k w).inTable_read, h, Bool.not_true]

/-! ### A control step goes on -/

theorem State.goOn_frame (s : State) (k next : Nat) (e : List Eff) : Frame [.seqs] noKey s (s.goOn k next e) := s.setSq_frame k _

@[simp] theorem State.goOn_rd (s : State) (k next : Nat) (e : List Eff) (o : Nat) : (s.goOn k next e).rd o = s.rd o := rfl
@[simp] theorem State.goOn_bit (s : State) (k next : Nat) (e : List Eff) (o i : Nat) : (s.goOn k next e).bit o i = s.bit o i := rfl
@[simp] theorem State.goOn_fld (s : State) (k next : Nat) (e : List Eff) (o hi lo : Nat) :
    (s.goOn k next e).fld o hi lo = s.fld o hi lo := rfl

/-- A control step goes on with its run (R265). -/
theorem State.AtStep.goOn {k : Nat} (h : s.AtStep u k) (next : Nat) (e : List Eff) : s.Advances (u.goOn k next e) k next e := by
  have hf := u.goOn_frame k next e
  have hq : (u.goOn k next e).sq k = _ := u.sq_setSq_self k _
  refine ⟨?_, ?_, ?_, ?_, (hf.rd _).trans h.shown, h.stores.trans hf.sameStores⟩ <;> rw [hq]
  · exact congrArg (· ++ e) h.eff
  · exact congrArg (· + 1) h.runLen
  · exact h.target

/-! ### A run ends -/

/-- The boundary a run ends at, and the sequencer's state with it: a start's first segment in memory fixes both (R211, R258). -/
def State.runEnd (s : State) (k b : Nat) (c : Cur) : SeqSt × Nat :=
  let x := s.sq k
  match x.memB0, (s.curDesc (s.ownerVi .seq k) c).any (·.mem) with
  | some t, true =>
    let (l, j) := s.firstBoundary k (s.fld (seqR k + 8) 23 22) t
    ({ x with tl := l, memB0 := none, done := j }, j)
  | _, _ => ({ x with memB0 := none }, b)

/-- The boundary that a run of more than 64 executions moves to (R267). -/
def SeqSt.movedTo (x : SeqSt) (b : Nat) : Nat := if 64 < x.runLen then max b (x.from_ (x.runAt + 32 * x.runLen)) else b

/-- The stall of a run whose boundary moves shows and counts. -/
def State.stallShown (s : State) (k : Nat) (x : SeqSt) (b b' : Nat) : State :=
  if b < b' then (s.incSat (seqR k + 0x38) (x.at_ b' - x.at_ b)).wbit (seqR k + 8) 19 true else s

theorem State.stallShown_frame (s : State) (k : Nat) (x : SeqSt) (b b' : Nat) :
    Frame [.cyc] (fun j => j = seqR k + 0x38 ∨ j = seqR k + 8) s (s.stallShown k x b b') :=
  .ite (fun _ => ((s.incSat_frame _ _).mono).then (State.wbit_frame _ (seqR k + 8) 19 true)) fun _ => .refl

/-- The sequencer's state once its run has ended at boundary `b'`, with a stall in its place until then. -/
def SeqSt.ended (x : SeqSt) (hold : List (Nat × Nat × List Eff × Cur)) (b' next now : Nat) (c : Cur) (tgt : Nat → Option Nat) : SeqSt :=
  { x with pc := next, eff := [], runLen := 0, snap := none, queue := x.queue ++ hold ++ [(b', x.pc, x.eff, c)], plan := c,
           planAt := b', target := tgt b', lastC := now, started := true }

theorem State.endRun_eq (s : State) (k b next : Nat) (c : Cur) (tgt : Nat → Option Nat) : ∃ hold,
    s.endRun k b next c tgt =
      (s.stallShown k (s.runEnd k b c).1 (s.runEnd k b c).2 ((s.runEnd k b c).1.movedTo (s.runEnd k b c).2)).setSq k
        ((s.runEnd k b c).1.ended hold ((s.runEnd k b c).1.movedTo (s.runEnd k b c).2) next
          (s.stallShown k (s.runEnd k b c).1 (s.runEnd k b c).2 ((s.runEnd k b c).1.movedTo (s.runEnd k b c).2)).time.mono c tgt) :=
  ⟨_, rfl⟩

/-- The end of a run leaves what the run has gathered, and its boundary stands unless a first segment in memory fixes it. -/
theorem State.runEnd_spec (s : State) (k b : Nat) (c : Cur) : let r := s.runEnd k b c
    r.1.pc = (s.sq k).pc ∧ r.1.eff = (s.sq k).eff ∧ r.1.runLen = (s.sq k).runLen ∧ ((s.sq k).memB0 = none → r.2 = b) := by
  unfold State.runEnd
  dsimp only
  split
  · next hm _ => exact ⟨rfl, rfl, rfl, fun h0 => by simp [h0] at hm⟩
  · exact ⟨rfl, rfl, rfl, fun _ => rfl⟩

theorem State.endRun_frame (s : State) (k b next : Nat) (c : Cur) (tgt : Nat → Option Nat) :
    Frame [.cyc, .seqs] (fun j => j = seqR k + 0x38 ∨ j = seqR k + 8) s (s.endRun k b next c tgt) := by
  obtain ⟨hold, he⟩ := s.endRun_eq k b next c tgt
  rw [he]
  exact ((s.stallShown_frame k _ _ _).mono (hK := fun _ hj => hj)).then (State.setSq_frame _ k _)

/-- An output or holding step ends the run, which waits with its effects for the boundary (R265, R267). -/
theorem State.AtStep.endRun {k : Nat} (h : s.AtStep u k) (b next : Nat) (c : Cur) (tgt : Nat → Option Nat) :
    let t := u.endRun k b next c tgt
    s.Plans t k b next c ∧ (t.sq k).target = tgt (t.sq k).planAt := by
  have hf := u.endRun_frame k b next c tgt
  obtain ⟨hpc, heff, hlen, hb⟩ := u.runEnd_spec k b c
  obtain ⟨hold, he⟩ := u.endRun_eq k b next c tgt
  have hshown : (u.endRun k b next c tgt).rd (seqR k + 0x40) = _ := (hf.rd (seqR k + 0x40)).trans h.shown
  have hstores := h.stores.trans hf.sameStores
  have hq := (congrArg (State.sq · k) he).trans (State.sq_setSq_self _ _ _)
  dsimp only at hq ⊢
  rw [(u.stallShown_frame k _ _ _).mono_eq, h.time] at hq
  refine ⟨⟨?_, ?_, ?_, ?_, ?_, ?_, fun h0 h64 => ?_, hshown, hstores⟩, ?_⟩ <;> rw [hq]
  · rfl
  · rfl
  · rfl
  · rfl
  · rfl
  · simp [SeqSt.ended, hpc, heff, h.pc, h.eff]
  · change (u.runEnd k b c).1.movedTo (u.runEnd k b c).2 = b
    rw [SeqSt.movedTo, if_neg (by rw [hlen, h.runLen]; omega), hb (h.memB0.trans h0)]
  · rfl

/-! ### A step faults -/

theorem State.noteFault_frame (s : State) (k code step : Nat) :
    Frame [.cyc, .out] (fun j => j = seqR k + 0x48 ∨ pendKey j) s (s.noteFault k code step) :=
  ((s.wr_frame _ _).mono (hK := fun _ hj => .inl hj)).then (State.pendOwner_frame _ .seq k 10) (hK := fun _ hj => .inr hj)

theorem State.noteFault_rd (s : State) (k : Fin 16) (code step : Nat) :
    (s.noteFault k code step).rd (seqR k + 0x48) = BitVec.ofNat 32 (code * 2 ^ 24 + step) :=
  ((State.pendOwner_frame _ .seq k 10).rd _).trans (State.rd_wr_self _ _ _)

theorem SeqSt.stopFrom_stopT {x y : SeqSt} (h : x.stopT = y.stopT) (t why : Nat) : (x.stopFrom t why).stopT = (y.stopFrom t why).stopT := by
  unfold SeqSt.stopFrom
  rw [h]
  split
  · split
    · exact h
    · rfl
  · rfl

theorem SeqSt.stopFrom_target (x : SeqSt) (t why : Nat) : (x.stopFrom t why).target = x.target := by
  unfold SeqSt.stopFrom
  split
  · split <;> rfl
  · rfl

theorem State.stepFault_faults (s : State) (k : Fin 16) (w : BitVec 128) (code : Nat) :
    s.Faults ((s.stepRead k w).stepFault k code) k code := by
  have hq := s.stepRead_sq k w k
  have htime : ((s.stepRead k w).noteFault k code (s.sq k).pc).time = s.time :=
    Eq.trans ((State.noteFault_frame _ k code _).keeps .time (by decide)) (s.stepRead_atStep k w).time
  unfold State.stepFault State.Faults
  simp only [hq, htime, State.sq_setSq_self]
  refine ⟨((State.setSq_frame _ k _).rd _).trans (State.noteFault_rd _ k code _), ?_, ?_⟩
  · rw [SeqSt.stopFrom_target]
  · refine SeqSt.stopFrom_stopT ?_ _ _
    rfl

/-- A step of the row's own opcode whose lowest fault cause is `code` faults with it. -/
theorem State.Commits.faults (h : s.Commits k op b w) {c : Instr} (he : exec c s = s.commitStep k op sel chk run)
    (hop : opcodes.contains op = true) (hsel : sel w = true) {code : Nat}
    (hc : lowest (chk (s.stepRead k w) (s.ownerVi .seq k) w ++ [(false, 0x0C)]) = some code) : Does c s (s.Faults · k code) := by
  refine ⟨_, ?_, s.stepFault_faults k w code⟩
  rw [he, h.commitStep_eq (by simp [hsel]), if_neg (by rw [hop]; decide), hc]
  rfl

end Sys2Proof.Machine
end

section
/-! PROOF. O29: BRANCH, loops, CALL, RETURN and COUNT (R239 to R242, R251). -/

namespace Sys2Proof.Machine

-- Proofs one after another: many that wait in threads of their own would pass the check's memory limit.
set_option Elab.async false

variable {s u : State} {k : Fin 16} {b : Nat} {w : BitVec 128}

/-! ### BRANCH (R239) -/

theorem State.AtStep.consumeEf (h : s.AtStep u k) (i : Nat) : s.AtStep (u.consumeEf k i) k := by
  have hsnap : s.AtStep (if (u.sq k).snap.isSome then
      u.setSq k { u.sq k with snap := (u.sq k).snap.map fun y => { y with ef := setBit y.ef i false } } else u) k := by
    split
    · exact h.setSq
    · exact h
  exact (hsnap.frame (State.wbit_frame _ (seqR k + 0x44) i false)).frame (State.touch_frame _ _ _)

theorem State.AtStep.consumeFail (h : s.AtStep u k) (bank : Nat) : s.AtStep (u.consumeFail k bank) k := by
  have hsnap : s.AtStep (if (u.sq k).snap.isSome then
      u.setSq k { u.sq k with snap := (u.sq k).snap.map fun y => { y with fail := setBit y.fail bank false } } else u) k := by
    split
    · exact h.setSq
    · exact h
  exact hsnap.frame (State.wpb_frame _ bank 2 false)

/-- BRANCH goes on at its target where its condition holds, and at the next step where it does not. -/
theorem branch_steers (h : s.Commits k 0x06 b w) {taken : Bool}
    (htaken : taken = ((s.fetched k w).branchCond (s.ownerVi .seq k) k w != tb w 115))
    (hres : resBad w ([(119, 116), (115, 115), (107, 104), (81, 64)] ++
      (if bf w 119 116 = 1 ∨ bf w 119 116 = 2 then [(114, 114)] else []) ++
      if bf w 119 116 = 3 ∨ bf w 119 116 = 4 then [(111, 108), (31, 0)] else []) = false)
    (hsrc : bf w 119 116 < 7) (hcmp : bf w 119 116 = 3 ∨ bf w 119 116 = 4 → bf w 111 108 < 6)
    (hsel : bf w 107 104 < (if bf w 119 116 = 0 then 1 else if bf w 119 116 = 2 ∨ bf w 119 116 = 3 then 8 else 4))
    (hto : (s.fetched k w).inTable k (bf w 81 64) = true)
    (hnext : taken = true ∨ (s.fetched k w).inTable k ((s.sq k).pc + 1) = true)
    (hbank : bf w 119 116 = 2 ∨ bf w 119 116 = 3 → ((s.fetched k w).own (s.ownerVi .seq k) .pb (bf w 107 104)).isSome = true)
    (hacmp : bf w 119 116 = 5 → ((s.fetched k w).own (s.ownerVi .seq k) .acmp (bf w 107 104)).isSome = true) :
    Does (.branch k) s (s.Advances · k (if taken then bf w 81 64 else (s.sq k).pc + 1) []) := by
  have hr := s.stepRead_frame k w
  have hcond : ((s.stepRead k w).branchCond (s.ownerVi .seq k) k w != tb w 115) = taken := by
    rw [hr.branchCond_read (s.ownerVi .seq k) k w fun h4 => by simpa [h4] using hsel, htaken]
  have hnextBad : (!taken && (s.stepRead k w).nextBad k) = false := by
    rcases hnext with h1 | h1
    · simp [h1]
    · simp [State.nextBad_stepRead h1]
  refine h.does exec_branch (by decide) rfl ?_ ?_
  · simp only [List.forall_mem_cons, List.not_mem_nil, false_implies, implies_true, and_true, hcond, hnextBad, hr.inTable_read, hto,
      hr.own_read, Bool.not_true, Bool.or_false]
    refine ⟨by simpa using hres, ?_, trivial, ?_⟩
    · simp only [Bool.or_eq_false_iff, Bool.and_eq_false_imp, Bool.or_eq_true, decide_eq_false_iff_not, beq_iff_eq, not_le]
      refine ⟨⟨hsrc, hcmp⟩, ?_⟩
      split <;> simp_all
    · simp only [Bool.or_eq_false_iff, Bool.and_eq_false_imp, Bool.or_eq_true, beq_iff_eq]
      exact ⟨fun h2 => by simpa using hbank h2, fun h5 => by simpa using hacmp h5⟩
  · have ha := s.stepRead_atStep k w
    have hflag : s.AtStep (if !tb w 114 then s.stepRead k w else if bf w 119 116 = 1 then (s.stepRead k w).consumeEf k (bf w 107 104)
        else (s.stepRead k w).consumeFail k (((s.stepRead k w).own (s.ownerVi .seq k) .pb (bf w 107 104)).getD 0)) k := by
      split_ifs
      · exact ha
      · exact ha.consumeEf _
      · exact ha.consumeFail _
    dsimp only
    rw [hcond, hflag.pc]
    exact hflag.goOn _ []

/-! ### Loops (R240) -/

theorem loopR_bounds (k : Fin 16) {n : Nat} (hn : n < 4) : seqR k + 0x50 ≤ loopR k n ∧ loopR k n + 4 < seqR k + 0x70 := by
  simp only [loopR]
  omega

/-- The word LOOP_BEGIN writes: the loop is active, it begins at the step after, and a count of 0 is without bound. -/
theorem loopWord_fields (p c : Nat) : let x : Word := setBit (setBit (BitVec.ofNat 32 p) 30 (c == 0)) 31 true
    tb x 31 = true ∧ tb x 30 = (c == 0) ∧ bf x 17 0 = p % 2 ^ 18 := by
  refine ⟨tb_setBit_self _ 31 true (by decide), ?_, ?_⟩
  · rw [tb_setBit _ 31 30 true (by decide), if_neg (by decide), tb_setBit_self _ 30 _ (by decide)]
  · rw [bf_setBit_ne _ _ (by decide) (by decide), bf_setBit_ne _ _ (by decide) (by decide)]
    simp only [bf, BitVec.toNat_ofNat, Nat.shiftRight_zero]
    omega

theorem loopBegin_begins (h : s.Commits k 0x07 b w) (hres : resBad w [(119, 118), (31, 0)] = false)
    (hnext : (s.fetched k w).inTable k ((s.sq k).pc + 1) = true) : Does (.loopBegin k) s fun t =>
      s.Advances t k ((s.sq k).pc + 1) [] ∧ t.rd (loopR k (bf w 119 118)) = BitVec.ofNat 32 (bf w 31 0) ∧
      t.bit (loopR k (bf w 119 118) + 4) 31 = true ∧ t.bit (loopR k (bf w 119 118) + 4) 30 = (bf w 31 0 == 0) ∧
      t.fld (loopR k (bf w 119 118) + 4) 17 0 = ((s.sq k).pc + 1) % 2 ^ 18 := by
  have hn := bf_lt w 119 118
  obtain ⟨hlo, hhi⟩ := loopR_bounds k hn
  refine h.does exec_loopBegin (by decide) rfl (by simp [hres, State.nextBad_stepRead hnext]) ?_
  have ha := s.stepRead_atStep k w
  have hpc := ha.pc
  generalize s.stepRead k w = g at ha hpc
  dsimp only
  rw [hpc]
  generalize loopR k (bf w 119 118) = r at hlo hhi
  obtain ⟨h31, h30, h17⟩ := loopWord_fields ((s.sq k).pc + 1) (bf w 31 0)
  generalize setBit (setBit (BitVec.ofNat 32 ((s.sq k).pc + 1)) 30 (bf w 31 0 == 0)) 31 true = x at h31 h30 h17
  have hw : s.AtStep ((g.wr r (BitVec.ofNat 32 (bf w 31 0))).wr (r + 4) x) k :=
    (ha.frame (g.wr_frame r _) (hK := by omega)).frame (State.wr_frame _ (r + 4) x) (hK := by omega)
  refine ⟨hw.goOn _ _, ?_, ?_, ?_, ?_⟩
  · rw [State.goOn_rd, State.rd_wr_ne _ _ (by omega), State.rd_wr_self]
  · rw [State.goOn_bit, State.bit, State.rd_wr_self, h31]
  · rw [State.goOn_bit, State.bit, State.rd_wr_self, h30]
  · rw [State.goOn_fld, State.fld, State.rd_wr_self, h17]

/-- A LOOP_END takes a pass off a bounded loop, and goes on at the loop's start or past its end. -/
theorem State.AtStep.loopEnd (h : s.AtStep u k) {n : Nat} (hn : n < 4) (hon : u.bit (loopR k n + 4) 31 = true) :
    let p := if u.bit (loopR k n + 4) 30 then u else u.wr (loopR k n) (u.rd (loopR k n) - 1)
    let t := if u.loopAgain k n then p.goOn k (u.fld (loopR k n + 4) 17 0) []
      else (p.wbit (loopR k n + 4) 31 false).goOn k ((p.sq k).pc + 1) []
    s.Advances t k (if u.loopAgain k n then u.fld (loopR k n + 4) 17 0 else (s.sq k).pc + 1) [] ∧
      t.bit (loopR k n + 4) 31 = u.loopAgain k n ∧
      t.rd (loopR k n) = if u.bit (loopR k n + 4) 30 then u.rd (loopR k n) else u.rd (loopR k n) - 1 := by
  obtain ⟨hlo, hhi⟩ := loopR_bounds k hn
  generalize loopR k n = r at *
  intro p
  have hp : s.AtStep p k := by
    simp only [p]
    split
    · exact h
    · exact h.frame (u.wr_frame r _) (hK := by omega)
  have hpr : p.rd r = if u.bit (r + 4) 30 then u.rd r else u.rd r - 1 := by
    simp only [p]
    split
    · rfl
    · exact u.rd_wr_self _ _
  have hp31 : p.bit (r + 4) 31 = true := by
    simp only [p]
    split
    · exact hon
    · exact ((u.wr_frame r _).bit (r + 4) 31 (by omega)).trans hon
  cases u.loopAgain k n with
  | true => exact ⟨hp.goOn _ [], hp31, hpr⟩
  | false =>
    have hoff := p.wbit_frame (r + 4) 31 false
    refine ⟨?_, p.bit_wbit_self (r + 4) 31 false (by decide), (hoff.rd r (by omega)).trans hpr⟩
    have hend := (hp.frame hoff (hK := by omega)).goOn ((p.sq k).pc + 1) []
    rwa [hp.pc] at hend ⊢

/-- LOOP_END repeats its loop while passes remain, and leaves it inactive when none do. -/
theorem loopEnd_repeats (h : s.Commits k 0x08 b w) (hres : resBad w [(119, 118)] = false)
    (hon : (s.fetched k w).bit (loopR k (bf w 119 118) + 4) 31 = true)
    (hto : (s.fetched k w).inTable k (if (s.fetched k w).loopAgain k (bf w 119 118) then
      (s.fetched k w).fld (loopR k (bf w 119 118) + 4) 17 0 else (s.sq k).pc + 1) = true) : Does (.loopEnd k) s fun t =>
      s.Advances t k (if (s.fetched k w).loopAgain k (bf w 119 118) then
        (s.fetched k w).fld (loopR k (bf w 119 118) + 4) 17 0 else (s.sq k).pc + 1) [] ∧
      t.bit (loopR k (bf w 119 118) + 4) 31 = (s.fetched k w).loopAgain k (bf w 119 118) ∧
      t.rd (loopR k (bf w 119 118)) = (if (s.fetched k w).bit (loopR k (bf w 119 118) + 4) 30 then
        (s.fetched k w).rd (loopR k (bf w 119 118)) else (s.fetched k w).rd (loopR k (bf w 119 118)) - 1) := by
  have hn := bf_lt w 119 118
  obtain ⟨hlo, hhi⟩ := loopR_bounds k hn
  have hr := s.stepRead_frame k w
  have hK (o : Nat) (ho : seqR k + 0x50 ≤ o ∧ o < seqR k + 0x70) : ¬ eccKey o := by
    simp only [seqR] at ho
    omega
  have ha := s.stepRead_atStep k w
  rw [← hr.inTable_read] at hto
  simp only [← hr.bit _ _ (hK _ ⟨show _ ≤ loopR k (bf w 119 118) + 4 by omega, hhi⟩), ← hr.loopAgain_read k hn,
    ← hr.fld _ _ _ (hK _ ⟨show _ ≤ loopR k (bf w 119 118) + 4 by omega, hhi⟩),
    ← hr.rd _ (hK _ ⟨hlo, show loopR k (bf w 119 118) < _ by omega⟩)] at hon hto ⊢
  refine h.does exec_loopEnd (by decide) rfl ?_ (ha.loopEnd hn hon)
  simp only [List.forall_mem_cons, List.not_mem_nil, false_implies, implies_true, and_true, hres, hon, ha.pc, hto, Bool.not_true,
    Bool.and_false]

/-! ### CALL and RETURN (R242) -/

theorem State.showStack_frame (s : State) (k : Nat) : Frame [] (· = seqR k + 0x4C) s (s.showStack k) := s.wr_frame _ _

theorem State.AtStep.call (h : s.AtStep u k) (l : List Nat) (next : Nat) :
    let t := ((u.setSq k { u.sq k with stack := l }).showStack k).goOn k next []
    s.Advances t k next [] ∧ (t.sq k).stack = l := by
  have ha : s.AtStep ((u.setSq k { u.sq k with stack := l }).showStack k) k := h.setSq.frame (State.showStack_frame _ k)
  refine ⟨ha.goOn next [], ?_⟩
  unfold State.goOn
  rw [State.sq_setSq_self]
  change (((u.setSq k _).showStack k).sq k).stack = l
  rw [(State.showStack_frame _ k).sq, State.sq_setSq_self]

theorem call_pushes (h : s.Commits k 0x09 b w) (hres : resBad w [(81, 64)] = false)
    (hto : (s.fetched k w).inTable k (bf w 81 64) = true) (hroom : (s.sq k).stack.length < 8) : Does (.call k) s fun t =>
      s.Advances t k (bf w 81 64) [] ∧ (t.sq k).stack = ((s.sq k).pc + 1) :: (s.sq k).stack := by
  have hq := s.stepRead_sq k w k
  refine h.does exec_call (by decide) rfl ?_ ?_
  · simp [hres, (s.stepRead_frame k w).inTable_read, hto, hq, hroom]
  · have := (s.stepRead_atStep k w).call (((s.sq k).pc + 1) :: (s.sq k).stack) (bf w 81 64)
    dsimp only at this ⊢
    rwa [hq] at this ⊢

theorem ret_pops (h : s.Commits k 0x0A b w) (hres : resBad w [] = false) {a : Nat} {l : List Nat} (hst : (s.sq k).stack = a :: l)
    (hto : (s.fetched k w).inTable k a = true) : Does (.ret k) s fun t => s.Advances t k a [] ∧ (t.sq k).stack = l := by
  have hq := s.stepRead_sq k w k
  refine h.does exec_ret (by decide) rfl ?_ ?_
  · simp [hres, (s.stepRead_frame k w).inTable_read, hto, hq, hst]
  · have := (s.stepRead_atStep k w).call l a
    dsimp only at this ⊢
    rw [hq] at this ⊢
    rw [hst]
    exact this

/-- CALL and RETURN fault where no place for the address is left, where none waits, or where it lies outside the table. -/
theorem call_faults (h : s.Commits k 0x09 b w) (hres : resBad w [(81, 64)] = false)
    (hto : (s.fetched k w).inTable k (bf w 81 64) = true) (hfull : 8 ≤ (s.sq k).stack.length) :
    Does (.call k) s (s.Faults · k 9) := by
  refine h.faults exec_call (by decide) rfl ?_
  simp [lowest, hres, (s.stepRead_frame k w).inTable_read, hto, s.stepRead_sq, hfull]

theorem ret_faults_outside (h : s.Commits k 0x0A b w) (hres : resBad w [] = false) {a : Nat} {l : List Nat}
    (hst : (s.sq k).stack = a :: l) (hto : (s.fetched k w).inTable k a = false) :
    Does (.ret k) s (s.Faults · k 4) := by
  refine h.faults exec_ret (by decide) rfl ?_
  simp [lowest, hres, (s.stepRead_frame k w).inTable_read, hto, s.stepRead_sq, hst]

theorem ret_faults_empty (h : s.Commits k 0x0A b w) (hres : resBad w [] = false) (hst : (s.sq k).stack = []) :
    Does (.ret k) s (s.Faults · k 0x0A) := by
  refine h.faults exec_ret (by decide) rfl ?_
  simp [lowest, hres, s.stepRead_sq, hst]

/-! ### COUNT (R251) -/

/-- What COUNT writes into its counter. -/
def State.counted (s : State) (v k : Nat) (w : BitVec 128) : Word :=
  let c := seqR k + 0x70 + 4 * bf w 113 112
  let x : Word := BitVec.ofNat 32 (bf w 31 0)
  let sel := bf w 109 104
  match bf w 119 116 with
  | 0 => x
  | 1 => s.rd c + x
  | 2 => s.rd c - x
  | 3 => ((s.seen k).failCnt[(s.own v .pb sel).getD 0]?).getD 0
  | _ => ((s.seen k).evc[(s.chOwn v sel).getD 0]?).getD 0

/-- COUNT writes its counter and goes on, where it has no fault cause. -/
theorem count_counts (h : s.Commits k 0x11 b w) (hnext : (s.fetched k w).inTable k ((s.sq k).pc + 1) = true) (hop : bf w 119 116 < 5)
    (hres : resBad w ([(119, 116), (113, 112)] ++ if bf w 119 116 = 3 ∨ bf w 119 116 = 4 then [(109, 104)]
      else if bf w 119 116 < 3 then [(31, 0)] else []) = false)
    (hbank : bf w 119 116 = 3 → bf w 109 104 < 8 ∧ ((s.fetched k w).own (s.ownerVi .seq k) .pb (bf w 109 104)).isSome = true)
    (hch : bf w 119 116 = 4 → ((s.fetched k w).chOwn (s.ownerVi .seq k) (bf w 109 104)).isSome = true) :
    Does (.count k) s fun t => s.Advances t k ((s.sq k).pc + 1) [] ∧
      t.rd (seqR k + 0x70 + 4 * bf w 113 112) = (s.stepRead k w).counted (s.ownerVi .seq k) k w := by
  have hr := s.stepRead_frame k w
  have hn := bf_lt w 113 112
  refine h.does exec_count (by decide) rfl ?_ ?_
  · simp only [List.forall_mem_cons, List.not_mem_nil, false_implies, implies_true, and_true, State.nextBad_stepRead hnext,
      hr.own_read, hr.chOwn_read]
    refine ⟨hres, ?_, trivial, ?_⟩
    · simp only [Bool.or_eq_false_iff, Bool.and_eq_false_imp, decide_eq_false_iff_not, beq_iff_eq]
      exact ⟨by omega, fun h3 => by have := (hbank h3).1; omega⟩
    · simp only [Bool.or_eq_false_iff, Bool.and_eq_false_imp, beq_iff_eq]
      exact ⟨fun h3 => by simpa using (hbank h3).2, fun h4 => by simpa using hch h4⟩
  · have ha := s.stepRead_atStep k w
    generalize s.stepRead k w = g at ha
    change let t := ((g.wr (seqR k + 0x70 + 4 * bf w 113 112) (g.counted (s.ownerVi .seq k) k w)).touch _ _).goOn k ((g.sq k).pc + 1) []
      s.Advances t k ((s.sq k).pc + 1) [] ∧ t.rd (seqR k + 0x70 + 4 * bf w 113 112) = g.counted (s.ownerVi .seq k) k w
    rw [ha.pc]
    have hw := (ha.frame (g.wr_frame (seqR k + 0x70 + 4 * bf w 113 112) (g.counted (s.ownerVi .seq k) k w)) (hK := by omega)).frame
      (State.touch_frame _ (seqR k + 0x70 + 4 * bf w 113 112) (BitVec.allOnes 32))
    exact ⟨hw.goOn _ [], g.rd_wr_self _ _⟩

theorem State.counted_arith (s : State) (v k : Nat) (hop : bf w 119 116 < 3) : s.counted v k w =
    if bf w 119 116 = 0 then BitVec.ofNat 32 (bf w 31 0)
    else if bf w 119 116 = 1 then s.rd (seqR k + 0x70 + 4 * bf w 113 112) + BitVec.ofNat 32 (bf w 31 0)
    else s.rd (seqR k + 0x70 + 4 * bf w 113 112) - BitVec.ofNat 32 (bf w 31 0) := by
  obtain h0 | h1 | h2 : bf w 119 116 = 0 ∨ bf w 119 116 = 1 ∨ bf w 119 116 = 2 := by omega
  · simp [State.counted, h0]
  · simp [State.counted, h1]
  · simp [State.counted, h2]

/-- COUNT sets its counter to a number, or adds or subtracts one. -/
theorem count_arith (h : s.Commits k 0x11 b w) (hop : bf w 119 116 < 3)
    (hres : resBad w [(119, 116), (113, 112), (31, 0)] = false) (hnext : (s.fetched k w).inTable k ((s.sq k).pc + 1) = true) :
    Does (.count k) s fun t => s.Advances t k ((s.sq k).pc + 1) [] ∧ t.rd (seqR k + 0x70 + 4 * bf w 113 112) =
      (if bf w 119 116 = 0 then BitVec.ofNat 32 (bf w 31 0)
       else if bf w 119 116 = 1 then s.rd (seqR k + 0x70 + 4 * bf w 113 112) + BitVec.ofNat 32 (bf w 31 0)
       else s.rd (seqR k + 0x70 + 4 * bf w 113 112) - BitVec.ofNat 32 (bf w 31 0)) := by
  have hne : ¬ (bf w 119 116 = 3 ∨ bf w 119 116 = 4) := by omega
  have hn : bf w 113 112 < 4 := bf_lt w 113 112
  have hrd : (s.stepRead k w).rd (seqR k + 0x70 + 4 * bf w 113 112) = s.rd (seqR k + 0x70 + 4 * bf w 113 112) :=
    ((s.stepRead_frame k w).rd _).trans ((s.fetched_frame k w).rd _)
  obtain ⟨t, he, hadv, hcnt⟩ := count_counts h hnext (by omega) (by rw [if_neg hne, if_pos hop]; exact hres) (fun h3 => by omega)
    fun h4 => by omega
  exact ⟨t, he, hadv, hcnt.trans (hrd ▸ State.counted_arith _ _ _ hop)⟩

/-- COUNT takes the fails of a bank, or the events of a channel, as its run sees them. -/
theorem count_takes (h : s.Commits k 0x11 b w) (hres : resBad w [(119, 116), (113, 112), (109, 104)] = false)
    (hnext : (s.fetched k w).inTable k ((s.sq k).pc + 1) = true) {c : Nat} :
    (bf w 119 116 = 3 → bf w 109 104 < 8 → (s.fetched k w).own (s.ownerVi .seq k) .pb (bf w 109 104) = some c →
      Does (.count k) s fun t => s.Advances t k ((s.sq k).pc + 1) [] ∧
        t.rd (seqR k + 0x70 + 4 * bf w 113 112) = (((s.fetched k w).seen k).failCnt[c]?).getD 0) ∧
    (bf w 119 116 = 4 → (s.fetched k w).chOwn (s.ownerVi .seq k) (bf w 109 104) = some c →
      Does (.count k) s fun t => s.Advances t k ((s.sq k).pc + 1) [] ∧
        t.rd (seqR k + 0x70 + 4 * bf w 113 112) = (((s.fetched k w).seen k).evc[c]?).getD 0) := by
  have hr := s.stepRead_frame k w
  constructor
  · intro h3 hlt hown
    obtain ⟨t, he, hadv, hcnt⟩ := count_counts h hnext (by omega) (by rw [if_pos (.inl h3)]; exact hres)
      (fun _ => ⟨hlt, by rw [hown]; rfl⟩) fun h4 => by omega
    refine ⟨t, he, hadv, hcnt.trans ?_⟩
    simp only [State.counted, h3, hr.seen_read, hr.own_read, hown, Option.getD_some]
  · intro h4 hown
    obtain ⟨t, he, hadv, hcnt⟩ := count_counts h hnext (by omega) (by rw [if_pos (.inr h4)]; exact hres) (fun h3 => by omega)
      fun _ => by rw [hown]; rfl
    refine ⟨t, he, hadv, hcnt.trans ?_⟩
    simp only [State.counted, h4, hr.seen_read, hr.chOwn_read, hown, Option.getD_some]

/-- Settles O29: each step that steers is committed as its row says. -/
theorem stepsThatSteerCommit : Obligations.StepsThatSteerCommit := by
  intro s k b w v f n faults
  exact ⟨fun h taken ht hres hsrc hcmp hsel hto hnext hbank hacmp => branch_steers h ht hres hsrc hcmp hsel hto hnext hbank hacmp,
    fun h hres hnext => loopBegin_begins h hres hnext, fun h hres hon hto => loopEnd_repeats h hres hon hto,
    fun h hres hto hroom => call_pushes h hres hto hroom, fun a l h hres hst => ⟨ret_pops h hres hst, ret_faults_outside h hres hst⟩,
    fun h hres hst => ret_faults_empty h hres hst, fun h hres hto hfull => call_faults h hres hto hfull,
    fun h hop hres hnext => count_arith h hop hres hnext, fun c h hres hnext => count_takes h hres hnext⟩

end Sys2Proof.Machine
end

section
/-! SUPPORT. Scheduled actions other than alarms and timed starts: what arming and disarming one writes (R40 to R44), and a WAIT_TIME's
judgement at its commit (R238). -/

namespace Sys2Proof.Machine

-- Proofs one after another: many that wait in threads of their own would pass the check's memory limit.
set_option Elab.async false

variable (s : State) {a : ActId}

/-- An action that is neither an alarm nor a timed start: its flags stand above the sequencers' registers. -/
structure OuterAct (a : ActId) : Prop where
  alarm : a.kind.val ≠ 1
  start : a.kind.val ≠ 3

theorem OuterAct.armedBit (h : OuterAct a) {i j : Nat} (hb : armedBit a.kind.val a.inst.val = some (j, i)) : 0x1800 ≤ j := by
  obtain ⟨h1, h3⟩ := h
  unfold Machine.armedBit at hb
  simp only [devKey, viKey, h1, h3, if_false] at hb
  split_ifs at hb <;> simp only [Option.some.injEq, Prod.mk.injEq] at hb <;> omega

theorem OuterAct.lateRegs (h : OuterAct a) {j lb db lr : Nat} (hr : lateRegs a.kind.val a.inst.val = some (j, lb, db, lr)) :
    0x1800 ≤ j ∧ (lr ≠ 0 → 0x1800 ≤ lr) := by
  obtain ⟨h1, h3⟩ := h
  unfold Machine.lateRegs at hr
  simp only [devKey, viKey, h1, h3, if_false] at hr
  split_ifs at hr <;> simp only [Option.some.injEq, Prod.mk.injEq] at hr <;> omega

theorem State.markArmed_outKey (h : OuterAct a) (b : Bool) : Frame [] (0x1800 ≤ ·) s (s.markArmed a b) := by
  unfold State.markArmed
  split
  · next j i hb =>
    have := h.armedBit hb
    exact (s.setKey_frame j _).mono
  · exact .refl

theorem State.lateFlags_outKey (h : OuterAct a) (l : Word) (dropped : Bool) : Frame [] (0x1800 ≤ ·) s (s.lateFlags a l dropped) := by
  unfold State.lateFlags
  split
  · next j lb db lr hr =>
    obtain ⟨hj, hlr⟩ := h.lateRegs hr
    have hset (u : State) (x : Word) : Frame [] (0x1800 ≤ ·) u (u.setKey j x) := (u.setKey_frame j x).mono
    extract_lets s1 s2
    have h2 : Frame [] (0x1800 ≤ ·) s s2 := (hset s _).trans (.ite (fun _ => hset _ _) fun _ => .refl)
    exact .ite (fun _ => h2) fun hne => h2.then (State.setKey_frame _ lr l) (hK := fun _ hk => hk ▸ hlr hne)
  · exact .refl

theorem State.judge_outKey (h : OuterAct a) (x : Act) (now : Time) : Frame [.cyc, .out, .acts] (0x1800 ≤ ·) s (s.judge a x now) := by
  have hr (l : Word) (d : Bool) : Frame [.cyc, .out, .acts] (0x1800 ≤ ·) s (s.recordLate a l d) := by
    rw [State.recordLate_eq]
    exact ((s.lateFlags_outKey h l d).mono).then (State.lateRecord_frame _ _ _ _ _ _)
  unfold State.judge State.judgeAt
  refine .ite (fun _ => .ite (fun _ => ?_) fun _ => ?_) fun _ => (s.setAct_frame a _).mono
  · exact ((hr _ _).then (State.setAct_frame _ a _)).then (State.markArmed_outKey _ h false)
  · exact (hr _ _).then (State.setAct_frame _ a _)

theorem State.arm_outKey (h : OuterAct a) (target : Time) (drop : Bool) (data : Nat) :
    Frame [.cyc, .out, .acts] (0x1800 ≤ ·) s (s.arm a target drop data) := by
  have hm (x : Act) : Frame [.cyc, .out, .acts] (0x1800 ≤ ·) s ((s.setAct a x).markArmed a true) :=
    ((s.setAct_frame a x).mono).then (State.markArmed_outKey _ h true)
  unfold State.arm State.armAct
  exact .ite (fun _ => (hm _).trans (State.judge_outKey _ h _ _)) fun _ => hm _

theorem State.disarm_outKey (h : OuterAct a) : Frame [.acts] (0x1800 ≤ ·) s (s.disarm a) :=
  ((s.setAct_frame a _).mono).then (State.markArmed_outKey _ h false)

/-- A disarmed action holds nothing. -/
theorem State.disarm_act (a : ActId) : (s.disarm a).act a = {} :=
  ((State.markArmed_frame _ a false).act a).trans (State.act_setAct_self _ _ _)

theorem actId_outer {kind : Nat} (n : Nat) (hk : kind % 16 ≠ 1) (h3 : kind % 16 ≠ 3) : OuterAct (actId kind n) := ⟨hk, h3⟩

/-! ### WAIT_TIME (R238) -/

theorem actId_wait_wf : ∀ k : Fin 16, (actId 2 k).wf = true := by decide

/-- A wait is judged in its arming cycle: it stands armed in time, or late without LATE_DROP, and is dropped late with it (R41, R42). -/
theorem State.arm_wait (k : Fin 16) (target : Time) (drop : Bool) : let t := s.arm (actId 2 k) target drop 0
    ((drop = false ∨ 2048 ≤ lead target s.now) → (t.act (actId 2 k)).armed = true) ∧
      (drop = true → s.actReady (actId 2 k) = true → lead target s.now < 2048 → t.act (actId 2 k) = {}) := by
  let x : Act := { armed := true, target := target, drop := drop, defer := true, data := 0 }
  have harm : s.arm (actId 2 k) target drop 0 =
      if s.actReady (actId 2 k) then (s.setAct (actId 2 k) x).judge (actId 2 k) x s.now else s.setAct (actId 2 k) x := rfl
  rw [harm]
  constructor
  · intro h
    split
    · by_cases hl : 2048 ≤ lead target s.now
      · rw [State.judge_inTime _ _ x _ hl, State.act_setAct_self]
      · rw [(State.judge_late_fire _ _ x _ (actId_wait_wf k) (show lead x.target s.now < 2048 by simpa using hl) (h.resolve_right hl)).1]
    · rw [State.act_setAct_self]
  · intro hd hr hl
    rw [if_pos hr, State.judge_late_drop _ _ x _ hl hd]

/-- A wait needs SEQ's domain alone (R40). -/
theorem Frame.waitReady {P : List Aspect} {K : Nat → Prop} {s t : State} (h : Frame P K s t) (k : Nat)
    (ht : Aspect.time ∉ P := by decide) (hd : Aspect.doms ∉ P := by decide) : t.actReady (actId 2 k) = s.actReady (actId 2 k) := by
  have hdom (d : Nat) : t.domOn d = s.domOn d := by simp only [State.domOn, h.dom d hd]
  have hdoms (u : State) : u.actDoms (actId 2 k) = [3] := rfl
  simp only [State.actReady, hdoms, show t.time = s.time from h.keeps .time ht, List.all_cons, List.all_nil, hdom]

theorem Frame.now {P : List Aspect} {K : Nat → Prop} {s t : State} (h : Frame P K s t) (ht : Aspect.time ∉ P := by decide) :
    t.now = s.now := by
  simp only [State.now, show t.time = s.time from h.keeps .time ht]

end Sys2Proof.Machine
end

section
/-! PROOF. O30: SET_FREQ, SET_PHASE, SET_AMPL, MARKER, SIGNAL, TIMING and FLIP (R243 to R253). -/

namespace Sys2Proof.Machine

-- Proofs one after another: many that wait in threads of their own would pass the check's memory limit.
set_option Elab.async false

variable {s u : State} {k : Fin 16} {b c : Nat} {w : BitVec 128}

/-! ### A control step with one effect -/

theorem State.readList_frame (s : State) (v : Nat) (w : BitVec 128) : Frame [.cyc] eccKey s (s.readList v w) := by
  unfold State.readList
  split
  · exact s.readVi_eccKey _ _ _ _
  · exact .refl

/-- A step that only commits an effect goes on at the next step with it (R266). -/
theorem State.AtStep.effect (h : s.AtStep u k) (e : Eff) : s.Advances (u.goOn k ((u.sq k).pc + 1) [e]) k ((s.sq k).pc + 1) [e] := by
  rw [h.pc]
  exact h.goOn _ _

variable (hnext : (s.fetched k w).inTable k ((s.sq k).pc + 1) = true)
include hnext

/-! ### Channels -/

theorem setFreq_commits (h : s.Commits k 0x0B b w) (hmode : bf w 119 118 ≠ 3) (hdwell : tb w 116 = true → bf w 95 64 ≠ 0)
    (hres : resBad w ([(119, 118), (116, 116), (114, 112), (111, 64)] ++
      if bf w 119 118 = 2 then [(117, 117), (63, 0)] else []) = false)
    (hch : (s.fetched k w).boundAout (s.ownerVi .seq k) k (bf w 114 112) = some c)
    (hlist : tb w 116 = true → ∃ d, (s.fetched k w).validDesc (s.ownerVi .seq k) (bf w 111 96) = some d ∧ d.typ = 4 ∧ d.fmt ≠ 1) :
    Does (.setFreq k) s (s.Advances · k ((s.sq k).pc + 1) [.freq c (bf w 119 118)
      (match (s.fetched k w).listFor (s.ownerVi .seq k) w (bf w 95 64) 0 with | some l => l.elem.1 | none => bf w 111 64)
      ((s.fetched k w).listFor (s.ownerVi .seq k) w (bf w 95 64) 0)]) := by
  have hr := s.stepRead_frame k w
  refine h.does exec_setFreq (by decide) rfl ?_ ?_
  · simp only [List.forall_mem_cons, List.not_mem_nil, false_implies, implies_true, and_true, State.nextBad_stepRead hnext,
      hr.boundAout_read, hr.validDesc_read, hch, hres]
    cases hl : tb w 116 with
    | false => simpa using hmode
    | true =>
      obtain ⟨d, hd, htyp, hfmt⟩ := hlist hl
      simp [hmode, hdwell hl, hd, htyp, hfmt]
  · have ha := s.stepRead_atStep k w
    dsimp only
    rw [hr.boundAout_read, hch, hr.listFor_read]
    simp only [Option.getD_some]
    have hl : s.AtStep ((s.stepRead k w).readList (s.ownerVi .seq k) w) k := ha.frame (State.readList_frame _ _ _)
    generalize (s.stepRead k w).readList (s.ownerVi .seq k) w = g at hl
    split
    · exact ((hl.frame (g.setAo_frame c _)).frame (State.arm_outKey _ (actId_outer c (by decide) (by decide)) _ _ _)).effect _
    · exact hl.effect _

theorem setPhase_commits (h : s.Commits k 0x0C b w) (hres : resBad w [(116, 116), (114, 112), (15, 0)] = false)
    (hch : (s.fetched k w).boundAout (s.ownerVi .seq k) k (bf w 114 112) = some c) :
    Does (.setPhase k) s (s.Advances · k ((s.sq k).pc + 1) [.phase c (tb w 116) (bf w 15 0)]) := by
  have hr := s.stepRead_frame k w
  refine h.does exec_setPhase (by decide) rfl ?_ ?_
  · simp [State.nextBad_stepRead hnext, hr.boundAout_read, hch, hres]
  · rw [hr.boundAout_read, hch]
    exact (s.stepRead_atStep k w).effect _

theorem setAmpl_commits (h : s.Commits k 0x0D b w)
    (hres : resBad w ([(116, 116), (114, 112), (63, 32)] ++ if tb w 116 then [(111, 96), (31, 0)] else [(79, 64)]) = false)
    (hch : (s.fetched k w).boundAout (s.ownerVi .seq k) k (bf w 114 112) = some c)
    (hlist : tb w 116 = true → bf w 31 0 ≠ 0 ∧
      ∃ d, (s.fetched k w).validDesc (s.ownerVi .seq k) (bf w 111 96) = some d ∧ d.typ = 4 ∧ d.fmt ≠ 0) :
    Does (.setAmpl k) s (s.Advances · k ((s.sq k).pc + 1) [.ampl c
      (match (s.fetched k w).listFor (s.ownerVi .seq k) w (bf w 31 0) (bf w 63 32) with | some l => l.elem.2 | none => bf w 79 64)
      (bf w 63 32) ((s.fetched k w).listFor (s.ownerVi .seq k) w (bf w 31 0) (bf w 63 32))]) := by
  have hr := s.stepRead_frame k w
  refine h.does exec_setAmpl (by decide) rfl ?_ ?_
  · simp only [List.forall_mem_cons, List.not_mem_nil, false_implies, implies_true, and_true, State.nextBad_stepRead hnext,
      hr.boundAout_read, hr.validDesc_read, hch, hres]
    cases hl : tb w 116 with
    | false => simp
    | true =>
      obtain ⟨hdwell, d, hd, htyp, hfmt⟩ := hlist hl
      simp [hdwell, hd, htyp, hfmt]
  · have ha := s.stepRead_atStep k w
    dsimp only
    rw [hr.boundAout_read, hch, hr.listFor_read]
    have hl : s.AtStep ((s.stepRead k w).readList (s.ownerVi .seq k) w) k := ha.frame (State.readList_frame _ _ _)
    have hq := (State.readList_frame (s.stepRead k w) (s.ownerVi .seq k) w).sq k
    rw [← hq]
    exact hl.effect _

/-! ### Markers, messages, events and timing sets -/

theorem marker_commits (h : s.Commits k 0x0E b w)
    (hres : resBad w ([(119, 116), (115, 112), (111, 111)] ++ if tb w 111 then [(31, 0)] else []) = false)
    (hmask : bf w 115 112 &&& (15 - bf w 119 116) = 0) (hwidth : tb w 111 = true → bf w 31 0 ≠ 0) :
    Does (.marker k) s (s.Advances · k ((s.sq k).pc + 1) [.marker (bf w 119 116) (bf w 115 112) (tb w 111) (bf w 31 0)]) := by
  refine h.does exec_marker (by decide) rfl ?_ ((s.stepRead_atStep k w).effect _)
  simp only [List.forall_mem_cons, List.not_mem_nil, false_implies, implies_true, and_true, State.nextBad_stepRead hnext, hmask]
  refine ⟨hres, ?_⟩
  cases hp : tb w 111 with
  | false => rfl
  | true => simpa using hwidth hp

theorem signalPost_commits (h : s.Commits k 0x10 b w) (hkind : bf w 119 118 = 0)
    (hres : resBad w [(119, 118), (117, 116), (108, 104), (63, 0)] = false) :
    Does (.signalPost k) s (s.Advances · k ((s.sq k).pc + 1) [.post (bf w 117 116) (bf w 108 104) (bf w 63 0)]) := by
  refine h.does exec_signalPost (by decide) (by simp [hkind]) ?_ ((s.stepRead_atStep k w).effect _)
  simp [State.nextBad_stepRead hnext, hkind, hres]

theorem signalFire_commits (h : s.Commits k 0x10 b w) (hkind : bf w 119 118 = 1) (hres : resBad w [(119, 118), (101, 96)] = false)
    (hch : (s.fetched k w).chOwn (s.ownerVi .seq k) (bf w 101 96) = some c) :
    Does (.signalFire k) s (s.Advances · k ((s.sq k).pc + 1) [.fire c]) := by
  have hr := s.stepRead_frame k w
  refine h.does exec_signalFire (by decide) (by simp [hkind]) ?_ ?_
  · simp [State.nextBad_stepRead hnext, hr.chOwn_read, hch, hres]
  · rw [hr.chOwn_read, hch]
    exact (s.stepRead_atStep k w).effect _

theorem timing_commits (h : s.Commits k 0x13 b w) (hres : resBad w [(114, 112), (107, 104), (101, 100)] = false)
    (hfit : bf w 114 112 + 2 ^ bf w 101 100 ≤ 8) {l : List Nat}
    (hb : (s.fetched k w).boundBanks (s.ownerVi .seq k) k (bf w 114 112) (2 ^ bf w 101 100) = some l) :
    Does (.timing k) s (s.Advances · k ((s.sq k).pc + 1) [.timing l (bf w 107 104)]) := by
  have hr := s.stepRead_frame k w
  refine h.does exec_timing (by decide) rfl ?_ ?_
  · simp [State.nextBad_stepRead hnext, hr.boundBanks_read, hb, hres, hfit]
  · rw [hr.boundBanks_read, hb]
    exact (s.stepRead_atStep k w).effect _

/-! ### FLIP (R252) -/

omit hnext in
theorem exec_flip_commits (hcur : ∀ x y z p t, (s.sq k).cur ≠ .flipStall x y z p t) : exec (.flip k) s =
    s.commitStep k 0x12 anyWord
      (fun s v w =>
        [(resBad w ([(119, 118), (116, 116), (115, 115), (69, 64)] ++ if tb w 116 then [(117, 117), (63, 0)] else []), 2),
         (bf w 119 118 == 3, 3), (s.nextBad k, 4), (!s.owns v .misc 0, 5)])
      (fun s _ b w => if !tb w 115 && s.flipFull (bf w 119 118) then
          s.endRun k b ((s.sq k).pc + 1) (.flipStall (bf w 119 118) (bf w 69 64) (tb w 116) (tb w 117) (BitVec.ofNat 64 (bf w 63 0)))
            fun _ => none
        else s.goOn k ((s.sq k).pc + 1)
          [.flip (bf w 119 118) (bf w 69 64) (tb w 115) (tb w 116) (tb w 117) (BitVec.ofNat 64 (bf w 63 0))]) := by
  rw [exec_flip]
  unfold execFlip
  dsimp only
  split
  · next h _ => exact absurd h (hcur _ _ _ _ _)
  · rfl

theorem flip_commits (h : s.Commits k 0x12 b w) (hcur : ∀ x y z p t, (s.sq k).cur ≠ .flipStall x y z p t)
    (hres : resBad w ([(119, 118), (116, 116), (115, 115), (69, 64)] ++ if tb w 116 then [(117, 117), (63, 0)] else []) = false)
    (hlink : bf w 119 118 ≠ 3) (hown : (s.fetched k w).owns (s.ownerVi .seq k) .misc 0 = true) :
    (tb w 115 = true ∨ (s.fetched k w).flipFull (bf w 119 118) = false → Does (.flip k) s (s.Advances · k ((s.sq k).pc + 1)
      [.flip (bf w 119 118) (bf w 69 64) (tb w 115) (tb w 116) (tb w 117) (BitVec.ofNat 64 (bf w 63 0))])) ∧
    (tb w 115 = false → (s.fetched k w).flipFull (bf w 119 118) = true → Does (.flip k) s fun t => (t.sq k).target = none ∧
      s.Plans t k b ((s.sq k).pc + 1)
        (.flipStall (bf w 119 118) (bf w 69 64) (tb w 116) (tb w 117) (BitVec.ofNat 64 (bf w 63 0)))) := by
  have hr := s.stepRead_frame k w
  have ha := s.stepRead_atStep k w
  have hc : ∀ c ∈ [(resBad w ([(119, 118), (116, 116), (115, 115), (69, 64)] ++ if tb w 116 then [(117, 117), (63, 0)] else []), 2),
      (bf w 119 118 == 3, 3), ((s.stepRead k w).nextBad k, 4), (!(s.stepRead k w).owns (s.ownerVi .seq k) .misc 0, 5)], c.1 = false := by
    simp only [List.forall_mem_cons, List.not_mem_nil, false_implies, implies_true, and_true, State.nextBad_stepRead hnext,
      hr.owns_read, hown]
    exact ⟨hres, by simpa using hlink, trivial, rfl⟩
  constructor
  · intro hroom
    refine h.does (exec_flip_commits hcur) (by decide) rfl hc ?_
    rw [if_neg (by rcases hroom with h1 | h1 <;> simp [h1, hr.flipFull_read])]
    exact ha.effect _
  · intro hfull hq
    refine h.does (exec_flip_commits hcur) (by decide) rfl hc ?_
    rw [if_pos (by simp [hfull, hr.flipFull_read, hq]), ha.pc]
    obtain ⟨hp, ht⟩ := ha.endRun b ((s.sq k).pc + 1)
      (.flipStall (bf w 119 118) (bf w 69 64) (tb w 116) (tb w 117) (BitVec.ofNat 64 (bf w 63 0))) fun _ => none
    exact ⟨ht, hp⟩

omit hnext in
/-- Settles O30: each step whose effect waits for its boundary commits that one effect, and FLIP holds where its queue is full. -/
theorem stepsThatSetOutputsCommit : Obligations.StepsThatSetOutputsCommit := by
  intro s k b c w v f n hnext
  exact ⟨fun h hmode hdwell hres hch hlist => setFreq_commits hnext h hmode hdwell hres hch hlist,
    fun h hres hch => setPhase_commits hnext h hres hch, fun h hres hch hlist => setAmpl_commits hnext h hres hch hlist,
    fun h hres hmask hwidth => marker_commits hnext h hres hmask hwidth, fun h hkind hres => signalPost_commits hnext h hkind hres,
    fun h hkind hres hch => signalFire_commits hnext h hkind hres hch, fun l h hres hfit hb => timing_commits hnext h hres hfit hb,
    fun h hcur hres hlink hown => flip_commits hnext h hcur hres hlink hown⟩

end Sys2Proof.Machine
end

section
/-! PROOF. O31: PLAY, PLAYLOOP, HOLD, WAIT_EVENT, WAIT_TIME, SYNC, END, and an undefined opcode (R231 to R238, R248, R254, R255). -/

namespace Sys2Proof.Machine

-- Proofs one after another: many that wait in threads of their own would pass the check's memory limit.
set_option Elab.async false

variable {s u : State} {k : Fin 16} {b : Nat} {w : BitVec 128}

/-! ### Ends of a run -/

/-- A step that ends its run goes on at the step after, and holds until something says where its boundary to come lies. -/
theorem State.AtStep.holds (h : s.AtStep u k) (b : Nat) (c : Cur) : let t := u.endRun k b ((u.sq k).pc + 1) c fun _ => none
    s.Plans t k b ((s.sq k).pc + 1) c ∧ (t.sq k).target = none := by
  rw [h.pc]
  exact h.endRun b _ c fun _ => none

/-! ### PLAY and PLAYLOOP (R232 to R235, R300) -/

theorem State.loadTable_frame (s : State) (n d : Nat) (x : Desc) (wait : Option Nat) :
    Frame [.cyc, .agenda, .agendaGrows, .aouts, .phaseRefs] (0x1800 ≤ ·) s (s.loadTable n d x wait) := by
  unfold State.loadTable State.waout
  exact (((((s.cancel_frame _).mono).then (State.wfld_frame _ (aoutR n + 0x40) 31 16 0xFFFF)).then
    (State.wbit_frame _ (aoutR n + 0x2C) 9 true)).then (State.setAo_frame _ n _)).then (State.after_frame _ _ _)

theorem State.wantTable_frame (s : State) (n d t : Nat) (x : Desc) :
    Frame [.cyc, .agenda, .agendaGrows, .aouts, .phaseRefs] (0x1800 ≤ ·) s (s.wantTable n d t x) := by
  unfold State.wantTable
  refine .ite (fun _ => .refl) fun _ => ?_
  split
  · exact .ite (fun _ => (s.setAo_frame n _).mono) fun _ => s.loadTable_frame _ _ _ _
  · exact s.loadTable_frame _ _ _ _

/-- The output periods of a PLAY of `r` passes (R233, R300). -/
def playPeriods (d : Desc) (f r : Nat) : Nat := if d.typ = 2 then r else d.len * f * r

theorem play_plans (h : s.Commits k 0x01 b w) {d : Desc} (hnext : (s.fetched k w).inTable k ((s.sq k).pc + 1) = true)
    (hd : (s.fetched k w).validDesc (s.ownerVi .seq k) (bf w 111 96) = some d)
    (hres : resBad w [(119, 119), (114, 112), (111, 96), (95, 64)] = false)
    (hbad : ∀ c ∈ (s.fetched k w).playBad (s.ownerVi .seq k) k w true, c.1 = false) : Does (.play k) s fun t =>
      s.Plans t k b ((s.sq k).pc + 1) (.play (tb w 119) ((s.fetched k w).playDest (s.ownerVi .seq k) w) (bf w 111 96)
        (playPeriods d ((s.fetched k w).perElem (s.ownerVi .seq k) w d) (bf w 95 64)) (bf w 95 64 == 0)) ∧
      (t.sq k).target = (if bf w 95 64 = 0 then none else
        some ((t.sq k).planAt + playPeriods d ((s.fetched k w).perElem (s.ownerVi .seq k) w d) (bf w 95 64))) := by
  have hr := s.stepRead_frame k w
  have ha := s.stepRead_atStep k w
  refine h.does exec_play (by decide) rfl ?_ ?_
  · rw [hr.playBad_read]
    simpa [hres, State.nextBad_stepRead hnext] using hbad
  · dsimp only
    rw [hr.validDesc_read, hd, Option.getD_some, hr.perElem_read, hr.playDest_read]
    generalize s.stepRead k w = g at ha
    have hw : s.AtStep (if d.typ = 2 then g.wantTable ((s.fetched k w).playDest (s.ownerVi .seq k) w) (bf w 111 96) ((g.sq k).at_ b) d
        else g) k := by
      split
      · exact ha.frame (g.wantTable_frame _ _ _ _)
      · exact ha
    rw [hw.pc]
    exact hw.endRun b _ _ _

theorem playloop_plans (h : s.Commits k 0x02 b w) {d : Desc} (hnext : (s.fetched k w).inTable k ((s.sq k).pc + 1) = true)
    (hd : (s.fetched k w).validDesc (s.ownerVi .seq k) (bf w 111 96) = some d)
    (hres : resBad w ([(119, 119), (114, 112), (111, 96), (95, 64), (63, 63)] ++ if tb w 63 then [(61, 60)] else []) = false)
    (hloop : d.ls ≠ 0 ∨ d.le ≠ 0) (hbad : ∀ c ∈ (s.fetched k w).playBad (s.ownerVi .seq k) k w false, c.1 = false) :
    let f := (s.fetched k w).perElem (s.ownerVi .seq k) w d
    Does (.playloop k) s fun t =>
      s.Plans t k b ((s.sq k).pc + 1) (.loop (tb w 119) ((s.fetched k w).playDest (s.ownerVi .seq k) w) (bf w 111 96) (bf w 95 64)
        (if tb w 63 then some (bf w 61 60) else none) (d.le * f) ((d.le - d.ls) * f) ((d.len - d.le) * f) 0) ∧
      (t.sq k).target = (if bf w 95 64 = 0 ∨ tb w 63 = true then none
        else some ((t.sq k).planAt + d.le * f + (bf w 95 64 - 1) * ((d.le - d.ls) * f) + (d.len - d.le) * f)) := by
  have hr := s.stepRead_frame k w
  have ha := s.stepRead_atStep k w
  refine h.does exec_playloop (by decide) rfl ?_ ?_
  · rw [hr.playBad_read, hr.validDesc_read, hd]
    have hne : (d.ls == 0 && d.le == 0) = false := by
      rcases hloop with h0 | h0 <;> simp [h0]
    simp only [List.cons_append, List.forall_mem_cons, Option.any_some, hne, State.nextBad_stepRead hnext]
    exact ⟨hres, trivial, trivial, hbad⟩
  · dsimp only
    rw [hr.validDesc_read, hd, Option.getD_some, hr.perElem_read, hr.playDest_read, ha.pc]
    have hexit : ((if tb w 63 then some (bf w 61 60) else none : Option Nat).isSome = true) = (tb w 63 = true) := by
      cases tb w 63 <;> rfl
    simp only [hexit]
    exact ha.endRun b _ _ _

/-! ### Holding steps (R236, R237, R248, R254) -/

theorem hold_plans (h : s.Commits k 0x03 b w) (hres : resBad w [(31, 0)] = false) (hcnt : bf w 31 0 ≠ 0)
    (hnext : (s.fetched k w).inTable k ((s.sq k).pc + 1) = true) : Does (.hold k) s fun t =>
      s.Plans t k b ((s.sq k).pc + 1) (.hold (bf w 31 0)) ∧ (t.sq k).target = none := by
  refine h.does exec_hold (by decide) rfl ?_ ((s.stepRead_atStep k w).holds b _)
  simp [hres, hcnt, State.nextBad_stepRead hnext]

/-- A consumed flag reads 0. -/
theorem State.consumeEf_ef (s : State) (k : Nat) {i : Nat} (hi : i < 32) : (s.consumeEf k i).ef k i = false :=
  ((State.touch_frame _ _ _).bit _ _).trans (State.bit_wbit_self _ _ _ _ hi)

theorem waitEvent_plans (h : s.Commits k 0x04 b w)
    (hres : resBad w ([(119, 118), (117, 117), (31, 0)] ++ if bf w 31 0 = 0 then [] else [(81, 64)]) = false)
    (hnext : (s.fetched k w).inTable k ((s.sq k).pc + 1) = true)
    (helse : bf w 31 0 ≠ 0 → (s.fetched k w).inTable k (bf w 81 64) = true) : Does (.waitEvent k) s fun t =>
      s.Plans t k b ((s.sq k).pc + 1) (.waitEvent (bf w 119 118) (bf w 81 64) (bf w 31 0)) ∧ (t.sq k).target = none ∧
      (tb w 117 = true → t.ef k (bf w 119 118) = false) := by
  have hi : bf w 119 118 < 4 := bf_lt w 119 118
  have ha := s.stepRead_atStep k w
  refine h.does exec_waitEvent (by decide) rfl ?_ ?_
  · simp only [List.forall_mem_cons, List.not_mem_nil, false_implies, implies_true, and_true, State.nextBad_stepRead hnext,
      (s.stepRead_frame k w).inTable_read]
    refine ⟨hres, trivial, ?_⟩
    by_cases h0 : bf w 31 0 = 0
    · simp [h0]
    · simp [helse h0]
  · generalize s.stepRead k w = g at ha
    have hflag : s.AtStep (if tb w 117 then g.consumeEf k (bf w 119 118) else g) k := by
      split
      · exact ha.consumeEf _
      · exact ha
    obtain ⟨hp, ht⟩ := hflag.holds b (.waitEvent (bf w 119 118) (bf w 81 64) (bf w 31 0))
    refine ⟨hp, ht, fun hclr => ?_⟩
    dsimp only
    rw [if_pos hclr]
    exact ((State.endRun_frame _ k b _ _ _).bit (seqR k + 0x44) _).trans (State.consumeEf_ef _ k (by omega))

theorem sync_plans (h : s.Commits k 0x0F b w)
    (hres : resBad w ([(119, 116), (111, 96), (31, 0)] ++ if bf w 31 0 = 0 then [] else [(81, 64)]) = false) {j : Nat}
    (hj : (s.fetched k w).virt (s.ownerVi .seq k) .seq k = some j) (hin : (bf w 111 96).testBit j = true)
    (hall : ∀ i < 16, (bf w 111 96).testBit i = true → ((s.fetched k w).own (s.ownerVi .seq k) .seq i).isSome = true)
    (hnext : (s.fetched k w).inTable k ((s.sq k).pc + 1) = true)
    (helse : bf w 31 0 ≠ 0 → (s.fetched k w).inTable k (bf w 81 64) = true) : Does (.sync k) s fun t =>
      s.Plans t k b ((s.sq k).pc + 1) (.sync (bf w 119 116) (bf w 111 96) (bf w 81 64) (bf w 31 0)) ∧ (t.sq k).target = none := by
  have hr := s.stepRead_frame k w
  have hgroup : ((List.range 16).all fun i =>
      !(bf w 111 96).testBit i || ((s.fetched k w).own (s.ownerVi .seq k) .seq i).isSome) = true := by
    rw [List.all_eq_true]
    intro i hi
    cases hb : (bf w 111 96).testBit i with
    | false => rfl
    | true => simp [hall i (List.mem_range.mp hi) hb]
  refine h.does exec_sync (by decide) rfl ?_ ((s.stepRead_atStep k w).holds b _)
  simp only [List.forall_mem_cons, List.not_mem_nil, false_implies, implies_true, and_true, State.nextBad_stepRead hnext,
    hr.inTable_read, hr.own_read, hr.virt_read, hj, hin, hgroup]
  refine ⟨hres, rfl, trivial, ?_⟩
  by_cases h0 : bf w 31 0 = 0
  · simp [h0]
  · simp [helse h0]

theorem endStep_plans (h : s.Commits k 0x1F b w) (hres : resBad w [] = false) : Does (.endStep k) s fun t =>
    s.Plans t k b (s.sq k).pc (.halting 1) ∧ (t.sq k).target = none := by
  have ha := s.stepRead_atStep k w
  refine h.does exec_endStep (by decide) rfl (by simp [hres]) ?_
  rw [ha.pc]
  exact ha.endRun b _ _ _

/-! ### WAIT_TIME (R238) -/

theorem State.AtStep.arm (h : s.AtStep u k) (target : Time) (drop : Bool) : s.AtStep (u.arm (actId 2 k) target drop 0) k :=
  h.frame (State.arm_outKey u (actId_outer k (by decide) (by decide)) target drop 0)

theorem waitTime_waits (h : s.Commits k 0x05 b w)
    (hres : resBad w ([(119, 119), (63, 0)] ++ if tb w 119 then [(81, 64)] else []) = false)
    (hnext : (s.fetched k w).inTable k ((s.sq k).pc + 1) = true)
    (helse : tb w 119 = true → (s.fetched k w).inTable k (bf w 81 64) = true) :
    (tb w 119 = false ∨ 2048 ≤ lead (BitVec.ofNat 64 (bf w 63 0)) s.now → Does (.waitTime k) s fun t =>
      s.Plans t k b ((s.sq k).pc + 1) (.waitTime (bf w 81 64)) ∧ (t.act (actId 2 k)).armed = true) ∧
    (tb w 119 = true → s.actReady (actId 2 k) = true → lead (BitVec.ofNat 64 (bf w 63 0)) s.now < 2048 →
      Does (.waitTime k) s fun t => s.Advances t k (bf w 81 64) [] ∧ t.act (actId 2 k) = {}) := by
  have hr := s.stepRead_frame k w
  have hf := s.fetched_frame k w
  have ha := s.stepRead_atStep k w
  have hnow : (s.stepRead k w).now = s.now := hr.now.trans hf.now
  have hready : (s.stepRead k w).actReady (actId 2 k) = s.actReady (actId 2 k) := (hr.waitReady k).trans (hf.waitReady k)
  obtain ⟨harmed, hdropped⟩ := (s.stepRead k w).arm_wait k (BitVec.ofNat 64 (bf w 63 0)) (tb w 119)
  have hu := ha.arm (BitVec.ofNat 64 (bf w 63 0)) (tb w 119)
  rw [hnow, hready] at *
  have hc : ∀ c ∈ [(resBad w ([(119, 119), (63, 0)] ++ if tb w 119 then [(81, 64)] else []), 2), ((s.stepRead k w).nextBad k, 4),
      (tb w 119 && !(s.stepRead k w).inTable k (bf w 81 64), 4)], c.1 = false := by
    simp only [List.forall_mem_cons, List.not_mem_nil, false_implies, implies_true, and_true, State.nextBad_stepRead hnext,
      hr.inTable_read]
    refine ⟨hres, trivial, ?_⟩
    cases hd : tb w 119 with
    | false => rfl
    | true => simp [helse hd]
  constructor
  · intro hin
    refine h.does exec_waitTime (by decide) rfl hc ?_
    dsimp only
    rw [if_pos (harmed hin)]
    exact ⟨(hu.holds b _).1, (congrArg Act.armed ((State.endRun_frame _ k b _ _ _).act _)).trans (harmed hin)⟩
  · intro hd hrdy hl
    have hnone := hdropped hd hrdy hl
    refine h.does exec_waitTime (by decide) rfl hc ?_
    dsimp only
    rw [if_neg (by rw [hnone]; decide)]
    exact ⟨hu.goOn _ [], ((State.goOn_frame _ k _ _).act _).trans hnone⟩

/-! ### An undefined opcode (R231) -/

/-- An undefined opcode is carried by PLAY's row, and faults with code 1. -/
theorem play_faults_undefined {op : Nat} (h : s.Commits k op b w) (hop : opcodes.contains op = false) :
    Does (.play k) s (s.Faults · k 1) := by
  refine ⟨_, ?_, s.stepFault_faults k w 1⟩
  rw [exec_play, execPlay, h.commitStep_eq (by rw [hop]; simp), if_pos (by rw [hop]; decide)]
  rfl

/-- Settles O31: each step that ends its run takes its place at the run's boundary, and an undefined opcode faults. -/
theorem stepsThatPlayOrHoldCommit : Obligations.StepsThatPlayOrHoldCommit := by
  intro s k b w v f n
  exact ⟨fun d hnext hd => ⟨fun h hres hbad => play_plans h hnext hd hres hbad,
      fun h hres hloop hbad => playloop_plans h hnext hd hres hloop hbad⟩,
    fun h hres hcnt hnext => hold_plans h hres hcnt hnext, fun h hres hnext helse => waitEvent_plans h hres hnext helse,
    fun h hres hnext helse => waitTime_waits h hres hnext helse,
    fun j h hres hj hin hall hnext helse => sync_plans h hres hj hin hall hnext helse, fun h hres => endStep_plans h hres,
    fun op h hop => by simpa [State.Faults] using play_faults_undefined h hop⟩

end Sys2Proof.Machine
end

section
/-! PROOF. O32: the ends of holding steps, barriers and passes (R235 to R238, R248), a pulsed marker's return (R247), a parameter list and
a phase reset (R243, R297). -/

namespace Sys2Proof.Machine

-- Proofs one after another: many that wait in threads of their own would pass the check's memory limit.
set_option Elab.async false

variable (s : State) {k : Fin 16}

/-- A change of what a sequencer holds writes no register. -/
theorem State.setSq_sameRegs (j : Nat) (x : SeqSt) : SameRegs [] s (s.setSq j x) := fun _ _ => rfl

theorem State.setSq_sameStores (j : Nat) (x : SeqSt) : SameStores s (s.setSq j x) := (s.setSq_frame j x).sameStores

/-! ### HOLD and WAIT_EVENT (R236, R237, R268, R269) -/

theorem holdEnd_ends {n : Nat} (hp : (s.sq k).plan = .hold n) (ht : (s.sq k).target = none) : Does (.holdEnd k) s fun t =>
    t.sq k = { s.sq k with target := some ((s.sq k).planAt + n) } ∧ SameRegs [] s t ∧ SameStores s t := by
  refine ⟨s.setSq k { s.sq k with target := some ((s.sq k).planAt + n) }, ?_, s.sq_setSq_self _ _, s.setSq_sameRegs _ _,
    s.setSq_sameStores _ _⟩
  rw [show exec (.holdEnd k) s = execHoldEnd k s from rfl]
  simp only [execHoldEnd, hp, ht]

theorem State.consumeEf_frame (j i : Nat) : Frame [.cyc, .seqs] (· = devKey (seqR j + 0x44)) s (s.consumeEf j i) := by
  unfold State.consumeEf
  extract_lets x u
  have hu : Frame [.cyc, .seqs] (· = devKey (seqR j + 0x44)) s u := .ite (fun _ => (s.setSq_frame j _).mono) fun _ => .refl
  exact (hu.then (u.wbit_frame (seqR j + 0x44) i false)).then (State.touch_frame _ _ _)

/-- A flag of a sequencer that reads 1 is a bit of its register. -/
theorem State.ef_lt {s : State} {j i : Nat} (h : s.ef j i = true) : i < 32 := by
  by_contra hi
  have : s.ef j i = false := BitVec.getLsbD_of_ge _ _ (by omega)
  simp [this] at h

/-- A flag that ends a wait is consumed, and the run that follows is to commit for a boundary. -/
theorem State.consumed_spec {i : Nat} (hi : s.ef k i = true) (x : SeqSt) : let t := (s.consumeEf k i).setSq k x
    t.ef k i = false ∧ t.sq k = x ∧ SameRegs [devKey (seqR k + 0x44)] s t :=
  ⟨s.consumeEf_ef k (s.ef_lt hi), State.sq_setSq_self _ _ _, (s.consumeEf_frame k i).sameRegs _ fun _ hj => by simp [hj]⟩

theorem waitEvent_ends {i els tmo : Nat} (hp : (s.sq k).plan = .waitEvent i els tmo) (ht : (s.sq k).target = none) :
    let x := s.sq k
    (s.ef k i = true → Does (.waitEventEnd k) s fun t => t.ef k i = false ∧ (t.sq k).pc = x.pc ∧
      (t.sq k).target = some ((s.candidate x).getD (max (x.planAt + 1) (x.from_ (s.time.mono + 2048)))) ∧
      SameRegs [devKey (seqR k + 0x44)] s t) ∧
    (tmo ≠ 0 → s.ef k i = true → Does (.waitEventTimeout k) s fun t => t.ef k i = false ∧ (t.sq k).pc = x.pc ∧
      (t.sq k).target = some (x.planAt + tmo) ∧ SameRegs [devKey (seqR k + 0x44)] s t) ∧
    (tmo ≠ 0 → s.ef k i = false → Does (.waitEventTimeout k) s fun t => (t.sq k).pc = els ∧
      (t.sq k).target = some (max (x.planAt + tmo) (x.from_ (s.time.mono + 2048))) ∧ SameRegs [] s t) := by
  have hend : exec (.waitEventEnd k) s = execWaitEventEnd k s := rfl
  have htmo : exec (.waitEventTimeout k) s = execWaitEventTimeout k s := rfl
  simp only [execWaitEventEnd, hp, ht] at hend
  simp only [execWaitEventTimeout, hp, ht] at htmo
  refine ⟨fun hef => ?_, fun h0 hef => ?_, fun h0 hef => ?_⟩
  · rw [if_pos hef] at hend
    obtain ⟨he, hq, hr⟩ := s.consumed_spec hef _
    exact ⟨_, hend, he, by rw [hq], by rw [hq], hr⟩
  · rw [if_neg h0, if_pos hef] at htmo
    obtain ⟨he, hq, hr⟩ := s.consumed_spec hef _
    exact ⟨_, htmo, he, by rw [hq], by rw [hq], hr⟩
  · rw [if_neg h0, if_neg (by simp [hef])] at htmo
    exact ⟨_, htmo, by rw [State.sq_setSq_self], by rw [State.sq_setSq_self], s.setSq_sameRegs _ _⟩

/-! ### WAIT_TIME (R238, R268) -/

/-- A wait has no flag of its own among the registers. -/
theorem State.disarm_wait (k : Fin 16) : s.disarm (actId 2 k) = s.setAct (actId 2 k) {} := rfl

theorem waitTime_ends {els : Nat} (hp : (s.sq k).plan = .waitTime els) (ht : (s.sq k).target = none)
    (ha : (s.act (actId 2 k)).armed = true) (hd : (s.act (actId 2 k)).defer = false) : Does (.waitTimeEnd k) s fun t =>
      (t.sq k).target = some (s.waitTimeAt k) ∧ t.act (actId 2 k) = {} ∧ (t.sq k).pc = (s.sq k).pc ∧ SameRegs [] s t := by
  refine ⟨(s.disarm (actId 2 k)).setSq k { s.sq k with target := some (s.waitTimeAt k) }, ?_, ?_, s.disarm_act _, ?_, ?_⟩
  · rw [show exec (.waitTimeEnd k) s = execWaitTimeEnd k s from rfl]
    simp [execWaitTimeEnd, hp, ht, ha, hd]
  · rw [State.sq_setSq_self]
  · rw [State.sq_setSq_self]
  · rw [s.disarm_wait]
    exact fun _ _ => rfl

/-! ### Barriers (R248, R278) -/

/-- Where a sequencer goes on that waits no more (R268, R280). -/
def SeqSt.goneOn (x : SeqSt) (muted : Bool) (t : Nat) : SeqSt :=
  if muted then { x with aim := some t } else { x with target := some (max (x.planAt + 1) (x.from_ t)) }

theorem State.goAt_eq (j t : Nat) : s.goAt j t = s.setSq j ((s.sq j).goneOn (s.bit (seqR j + 8) 18) t) := by
  unfold State.goAt SeqSt.goneOn
  cases s.bit (seqR j + 8) 18 <;> rfl

theorem State.goAt_frame (j t : Nat) : Frame [.seqs] noKey s (s.goAt j t) := by
  rw [s.goAt_eq]
  exact s.setSq_frame j _

/-- A member of a barrier as its release in this cycle leaves it. -/
def State.releasedSq (s : State) (j : Nat) : SeqSt :=
  SeqSt.goneOn { s.sq j with arrived := none } (s.bit (seqR j + 8) 18) (s.time.mono + 2048)

/-- The release of one member. -/
def State.releaseOne (s : State) (j : Nat) : State := (s.setSq j { s.sq j with arrived := none }).goAt j (s.time.mono + 2048)

theorem State.releaseOne_frame (j : Nat) : Frame [.seqs] noKey s (s.releaseOne j) :=
  (s.setSq_frame j _).trans (State.goAt_frame _ j _)

theorem State.releaseOne_sq (j i : Nat) : (s.releaseOne j).sq i = if i = j then s.releasedSq j else s.sq i := by
  rw [State.releaseOne, State.goAt_eq, State.sq_setSq, State.sq_setSq_self, State.sq_setSq]
  by_cases h : i = j
  · simp only [if_pos h]
    rfl
  · simp only [if_neg h]

/-- A member named twice is released once. -/
theorem State.releasedSq_releaseOne (j i : Nat) : (s.releaseOne j).releasedSq i = s.releasedSq i := by
  have hf := s.releaseOne_frame j
  have hmuted : (s.releaseOne j).bit (seqR i + 8) 18 = s.bit (seqR i + 8) 18 := hf.bit _ _
  rw [State.releasedSq, hmuted, hf.mono_eq, s.releaseOne_sq]
  by_cases h : i = j
  · rw [if_pos h, h]
    unfold State.releasedSq SeqSt.goneOn
    cases s.bit (seqR j + 8) 18 <;> rfl
  · rw [if_neg h]
    rfl

theorem State.releases_spec (ms : List Nat) : Frame [.seqs] noKey s (s.each ms State.releaseOne) ∧
    ∀ i, (s.each ms State.releaseOne).sq i = if i ∈ ms then s.releasedSq i else s.sq i := by
  induction ms generalizing s with
  | nil => exact ⟨.refl, fun i => by simp⟩
  | cons j ms ih =>
    obtain ⟨hf, hq⟩ := ih (s.releaseOne j)
    refine ⟨(s.releaseOne_frame j).trans hf, fun i => ?_⟩
    rw [State.each_cons, hq, s.releasedSq_releaseOne, s.releaseOne_sq]
    by_cases hij : i = j
    · simp [hij]
    · simp [hij]

/-- The sequencer goes on after its wait: at a boundary, or, while its clock is muted, from a moment on (R268, R280). -/
def State.GoesOn (s t : State) (j : Nat) : Prop :=
  if s.bit (seqR j + 8) 18 then (t.sq j).aim = some (s.time.mono + 2048)
  else (t.sq j).target = some (max ((s.sq j).planAt + 1) ((s.sq j).from_ (s.time.mono + 2048)))

theorem State.goesOn_of_goneOn {s t : State} {j : Nat} {x : SeqSt} (hx : x.planAt = (s.sq j).planAt) (hl : x.tl = (s.sq j).tl)
    (h : t.sq j = x.goneOn (s.bit (seqR j + 8) 18) (s.time.mono + 2048)) : s.GoesOn t j := by
  unfold State.GoesOn
  rw [h]
  cases s.bit (seqR j + 8) 18
  · simp [SeqSt.goneOn, hx, SeqSt.from_, hl]
  · simp [SeqSt.goneOn]

theorem SeqSt.goneOn_arrived (x : SeqSt) (b : Bool) (t : Nat) : (x.goneOn b t).arrived = x.arrived := by
  cases b <;> rfl

theorem SeqSt.goneOn_pc (x : SeqSt) (b : Bool) (t : Nat) : (x.goneOn b t).pc = x.pc := by
  cases b <;> rfl

theorem syncRelease_releases {ms : List Nat} (hb : s.barrier k = some ms) : Does (.syncRelease k) s fun t => SameRegs [] s t ∧
    ∀ j ∈ ms, (t.sq j).arrived = none ∧ (t.sq j).pc = (s.sq j).pc ∧ s.GoesOn t j := by
  obtain ⟨hf, hq⟩ := s.releases_spec ms
  refine ⟨s.each ms State.releaseOne, ?_, hf.sameRegs [] fun _ hj => by omega, fun j hj => ?_⟩
  · rw [show exec (.syncRelease k) s = execSyncRelease k s from rfl]
    simp only [execSyncRelease, hb]
    rfl
  · have h := (hq j).trans (if_pos hj)
    refine ⟨?_, ?_, State.goesOn_of_goneOn (x := { s.sq j with arrived := none }) rfl rfl h⟩
    · rw [h, State.releasedSq, SeqSt.goneOn_arrived]
    · rw [h, State.releasedSq, SeqSt.goneOn_pc]

theorem syncTimeout_goesOn {i g els tmo a : Nat} (hc : (s.sq k).cur = .sync i g els tmo) (ht : (s.sq k).target = none)
    (ha : (s.sq k).arrived = some a) (h0 : tmo ≠ 0) (hb : s.barrier k = none) : Does (.syncTimeout k) s fun t =>
      (t.sq k).pc = els ∧ (t.sq k).arrived = none ∧ s.GoesOn t k ∧ SameRegs [] s t := by
  let x : SeqSt := { s.sq k with arrived := none, pc := els }
  have hq : ((s.setSq k x).goAt k (s.time.mono + 2048)).sq k = x.goneOn (s.bit (seqR k + 8) 18) (s.time.mono + 2048) := by
    rw [State.goAt_eq, State.sq_setSq_self, State.sq_setSq_self]
    rfl
  refine ⟨(s.setSq k x).goAt k (s.time.mono + 2048), ?_, ?_, ?_, State.goesOn_of_goneOn (x := x) rfl rfl hq, ?_⟩
  · rw [show exec (.syncTimeout k) s = execSyncTimeout k s from rfl]
    simp [execSyncTimeout, hc, ht, ha, h0, hb, x]
  · rw [hq, SeqSt.goneOn_pc]
  · rw [hq, SeqSt.goneOn_arrived]
  · exact ((s.setSq_frame k x).trans (State.goAt_frame _ k _)).sameRegs [] fun _ hj => by omega

/-! ### The exit test of a PLAYLOOP (R235, R270, R273) -/

theorem State.takeHead_frame (j d e : Nat) : Frame [.seqs] noKey s (s.takeHead j d e) := s.setSq_frame j _

theorem State.takeHead_target (j d e : Nat) : ((s.takeHead j d e).sq j).target = (s.sq j).target := by
  rw [State.takeHead, State.sq_setSq_self]

theorem State.watchData_frame (j i b : Nat) (c : Cur) (d : Desc) (f : Nat) : Frame [.seqs] noKey s (s.watchData j i b c d f) := by
  unfold State.watchData
  refine .ite (fun _ => .refl) fun _ => ?_
  split
  · exact .refl
  · split
    · exact s.setSq_frame j _
    · exact .refl

theorem State.watchData_target (j i b : Nat) (c : Cur) (d : Desc) (f : Nat) :
    ((s.watchData j i b c d f).sq j).target = (s.sq j).target := by
  unfold State.watchData
  dsimp only
  split
  · rfl
  · split
    · rfl
    · split
      · rw [State.sq_setSq_self]
      · rfl

/-- What fetching a head may change beside registers. -/
abbrev headParts : List Aspect := [.cyc, .seqs, .free]

/-- What a sequencer holds beside its prefetch buffer and its whey. -/
def SeqSt.sansHeads (x : SeqSt) : SeqSt := { x with heads := [], whey := 0 }

theorem State.addWhey_frame (j n : Nat) : Frame [.cyc, .seqs] noKey s (s.addWhey j n) := by
  unfold State.addWhey
  exact ((s.setSq_frame j _).mono).then (State.setCy_frame _ _ _)

theorem State.addHead_spec (j : Nat) (d : Desc) (h : Head) : Frame headParts eccKey s (s.addHead j d h) ∧
    ((s.addHead j d h).sq j).sansHeads = (s.sq j).sansHeads := by
  unfold State.addHead
  dsimp only
  split
  · exact ⟨.refl, rfl⟩
  · have hr := s.readVi_eccKey (s.ownerVi .seq j) d.mem (d.addr + h.elem * d.eb / 8) h.bytes
    generalize s.readVi (s.ownerVi .seq j) d.mem (d.addr + h.elem * d.eb / 8) h.bytes = u at hr ⊢
    have hr' : Frame headParts eccKey s u := hr.mono
    split
    · exact ⟨hr'.then (u.setSq_frame j _), by rw [State.sq_setSq_self]; rfl⟩
    · refine ⟨((hr'.then u.fresh_frame).then (State.setSq_frame _ j _)).then (State.addWhey_frame _ j _), ?_⟩
      rw [show (State.addWhey _ j _).sq j = _ from State.sq_setSq_self _ _ _, State.sq_setSq_self]
      rfl

variable {p : Bool} {d i loops e head sect tail m : Nat}

/-- The loop's plan and target as the test leaves them. -/
theorem SeqSt.setPlan_plan (x : SeqSt) (c : Cur) : (x.setPlan c).plan = c := by
  unfold SeqSt.setPlan
  split <;> rfl

/-- The last pass ends: the step goes on through its tail, with the head of the tail taken. -/
def State.passEnds (s : State) (k i b : Nat) (p : Bool) (d : Nat) (c : Cur) : State :=
  match (s.dirEntry (s.ownerVi .seq k) i).map s.descAt with
  | none => s
  | some y => (s.takeHead k i y.le).watchData k (s.fld (seqR k + 0x40) 17 0) b c y (if p then 1 else s.interp d)

/-- Another pass begins: the head of the loop section is taken, and fetched again. -/
def State.passRepeats (s : State) (k i : Nat) : State :=
  match (s.dirEntry (s.ownerVi .seq k) i).map s.descAt with
  | none => s
  | some y => s.each ((loopHeads i y).drop 1) fun s h => (s.takeHead k i y.ls).addHead k y h

theorem State.passEnds_spec (s : State) (k i b : Nat) (p : Bool) (d : Nat) (c : Cur) : Frame [.seqs] noKey s (s.passEnds k i b p d c) ∧
    ((s.passEnds k i b p d c).sq k).target = (s.sq k).target := by
  unfold State.passEnds
  split
  · exact ⟨.refl, rfl⟩
  · next y _ =>
    refine ⟨(s.takeHead_frame k i y.le).trans (State.watchData_frame _ _ _ _ _ _ _), ?_⟩
    rw [State.watchData_target, s.takeHead_target]

theorem State.passRepeats_spec (s : State) (k i : Nat) : Frame headParts eccKey s (s.passRepeats k i) ∧
    ((s.passRepeats k i).sq k).sansHeads = (s.sq k).sansHeads := by
  unfold State.passRepeats
  split
  · exact ⟨.refl, rfl⟩
  · next y _ =>
    obtain ⟨hf, hq⟩ := (s.takeHead k i y.ls).addHead_spec k y
      { desc := i, elem := y.ls, bytes := min 4096 ((y.le - y.ls) * y.eb / 8) }
    refine ⟨((s.takeHead_frame k i y.ls).mono).trans hf, hq.trans ?_⟩
    rw [State.takeHead, State.sq_setSq_self]
    rfl

theorem ok_passes (o : Option Desc) (ends : Bool) (u : State) (f g : Desc → State) : (match o with
    | none => ok u
    | some y => if ends then ok (f y) else ok (g y) : Res) =
      ok (if ends then (match o with | none => u | some y => f y) else match o with | none => u | some y => g y) := by
  cases o <;> cases ends <;> rfl

/-- What the exit test answers: the step goes on through its tail where the flag is set or the passes are done, else another pass
begins. -/
theorem exec_playloopExitTest (hp : (s.sq k).plan = .loop p d i loops (some e) head sect tail m) (ht : (s.sq k).target = none) :
    let hit := s.ef k e
    let ends := hit || (loops != 0 && m + 1 == loops)
    let u := if hit then s.consumeEf k e else s
    let c : Cur := .loop p d i (if hit then m + 1 else loops) (some e) head sect tail (m + 1)
    let v := u.setSq k { (u.sq k).setPlan c with
      target := if ends then some ((s.sq k).planAt + head + m * sect + tail) else none }
    exec (.playloopExitTest k) s = ok (if ends then v.passEnds k i (u.sq k).planAt p d c else v.passRepeats k i) := by
  rw [show exec (.playloopExitTest k) s = execPlayloopExitTest k s from rfl]
  simp only [execPlayloopExitTest, hp, ht]
  exact ok_passes _ _ _ _ _

theorem playloopExitTest_tests (hp : (s.sq k).plan = .loop p d i loops (some e) head sect tail m) (ht : (s.sq k).target = none) :
    let x := s.sq k
    (s.ef k e = true → Does (.playloopExitTest k) s fun t => t.ef k e = false ∧
      (t.sq k).target = some (x.planAt + head + m * sect + tail)) ∧
    (s.ef k e = false → (loops = 0 ∨ m + 1 < loops) → Does (.playloopExitTest k) s fun t => (t.sq k).target = none ∧
      (t.sq k).plan = .loop p d i loops (some e) head sect tail (m + 1) ∧
      SameRegs ([0x1808, 0x180C, 0x1810].map devKey) s t) ∧
    (s.ef k e = false → loops ≠ 0 → m + 1 = loops → Does (.playloopExitTest k) s fun t =>
      (t.sq k).target = some (x.planAt + head + m * sect + tail)) := by
  have he := exec_playloopExitTest s hp ht
  refine ⟨fun hef => ?_, fun hef hl => ?_, fun hef h0 hl => ?_⟩
  · simp only [hef, Bool.true_or, if_true] at he
    obtain ⟨hf, hq⟩ := State.passEnds_spec (State.setSq _ k _) k i _ p d _
    refine ⟨_, he, ?_, hq.trans (by rw [State.sq_setSq_self])⟩
    exact (hf.bit (seqR k + 0x44) e).trans (s.consumeEf_ef k (s.ef_lt hef))
  · have hends : (loops != 0 && m + 1 == loops) = false := by
      simp only [Bool.and_eq_false_imp, bne_iff_ne, beq_eq_false_iff_ne]
      omega
    simp only [hef, hends, Bool.false_or, Bool.false_eq_true, if_false] at he
    obtain ⟨hf, hq⟩ := State.passRepeats_spec (s.setSq k { (s.sq k).setPlan (.loop p d i loops (some e) head sect tail (m + 1)) with
      target := none }) k i
    rw [State.sq_setSq_self] at hq
    refine ⟨_, he, congrArg SeqSt.target hq, (congrArg SeqSt.plan hq).trans (SeqSt.setPlan_plan _ _), ?_⟩
    exact hf.sameRegs _ fun j hj => by simpa [devKey] using hj
  · have hends : (loops != 0 && m + 1 == loops) = true := by simp [h0, hl]
    simp only [hef, hends, Bool.false_or, if_true] at he
    obtain ⟨-, hq⟩ := State.passEnds_spec (State.setSq _ k _) k i _ p d _
    exact ⟨_, he, hq.trans (by rw [State.sq_setSq_self])⟩

/-! ### Markers (R247, R272) -/

theorem State.setLevel_lv0 (n : Nat) (b : Bool) : (s.setLevel n b).fab.lv0 = setBit s.fab.lv0 n b := by
  have hfire (u : State) (q : Nat) : (u.fireP q).fab.lv0 = u.fab.lv0 := by
    unfold State.fireP State.assertSrc
    split <;> rfl
  unfold State.setLevel
  dsimp only
  split
  · exact hfire _ _
  · rfl

theorem markerPulse_returns {j : Fin 4} {n : Nat} {lv : Bool}
    (hp : (s.sq k).pulses.find? (fun p => p.1 == j.val) = some (j.val, n, lv)) : Does (.markerPulseReturn k j) s fun t =>
      t.bit (seqR k + 0x44) (8 + j) = lv ∧ t.fab.lv0.getLsbD (4 * k + j) = lv ∧
      (t.sq k).pulses = (s.sq k).pulses.filter (fun p => p.1 != j.val) ∧ SameRegs [devKey (seqR k + 0x44)] s t := by
  let u := (s.setSq k { s.sq k with pulses := (s.sq k).pulses.filter fun p => p.1 != j.val }).wbit (seqR k + 0x44) (8 + j) lv
  have hf : Frame [.fab, .inflight] noKey u (u.setLevel (4 * k + j) lv) := u.setLevel_frame _ _
  have hu : Frame [.cyc, .seqs, .fab, .inflight] (· = devKey (seqR k + 0x44)) s u :=
    ((s.setSq_frame k _).mono).then (State.wbit_frame _ (seqR k + 0x44) (8 + j) lv)
  refine ⟨u.setLevel (4 * k + j) lv, ?_, ?_, ?_, ?_, ?_⟩
  · rw [show exec (.markerPulseReturn k j) s = execMarkerPulseReturn k j s from rfl]
    simp only [execMarkerPulseReturn, hp]
    rfl
  · exact (hf.bit _ _).trans (State.bit_wbit_self _ _ _ _ (by omega))
  · rw [State.setLevel_lv0]
    exact tb_setBit_self _ _ _ (by omega)
  · rw [hf.sq k, State.sq, (State.wbit_frame _ (seqR k + 0x44) (8 + j) lv).keeps .seqs (by decide)]
    exact congrArg SeqSt.pulses (State.sq_setSq_self _ _ _)
  · exact (hu.then hf).sameRegs _ fun _ hj => by simp [hj]

/-! ### Parameter lists and phase resets (R243, R296, R297) -/

variable {n : Fin 8} {q : Nat}

theorem paramListAdvance_advances (hq : s.aoutSeq n = some q) : Does (.paramListAdvance n) s fun t => t = s.catchUp q := by
  refine ⟨s.catchUp q, ?_, rfl⟩
  rw [show exec (.paramListAdvance n) s = execParamListAdvance n s from rfl]
  simp only [execParamListAdvance, hq]

theorem phaseReset_loads (hq : s.aoutSeq n = some q) {j : Nat} (ha : (s.act (actId 4 n)).armed = true)
    (hd : (s.act (actId 4 n)).defer = false) (hj : s.phaseAt n q = some j) (hdue : (s.sq q).at_ j < s.time.mono + s.cycleTu)
    (hfree : ∀ e ∈ (s.sq q).queue, j < e.1) : Does (.phaseReset n) s fun t =>
      t.act (actId 4 n) = {} ∧ (t.ao n).phaseRef = none := by
  let u := (s.playTo q j).phaseLoad n q ((s.playTo q j).targetAt (s.act (actId 4 n)).target)
  refine ⟨u.disarm (actId 4 n), ?_, State.disarm_act _ _, ?_⟩
  · have hall : (s.sq q).queue.all (fun e => decide (j < e.1)) = true := List.all_eq_true.mpr fun e he => by simp [hfree e he]
    rw [show exec (.phaseReset n) s = execPhaseReset n s from rfl]
    simp only [execPhaseReset, hq, hj, ha, hd, hall, hdue, decide_true, Bool.not_false, Bool.and_self, if_true]
    rfl
  · have hdis : (u.disarm (actId 4 n)).aouts = u.aouts := (u.disarm_frame _).keeps .aouts (by decide)
    rw [State.ao, hdis]
    exact congrArg AoutSt.phaseRef (State.ao_setAo_self _ _ _)

/-- Settles O32: what holds a programme ends, a pulsed marker returns, and a phase reset acts. -/
theorem holdsPassesAndPulsesEnd : Obligations.HoldsPassesAndPulsesEnd := by
  intro s k
  exact ⟨fun n hp ht => holdEnd_ends s hp ht, fun i els tmo hp ht => waitEvent_ends s hp ht,
    fun els hp ht ha hd => waitTime_ends s hp ht ha hd, fun ms hb => syncRelease_releases s hb,
    fun i g els tmo a hc ht ha h0 hb => syncTimeout_goesOn s hc ht ha h0 hb,
    fun p d i loops e head sect tail m hp ht => playloopExitTest_tests s hp ht, fun m n lv hp => markerPulse_returns s hp,
    fun n q hq => ⟨paramListAdvance_advances s hq, fun j ha hd hj hdue hfree => phaseReset_loads s hq ha hd hj hdue hfree⟩⟩

end Sys2Proof.Machine
end

section
/-! SUPPORT. What a halting sequencer leaves (R282): its reason, no run to come, its channels at park and its banks idle. -/

namespace Sys2Proof.Machine

-- Proofs one after another: many that wait in threads of their own would pass the check's memory limit.
set_option Elab.async false

variable (s : State) {k : Fin 16}

/-- What each application to the element `a` brings about, and every application keeps, holds once the list has been gone through. -/
theorem State.each_reaches {α : Type} {f : State → α → State} {p : State → Prop} {a : α} (hset : ∀ u, p (f u a))
    (hkeep : ∀ u b, p u → p (f u b)) (l : List α) : a ∈ l ∨ p s → p (s.each l f) := by
  induction l generalizing s with
  | nil => exact fun h => h.resolve_left (by simp)
  | cons b l ih =>
    intro h
    refine ih (f s b) ?_
    rcases h with h | h
    · exact (List.mem_cons.mp h).elim (fun he => .inr (he ▸ hset s)) .inl
    · exact .inr (hkeep s b h)

/-! ### A channel and a bank of it -/

/-- A bound channel as the halt leaves it: its lists ended, its output at park and no longer playing. -/
def State.haltAout (s : State) (plays : Bool) (upTo n : Nat) : State :=
  let u := ((s.endLists n).parkAout n).wbit (aoutR n + 0x2C) 0 false
  if plays then u.setAo n { u.ao n with upTo := upTo } else u

theorem State.haltAout_frame (plays : Bool) (upTo n : Nat) :
    Frame [.cyc, .aouts, .phaseRefs] (· = aoutR n + 0x2C) s (s.haltAout plays upTo n) := by
  have h : Frame [.cyc, .aouts, .phaseRefs] (· = aoutR n + 0x2C) s (((s.endLists n).parkAout n).wbit (aoutR n + 0x2C) 0 false) :=
    ((((s.setAo_frame n _).mono).then (State.wbit_frame _ (aoutR n + 0x2C) 2 true)).then (State.setAo_frame _ n _)).then
      (State.wbit_frame _ (aoutR n + 0x2C) 0 false)
  exact .ite (fun _ => h.then (State.setAo_frame _ n _)) fun _ => h

theorem State.parkAout_parks (n : Nat) : (s.parkAout n).aoutBit n 2 = true :=
  ((State.setAo_frame _ n _).bit (aoutR n + 0x2C) 2).trans (s.bit_wbit_self (aoutR n + 0x2C) 2 true (by decide))

theorem State.haltAout_parks (plays : Bool) (upTo n : Nat) : (s.haltAout plays upTo n).aoutBit n 2 = true := by
  have h : (((s.endLists n).parkAout n).wbit (aoutR n + 0x2C) 0 false).bit (aoutR n + 0x2C) 2 = true := by
    rw [State.bit_wbit_ne _ _ _ (by decide) (by decide)]
    exact (s.endLists n).parkAout_parks n
  unfold State.haltAout
  dsimp only
  split
  · exact ((State.setAo_frame _ n _).bit (aoutR n + 0x2C) 2).trans h
  · exact h

theorem State.haltAout_keeps (plays : Bool) (upTo m : Nat) {n : Nat} (h : s.aoutBit n 2 = true) :
    (s.haltAout plays upTo m).aoutBit n 2 = true := by
  by_cases hm : m = n
  · exact hm ▸ s.haltAout_parks plays upTo m
  · exact ((s.haltAout_frame plays upTo m).bit (aoutR n + 0x2C) 2).trans h

theorem State.stopBank_statusKey (b : Nat) : Frame [.pbs] (· = pbR b + 8) s (s.stopBank b) := by
  unfold State.stopBank State.parkBank
  exact (((s.wfld_frame (pbR b + 8) 1 0 0).mono).then (State.setPb_frame _ b _)).then (State.setPb_frame _ b _)

theorem State.stopBank_idle (b : Nat) : (s.stopBank b).pbState b = 0 :=
  s.fld_wfld_self (pbR b + 8) 1 0 0 (by decide) (by decide)

theorem State.stopBank_keeps (c : Nat) {b : Nat} (h : s.pbState b = 0) : (s.stopBank c).pbState b = 0 := by
  by_cases hc : c = b
  · exact hc ▸ s.stopBank_idle c
  · exact ((s.stopBank_statusKey c).fld (pbR b + 8) 1 0).trans h

/-! ### The rest of a halt -/

theorem State.releaseSems_pendKey (p : SemSt → Bool) (ab : Bool) : Frame [.cyc, .out, .sems] pendKey s (s.releaseSems p ab) := by
  refine Frame.each (fun e _ u => ?_) s
  have h : Frame [.cyc, .out, .sems] pendKey u (u.setSem e.1 { owner := none, epoch := 0, abandoned := ab }) := (u.setSem_frame _ _).mono
  dsimp only
  split
  · exact .ite (fun _ => h.then (State.pend_frame _ _ 8)) fun _ => h
  · exact h

theorem State.clearMarkers_flagsKey (k : Nat) : Frame [.fab, .inflight, .seqs] (· = seqR k + 0x44) s (s.clearMarkers k) := by
  have h : Frame [.fab, .inflight] noKey s (s.each (List.range 4) fun s m => s.setLevel (4 * k + m) false) :=
    Frame.each (fun m _ u => u.setLevel_frame _ false) s
  exact ((h.mono).then (State.wfld_frame _ (seqR k + 0x44) 11 8 0)).then (State.setSq_frame _ k _)

/-- A halt's own STATUS: STATE and HALT_WHY, with no pause. -/
def State.haltStatus (s : State) (k why : Nat) : State :=
  ((s.setSeqState k 0).wfld (seqR k + 8) 27 24 why).wbit (seqR k + 8) 18 false

/-- The bound channels and banks of a halt. -/
def State.haltOutputs (s : State) (k : Nat) (plays : Bool) (upTo : Nat) : State :=
  let u := s.each ((List.range 8).filter (s.bindsAout k)) fun s n => s.haltAout plays upTo n
  u.each ((List.range 8).filter (u.bindsBank k)) fun s b => s.stopBank b

/-- What a halt gives back: markers, its demand, and its heads. -/
def State.haltNotes (s : State) (k demand : Nat) : State :=
  let s := (s.clearMarkers k).fireP (154 + k)
  let s := s.wr 0x1824 (BitVec.ofNat 32 (s.fld 0x1824 15 0 - demand))
  (s.wbit (0x1840 + 4 * k) 17 false).releaseHeads k

/-- A sequencer that has halted has no run. -/
def SeqSt.halted (x : SeqSt) : SeqSt :=
  { x with eff := [], cur := .idle, plan := .idle, target := none, aim := none, queue := [], halt := none, stopT := none, ecc := none,
           stopStep := 0, arrived := none, underrun := none, demand := 0, started := false, snap := none, took := 0, loose := false }

/-- The semaphores of a halted sequencer are released, its owner is told, and the mode looked at (R106, R430). -/
def State.haltTold (s : State) (k why : Nat) : State :=
  ((s.releaseSems (fun m => match m.owner with
    | some (_, some q) => q == k
    | _ => false) (why != 1)).pendOwner .seq k 9).noteStop

theorem State.haltSeq_eq (k why : Nat) (hon : s.seqOn k = true) : s.haltSeq k why =
    let u := ((s.haltStatus k why).haltOutputs k (decide (2 ≤ s.seqState k)) ((s.sq k).tl.at_ (s.sq k).done)).haltNotes k (s.sq k).demand
    (u.setSq k (u.sq k).halted).haltTold k why := by
  unfold State.haltSeq
  rw [if_neg (by simp [hon])]
  rfl

theorem State.haltStatus_frame (k why : Nat) : Frame [.cyc] (· = seqR k + 8) s (s.haltStatus k why) :=
  (((s.wfld_frame (seqR k + 8) 1 0 0).mono).then (State.wfld_frame _ (seqR k + 8) 27 24 why)).then
    (State.wbit_frame _ (seqR k + 8) 18 false)

theorem State.haltStatus_why (k why : Nat) : (s.haltStatus k why).fld (seqR k + 8) 27 24 = why % 16 :=
  (State.fld_wbit_ne _ (seqR k + 8) false (by decide) (by decide)).trans
    (State.fld_wfld_self _ (seqR k + 8) 27 24 why (by decide) (by decide))

theorem State.haltOutputs_spec (k : Fin 16) (plays : Bool) (upTo : Nat) : let t := s.haltOutputs k plays upTo
    Frame [.cyc, .aouts, .phaseRefs, .pbs] (0x1C00 ≤ ·) s t ∧ (∀ n < 8, s.bindsAout k n = true → t.aoutBit n 2 = true) ∧
      ∀ b < 8, s.bindsBank k b = true → t.pbState b = 0 := by
  have h1 : Frame [.cyc, .aouts, .phaseRefs] (0x1C00 ≤ ·) s
      (s.each ((List.range 8).filter (s.bindsAout k)) fun s n => s.haltAout plays upTo n) :=
    Frame.each (fun n _ u => (u.haltAout_frame plays upTo n).mono) s
  have hp (n : Nat) (hn : n < 8) (hb : s.bindsAout k n = true) :
      (s.each ((List.range 8).filter (s.bindsAout k)) fun s n => s.haltAout plays upTo n).aoutBit n 2 = true :=
    s.each_reaches (p := fun u => u.aoutBit n 2 = true) (fun u => u.haltAout_parks plays upTo n)
      (fun u m h => u.haltAout_keeps plays upTo m h) _ (.inl (List.mem_filter.mpr ⟨List.mem_range.mpr hn, hb⟩))
  unfold State.haltOutputs
  generalize s.each ((List.range 8).filter (s.bindsAout k)) (fun s n => s.haltAout plays upTo n) = u at h1 hp ⊢
  have h2 : Frame [.pbs] (0x2000 ≤ ·) u (u.each ((List.range 8).filter (u.bindsBank k)) fun s b => s.stopBank b) :=
    Frame.each (fun b _ v => (v.stopBank_statusKey b).mono) u
  refine ⟨(h1.mono).then h2, fun n hn hb => (h2.bit (aoutR n + 0x2C) 2).trans (hp n hn hb), fun b hb hbind => ?_⟩
  have hbind' : u.bindsBank k b = true := (h1.bit (seqR k + 0xC) (8 + b)).trans hbind
  exact u.each_reaches (p := fun v => v.pbState b = 0) (fun v => v.stopBank_idle b) (fun v c h => v.stopBank_keeps c h) _
    (.inl (List.mem_filter.mpr ⟨List.mem_range.mpr hb, hbind'⟩))

/-- The registers that a halt writes besides STATUS and its outputs': markers, admission, and the sources its owner sees. -/
abbrev haltNotesKey (k : Nat) : Nat → Prop := fun j => j = 0x1044 + 0x80 * k ∨ j = 0x1824 ∨ j = 0x1840 + 4 * k ∨ pendKey j

theorem State.haltNotes_frame (k demand : Nat) : Frame haltParts (haltNotesKey k) s (s.haltNotes k demand) := by
  unfold State.haltNotes
  extract_lets s1 s2
  have h1 : Frame haltParts (haltNotesKey k) s s1 := ((s.clearMarkers_flagsKey k).mono).then (State.fireP_frame _ _)
  exact ((h1.then (s1.wr_frame 0x1824 _)).then (s2.wbit_frame (0x1840 + 4 * k) 17 false)).then (State.releaseHeads_frame _ k)

theorem State.haltTold_frame (k why : Nat) : Frame [.cyc, .out, .sems, .agenda] pendKey s (s.haltTold k why) := by
  unfold State.haltTold
  exact (((s.releaseSems_pendKey _ _).mono).then (State.pendOwner_frame _ .seq k 9)).then (State.noteStop_frame _)

/-- What a halt of sequencer `k` leaves of it and of what it drives. -/
structure State.Halted (s t : State) (k why : Nat) : Prop where
  off : t.seqOn k = false
  why : t.fld (seqR k + 8) 27 24 = why % 16
  queue : (t.sq k).queue = []
  parked : ∀ n < 8, s.bindsAout k n = true → t.aoutBit n 2 = true
  idle : ∀ b < 8, s.bindsBank k b = true → t.pbState b = 0
  stores : SameStores s t

/-- A running sequencer that halts stands halted with its reason and no run to come, its bound outputs at park (R282). -/
theorem State.haltSeq_halts (why : Nat) (hon : s.seqOn k = true) : s.Halted (s.haltSeq k why) k why := by
  obtain ⟨hf, hz⟩ := s.haltSeq_spec k why
  have hoff : (s.haltSeq k why).seqOn k = false := by
    rw [State.seqOn, hz k.isLt]
    rfl
  have hstores : SameStores s (s.haltSeq k why) := hf.sameStores
  rw [s.haltSeq_eq k why hon] at hoff hstores ⊢
  dsimp only at hoff hstores ⊢
  have h1 := s.haltStatus_frame k why
  have hwhy := s.haltStatus_why k why
  generalize s.haltStatus k why = u at h1 hwhy hoff hstores ⊢
  obtain ⟨h2, hpark, hidle⟩ := u.haltOutputs_spec k (decide (2 ≤ s.seqState k)) ((s.sq k).tl.at_ (s.sq k).done)
  generalize u.haltOutputs k _ _ = v at h2 hpark hidle hoff hstores ⊢
  have h3 := v.haltNotes_frame k (s.sq k).demand
  generalize v.haltNotes k _ = w at h3 hoff hstores ⊢
  have h4 := (w.setSq k (w.sq k).halted).haltTold_frame k why
  have h : Frame haltParts (haltNotesKey k) v ((w.setSq k (w.sq k).halted).haltTold k why) := (h3.then (w.setSq_frame k _)).then h4
  refine ⟨hoff, ?_, ?_, fun n hn hb => ?_, fun b hb hbind => ?_, hstores⟩
  · exact ((h.fld (seqR k + 8) 27 24).trans (h2.fld (seqR k + 8) 27 24)).trans hwhy
  · rw [h4.sq k, State.sq_setSq_self]
    rfl
  · exact (h.bit (aoutR n + 0x2C) 2).trans (hpark n hn ((h1.bit (seqR k + 0xC) n).trans hb))
  · exact (h.fld (pbR b + 8) 1 0).trans (hidle b hb ((h1.bit (seqR k + 0xC) (8 + b)).trans hbind))

end Sys2Proof.Machine
end

section
/-! SUPPORT. What a step boundary does before its step begins (R266, R295): the outputs, the set-points and the effects leave the
sequencer's runs, its STATUS and the stores. -/

namespace Sys2Proof.Machine

-- Proofs one after another: many that wait in threads of their own would pass the check's memory limit.
set_option Elab.async false

variable (s : State)

/-- The step in progress of sequencer `k`, and its runs to come, stand. -/
structure State.SameRun (s t : State) (k : Nat) : Prop where
  cur : (t.sq k).cur = (s.sq k).cur
  queue : (t.sq k).queue = (s.sq k).queue

theorem State.SameRun.trans {s t u : State} {k : Nat} (h : s.SameRun t k) (h' : t.SameRun u k) : s.SameRun u k :=
  ⟨h'.cur.trans h.cur, h'.queue.trans h.queue⟩

theorem State.SameRun.of_sq {s t : State} {k : Nat} (h : t.sq k = s.sq k) : s.SameRun t k := ⟨by rw [h], by rw [h]⟩

theorem State.SameRun.setSq (s : State) (k : Nat) {x : SeqSt} (hc : x.cur = (s.sq k).cur) (hq : x.queue = (s.sq k).queue) :
    s.SameRun (s.setSq k x) k := by
  constructor <;> rw [State.sq_setSq_self]
  · exact hc
  · exact hq

theorem State.SameRun.each {α : Type} {f : State → α → State} {k : Nat} (h : ∀ (u : State) a, u.SameRun (f u a) k) (s : State) (l : List α) :
    s.SameRun (s.each l f) k := by
  induction l generalizing s with
  | nil => exact ⟨rfl, rfl⟩
  | cons a l ih => exact (h s a).trans (ih (f s a))

/-! ### Outputs and set-points -/

/-- What a step boundary may change beside registers. -/
abbrev stepParts : List Aspect := [.cyc, .agenda, .aouts, .phaseRefs, .pbs, .free, .shadows, .cal, .seqs, .fab, .inflight, .out, .acts,
  .disp, .vis]

/-- The registers that the outputs and effects of a step boundary of sequencer `k` may write: its shadows, its flags, and what lies
above the sequencers' registers. -/
abbrev stepKey (k : Nat) : Nat → Prop := fun j => 0x1800 ≤ j ∨ j = 0x1000 + 0x80 * k ∨ j = 0x1044 + 0x80 * k

theorem State.aoutBegin_frame {n : Nat} (hn : n < 8) (t : Nat) :
    Frame (.phaseRefs :: catchParts) (0x1800 ≤ ·) s (s.aoutBegin n t) := by
  unfold State.aoutBegin State.waout
  exact (((s.idleTo_frame hn t).mono).then (State.setAo_frame _ n _)).then (State.wbit_frame _ (aoutR n + 0x2C) 2 _)

theorem State.outBegins_frame (k b : Nat) : Frame (.phaseRefs :: catchParts) (0x1800 ≤ ·) s (s.outBegins k b) := by
  unfold State.outBegins
  exact .ite (fun _ => .refl) fun _ =>
    Frame.each (fun n hn u => u.aoutBegin_frame (List.mem_range.mp (List.mem_filter.mp hn).1) _) s

theorem State.applyTrims_frame (kind inst : Nat) : Frame [.cal] noKey s (s.applyTrims kind inst) := by
  unfold State.applyTrims
  exact .ite (fun _ => .refl) fun _ => .part rfl

theorem State.applySetPoints_frame (n : Nat) : Frame [.cyc, .shadows, .aouts, .phaseRefs] (0x1800 ≤ ·) s (s.applySetPoints n) := by
  unfold State.applySetPoints
  refine ((s.boundary_frame (aoutShadow n)).mono (hK := fun j hj => ?_)).then (State.setAo_frame _ n _)
  simp only [aoutShadow, aoutR, Bool.and_eq_true, decide_eq_true_eq] at hj
  omega

/-- The outputs of a step boundary, and the set-points that wait for it. -/
def State.outputsAt (s : State) (k b : Nat) : State :=
  let s := ((s.playTo k b).outBegins k b).boundary (· == seqR k)
  s.each (s.aoutsOf k) fun s n => (s.applySetPoints n).applyTrims 1 n

theorem State.outputsAt_spec (k b : Nat) : Frame stepParts (stepKey k) s (s.outputsAt k b) ∧ s.SameRun (s.outputsAt k b) k := by
  obtain ⟨hp, hq⟩ := s.playTo_spec k b
  have hrun : s.SameRun (s.playTo k b) k := by
    constructor <;> rw [hq k, if_pos rfl]
  have h1 := (s.playTo k b).outBegins_frame k b
  have h2 : Frame [.cyc, .shadows] (· = 0x1000 + 0x80 * k) _ (((s.playTo k b).outBegins k b).boundary (· == seqR k)) :=
    (State.boundary_frame _ (· == seqR k)).mono (hK := fun j hj => by simpa [seqR] using hj)
  have h12 : Frame (.shadows :: .phaseRefs :: catchParts) (stepKey k) (s.playTo k b)
      (((s.playTo k b).outBegins k b).boundary (· == seqR k)) := (h1.mono).then h2
  unfold State.outputsAt
  generalize ((s.playTo k b).outBegins k b).boundary (· == seqR k) = u at h12 ⊢
  have h3 : Frame [.cyc, .shadows, .aouts, .phaseRefs, .cal] (0x1800 ≤ ·) u
      (u.each (u.aoutsOf k) fun s n => (s.applySetPoints n).applyTrims 1 n) :=
    Frame.each (fun n _ v => ((v.applySetPoints_frame n).mono).then (State.applyTrims_frame _ 1 n)) u
  exact ⟨((hp.mono).then h12).then h3, (hrun.trans (.of_sq (h12.sq k))).trans (.of_sq (h3.sq k))⟩

/-! ### Effects -/

/-- One marker of a change takes its level, with the pulses that are to return after it. -/
def State.setMarker (s : State) (k m : Nat) (pulses : List (Nat × Nat × Bool)) (level : Bool) : State :=
  ((s.setSq k { s.sq k with pulses := pulses }).wbit (seqR k + 0x44) (8 + m) level).setLevel (4 * k + m) level

theorem State.setMarker_spec (k m : Nat) (pulses : List (Nat × Nat × Bool)) (level : Bool) :
    Frame stepParts (stepKey k) s (s.setMarker k m pulses level) ∧ s.SameRun (s.setMarker k m pulses level) k := by
  have hset := s.setSq_frame k { s.sq k with pulses := pulses }
  have hrun : s.SameRun (s.setSq k { s.sq k with pulses := pulses }) k := .setSq s k rfl rfl
  unfold State.setMarker
  generalize s.setSq k { s.sq k with pulses := pulses } = u at hset hrun ⊢
  have h : Frame [.cyc, .fab, .inflight] (stepKey k) u ((u.wbit (seqR k + 0x44) (8 + m) level).setLevel (4 * k + m) level) :=
    ((u.wbit_frame (seqR k + 0x44) (8 + m) level).mono).then (State.setLevel_frame _ _ _)
  exact ⟨(hset.mono).then h, hrun.trans (.of_sq (h.sq k))⟩

theorem State.setMarkers_spec (k b mask value : Nat) (pulse : Bool) (width : Nat) :
    Frame stepParts (stepKey k) s (s.setMarkers k b mask value pulse width) ∧ s.SameRun (s.setMarkers k b mask value pulse width) k :=
  ⟨Frame.each (fun m _ u => (u.setMarker_spec k m _ _).1) s, State.SameRun.each (fun u m => (u.setMarker_spec k m _ _).2) s _⟩

theorem qAct_outer (l i : Nat) : OuterAct (qAct l i) := actId_outer _ (by decide) (by decide)

theorem State.dsiPush_frame (l fb : Nat) (timed pol : Bool) (time : Time) :
    Frame [.cyc, .out, .acts, .disp] (0x1800 ≤ ·) s (s.dsiPush l fb timed pol time) := by
  unfold State.dsiPush State.setDsiQ
  refine .ite (fun _ => ?_) fun _ => (s.setLk_frame _ _).mono
  exact ((s.setLk_frame _ _).mono).then (State.arm_outKey _ (qAct_outer _ _) _ _ _)

theorem State.post_frame (v : Nat) (q : Option Nat) (dvi n : Nat) (pay : BitVec 64) :
    Frame [.cyc, .out, .vis] (0x1800 ≤ ·) s (s.post v q dvi n pay).1 := by
  have hcount (o : Nat) : Frame [.cyc, .out, .vis] (0x1800 ≤ ·) s (s.incSatv v o 1) := (s.tally_frame (viKey v o) _).mono
  unfold State.post
  dsimp only
  split_ifs
  · exact (hcount 0x298).then (State.pend_frame _ v 7)
  · exact hcount 0x294
  · exact (hcount 0x298).then (State.pend_frame _ v 7)
  · exact (((s.setVi_frame v _).mono).then (State.setVi_frame _ dvi _)).then (State.pend_frame _ dvi _)

/-- An effect changes what it names, and of its sequencer the flags and the pulses alone (R266). -/
theorem State.applyEff_spec (k b : Nat) (e : Eff) : Frame stepParts (stepKey k) s (s.applyEff k b e) ∧ s.SameRun (s.applyEff k b e) k := by
  have hof {P : List Aspect} {K : Nat → Prop} {t : State} (h : Frame P K s t) (hP : P ⊆ stepParts) (hs : Aspect.seqs ∉ P)
      (hK : ∀ j, K j → 0x1800 ≤ j) : Frame stepParts (stepKey k) s t ∧ s.SameRun t k :=
    ⟨h.mono hP fun j hj => .inl (hK j hj), .of_sq (h.sq k hs)⟩
  have hao (u : State) (n : Nat) (x : AoutSt) : Frame [.aouts, .phaseRefs] noKey u (u.setAo n x) := u.setAo_frame n x
  cases e with
  | marker m v p w => exact s.setMarkers_spec k b m v p w
  | freq ch mode f l =>
    have h : Frame [.aouts, .phaseRefs] noKey s (s.applyEff k b (.freq ch mode f l)) :=
      .ite (fun _ => (hao s ch _).trans (hao _ ch _)) fun _ => hao s ch _
    exact hof h (by decide) (by decide) fun j hj => by omega
  | phase ch add p => exact hof (hao s ch _) (by decide) (by decide) fun j hj => by omega
  | ampl ch a r l => exact hof (hao s ch _) (by decide) (by decide) fun j hj => by omega
  | timing bs t =>
    have h : Frame [.cyc, .pbs] (0x1800 ≤ ·) s (s.applyEff k b (.timing bs t)) := Frame.each (fun j _ u => by
      unfold State.selectTset
      exact .ite (fun _ => (u.setPb_frame j _).mono) fun _ => (u.wpb_frame j 6 true).mono) s
    exact hof h (by decide) (by decide) fun j hj => hj
  | flip l fb full timed pol time =>
    unfold State.applyEff
    dsimp only
    split
    · have h := s.wbit_frame (seqR k + 0x44) 12 true
      exact ⟨h.mono, .of_sq (h.sq k)⟩
    · exact hof (Frame.each (fun l _ u => u.dsiPush_frame l fb timed pol time) s) (by decide) (by decide) fun j hj => hj
  | post q dvi p => exact hof (s.post_frame _ _ dvi q _) (by decide) (by decide) fun j hj => hj
  | fire ch => exact hof (s.assertSrc_frame _) (by decide) (by decide) fun j hj => by omega

theorem State.applyEffs_spec (k b : Nat) (es : List Eff) : let t := s.each es fun s e => s.applyEff k b e
    Frame stepParts (stepKey k) s t ∧ s.SameRun t k :=
  ⟨Frame.each (fun e _ u => (u.applyEff_spec k b e).1) s, State.SameRun.each (fun u e => (u.applyEff_spec k b e).2) s es⟩

/-! ### Heads -/

theorem State.addHead_sameRun (k : Nat) (d : Desc) (h : Head) : s.SameRun (s.addHead k d h) k := by
  obtain ⟨-, hq⟩ := s.addHead_spec k d h
  have hcur := congrArg SeqSt.cur hq
  have hqueue := congrArg SeqSt.queue hq
  exact ⟨hcur, hqueue⟩

/-- The head of the segment that the run's end `e` names is fetched (R273). -/
def State.fetchEnd (s : State) (k v e : Nat) : State :=
  match namedDesc (s.stepWord v e), s.stepDesc v e with
  | some d, some x => if x.typ = 1 ∨ x.typ = 3 then s.addHead k x { desc := d, elem := 0, bytes := min 4096 x.extent } else s
  | _, _ => s

theorem State.fetchEnd_spec (k v e : Nat) : Frame headParts eccKey s (s.fetchEnd k v e) ∧ s.SameRun (s.fetchEnd k v e) k := by
  unfold State.fetchEnd
  split
  · split
    · exact ⟨(s.addHead_spec k _ _).1, s.addHead_sameRun k _ _⟩
    · exact ⟨.refl, ⟨rfl, rfl⟩⟩
  · exact ⟨.refl, ⟨rfl, rfl⟩⟩

theorem State.addHeads_spec (k : Nat) (d : Desc) (l : List Head) : let t := s.each l fun s h => s.addHead k d h
    Frame headParts eccKey s t ∧ s.SameRun t k :=
  ⟨Frame.each (fun h _ u => (u.addHead_spec k d h).1) s, State.SameRun.each (fun u h => u.addHead_sameRun k d h) s l⟩

theorem State.prefetch_spec (k i : Nat) : Frame headParts eccKey s (s.prefetch k i) ∧ s.SameRun (s.prefetch k i) k := by
  unfold State.prefetch
  extract_lets v w u
  have hu : Frame headParts eccKey s u ∧ s.SameRun u k := by
    simp only [u]
    split
    · split
      · exact s.addHeads_spec k _ _
      · exact ⟨.refl, ⟨rfl, rfl⟩⟩
    · exact ⟨.refl, ⟨rfl, rfl⟩⟩
  clear_value u
  obtain ⟨hf, hrun⟩ := hu
  dsimp only
  split
  · exact ⟨hf.trans (Frame.each (fun e _ z => (z.fetchEnd_spec k v e).1) u),
      hrun.trans (State.SameRun.each (fun z e => (z.fetchEnd_spec k v e).2) u _)⟩
  · exact ⟨hf, hrun⟩

end Sys2Proof.Machine
end

section
/-! PROOF. O34: the step that begins at a boundary, stops, halts and the event inputs of a running sequencer (R222, R261, R266, R281 to
R283). -/

namespace Sys2Proof.Machine

-- Proofs one after another: many that wait in threads of their own would pass the check's memory limit.
set_option Elab.async false

variable {s : State} {k : Fin 16}

/-! ### Step boundaries (R266) -/

/-- The committed step of a run begins at its boundary, with the run's effects, and STATE shows it. -/
def State.stepBegins (s : State) (k b : Nat) (effs : List Eff) (c : Cur) : State :=
  let s := s.outputsAt k b
  let x := s.sq k
  let s := s.setSq k { x with queue := x.queue.tail, cur := c, began := b, took := 0 }
  (s.each effs fun s e => s.applyEff k b e).setSeqState k (if c.holds || c == Cur.stall then 3 else 2)

theorem State.stepBegins_spec (s : State) (k : Fin 16) (b : Nat) (effs : List Eff) (c : Cur) : let t := s.stepBegins k b effs c
    (t.sq k).cur = c ∧ (t.sq k).queue = (s.sq k).queue.tail ∧ t.seqState k = (if c.holds || c == Cur.stall then 3 else 2) ∧
      SameStores s t := by
  unfold State.stepBegins
  obtain ⟨h1, hrun⟩ := s.outputsAt_spec k b
  generalize s.outputsAt k b = u at h1 hrun ⊢
  have h2 := u.setSq_frame k { u.sq k with queue := (u.sq k).queue.tail, cur := c, began := b, took := 0 }
  have hq : (u.setSq k { u.sq k with queue := (u.sq k).queue.tail, cur := c, began := b, took := 0 }).sq k = _ := u.sq_setSq_self k _
  dsimp only
  generalize u.setSq k { u.sq k with queue := (u.sq k).queue.tail, cur := c, began := b, took := 0 } = v at h2 hq ⊢
  obtain ⟨h3, heff⟩ := v.applyEffs_spec k b effs
  generalize v.each effs (fun s e => s.applyEff k b e) = w at h3 heff ⊢
  have h4 := w.wfld_frame (seqR k + 8) 1 0 (if c.holds || c == Cur.stall then 3 else 2)
  have hw : (w.setSeqState k (if c.holds || c == Cur.stall then 3 else 2)).sq k = w.sq k := h4.sq k
  refine ⟨?_, ?_, ?_, ?_⟩
  · rw [hw, heff.cur, hq]
  · rw [hw, heff.queue, hq, ← hrun.queue]
  · refine (w.fld_wfld_self (seqR k + 8) 1 0 _ (by decide) (by decide)).trans ?_
    split <;> rfl
  · have h12 : SameStores s v := ((h1.then h2).sameStores)
    exact (h12.trans h3.sameStores).trans h4.sameStores

/-- A holding step arrives at its barrier, if it is a SYNC (R248). -/
def State.arrives (s : State) (k : Nat) (c : Cur) : State :=
  match c with
  | .sync _ _ _ _ => s.setSq k { s.sq k with arrived := some s.time.mono }
  | _ => s

theorem State.arrives_spec (s : State) (k : Nat) (c : Cur) : Frame [.seqs] noKey s (s.arrives k c) ∧ s.SameRun (s.arrives k c) k := by
  unfold State.arrives
  split
  · exact ⟨s.setSq_frame k _, .setSq s k rfl rfl⟩
  · exact ⟨.refl, ⟨rfl, rfl⟩⟩

/-- The heads behind a step that has begun are fetched while the sequencer runs (R273). -/
def State.fetchesOn (s : State) (k i : Nat) (c : Cur) : State := if s.seqOn k && c != Cur.stall then s.prefetch k i else s

theorem State.fetchesOn_spec (s : State) (k i : Nat) (c : Cur) : Frame headParts eccKey s (s.fetchesOn k i c) ∧
    s.SameRun (s.fetchesOn k i c) k := by
  unfold State.fetchesOn
  split
  · exact s.prefetch_spec k i
  · exact ⟨.refl, ⟨rfl, rfl⟩⟩

theorem ok_ite (c : Prop) [Decidable c] (t u : State) : (if c then ok t else ok u : Res) = ok (if c then t else u) := by
  split <;> rfl

variable {b i why : Nat} {effs : List Eff} {c : Cur} {q : List (Nat × Nat × List Eff × Cur)}

theorem exec_stepBoundary_holds (hq : (s.sq k).queue = (b, i, effs, c) :: q) (hc : c.holds = true) :
    exec (.stepBoundary k) s = ok (((s.stepBegins k b effs c).arrives k c).fetchesOn k i c) := by
  rw [show exec (.stepBoundary k) s = execStepBoundary k s from rfl, execStepBoundary, hq]
  dsimp only
  rw [ok_ite]
  cases c with
  | hold | waitEvent | waitTime | sync | flipStall => rfl
  | idle | play | loop | halting | stall => simp [Cur.holds] at hc

theorem exec_stepBoundary_halting (hq : (s.sq k).queue = (b, i, effs, .halting why) :: q) :
    exec (.stepBoundary k) s = ok (((s.stepBegins k b effs (.halting why)).haltSeq k why).fetchesOn k i (.halting why)) := by
  rw [show exec (.stepBoundary k) s = execStepBoundary k s from rfl, execStepBoundary, hq]
  dsimp only
  rw [ok_ite]
  rfl

theorem stepBoundary_holds (hq : (s.sq k).queue = (b, i, effs, c) :: q) (hc : c.holds = true) : Does (.stepBoundary k) s fun t =>
    (t.sq k).cur = c ∧ t.seqState k = 3 ∧ (t.sq k).queue.length = q.length ∧ SameStores s t := by
  refine ⟨_, exec_stepBoundary_holds hq hc, ?_⟩
  obtain ⟨hcur, hqueue, hstate, hstores⟩ := s.stepBegins_spec k b effs c
  generalize s.stepBegins k b effs c = u at hcur hqueue hstate hstores ⊢
  obtain ⟨h1, hr1⟩ := u.arrives_spec k c
  obtain ⟨h2, hr2⟩ := (u.arrives k c).fetchesOn_spec k i c
  have h : Frame headParts eccKey u _ := (h1.mono).then h2
  have hrun := hr1.trans hr2
  refine ⟨hrun.cur.trans hcur, ?_, ?_, hstores.trans h.sameStores⟩
  · exact ((h.fld (seqR k + 8) 1 0).trans hstate).trans (by simp [hc])
  · rw [hrun.queue, hqueue, hq]
    rfl

theorem stepBoundary_halts (hq : (s.sq k).queue = (b, i, effs, .halting why) :: q) : Does (.stepBoundary k) s fun t =>
    t.seqOn k = false ∧ t.fld (seqR k + 8) 27 24 = why % 16 ∧ (t.sq k).queue = [] := by
  refine ⟨_, exec_stepBoundary_halting hq, ?_⟩
  obtain ⟨-, -, hstate, -⟩ := s.stepBegins_spec k b effs (.halting why)
  generalize s.stepBegins k b effs (.halting why) = u at hstate ⊢
  obtain ⟨hoff, hwhy, hqueue, -, -, -⟩ := u.haltSeq_halts why (k := k) (by
    rw [State.seqOn, hstate]
    rfl)
  rw [State.fetchesOn, hoff]
  exact ⟨hoff, hwhy, hqueue⟩

/-! ### Stops (R281) -/

theorem seqStop_stops (hon : s.seqOn k = true) : Does (.seqStop k) s fun t =>
    t.sq k = (s.sq k).stopFrom (s.time.mono + 128) 3 ∧ SameRegs [] s t ∧ SameStores s t := by
  refine ⟨_, ?_, s.sq_setSq_self k _, s.setSq_sameRegs k _, s.setSq_sameStores k _⟩
  rw [show exec (.seqStop k) s = execSeqStop k s from rfl]
  exact if_pos hon

theorem seqStop_halted (hoff : s.seqOn k = false) : Does (.seqStop k) s fun t => t = s := by
  refine ⟨s, ?_, rfl⟩
  rw [show exec (.seqStop k) s = execSeqStop k s from rfl]
  exact if_neg (by simp [hoff])

theorem State.stopAtStep_runs (hon : s.seqOn k = true) (hp : (s.sq k).plan.holds = false) (why : Nat) :
    s.stopAtStep k why = s.setSq k { s.sq k with stopStep := why } := by
  simp [State.stopAtStep, hon, hp]

theorem State.stopAtStep_holds (hon : s.seqOn k = true) (hh : (s.sq k).halt = none) (hp : (s.sq k).plan.holds = true) (why : Nat) :
    s.stopAtStep k why = s.setSq k { s.sq k with
      halt := some (max ((s.sq k).planAt + 1) ((s.sq k).from_ (s.time.mono + 2048)), why) } := by
  simp [State.stopAtStep, SeqSt.haltAt, hon, hp, hh]

theorem seqStopStep_stops (hon : s.seqOn k = true) (hh : (s.sq k).halt = none) : let x := s.sq k
    (x.plan.holds = false → Does (.seqStopStep k) s fun t => t.sq k = { x with stopStep := 4 } ∧ SameRegs [] s t) ∧
    (x.plan.holds = true → Does (.seqStopStep k) s fun t => SameRegs [] s t ∧
      (t.sq k).halt = some (max (x.planAt + 1) (x.from_ (s.time.mono + 2048)), 4)) ∧
    (s.bit (seqR k) 8 = true → x.plan.holds = false → Does (.seqEvstop k) s fun t =>
      t.sq k = { x with stopStep := 5 } ∧ SameRegs [] s t) := by
  have he : exec (.seqStopStep k) s = ok (s.stopAtStep k 4) := rfl
  refine ⟨fun hp => ?_, fun hp => ?_, fun hev hp => ?_⟩
  · exact ⟨_, he.trans (congrArg ok (State.stopAtStep_runs hon hp 4)), s.sq_setSq_self k _, s.setSq_sameRegs k _⟩
  · exact ⟨_, he.trans (congrArg ok (State.stopAtStep_holds hon hh hp 4)), s.setSq_sameRegs k _,
      congrArg SeqSt.halt (s.sq_setSq_self k _)⟩
  · have hstop : exec (.seqEvstop k) s = ok (s.stopAtStep k 5) := if_pos hev
    exact ⟨_, hstop.trans (congrArg ok (State.stopAtStep_runs hon hp 5)), s.sq_setSq_self k _, s.setSq_sameRegs k _⟩

/-! ### Event inputs (R222, R261) -/

theorem seqEventInput_flags (i : Fin 4) (hon : s.seqOn k = true) (hstop : s.bit (seqR k) 8 = false ∨ s.fld (seqR k) 10 9 ≠ i.val) :
    Does (.seqEventInput k i) s fun t => t.ef k i = true ∧ SameRegs [devKey (seqR k + 0x44)] s t ∧ t.sq k = s.sq k := by
  have hf := s.wbit_frame (seqR k + 0x44) i true
  refine ⟨s.wbit (seqR k + 0x44) i true, ?_, s.bit_wbit_self _ _ _ (by omega), hf.sameRegs _ fun _ hj => by simp [hj], hf.sq k⟩
  have hno : (s.bit (seqR k) 8 && s.fld (seqR k) 10 9 == i.val) = false := by
    rcases hstop with h | h <;> simp [h]
  rw [show exec (.seqEventInput k i) s = execSeqEventInput k i s from rfl]
  simp only [execSeqEventInput, hon, hno, Bool.not_true, Bool.false_eq_true, if_false]

/-! ### The halt boundary (R282, R283) -/

/-- The outputs up to the halt's boundary, and the fault of data due there (R193, R283). -/
def State.haltReached (s : State) (k j : Nat) : State :=
  match (s.sq k).ecc with
  | some (e, i) => if e = j then (s.playTo k j).noteFault k 0x0D i else s.playTo k j
  | none => s.playTo k j

theorem State.haltReached_frame (s : State) (k : Fin 16) (j : Nat) :
    Frame (.out :: playParts) (fun o => 0x1800 ≤ o ∨ o = 0x1048 + 0x80 * k) s (s.haltReached k j) := by
  have hp : Frame (.out :: playParts) (fun o => 0x1800 ≤ o ∨ o = 0x1048 + 0x80 * k) s (s.playTo k j) := ((s.playTo_spec k j).1).mono
  unfold State.haltReached
  split
  · exact .ite (fun _ => hp.then (State.noteFault_frame _ k 0x0D _)) fun _ => hp
  · exact hp

theorem seqHalt_halts {j : Nat} (hh : s.haltDue k = some (j, why)) (hon : s.seqOn k = true) : Does (.seqHalt k) s fun t =>
    t.seqOn k = false ∧ t.fld (seqR k + 8) 27 24 = why % 16 ∧ SameStores s t ∧
    (∀ n < 8, s.bindsAout k n = true → t.aoutBit n 2 = true) ∧ ∀ n < 8, s.bindsBank k n = true → t.pbState n = 0 := by
  refine ⟨(s.haltReached k j).haltSeq k why, ?_, ?_⟩
  · rw [show exec (.seqHalt k) s = execSeqHalt k s from rfl]
    simp only [execSeqHalt, hh, hon, if_true]
    rfl
  have hf := s.haltReached_frame k j
  generalize s.haltReached k j = u at hf ⊢
  have hstate : u.seqState k = s.seqState k := hf.fld (seqR k + 8) 1 0
  obtain ⟨hoff, hwhy, -, hpark, hidle, hstores⟩ := u.haltSeq_halts why (k := k) (by rwa [State.seqOn, hstate])
  exact ⟨hoff, hwhy, hf.sameStores.trans hstores, fun n hn hb => hpark n hn ((hf.bit (seqR k + 0xC) n).trans hb),
    fun n hn hb => hidle n hn ((hf.bit (seqR k + 0xC) (8 + n)).trans hb)⟩

/-! ### CNT_CLR (R514) -/

theorem seqCntClr_clears : Does (.seqCntClr k) s fun t => t.rd (seqR k + 0x38) = (s.cy (seqR k + 0x38)).added ∧
    t.rd (seqR k + 0x3C) = (s.cy (seqR k + 0x3C)).added ∧ (t.sq k).whey = (s.cy (seqR k + 0x30)).added.setWidth 48 ∧
    SameRegs [devKey (seqR k + 0x38), devKey (seqR k + 0x3C)] s t ∧ SameStores s t := by
  have h1 : Frame [] (· = seqR k + 0x38) s (s.clrCnt (seqR k + 0x38)) := s.setKey_frame _ _
  have h2 : Frame [] (· = seqR k + 0x3C) _ ((s.clrCnt (seqR k + 0x38)).clrCnt (seqR k + 0x3C)) := State.setKey_frame _ _ _
  have h : Frame [] (fun j => j = seqR k + 0x38 ∨ j = seqR k + 0x3C) s _ := (h1.mono).then h2
  refine ⟨_, rfl, ?_, State.getKey_setKey_self _ _ _, congrArg SeqSt.whey (State.sq_setSq_self _ _ _), ?_, h.sameStores⟩
  · exact (h2.rd (seqR k + 0x38)).trans (State.getKey_setKey_self _ _ _)
  · exact h.sameRegs _ fun j hj => by simpa [devKey] using hj

/-- Settles O34: the committed step begins at its boundary, stops decide the halt, and the halt parks what is bound. -/
theorem sequencersStepStopAndHalt : Obligations.SequencersStepStopAndHalt := by
  intro s k
  refine ⟨fun b i effs c q hq => ⟨fun hc => stepBoundary_holds hq hc, fun why hc => ?_⟩, seqStop_stops, seqStopStep_stops, seqStop_halted,
    seqEventInput_flags, fun j why hh hon => seqHalt_halts hh hon, seqCntClr_clears⟩
  subst hc
  exact stepBoundary_halts hq

end Sys2Proof.Machine
end
